-- ==== Sys2Proof/Word.lean ====
section
/-! DEFINITION. The word types of the G4 and the finite map that every indexed piece of state uses. -/

namespace Sys2Proof

/-- One byte of any memory (00_scope R5). -/
abbrev Byte := BitVec 8

/-- A general register, queue entry or system register (05_scalar R107, R127). -/
abbrev Word := BitVec 64

/-- A slot word of instruction memory (02_bundles R27). -/
abbrev SlotWord := BitVec 32

/-- A vector register or vector queue entry (07_vector R177). -/
abbrev VWord := BitVec 2048

/-- One mask of the mask stack, and RMASK (07_vector R177, R178). -/
abbrev MaskWord := BitVec 512

/-- A finite map from numbers: the entries that differ from the value an absent key reads as,
keys strictly rising when it is built by `FMap.set`. -/
abbrev FMap (β : Type) := List (Nat × β)

/-- The entry of a key, when there is one.
DESIGN CHOICE (notes/assumptions/5). -/
def FMap.get? {β : Type} : FMap β → Nat → Option β
  | [], _ => none
  | (k, v) :: m, n => if k = n then some v else FMap.get? m n

/-- The entry of a key, or the value an absent key reads as. -/
def FMap.getD {β : Type} (m : FMap β) (n : Nat) (d : β) : β := (m.get? n).getD d

/-- Gives a key an entry, keeping the keys rising.
DESIGN CHOICE (notes/assumptions/5). -/
def FMap.set {β : Type} : FMap β → Nat → β → FMap β
  | [], n, x => [(n, x)]
  | (k, v) :: m, n, x =>
    if n < k then (n, x) :: (k, v) :: m
    else if n = k then (n, x) :: m
    else (k, v) :: FMap.set m n x

/-- Removes the entry of a key. -/
def FMap.erase {β : Type} : FMap β → Nat → FMap β
  | [], _ => []
  | (k, v) :: m, n => if k = n then FMap.erase m n else (k, v) :: FMap.erase m n

/-- The keys that have an entry, in order. -/
def FMap.keys {β : Type} (m : FMap β) : List Nat := m.map Prod.fst

/-- The entries in order of their keys. -/
def FMap.vals {β : Type} (m : FMap β) : List β := m.map Prod.snd

end Sys2Proof
end

