-- ==== Sys2Proof/Operand.lean ====
section
/-! DEFINITION. The operands of slot words as names: source specifiers, element types, mask modes,
conditions, sizes, scopes and the selectors of single instructions. Their codes stand in Decode. -/

namespace Sys2Proof

/-- A scalar source specifier (02_bundles R34 Table 2-6). -/
inductive SSrc
  | g (n : Fin 32)
  | q (n : Fin 16)
  | tx (n : Fin 8)
  | lc (n : Fin 4)
  deriving DecidableEq, Repr

/-- A vector source specifier (02_bundles R34 Table 2-6). -/
inductive VSrc
  | v (n : Fin 32)
  | vq (n : Fin 16)
  deriving DecidableEq, Repr

/-- An element type with a code (03_numbers R58 Table 3-1). A40 has no code. -/
inductive ElemTy
  | i8 | n8 | i16 | n16 | i32 | n32 | i4 | n4
  deriving DecidableEq, Repr

/-- The mask mode of a VR or VI slot (02_bundles R32). -/
inductive MaskMode
  | all | keepA | zero
  deriving DecidableEq, Repr

/-- A condition code (02_bundles R35). -/
inductive Cond
  | eq | ne | lt | ge | ltu | geu
  deriving DecidableEq, Repr

/-- The four conditions of VCMP (02_bundles R35). -/
inductive VCond
  | eq | ne | lt | ge
  deriving DecidableEq, Repr

/-- The size of a scalar access (02_bundles R35). -/
inductive Size
  | b8 | b16 | b32 | b64
  deriving DecidableEq, Repr

/-- A scope (01_engines R24). -/
inductive Scope
  | core | gang | die | pkg | pod | sys
  deriving DecidableEq, Repr

/-- The operation of PLOG (05_scalar R118). -/
inductive PlogOp
  | and | or | xor | andn | orn | nand | nor | xnor
  deriving DecidableEq, Repr

/-- The kind of SPCAST (05_scalar R124). -/
inductive CastKind
  | peer | toLocal | handle
  deriving DecidableEq, Repr

/-- The selector of TINFO (05_scalar R136 Table 5-7). -/
inductive TinfoSel
  | shape | exp | census | flags | comp | ver | bytes | owner
  deriving DecidableEq, Repr

/-- The selector of TID (05_scalar R138). -/
inductive TidSel
  | id | member | width | depth | pool | mode
  deriving DecidableEq, Repr

/-- The address of a VLD or VST (02_bundles R32): a tile at a byte offset, or a generic address,
each unmasked or masked. -/
inductive VAddr
  | tile (h : BitVec 8) (masked : Bool)
  | generic (masked : Bool)
  deriving DecidableEq, Repr

/-- The address of a VFNLD: a tile at a byte offset, or a generic address (08_function R207). -/
inductive VfAddr
  | tile (h : BitVec 8)
  | generic
  deriving DecidableEq, Repr

/-- The rule of VOPT (08_function R210, R211). -/
inductive OptRule
  | sgdm | lion
  deriving DecidableEq, Repr

/-- The mode of COPY (10_copy R251). -/
inductive CopyMode
  | plain | fill | trans1 | trans2 | trans4
  deriving DecidableEq, Repr

/-- The combining operation of COPYR (10_copy R253). -/
inductive RedOp
  | add | sadd | max | min
  deriving DecidableEq, Repr

/-- The combining operation of SAEQ and SAEF (10_copy R255). -/
inductive SaeOp
  | add | sadd | max | min | set
  deriving DecidableEq, Repr

/-- The operation of ATOM (10_copy R256). -/
inductive AtomOp
  | add | sadd | min | max | xchg | cas | and | or
  deriving DecidableEq, Repr

/-- A REPEAT selector (02_bundles R43). -/
inductive RepSel
  | hold | add | sub
  deriving DecidableEq, Repr

/-- The level of a tile: tile memory or die ring (05_scalar R131). -/
inductive Level
  | tile | ring
  deriving DecidableEq, Repr

/-- A system register (05_scalar R127 Table 5-4). -/
inductive SysReg
  | core | die | accid | asid | mf | vf | hb | hl | ho | rseed | rstep
  | cstat (ch : Fin 2) | fltrec | satf | cyc | nbun
  | wa (n : Fin 16) | mo (n : Fin 4) | mi (n : Fin 4) | optc (n : Fin 8)
  | rmasklo | lc (n : Fin 4) | pred
  deriving DecidableEq, Repr

end Sys2Proof
end

