-- ==== Sys2Proof/Message.lean ====
section
/-! DEFINITION. Fault codes, and the messages that the table's event rows carry between packages,
between the dies' engines and between the host and the package. -/

namespace Sys2Proof

/-- The fault codes of task fault records (17_system R403 Table 17-7). -/
inductive FaultCode
  | illegalSlot | illegalBundle | illegalPrefix | illegalOperand | loopCount | stackDepth
  | space | tileForeign | tileBounds | tileHandle | tileShape | reservedCode | scaleMismatch
  | align | window
  | translation | permission | heapLimit | pageSpan | nonresWrite | accessTable
  | checkValue | eccUe | shadowMismatch | poison
  | fabricTimeout | remoteError | collTimeout | migration
  | revisionPool | mergeType | regionOverlap
  | brk | trap
  deriving DecidableEq, Repr

/-- What takes a record out of transit at its victim, beside an ACK: its timer, a reset of the thief's die, or a reset of
the victim's (13_tasks R329 Table 13-4).
DESIGN CHOICE (notes/assumptions/71). -/
inductive TransitEnd
  | timer (task : Nat)
  | thiefReset (task : Nat)
  | victimReset (task : Nat)
  deriving DecidableEq, Repr

/-- The record whose transit ends. -/
def TransitEnd.task : TransitEnd → Nat
  | .timer task | .thiefReset task | .victimReset task => task

/-- The bytes that a read request answers with, and the offsets of the poisoned ones (10_copy R248). -/
structure ReadData where
  bytes : List Byte
  bad : List Nat := []
  deriving DecidableEq, Repr

/-- Who asked for a remote access: the package and the number of its engine operation. -/
structure ReqId where
  acc : Nat
  op : Nat
  deriving DecidableEq, Repr

/-- What a flit brings beside its channel: its reservation bit, and, where its packet fails authentication, the request
that it belongs to or the number of its message at its sender (15_fabric R350, R357); and how often the link sent it
again before it came whole (17_system R405). -/
structure FlitMark where
  reserved : Bool
  failed : Option ReqId := none
  lost : Option Nat := none
  retries : Nat := 0
  deriving DecidableEq, Repr

/-- One byte of a write with the bits it writes (a masked vector store writes nibbles,
07_vector R195). -/
structure WByte where
  off : Nat
  val : Byte
  bits : Byte
  deriving DecidableEq, Repr

/-- Where a remote request goes (12_migration R286; 01_engines R20 tags 0xB and 0xC). -/
inductive RemoteTarget
  | page (asid va : Nat)
  | peerTile (core handle off : Nat)
  | peerRing (die off : Nat)
  deriving DecidableEq, Repr

/-- What a remote request does at its home (15_fabric R359). `bad` lists the offsets of the poisoned bytes of a write
(10_copy R248). -/
inductive RemoteAct
  | read (len : Nat)
  | write (data : List WByte) (len : Nat) (bad : List Nat)
  | atom (op : AtomOp) (wide uns : Bool) (v cmp : Word)
  | add (v : Word)
  deriving DecidableEq, Repr

/-- A request between packages, with its hop count (12_migration R286). -/
structure RemoteReq where
  src : ReqId
  asid : Nat
  target : RemoteTarget
  act : RemoteAct
  hops : Nat
  deriving DecidableEq, Repr

/-- The virtual channels of a station (15_fabric R357). -/
inductive Channel
  | req | rsp | chk
  deriving DecidableEq, Repr

/-- Why a package refuses a request (12_migration R287), or that it discards a packet of it that fails authentication
(15_fabric R350); `packet` names any message by its number at its sender, with the station and channel it came on. -/
inductive Refused
  | notOwner | chain | auth
  | packet (station : Nat) (ch : Channel)
  deriving DecidableEq, Repr

/-- The answer of a home directory (12_migration R288). -/
inductive HomeAns
  | none
  | lost
  | owner (acc epoch : Nat)
  deriving DecidableEq, Repr

/-- A page of a context, with the size code of Table 12-1. -/
structure PageKey where
  asid : Nat
  vpn : Nat
  size : Nat
  deriving DecidableEq, Repr

/-- A page's contents on their way to its new owner (12_migration R298): the bytes, and the numbers of the 64-byte
granules in it that are poisoned or whose check code does not match (17_system R402). -/
structure PageData where
  bytes : List Byte
  poison : List Nat
  badCode : List Nat
  deriving DecidableEq, Repr

/-- A request to move a page (12_migration R294): the page, the target and the issuer's MIGR,
none for a policy move (R295). -/
structure MoveReq where
  page : PageKey
  target : Nat
  issuer : Option ReqId
  deriving DecidableEq, Repr

/-- The STATUS of a MIGR status word (12_migration R293 Table 12-3). -/
inductive MigrStatus
  | done | already | busy | refused | inflight | notres | heap | aborted | large
  deriving DecidableEq, Repr

/-- The OWNER command and what it makes the packages say (12_migration R282): the admin packet, the registration
of a page's owner at its home (none removes it), the home's acknowledgement, the loss of a page, and the owners' reports to a home
that was reset, each package's last among them (R308). -/
inductive OwnerMsg
  | command (packet : BitVec 512)
  | record (src : ReqId) (page : PageKey) (owner : Option Nat)
  | recorded (op : Nat)
  | lost (page : PageKey) (owner : Nat)
  | report (page : PageKey) (owner epoch : Nat)
  | reported (acc : Nat)
  deriving DecidableEq, Repr

/-- The PIN command, and a pin of one page on its way to the package that owns it (12_migration R305). -/
inductive PinMsg
  | command (packet : BitVec 512)
  | apply (asid va : Nat) (set : Bool)
  deriving DecidableEq, Repr

/-- A record of a task on its way between packages (13_tasks R328), with the number of job-card tiles
that follow it and the id there of the task that spawned it, none for the root of a LAUNCH. One without bytes acknowledges the record of its id or, with `ended`, says that its task is DONE or
terminated, with the code and the fault record of its end (16_front_end R380). -/
structure SentTask where
  id : Nat
  asid : Nat
  depth : Nat
  mode : Nat
  tiles : Nat
  bytes : List Byte
  ended : Option (Option FaultCode × Word)
  parent : Option Nat := none
  deriving DecidableEq, Repr

/-- A tile on its way with a job card (13_tasks R328). -/
structure SentTile where
  handle : Nat
  rows : Nat
  cols : Nat
  ty : ElemTy
  exp : Int
  census : Nat
  data : List Byte
  deriving DecidableEq, Repr

/-- A chunk between ring sequencers (15_fabric R373): its bytes, and the offsets of the poisoned ones (17_system R402). -/
structure Chunk where
  station : Nat
  asid : Nat
  slot : Nat
  seq : Nat
  tag : Nat
  dim : Nat
  dir : Nat
  data : List Byte
  bad : List Nat := []
  deriving DecidableEq, Repr

/-- A heavy fence asked of another core or package (04_memory_model R90). -/
structure FenceAsk where
  src : ReqId
  asid : Nat
  scope : Scope
  deriving DecidableEq, Repr

/-- An access to device memory from outside through the host port (17_system R392, R393). -/
inductive PortAct
  | read (len : Nat)
  | write (data : List Byte)
  deriving DecidableEq, Repr

/-- Where an error in firmware memory stands (16_front_end R389). -/
inductive FwError
  | correctable
  | instruction
  | queueTable (qids : List Nat)
  deriving DecidableEq, Repr

/-- The target of an access table (17_system R398). -/
inductive Guard
  | controller (n : Nat)
  | ringStop (die stop : Nat)
  | station (n : Nat)
  | hostPort
  deriving DecidableEq, Repr

/-- A register of the host port's space that a plain write reaches (17_system R395, R405). -/
inductive HostReg
  | bootCtl
  | bootSts
  deriving DecidableEq, Repr

end Sys2Proof
end

