-- ==== Sys2Proof/Syntax.lean ====
section
/-! DEFINITION. The instructions and the events of the G4: one constructor for each row of
spec/opcode_table.json, 151 instructions and 134 events. An event's constructor carries what the
event is about: the core, the engine operation, or the message that arrives. An argument of type Unit
carries nothing. -/

namespace Sys2Proof

/-- The rows of the table of operations and events. -/
inductive Instr
  /-- ADD (R109): Pushes g(a) + g(b), wrapping modulo 2^64. -/
  | add (d : Fin 32) (a b : SSrc)
  /-- SUB (R109): Pushes g(a) − g(b), wrapping modulo 2^64. -/
  | sub (d : Fin 32) (a b : SSrc)
  /-- AND (R109): Pushes the bitwise AND of two scalar sources. -/
  | and (d : Fin 32) (a b : SSrc)
  /-- OR (R109): Pushes the bitwise OR of two scalar sources. -/
  | or (d : Fin 32) (a b : SSrc)
  /-- XOR (R109): Pushes the bitwise XOR of two scalar sources. -/
  | xor (d : Fin 32) (a b : SSrc)
  /-- ANDN (R109): Pushes g(a) AND NOT g(b). -/
  | andn (d : Fin 32) (a b : SSrc)
  /-- SHL (R109): Pushes g(a) shifted left by g(b) mod 64, with zero fill. -/
  | shl (d : Fin 32) (a b : SSrc)
  /-- SHR (R109): Pushes g(a) shifted right by g(b) mod 64, with zero fill. -/
  | shr (d : Fin 32) (a b : SSrc)
  /-- SAR (R109): Pushes g(a) shifted right arithmetically by g(b) mod 64. -/
  | sar (d : Fin 32) (a b : SSrc)
  /-- MUL (R110): Pushes the low 64 bits of the product, with a latency of 3. -/
  | mul (d : Fin 32) (a b : SSrc)
  /-- MULH (R110): Pushes the high 64 bits of the signed 128-bit product. -/
  | mulh (d : Fin 32) (a b : SSrc)
  /-- MULHU (R110): Pushes the high 64 bits of the unsigned 128-bit product. -/
  | mulhu (d : Fin 32) (a b : SSrc)
  /-- DIV (R111): Pushes the signed quotient truncated toward zero; a zero divisor sets SATF.DIV. -/
  | div (d : Fin 32) (a b : SSrc)
  /-- DIVU (R111): Pushes the unsigned quotient; a zero divisor gives all ones and sets SATF.DIV. -/
  | divu (d : Fin 32) (a b : SSrc)
  /-- REM (R111): Pushes the signed remainder, which takes the sign of the dividend. -/
  | rem (d : Fin 32) (a b : SSrc)
  /-- REMU (R111): Pushes the unsigned remainder. -/
  | remu (d : Fin 32) (a b : SSrc)
  /-- MIN (R109): Pushes the smaller of two signed values. -/
  | min (d : Fin 32) (a b : SSrc)
  /-- MAX (R109): Pushes the larger of two signed values. -/
  | max (d : Fin 32) (a b : SSrc)
  /-- MINU (R109): Pushes the smaller of two unsigned values. -/
  | minu (d : Fin 32) (a b : SSrc)
  /-- MAXU (R109): Pushes the larger of two unsigned values. -/
  | maxu (d : Fin 32) (a b : SSrc)
  /-- CLZ (R112): Pushes the number of leading zero bits of g(a). -/
  | clz (d : Fin 32) (a : SSrc)
  /-- CLS (R112): Pushes the census cls(g(a), 64) of g(a). -/
  | cls (d : Fin 32) (a : SSrc)
  /-- POPC (R112): Pushes the number of one bits of g(a). -/
  | popc (d : Fin 32) (a : SSrc)
  /-- EXT (R113): Extracts a bit field of g(a), with position and width taken from g(b), zero- or sign-extended. -/
  | ext (d : Fin 32) (a b : SSrc) (sgn : Bool)
  /-- ADDI (R114): Adds a sign-extended immediate to g(a). -/
  | addi (d : Fin 32) (a : SSrc) (imm : BitVec 11)
  /-- ANDI (R114): ANDs a sign-extended immediate with g(a). -/
  | andi (d : Fin 32) (a : SSrc) (imm : BitVec 11)
  /-- ORI (R114): ORs a sign-extended immediate with g(a). -/
  | ori (d : Fin 32) (a : SSrc) (imm : BitVec 11)
  /-- XORI (R114): XORs a sign-extended immediate with g(a). -/
  | xori (d : Fin 32) (a : SSrc) (imm : BitVec 11)
  /-- SHLI (R114): Shifts g(a) left by an immediate in 0…63. -/
  | shli (d : Fin 32) (a : SSrc) (imm : BitVec 11)
  /-- SHRI (R114): Shifts g(a) right logically by an immediate in 0…63. -/
  | shri (d : Fin 32) (a : SSrc) (imm : BitVec 11)
  /-- SARI (R114): Shifts g(a) right arithmetically by an immediate in 0…63. -/
  | sari (d : Fin 32) (a : SSrc) (imm : BitVec 11)
  /-- LIH (R115): Pushes imm17 × 2^47. -/
  | lih (d : Fin 32) (imm : BitVec 17)
  /-- CMP (R116): Compares two scalar sources by a condition and writes the outcome to a predicate at the next boundary. -/
  | cmp (p : Fin 16) (a b : SSrc) (c : Cond)
  /-- CMPI (R116): Compares g(a) with a sign-extended immediate and writes the outcome to a predicate. -/
  | cmpi (p : Fin 16) (a : SSrc) (c : Cond) (imm : BitVec 8)
  /-- SEL (R117): Pushes g(a) or g(b) according to a predicate, which may be negated. -/
  | sel (d : Fin 32) (a b : SSrc) (neg : Bool) (p : Fin 16)
  /-- PLOG (R118): Writes a logical function of two predicates to a predicate. -/
  | plog (d a b : Fin 16) (o : PlogOp)
  /-- LD (R120): Loads 8 to 64 bits from a generic address and pushes the value after the latency of its space. -/
  | ld (d : Fin 32) (a b : SSrc) (z : Size) (sgn : Bool)
  /-- ST (R120): Stores 8 to 64 bits of g(d) to a generic address, as a plain or a posted remote write. -/
  | st (d : Fin 32) (a b : SSrc) (z : Size)
  /-- LD_ACQ (R86): Acquiring load that holds back later accesses of the core until its value returns. -/
  | ldAcq (d : Fin 32) (a b : SSrc) (z : Size) (o : Scope)
  /-- ST_REL (R85): Releasing store that performs only after the earlier accesses have performed at its scope. -/
  | stRel (d : Fin 32) (a b : SSrc) (z : Size) (o : Scope)
  /-- SPCQ (R123): Pushes the space descriptor of a generic address, without faulting. -/
  | spcq (d : Fin 32) (a : SSrc)
  /-- SPCAST (R124): Rewrites a generic address into peer, local or handle form. -/
  | spcast (d : Fin 32) (a b : SSrc) (k : CastKind)
  /-- XLT (R272): Starts a translation of g(a) whose result is later written to a tx register. -/
  | xlt (x : Fin 8) (a : SSrc) (w : Bool)
  /-- SETMF (R65): Replaces the masked fields of MF, effective 3 issue cycles later. -/
  | setmf (a b : SSrc)
  /-- SETVF (R65): Replaces the masked fields of VF, effective 2 issue cycles later. -/
  | setvf (a b : SSrc)
  /-- MFS (R125): Pushes the value of a system register. -/
  | mfs (d : Fin 32) (n : SysReg)
  /-- MTS (R125): Writes g(a) to a system register, subject to its access codes. -/
  | mts (a : SSrc) (n : SysReg)
  /-- CHK (R128): Compares two scalar values and raises SHADOW_MISMATCH if they differ. -/
  | chk (a b : SSrc)
  /-- TINFO (R136): Pushes a selected tile-table field of a handle. -/
  | tinfo (d : Fin 32) (a : SSrc) (f : TinfoSel)
  /-- TSETS (R137): Sets a tile's scale exponent without changing its integers. -/
  | tsets (a b : SSrc)
  /-- RNG (R129): Pushes the keyed random word that STOCH rounding uses. -/
  | rng (d : Fin 32) (a b : SSrc)
  /-- VADD (R183): Adds vector lanes, wrapping. -/
  | vadd (d : Fin 32) (a b : VSrc) (t : ElemTy) (m : MaskMode)
  /-- VSUB (R183): Subtracts vector lanes, wrapping. -/
  | vsub (d : Fin 32) (a b : VSrc) (t : ElemTy) (m : MaskMode)
  /-- VADDS (R183): Adds vector lanes with saturation. -/
  | vadds (d : Fin 32) (a b : VSrc) (t : ElemTy) (m : MaskMode)
  /-- VSUBS (R183): Subtracts vector lanes with saturation. -/
  | vsubs (d : Fin 32) (a b : VSrc) (t : ElemTy) (m : MaskMode)
  /-- VMUL (R183): Multiplies vector lanes, wrapping. -/
  | vmul (d : Fin 32) (a b : VSrc) (t : ElemTy) (m : MaskMode)
  /-- VMULHR (R185): Rounding multiply-high of vector lanes. -/
  | vmulhr (d : Fin 32) (a b : VSrc) (t : ElemTy) (m : MaskMode)
  /-- VMIN (R183): Takes the lanewise minimum. -/
  | vmin (d : Fin 32) (a b : VSrc) (t : ElemTy) (m : MaskMode)
  /-- VMAX (R183): Takes the lanewise maximum. -/
  | vmax (d : Fin 32) (a b : VSrc) (t : ElemTy) (m : MaskMode)
  /-- VABS (R183): Takes the saturating absolute value of each lane. -/
  | vabs (d : Fin 32) (a : VSrc) (t : ElemTy) (m : MaskMode)
  /-- VNEG (R183): Negates each lane with saturation. -/
  | vneg (d : Fin 32) (a : VSrc) (t : ElemTy) (m : MaskMode)
  /-- VAND (R183): Lanewise bitwise AND. -/
  | vand (d : Fin 32) (a b : VSrc) (t : ElemTy) (m : MaskMode)
  /-- VOR (R183): Lanewise bitwise OR. -/
  | vor (d : Fin 32) (a b : VSrc) (t : ElemTy) (m : MaskMode)
  /-- VXOR (R183): Lanewise bitwise XOR. -/
  | vxor (d : Fin 32) (a b : VSrc) (t : ElemTy) (m : MaskMode)
  /-- VSHL (R183): Shifts lane codes left by the lanes of b. -/
  | vshl (d : Fin 32) (a b : VSrc) (t : ElemTy) (m : MaskMode)
  /-- VSHR (R183): Shifts lane codes right logically by the lanes of b. -/
  | vshr (d : Fin 32) (a b : VSrc) (t : ElemTy) (m : MaskMode)
  /-- VSAR (R183): Shifts lanes right arithmetically by the lanes of b. -/
  | vsar (d : Fin 32) (a b : VSrc) (t : ElemTy) (m : MaskMode)
  /-- VSHLI (R184): Shifts lanes left by an immediate, with saturation. -/
  | vshli (d : Fin 32) (a : VSrc) (imm : BitVec 6) (t : ElemTy) (m : MaskMode)
  /-- VSARI (R184): Shifts lanes right arithmetically by an immediate. -/
  | vsari (d : Fin 32) (a : VSrc) (imm : BitVec 6) (t : ElemTy) (m : MaskMode)
  /-- VRSHR (R185): Rounding right shift of lanes by a scalar amount, with an element base. -/
  | vrshr (d : Fin 32) (a : VSrc) (b : SSrc) (t : ElemTy) (m : MaskMode)
  /-- VCVT (R186): Converts lanes from type VF.CVT to type t, with an explicit or automatic shift. -/
  | vcvt (d : Fin 32) (a : VSrc) (b : SSrc) (t : ElemTy) (m : MaskMode)
  /-- VCMP (R187): Compares lanes and produces all-ones or zero lanes. -/
  | vcmp (d : Fin 32) (a b : VSrc) (t : ElemTy) (c : VCond)
  /-- VSEL (R188): Selects lanes of a or b by the mask. -/
  | vsel (d : Fin 32) (a b : VSrc) (t : ElemTy)
  /-- VBCAST (R189): Broadcasts a scalar into the active lanes. -/
  | vbcast (d : Fin 32) (a : SSrc) (t : ElemTy) (m : MaskMode)
  /-- VEXTR (R189): Pushes one lane of a vector to q and to g. -/
  | vextr (d : Fin 32) (a : VSrc) (b : SSrc) (t : ElemTy)
  /-- VPERM (R189): Permutes the lanes of a by the indices in b. -/
  | vperm (d : Fin 32) (a b : VSrc) (t : ElemTy) (m : MaskMode)
  /-- VSLIDE (R189): Slides lanes by a signed scalar count. -/
  | vslide (d : Fin 32) (a : VSrc) (b : SSrc) (t : ElemTy) (m : MaskMode)
  /-- VRSUM (R190): Pushes the exact sum of the active lanes. -/
  | vrsum (d : Fin 32) (a : VSrc) (t : ElemTy) (m : MaskMode)
  /-- VRMAX (R190): Pushes the largest active lane. -/
  | vrmax (d : Fin 32) (a : VSrc) (t : ElemTy) (m : MaskMode)
  /-- VRMIN (R190): Pushes the smallest active lane. -/
  | vrmin (d : Fin 32) (a : VSrc) (t : ElemTy) (m : MaskMode)
  /-- VSCAN (R191): Inclusive saturating prefix sum over the lanes. -/
  | vscan (d : Fin 32) (a : VSrc) (t : ElemTy) (m : MaskMode)
  /-- VDOT (R192): Grouped dot product of lanes into 32-bit lanes. -/
  | vdot (d : Fin 32) (a b : VSrc) (t : ElemTy) (m : MaskMode)
  /-- VCLS (R183): Gives the census of each lane code. -/
  | vcls (d : Fin 32) (a : VSrc) (t : ElemTy) (m : MaskMode)
  /-- VCENSUS (R190): Pushes the minimum census over the active lanes. -/
  | vcensus (d : Fin 32) (a : VSrc) (t : ElemTy) (m : MaskMode)
  /-- VLD (R194): Loads 256 bytes from a tile or a generic address into a vector register. -/
  | vld (x : Fin 32) (k : VAddr) (a : SSrc)
  /-- VST (R195): Stores 256 bytes of a vector register to a tile or a generic address. -/
  | vst (x : Fin 32) (k : VAddr) (a : SSrc)
  /-- VLDX (R197): Gathers 64 words of a tile by byte offsets. -/
  | vldx (x : Fin 32) (h : BitVec 8) (a : VSrc) (masked : Bool)
  /-- VSTX (R197): Scatters 64 words into a tile by byte offsets. -/
  | vstx (x : Fin 32) (h : BitVec 8) (a : VSrc) (masked : Bool)
  /-- MPUSH (R182): Pushes a new mask-stack top from the nonzero lanes under the current top. -/
  | mpush (a : VSrc) (t : ElemTy)
  /-- MGET (R182): Pushes the active lanes of the mask top as a vector. -/
  | mget (d : Fin 32) (t : ElemTy)
  /-- VFN (R205): Evaluates a function table on each lane. -/
  | vfn (d : Fin 32) (a : VSrc) (b : Fin 16) (t : ElemTy) (m : MaskMode)
  /-- VFNLD (R207): Starts an asynchronous load of a loadable function table. -/
  | vfnld (x : Fin 8) (k : VfAddr) (a : SSrc)
  /-- VDIV (R208): Divides lanes, giving a rounded fixed-point quotient. -/
  | vdiv (d : Fin 32) (a b : VSrc) (t : ElemTy) (m : MaskMode)
  /-- VOPT (R210): Starts an asynchronous SGDM or LION optimiser update of a weight tile and its momentum. -/
  | vopt (r : OptRule) (h : BitVec 8) (a : SSrc)
  /-- VCHK (R199): Compares two vectors and raises SHADOW_MISMATCH if they differ. -/
  | vchk (a b : VSrc)
  /-- VRES (R198): Reads and clears RMASK and pushes its value. -/
  | vres (d : Fin 32)
  /-- MMA (R226): Accumulates a tile product into an accumulator tile. -/
  | mma (x : Fin 64) (h k : BitVec 8)
  /-- MMAZ (R226): Replaces an accumulator tile with a tile product. -/
  | mmaz (x : Fin 64) (h k : BitVec 8)
  /-- MMAT (R226): Accumulates a product with the left tile transposed. -/
  | mmat (x : Fin 64) (h k : BitVec 8)
  /-- MMBT (R226): Accumulates a product with the right tile transposed. -/
  | mmbt (x : Fin 64) (h k : BitVec 8)
  /-- MMAC (R227): Multiplies an accumulator, narrowed to MF.CHT, by a tile and accumulates the product. -/
  | mmac (x : Fin 64) (h : BitVec 8) (y : Fin 64)
  /-- MOUT (R228): Narrows an accumulator tile into a tile window. -/
  | mout (x : Fin 64) (h : BitVec 8) (sh : Fin 41)
  /-- MLOAD (R229): Replaces an accumulator with a shifted tile window. -/
  | mload (x : Fin 64) (h sh : BitVec 8)
  /-- MADD (R229): Adds a shifted tile window to an accumulator. -/
  | madd (x : Fin 64) (h sh : BitVec 8)
  /-- MZERO (R231): Clears an accumulator and sets its shape. -/
  | mzero (x : Fin 64) (r c : Fin 128)
  /-- MCENS (R232): Pushes the state of an accumulator as left by completed instructions. -/
  | mcens (x : Fin 64)
  /-- MBIAS (R230): Adds a bias row or column to an accumulator. -/
  | mbias (x : Fin 64) (h : BitVec 8) (col : Bool)
  /-- COPY (R251): Starts a strided block copy, fill or transpose on a channel. -/
  | copy (n : Fin 2) (a b c : SSrc) (f : CopyMode)
  /-- COPYG (R252): Starts a row gather driven by an index tile. -/
  | copyg (n : Fin 2) (a b c : SSrc)
  /-- COPYS (R252): Starts a row scatter driven by an index tile. -/
  | copys (n : Fin 2) (a b c : SSrc)
  /-- COPYR (R253): Starts a reduce-copy of source rows into a tile. -/
  | copyr (n : Fin 2) (a b c : SSrc) (f : RedOp)
  /-- SAEQ (R255): Starts a scatter-accumulate of rows through the merge window. -/
  | saeq (n : Fin 2) (a b c : SSrc) (f : SaeOp)
  /-- SAEF (R255): Starts a scatter-accumulate of single elements through the merge window. -/
  | saef (n : Fin 2) (a b c : SSrc) (f : SaeOp)
  /-- ATOM (R256): Issues a far atomic operation at the home of its target. -/
  | atom (n : Fin 2) (a b c : SSrc) (f : AtomOp)
  /-- SIGNAL (R257): Issues an ordered releasing store or add that follows the channel's earlier copies. -/
  | signal (n : Fin 2) (a b : SSrc) (plus : Bool) (f : Scope)
  /-- PGREQ (R276): Requests residency of a range of pages from firmware. -/
  | pgreq (n : Fin 2) (a b : SSrc) (w : Bool)
  /-- MIGR (R292): Requests that a page move to a target package. -/
  | migr (n : Fin 2) (a b c : SSrc)
  /-- CGLD (R368): Loads or clears a collective graph slot. -/
  | cgld (n : Fin 2) (a b : SSrc) (clr : Bool)
  /-- PREP (R141): Writes a relative branch target into a bt buffer and prefetches it. -/
  | prep (b : Fin 8) (off : BitVec 19)
  /-- PREPR (R141): Writes a branch target from a scalar register into a bt buffer. -/
  | prepr (b : Fin 8) (a : SSrc)
  /-- BR (R143): Branches through a bt buffer, always or on a predicate. -/
  | br (b : Fin 8) (p : Fin 16) (neg always : Bool)
  /-- BRU (R144): Branches when no lane of the mask top is active. -/
  | bru (b : Fin 8)
  /-- CALL (R145): Pushes the return address and transfers to a bt target. -/
  | call (b : Fin 8)
  /-- LOOP (R148): Starts a hardware loop on a loop counter. -/
  | loop (l : Fin 4) (a : SSrc) (len : Fin 64)
  /-- LOOPS (R148): Starts a software-pipelined loop with rotating stage predicates. -/
  | loops (l : Fin 4) (a : SSrc) (len : Fin 64) (stages : Fin 8)
  /-- WAIT (R153): Stalls until the outstanding counters fall to their limits, then raises any error marks. -/
  | wait (w x y z : Fin 16)
  /-- SYNC (R154): Registers arrival at a clamp-line barrier. -/
  | sync (l : Fin 4)
  /-- FENCE (R88): Stalls until the core's earlier accesses are performed at the scope. -/
  | fence (o : Scope)
  /-- FENCE_HEAVY (R90): Fences, then makes every other core of the context within the scope serialise, and waits for their acknowledgements. -/
  | fenceHeavy (o : Scope)
  /-- BRK (R155): Issues, then stops the task with BREAK at the next boundary. -/
  | brk (c : BitVec 16)
  /-- LIMM (R42): Supplies the upper bits of the following slot's immediate. -/
  | limm (p : BitVec 22)
  /-- REPEAT (R43): Makes its bundle issue count times, with the matrix offsets advanced at each repetition. -/
  | rept (c : BitVec 12) (e0 e1 e2 e3 : RepSel)
  /-- TALLOC (R133): Allocates a tile under a program-named handle. -/
  | talloc (d : Fin 32) (a b : SSrc) (l : Level) (t : ElemTy)
  /-- TFREE (R134): Frees a tile handle once no operation on it is in flight. -/
  | tfree (a : SSrc)
  /-- TLINK (R135): Links a companion tile. -/
  | tlink (a b : SSrc)
  /-- TID (R138): Pushes a field of the executing task. -/
  | tid (d : Fin 32) (f : TidSel)
  /-- SPAWN (R327): Reads a task record and creates a child task. -/
  | spawn (d : Fin 32) (a : SSrc)
  /-- FORK (R336): Creates a child task in a new revision. -/
  | fork (d : Fin 32) (a : SSrc)
  /-- JOIN (R347): Waits until a forked child has been merged or discarded, and pushes its conflict count. -/
  | join (d : Fin 32) (a : SSrc)
  /-- TRAP (R156): Stops the task with fault TRAP and a code. -/
  | trap (c : BitVec 17)
  /-- PIPEW (R324): Claims a pipe slot and copies a tile into it. -/
  | pipew (a : SSrc) (p : Fin 16)
  /-- PIPER (R325): Waits for the oldest pipe slot to be filled and pushes its handle. -/
  | piper (d : Fin 32) (p : Fin 16)
  /-- RVSET (R334): Defines or clears a revisable region and pins its pages. -/
  | rvset (a b : SSrc) (clr : Bool)
  /-- RESULT_PUSH (R46): When a push's countdown reaches its issue cycle, the value enters q or vq and any named register, the core stalling if the value is late. -/
  | resultPush (core : Nat)
  /-- FORMAT_WRITE_APPLY (R66): A pending MF or VF write takes effect when its countdown ends. -/
  | formatWriteApply (core : Nat)
  /-- STORE_PERFORM_AT_HOME (R79): A store leaves the store buffer or ordering queue and is applied at its home. -/
  | storePerformAtHome (op : Nat)
  /-- RELEASE_STORE_PERFORM (R85): A ST.REL waiting in the store buffer performs once its earlier accesses have performed at its scope. -/
  | releaseStorePerform (op : Nat)
  /-- POSTED_WRITE_ACKNOWLEDGE (R84): The home acknowledges a posted remote write, lowering class S and the window count or recording an error mark. -/
  | postedWriteAcknowledge (op : Nat) (err : Option FaultCode)
  /-- REMOTE_LOAD_RESPONSE (R359): A data or error response to a remote load arrives and supplies its pending push. -/
  | remoteLoadResponse (op : Nat) (data : ReadData) (err : Option FaultCode)
  /-- FABRIC_REQUEST_TIMEOUT (R360): A remote request unanswered within the fabric request timeout completes with FABRIC_TIMEOUT. -/
  | fabricRequestTimeout (op : Nat)
  /-- FENCE_HEAVY_SERIALISATION (R90): A recipient core receives a heavy-fence request, serialises at its next boundary and acknowledges. -/
  | fenceHeavySerialisation (ask : FenceAsk) (core : Option Nat)
  /-- FENCE_HEAVY_ACKNOWLEDGE (R90): A recipient's acknowledgement reaches the fencing core; the last one lets its bundle issue. -/
  | fenceHeavyAcknowledge (op acc core : Nat)
  /-- FIRMWARE_STOP_REQUEST (R165): Firmware stops a task at a bundle boundary for pre-emption and brings its engines to rest. -/
  | firmwareStopRequest (core : Nat)
  /-- TASK_SAVE (R167): Once the engines are at rest, firmware writes the task's state to its save area. -/
  | taskSave (core : Nat)
  /-- TASK_RESTORE (R170): Firmware restores a saved task and resumes it at its boundary with its pending pushes. -/
  | taskRestore (core : Nat)
  /-- LAZY_RESTORE_FILL (R171): An absent register granule is filled from the save area on its first use. -/
  | lazyRestoreFill (op : Nat)
  /-- TIME_SLICE_EXPIRY (R321): When the time slice has run and a queued task qualifies, the running task or gang is pre-empted. -/
  | timeSliceExpiry (core : Nat)
  /-- JOIN_BLOCK_SWITCH (R321): A width-1 task stalled in JOIN for 4,096 cycles with work queued is switched out. -/
  | joinBlockSwitch (core : Nat)
  /-- CLAMP_LINE_RELEASE (R154): Six cycles after the last arrival, all members issue their SYNC bundles together. -/
  | clampLineRelease (task line : Nat)
  /-- VFNLD_COMPLETE (R207): A function-table load completes, leaving the table valid or invalid with a mark. -/
  | vfnldComplete (op : Nat) (none_ : Unit)
  /-- VOPT_COMPLETE (R212): An optimiser step completes its tile updates and lowers class T. -/
  | voptComplete (op : Nat)
  /-- MATRIX_INSTRUCTION_START (R233): A queued matrix instruction starts once the engine is free and its operands are written. -/
  | matrixInstructionStart (op : Nat)
  /-- MATRIX_INSTRUCTION_COMPLETE (R233): A matrix instruction completes 8 cycles after its last occupied cycle: writes performed, flags set, T lowered. -/
  | matrixInstructionComplete (op : Nat)
  /-- REPEAT_REPETITION (R236): Each repetition of a REPEAT bundle issues and the offset registers advance. -/
  | repeatRepetition (core : Nat)
  /-- COPY_OPERATION_COMPLETE (R258): A copy or SAE operation completes: counter falls, DONE advances, flags and marks recorded. -/
  | copyOperationComplete (op : Nat) (none_ : Unit)
  /-- ATOM_PERFORM (R256): An ATOM reads and writes its target at the home in one step. -/
  | atomPerform (op : Nat)
  /-- SIGNAL_PERFORM (R257): A SIGNAL's write performs once the channel's earlier copies and the core's accesses have performed. -/
  | signalPerform (op : Nat)
  /-- FAR_OPERATION_ACKNOWLEDGE (R258): The home's acknowledgement of an ATOM or SIGNAL lowers class S and writes ATOM's old value. -/
  | farOperationAcknowledge (op : Nat) (old : Word) (sat : Bool) (err : Option FaultCode)
  /-- PAGE_WALK_COMPLETE (R265): A page walk ends with a leaf or a fault and fills the TLBs. -/
  | pageWalkComplete (op : Nat)
  /-- XLT_RESULT (R272): A translation started by XLT completes and writes its tx register. -/
  | xltResult (op : Nat)
  /-- PGREQ_COMPLETE (R276): A residency request completes when every page is resident, or with a TRANSLATION mark. -/
  | pgreqComplete (op : Nat)
  /-- INVALIDATION_DRAIN_COMPLETE (R277): When all accesses holding old translations have completed, firmware acknowledges the invalidation. -/
  | invalidationDrainComplete (op : Nat)
  /-- REMOTE_REQUEST_RECEIVE (R287): A package receiving a request performs it, relays it through a stub, or refuses it. -/
  | remoteRequestReceive (req : RemoteReq)
  /-- REQUEST_REFUSED (R288): A refusal with NOT_OWNER or CHAIN reaches the requester, which consults the home. -/
  | requestRefused (op : Nat) (why : Refused)
  /-- HOME_CONSULT (R288): The home directory answers a consult with the owner and epoch. -/
  | homeConsult (src : ReqId) (page : PageKey)
  /-- HOME_ANSWER (R288): The requester fills its owner cache from the home's answer and resends the request, or completes it with an error. -/
  | homeAnswer (op : Nat) (page : PageKey) (ans : HomeAns)
  /-- REQUESTER_HOLD_RELEASE (R289): When earlier accesses to a page have completed, held accesses are sent to the new destination in order. -/
  | requesterHoldRelease (page : PageKey)
  /-- REDIRECT (R291): A redirect from the new owner updates the requester's owner cache. -/
  | redirect (page : PageKey) (owner epoch : Nat)
  /-- OWNER_CACHE_EXPIRY (R285): An owner-cache entry expires 500 µs after its last use. -/
  | ownerCacheExpiry (page : PageKey)
  /-- MIGRATION_REQUEST_AT_HOME (R294): The home checks a move request, marks the entry MOVING and forwards it to the owner. -/
  | migrationRequestAtHome (m : MoveReq)
  /-- MIGRATION_FORWARD_AT_OWNER (R296): The owner checks a forwarded move request and sends RESERVE to the target. -/
  | migrationForwardAtOwner (m : MoveReq) (home : Nat)
  /-- RESERVE (R296): The target accepts or declines a move and reserves a frame. -/
  | reserve (m : MoveReq) (owner home : Nat) (frame : Option PageData)
  /-- RESERVE_ACCEPT (R297): On the target's acceptance the owner freezes the page and starts the transfer. -/
  | reserveAccept (page : PageKey) (accept : Bool)
  /-- TRANSFER_ACKNOWLEDGE (R298): The target acknowledges holding the page and the owner sends COMMIT to the home. -/
  | transferAcknowledge (page : PageKey)
  /-- MIGRATION_ABORT (R298): Without the target's acknowledgement in time, the owner aborts the move and performs its queued requests. -/
  | migrationAbort (page : PageKey)
  /-- COMMIT (R299): The home sets the new owner and epoch and acknowledges. -/
  | commit (page : PageKey) (owner : Nat)
  /-- COMMIT_ACKNOWLEDGE (R299): The old owner writes its stub, forwards its queued requests with END_FORWARD and starts its invalidation. -/
  | commitAcknowledge (page : PageKey) (epoch : Nat)
  /-- END_FORWARD (R300): The new owner makes its leaf LOCAL and performs the forwarded, then the held requests. -/
  | endForward (page : PageKey) (rd w : Bool) (epoch : Nat) (queue : List RemoteReq)
  /-- MIGR_COMPLETE (R294): A MIGR completes: status word written, class S lowered, scoreboard entry released. -/
  | migrComplete (op : Nat) (status : MigrStatus) (owner : Nat)
  /-- STUB_LIFETIME_END (R303): At the end of a stub's lifetime the old owner sends STUB_RETIRE. -/
  | stubLifetimeEnd (page : PageKey)
  /-- STUB_RETIRE (R303): The receiver acknowledges after dealing with every request relayed to it. -/
  | stubRetire (page : PageKey) (src : Nat)
  /-- STUB_RETIRE_ACKNOWLEDGE (R303): The old owner rewrites its leaf as REMOTE with STUB 0. -/
  | stubRetireAcknowledge (page : PageKey)
  /-- STUB_RETIRE_TIMEOUT (R303): Without acknowledgement the stub is rewritten anyway and a RAS event is counted. -/
  | stubRetireTimeout (page : PageKey)
  /-- TASK_ADMISSION (R314): A pooled record is admitted into the dependence table and compared with earlier tasks. -/
  | taskAdmission (task : Nat)
  /-- TASK_DISPATCH (R320): A core with no running task takes the queued task of highest effective priority. -/
  | taskDispatch (core : Nat)
  /-- GANG_RELEASE (R322): Once its cores and lines are reserved and loaded, the gang binder releases all members on one cycle. -/
  | gangRelease (die : Nat)
  /-- PIPEW_FILL (R324): A PIPEW copy completes and its slot becomes FILLED in claim order. -/
  | pipewFill (op : Nat)
  /-- PROXY_BATCH_SEND (R328): A batch of remote task records is sent when full or 2 µs after its first record. -/
  | proxyBatchSend (acc : Nat)
  /-- TASK_RECORD_BATCH (R328): The target package places received task records in its pool and acknowledges. -/
  | taskRecordBatch (src : Nat) (tasks : List SentTask)
  /-- JOB_CARD_TILE_ARRIVAL (R328): A job-card tile arrives at the target core; the last one makes the task READY. -/
  | jobCardTileArrival (src task : Nat) (tile : SentTile)
  /-- STEAL_REQUEST (R329): An idle die's stealing agent asks the die with the most stealable tasks. -/
  | stealRequest (die : Nat)
  /-- STOLEN_RECORD_ARRIVAL (R329): The thief checks the record's epoch and sends ACK or discards it. -/
  | stolenRecordArrival (task thief epoch : Nat)
  /-- STEAL_ACK (R329): The victim receives ACK before its timer, sends CONFIRM and removes the entry, or answers CANCEL. -/
  | stealAck (task thief : Nat)
  /-- STEAL_CONFIRM (R329): On CONFIRM the thief queues the stolen task. -/
  | stealConfirm (task thief : Nat)
  /-- STEAL_TIMER_EXPIRY (R329): After 8 µs without ACK the victim re-queues the record. -/
  | stealTimerExpiry (cause : TransitEnd)
  /-- STEAL_CANCEL (R329): On CANCEL the thief discards its copy. -/
  | stealCancel (task thief : Nat)
  /-- SNAPSHOT_ESTABLISH (R337): After the FORK's release completes, the child's revision snapshot is fixed. -/
  | snapshotEstablish (rev : Nat)
  /-- COW_COPY_COMPLETE (R339): The background copying of a granule finishes and waiting accesses proceed. -/
  | cowCopyComplete (op : Nat)
  /-- CHILD_MERGE (R345): A merge-ready child whose lower siblings are merged is merged into its parent's view. -/
  | childMerge (rev : Nat)
  /-- GRANULE_MERGE_COMPLETE (R343): A dovetail merge engine finishes the three-way merge of one granule. -/
  | granuleMergeComplete (op : Nat)
  /-- CREDIT_TOKEN (R358): A returned token restores a sender's shared or dedicated credit. -/
  | creditToken (station : Nat) (peer : Nat) (ch : Channel) (reserved : Bool)
  /-- CHUNK_OP_RUN (R364): A ring-sequencer op runs when its counter is zero and its chunk has arrived. -/
  | chunkOpRun (asid slot i : Nat)
  /-- CHUNK_OP_COMPLETE (R364): A chunk op completes and decrements its successors' counters. -/
  | chunkOpComplete (op : Nat) (none_ : Unit)
  /-- CHUNK_RECEIVE (R373): A chunk arriving at a station is consumed, held as early, or discarded as stale. -/
  | chunkReceive (c : Chunk)
  /-- CGLD_COMPLETE (R368): A graph-slot load or clear completes, replacing the slot or leaving a mark. -/
  | cgldComplete (op : Nat) (none_ : Unit)
  /-- WORK_RING_POLL (R370): Every 256 ns the device polls a ring's HEAD and makes the next entry current. -/
  | workRingPoll (asid ring : Nat)
  /-- RUN_ARM (R370): When the trigger is reached and no earlier run of the slot is in progress, a run is armed and its bases checked. -/
  | runArm (asid ring : Nat)
  /-- RUN_COMPLETE (R371): After its STOREs a run completes: RUNS advances as a POD release and the bases step. -/
  | runComplete (asid ring : Nat)
  /-- COLLECTIVE_TIMEOUT (R374): A run armed for the collective timeout without completing halts with COLL_TIMEOUT. -/
  | collectiveTimeout (asid ring : Nat)
  /-- EARLY_CHUNK_TIMEOUT (R374): An early chunk held for the collective timeout halts its ring or is discarded. -/
  | earlyChunkTimeout (station i : Nat)
  /-- LAUNCH (R380): Packet that reads a task record and creates a root task on die 0. -/
  | launch (qid : Nat) (none_ : Unit)
  /-- WAIT_PACKET (R384): Packet that completes at once if its word is satisfied, or otherwise parks the queue. -/
  | waitPacket (qid : Nat) (none_ : Unit)
  /-- SIGNAL_PACKET (R380): Packet that stores or adds a value at an address as a SYS release. -/
  | signalPacket (qid : Nat) (none_ : Unit)
  /-- COPY_PACKET (R380): Packet that copies bytes through the host port. -/
  | copyPacket (qid : Nat) (none_ : Unit)
  /-- PUBLISH_PACKET (R380): Packet that acts as PUBLISH for the context. -/
  | publishPacket (qid : Nat) (none_ : Unit)
  /-- PACKET_COMPLETE (R386): A packet completes: its completion record is written, DONE advances and the coalescing timer is armed. -/
  | packetComplete (op : Nat) (none_ : Unit)
  /-- COALESCING_TIMER_EXPIRY (R386): When the coalescing window expires, one MSI-X message is sent. -/
  | coalescingTimerExpiry (qid : Nat)
  /-- QUEUE_MAP (R385): When a slot is free, the WAITING queue of highest eff is mapped, unmapping an idle queue if needed. -/
  | queueMap (qid : Nat)
  /-- QUEUE_SLICE_END (R385): At the end of a mapped queue's slice it is unmapped if a WAITING queue qualifies. -/
  | queueSliceEnd (qid : Nat)
  /-- QUEUE_AGEING_STEP (R385): A WAITING queue's eff rises every 100 µs and the slice condition is examined again. -/
  | queueAgeingStep (qid : Nat)
  /-- SIGNAL_UNIT_POLL (R384): The signal unit reads a parked queue's awaited word and completes its WAIT when satisfied. -/
  | signalUnitPoll (qid : Nat) (none_ : Unit)
  /-- CTX_END (R387): Admin command that terminates every task of a context and frees its state. -/
  | ctxEnd (packet : BitVec 512)
  /-- QUEUE_REMOVE_COMPLETE (R412): A queue removal completes when every started packet has completed, freeing the QID. -/
  | queueRemoveComplete (qid : Nat)
  /-- PIN (R305): Admin command that pins or unpins a buffer. -/
  | pin (msg : PinMsg)
  /-- OWNER (R282): Admin command that registers or removes page owners at their home directories. -/
  | owner (msg : OwnerMsg)
  /-- ILLEGAL_SLOT_WORD (R37): A bundle holding a slot word with a reserved class, opcode or field, a prefix with its S bit set, or no stop bit within eight words raises its decode fault and takes no effect. -/
  | illegalSlotWord (core : Nat)
  /-- LOAD_PERFORM_AT_HOME (R79): A load's value is taken at its home, ending an LD.ACQ stall or supplying a late local push. -/
  | loadPerformAtHome (op : Nat)
  /-- TASK_AGEING_STEP (R320): Every 4,096 cycles a queued task's effective priority rises by one, which may make a running task or gang past its slice pre-emptible. -/
  | taskAgeingStep (task : Nat)
  /-- FLIT_RECEIVE (R357): A station receives a flit on a virtual channel into dedicated or shared buffer space. -/
  | flitReceive (station : Nat) (src : Nat) (ch : Channel) (mark : FlitMark)
  /-- INVALIDATE (R277): Admin command that drops cached translations of an ASID range and drains the accesses that hold them. -/
  | invalidate (packet : BitVec 512)
  /-- CXL_MEM_ACCESS (R392): A host CXL.mem access is checked by the access table and performed, poisoned or dropped. -/
  | cxlMemAccess (pa : Nat) (act : PortAct)
  /-- STORAGE_WINDOW_ACCESS (R393): A storage-device access to the window is mapped and checked, or aborted. -/
  | storageWindowAccess (requester off : Nat) (act : PortAct)
  /-- MINV (R182): Replaces the mask top with the entry below AND NOT the top. -/
  | minv
  /-- MPOP (R182): Pops the mask stack. -/
  | mpop
  /-- NOP (R146): Has no effect. -/
  | nop
  /-- RET (R145): Pops the return stack and transfers to the address popped. -/
  | ret
  /-- FENCE_LITE (R89): Owner side of an asymmetric fence; issues as a NOP. -/
  | fenceLite
  /-- YIELD (R157): Gives up the core and re-enters the run queue. -/
  | yield
  /-- END (R158): Waits for all classes, joins children and completes the task. -/
  | endTask
  /-- PUBLISH (R326): Performs the task's writes at SYS, then advances the publication counter in host memory. -/
  | publish
  /-- POLICY_MOVE (R295): Firmware starts a page move under the context's migration policy. -/
  | policyMove (page : PageKey) (target : Nat)
  /-- STATION_LINK_FAILURE (R361): A station's link fails, its plane is marked down and a RAS event is reported. -/
  | stationLinkFailure (station : Nat)
  /-- KICK (R383): A doorbell write latches the new HEAD and makes an idle queue WAITING. -/
  | kick (qid : Nat) (head : Word)
  /-- PUBLISH_ACKNOWLEDGE (R326): The host port acknowledges the publication-counter add, letting the PUBLISH bundle issue. -/
  | publishAcknowledge (op : Nat)
  /-- CTX_SET (R413): Admin command that creates or updates a context from its descriptor. -/
  | ctxSet (packet : BitVec 512)
  /-- QUEUE_SET (R412): Admin command that registers, changes or removes a queue. -/
  | queueSet (packet : BitVec 512)
  /-- QUEUE_RESET (R387): Admin command that clears HALTED and resets a queue's counters. -/
  | queueReset (packet : BitVec 512)
  /-- POOL (R340): Admin command that sets the revision pool size. -/
  | pool (packet : BitVec 512)
  /-- WRING (R369): Admin command that registers, removes or resets a work ring. -/
  | wring (packet : BitVec 512)
  /-- PAGE_REPLY (R276): Admin command that answers a residency request as served or refused. -/
  | pageReply (packet : BitVec 512)
  /-- MIGR_POLICY (R412): Admin command that turns policy page moves on or off for a context. -/
  | migrPolicy (packet : BitVec 512)
  /-- TIMING (R412): Admin command that sets the queue slice, task slice, fabric timeout and stub lifetime. -/
  | timing (packet : BitVec 512)
  /-- SCHEDULER_MEMORY_ERROR (R389): An ECC error in firmware memory is corrected, halts the affected queues, or raises FW_FATAL. -/
  | schedulerMemoryError (e : FwError)
  /-- WORKER_FAILURE (R389): A failing worker core is retired and its packets are reparsed. -/
  | workerFailure (worker : Fin 8)
  /-- FW_FATAL (R397): A lock-step divergence or fatal error stops every engine, sets FATAL and sends MSI-X vector 0. -/
  | fwFatal
  /-- DEVICE_RESET (R394): PERST# or RST_N resets the device, and the boot ROM zeroes memory and waits for an image. -/
  | deviceReset
  /-- BOOT_GO (R396): Writing GO starts the firmware image check and, on a pass, the lock-step pair. -/
  | bootGo
  /-- BOOT_RESET (R395): Writing RESET in BOOT_CTL resets the device. -/
  | bootReset
  /-- REGISTER_WRITE (R7): A write to a register field without behaviour of its own, such as BOOT_CTL LEN or CFGOFF. -/
  | registerWrite (r : HostReg) (v : Word)
  /-- FIRMWARE_READY (R394): Firmware sets STATE READY once the admin queue is registered and the links are up. -/
  | firmwareReady
  /-- ACCESS_TABLE_CHANGE (R400): Firmware changes an access-table entry and invalidates the affected translations. -/
  | accessTableChange (target : Guard) (i : Fin 64) (e : BitVec 128)
  /-- FREEZE (R404): FRZ_N or the TAP FREEZE instruction stops every clock of the package. -/
  | freeze
  /-- TAP_READOUT (R404): The frozen state is read out through the scan and memory chains. -/
  | tapReadout
  /-- RAS_COUNTER_CLEAR (R405): A write of any value to a RAS counter clears it. -/
  | rasCounterClear (i : Fin 11)
  /-- CORE_OFFLINE (R405): System software asks firmware to mark a core offline. -/
  | coreOffline (core : Nat)
  /-- THERMAL_STEP_DOWN (R407): Every 100 µs while hot or over the cap, the arithmetic clock drops one 100 MHz step. -/
  | thermalStepDown
  /-- THERMAL_STEP_UP (R407): Every 100 µs while cool and under the cap, the arithmetic clock rises one step. -/
  | thermalStepUp
  /-- THERMAL_TRIP (R407): At 105 °C the device freezes, asserts THERMTRIP_N and is reset. -/
  | thermalTrip
  /-- PEER_PACKAGE_RESET (R308): Another package of the pod involved in a move is reset, and the home, owner or target marks the page LOST, frees a reserved frame, aborts the move, or rebuilds its slice from owners' reports. -/
  | peerPackageReset (acc : Nat)
  /-- SERVICE_RING_FREED (R388): Space frees in a full service ring, so firmware posts the records it held and the stopped tasks may continue. -/
  | serviceRingFreed (asid n : Nat)
  /-- CXL_IDE_KEY_EXCHANGE (R391): The host sets the CXL IDE keys through the standard key-exchange messages, after which the boot mailbox accepts an image. -/
  | cxlIdeKeyExchange
  /-- STAGING_WINDOW_WRITE (R395): A host write into the 16 MiB staging window is accepted in WAIT_IMAGE and dropped in every other state. -/
  | stagingWindowWrite (off : Nat) (data : List Byte)
  /-- MAPPING_REQUEST (R267): System software asks firmware to map a buffer, and firmware refuses it when the base VA is not a multiple of the page size. -/
  | mappingRequest (asid va : Nat) (size : Fin 3)
  /-- STORAGE_WINDOW_ENTRY_SET (R393): Firmware programs a storage-window entry and assigns requester IDs to storage master identifiers. -/
  | storageWindowEntrySet (i : Fin 64) (winOff pa len : Nat) (requester master : Nat)
  /-- POWER_CAP_SET (R407): System software sets the package power cap within 800 to 1,600 W. -/
  | powerCapSet (watts : Nat)
  deriving DecidableEq, Repr

end Sys2Proof
end

