-- ==== Sys2Proof/Machine/State.lean ====
section
/-! DEFINITION. The state of one G4 package as plain data, its state after reset, and the reasons a
step can stop. Nothing here computes. -/

namespace Sys2Proof.Machine

open Sys2Proof

/-- Why a step has no next state. -/
inductive Fault
  /-- Raised by a step when every clock of the package is stopped (17_system R404) or the device is in
  FATAL (R397) and no outside event that acts on such a device is due. Safe: the spec lets only a reset
  leave either state. -/
  | clockStopped
  deriving DecidableEq, Repr

/-- Why the model gives an instruction no meaning. -/
inductive Refusal
  /-- Raised by an arm of `exec` whose instruction has no meaning yet. Safe: nothing is claimed of it. -/
  | notModelled (mnemonic : String)
  deriving DecidableEq, Repr

/-! ### Tiles and accumulators -/

/-- A valid tile-table entry (05_scalar R131 Table 5-6). `rows` and `cols` are the counts themselves.
`expPending` is the MOUT that will fix the exponent (09_matrix R225). -/
structure TileEntry where
  owner : Nat
  comp : Nat
  ver : Nat
  rows : Nat
  cols : Nat
  ty : ElemTy
  level : Level
  exp : Int
  census : Nat
  dirty : Bool
  inuse : Bool
  prev : Option Nat
  base : Nat
  expPending : Option Nat := none
  deriving DecidableEq, Repr

/-- An accumulator state word (09_matrix R217 Table 9-1). -/
structure AccWord where
  rows : Nat := 128
  cols : Nat := 128
  exp : Int := 0
  free : Bool := true
  census : Nat := 39
  sat : Bool := false
  dirty : Bool := false
  inuse : Bool := false
  deriving DecidableEq, Repr

/-- An accumulator tile: its elements by row × 128 + column, the word completed instructions left, and
the word issued instructions will leave (exponent, FREE and shape are tracked at issue, R225). -/
structure AccTile where
  elems : FMap Int := []
  done : AccWord := {}
  issued : AccWord := {}
  deriving DecidableEq, Repr

/-! ### The task's state on a core -/

/-- The value of a push: it has one, it awaits a load, or it failed (06_sequencer R169). `aux` goes to
the fault record's AUX field. -/
inductive PushState
  | ready
  | awaiting (op : Nat)
  | failed (code : FaultCode) (aux : Nat)
  deriving DecidableEq, Repr

/-- A pending push (02_bundles R46; 06_sequencer R169): to q or to vq, the named register, the issue
cycles still to run, the flags and residency bits set with it, and a load's address. -/
structure Push where
  vec : Bool
  dest : Nat
  count : Nat
  state : PushState
  sval : Word
  vval : VWord
  addr : Word
  satf : BitVec 6
  rmask : MaskWord
  scl : Bool
  deriving DecidableEq, Repr

/-- A pending write of MF or VF (03_numbers R66). -/
structure FmtWrite where
  vf : Bool
  val : Word
  count : Nat
  deriving DecidableEq, Repr

/-- A loop-stack entry (06_sequencer R147). -/
structure LoopEntry where
  lc : Nat
  first : Nat
  close : Nat
  loops : Bool
  stages : Nat
  retDepth : Nat
  deriving DecidableEq, Repr

/-- An error mark (06_sequencer R174 Table 6-12). -/
structure Mark where
  code : FaultCode
  lost : Nat
  bundle : Nat
  faddr : Word
  deriving DecidableEq, Repr

/-- The four classes of outstanding operations (06_sequencer R152). -/
inductive Cls
  | c0 | c1 | t | s
  deriving DecidableEq, Repr

/-- One value for each class. -/
structure PerCls (α : Type) where
  c0 : α
  c1 : α
  t : α
  s : α
  deriving DecidableEq, Repr

/-- A channel status register without OUT, which is the counter (10_copy R243). -/
structure ChanStat where
  res : Bool := false
  sat : Bool := false
  flt : Bool := false
  page : Nat := 0
  done : Nat := 0
  deriving DecidableEq, Repr

/-- A REPEAT run (06_sequencer R175); `adv` says that a repetition has issued whose offset advance is still to come
(09_matrix R236). -/
structure RepState where
  sel : List RepSel
  left : Nat
  addr : Nat
  issued : Nat
  word : Nat
  adv : Bool
  deriving DecidableEq, Repr

/-- The state of a task on one core: what a save keeps and a restore brings back (06_sequencer R167). `satNew` holds the
SATF bits that completions of the clock cycle `satAt` have set (03_numbers R68). -/
structure Ctx where
  pc : Nat := 0
  icyc : Nat := 0
  g : FMap Word := []
  q : List Word := []
  v : FMap VWord := []
  vq : List VWord := []
  p : BitVec 16 := 0
  lc : FMap (BitVec 32) := []
  tx : FMap Word := []
  bt : FMap Nat := []
  btAt : FMap Nat := []
  ret : List (Nat × Nat) := []
  loops : List LoopEntry := []
  mf : Word := 0
  vf : Word := 0
  rseed : Word := 0
  rstep : Word := 0
  satf : BitVec 6 := 0
  satNew : BitVec 6 := 0
  satAt : Nat := 0
  chan0 : ChanStat := {}
  chan1 : ChanStat := {}
  mo : FMap Word := []
  mi : FMap Word := []
  optc : FMap Word := []
  rmScl : Bool := false
  rmask : MaskWord := 0
  mask : List MaskWord := []
  pushes : List Push := []
  fmts : List FmtWrite := []
  cnt : PerCls Nat := ⟨0, 0, 0, 0⟩
  marks : PerCls (List Mark) := ⟨[], [], [], []⟩
  nbun : Word := 0
  fltrec : Word := 0
  rep : Option RepState := none
  ftab : FMap (List Byte) := []
  acc : FMap AccTile := []
  hmap : FMap Nat := []
  arrived : List Nat := []
  priv : Nat := 0
  gAbsent : List Nat := []
  vAbsent : List Nat := []
  deriving DecidableEq, Repr

/-! ### Cores -/

/-- What a stop with a fault takes from the task's state: the error mark that it raises (06_sequencer R153), or a failed
push that is zero from then on (R160). -/
inductive Raised
  | nothing
  | mark (k : Cls) (m : Mark)
  | push (p : Push)
  deriving DecidableEq, Repr

/-- The fields of a fault record latched when a task stops (06_sequencer R162 Table 6-4), with the clock cycle of the
stop and what the fault took from the state (R164). -/
structure FaultInfo where
  code : FaultCode
  slot : Nat
  async : Bool
  bundle : Nat
  resume : Nat
  faddr : Word
  aux : Nat
  repcnt : Nat
  at_ : Nat := 0
  raised : Raised := .nothing
  deriving DecidableEq, Repr

/-- Who faulted: the core and the member, and the member's NBUN (06_sequencer R162 Table 6-4). -/
structure Culprit where
  core : Nat
  member : Nat
  nbun : Word
  deriving DecidableEq, Repr

/-- A fault record that firmware is writing (06_sequencer R162): of a task that stopped, or of one that firmware refuses
before its first bundle (02_bundles R57). -/
structure RecWait where
  fault : FaultInfo
  who : Culprit
  refused : Bool
  deriving DecidableEq, Repr

/-- Why a task leaves its core at a boundary (06_sequencer R139 step 5, R157, R158, R159). -/
inductive StopKind
  | preempt
  | yielded
  | blocked
  | faulted (f : FaultInfo)
  | gangStop
  | killed
  deriving DecidableEq, Repr

/-- What a core is doing with its task. -/
inductive CoreMode
  | idle
  | running
  | restoring
  | stopped (k : StopKind)
  | ended
  deriving DecidableEq, Repr

/-- What a slot writes that governs the next issue cycle: applied at the boundary after its bundle
(06_sequencer R139; 05_scalar R108, R125, R133, R134; 07_vector R182, R198; 13_tasks R325). -/
inductive Deferred
  | sys (r : SysReg) (v : Word)
  | pred (p : Nat) (b : Bool)
  | bt (n target : Nat)
  | maskPush (m : MaskWord)
  | maskInv
  | maskPop
  | clearRmask
  | goto (target : Nat)
  | callTo (target ret : Nat)
  | retTo
  | loop (lc : Nat) (total : BitVec 32) (entry : Option LoopEntry) (next : Nat)
  | newTile (h : Nat) (entry : Nat) (e : TileEntry)
  | freeTile (h : Nat)
  | holdSlot (h : Nat) (entry : Nat)
  | tileExp (entry : Nat) (e : Int)
  | tileComp (entry comp : Nat)
  | stop (k : StopKind)
  | endTask
  deriving DecidableEq, Repr

/-- A heavy-fence request waiting at a core (04_memory_model R90). -/
structure FenceReq where
  ask : FenceAsk
  stamp : Nat
  deriving DecidableEq, Repr

/-- A TLB entry: a leaf with the access-table verdicts for this package's masters
(11_translation R268, R269). `remote` is the owner hint of a REMOTE leaf.
DEDUCED (notes/assumptions/55). -/
structure TlbEntry where
  asid : Nat
  vpn : Nat
  size : Nat
  remote : Option Nat
  frame : Nat
  rd : Bool
  w : Bool
  master : Nat
  vrd : Bool
  vw : Bool
  deriving DecidableEq, Repr

/-- How a walk ended (11_translation R265). A non-resident page is not cached (R266). -/
inductive WalkEnd
  | leaf (e : TlbEntry)
  | nonResident (vpn size : Nat) (rd w : Bool)
  | failed (code : FaultCode)
  deriving DecidableEq, Repr

/-- The result of a walk made for a stalled bundle, used when the bundle is checked again. -/
structure WalkRes where
  asid : Nat
  page : Nat
  res : WalkEnd
  deriving DecidableEq, Repr

/-- An entry of a run queue (13_tasks R319, R320). -/
structure QEntry where
  task : Nat
  since : Nat
  deriving DecidableEq, Repr

/-- The granules of tile memory that the private space of a member of a task takes (01_engines R20). -/
structure PrivArea where
  task : Nat
  member : Nat
  base : Nat
  count : Nat
  deriving DecidableEq, Repr

/-- One core (01_engines R14). `stalled` says that the bundle at its program counter has been tried and has not issued,
`fenced` that the core waits at its boundary for a heavy fence (04_memory_model R90).
DESIGN CHOICE (notes/assumptions/3). -/
structure Core where
  mode : CoreMode := .idle
  task : Nat := 0
  member : Nat := 0
  ctx : Ctx := {}
  imem : FMap SlotWord := []
  image : Option (Nat × Nat) := none
  tiles : FMap TileEntry := []
  handles : FMap Nat := []
  privs : List PrivArea := []
  l1 : List TlbEntry := []
  walkRes : List WalkRes := []
  win : FMap Nat := []
  bubble : Nat := 0
  waitStamp : Option Nat := none
  waitSince : Option Nat := none
  stopReq : Option StopKind := none
  fences : List FenceReq := []
  pubDone : Option (Option FaultCode) := none
  released : Bool := false
  stalled : Bool := false
  fenced : Bool := false
  sliceAt : Nat := 0
  runq : List QEntry := []
  reserved : Bool := false
  offline : Bool := false
  deriving DecidableEq, Repr

/-! ### Engine operations in flight -/

/-- Where a byte of an access is: in this package's memory at a key, at a remote home (through a peer
form, or a REMOTE leaf with its owner hint and page size), or nowhere, in a non-resident page. -/
inductive Place
  | here (key : Nat)
  | far (acc size : Nat) (target : RemoteTarget)
  | zero
  deriving DecidableEq, Repr

/-- A run of bytes of an access with the place of its first byte. Bytes of one run are consecutive. -/
structure Run where
  place : Place
  len : Nat
  deriving DecidableEq, Repr

/-- A load whose value has not been taken (04_memory_model R79): its runs and the one awaited from a
remote home, how the value is formed (a vector's nibbles under a mask), the bytes got, and whether later work waits for it (LD.ACQ,
R86). -/
structure LoadOp where
  runs : List Run
  nbytes : Nat
  sgn : Bool
  vec : Bool
  mask : MaskWord
  acq : Option Scope
  got : List (Nat × Byte)
  next : Nat
  taken : Bool
  deriving DecidableEq, Repr

/-- A store that has not performed (04_memory_model R81–R85): its bytes, the die on whose ordering
queues it stands when its home is off the die, whether it is a posted remote write and the window it
counts against, a release's scope, and whether a posted one was sent. -/
structure StoreOp where
  place : Place
  data : List WByte
  len : Nat
  queued : Bool
  posted : Bool
  window : Option Nat
  rel : Option Scope
  faddr : Word
  sent : Bool
  deriving DecidableEq, Repr

/-- One side of a copy: a tile (physical entry and offset), a translated global span, a ring or private
range, or a peer form (10_copy R246, R247). -/
inductive Side
  | tile (entry off : Nat)
  | priv (off : Nat)
  | ring (die off : Nat)
  | global (va : Nat) (tr : List (Nat × Nat × Place))
  | peer (acc : Nat) (target : RemoteTarget)
  | none
  deriving DecidableEq, Repr

/-- A local byte range that an operation in flight holds: from every access of the core when `excl`
(10_copy R247; 09_matrix R234), else from its writes only. -/
structure Range where
  key : Nat
  len : Nat
  excl : Bool
  deriving DecidableEq, Repr

/-- What a channel operation does at its completion (10_copy R251–R255). -/
inductive CopyAct
  | copy (mode : CopyMode) (fill : Word)
  | gather
  | scatter
  | reduce (op : RedOp)
  | saeRows (op : SaeOp)
  | saeElems (op : SaeOp)
  deriving DecidableEq, Repr

/-- How far a copy or SAE operation has come (10_copy R248, R250): the row, entry or element at work, whether the writes
of it to other packages await their acknowledgement, the rows of a transposed copy read so far, the merge window
(R255), whether it saturated, the VA bits 47:16 of the first non-resident page read, and the elements of tiles written:
the core, the entry, the first element and the count. -/
structure CopyProg where
  next : Nat := 0
  writing : Bool := false
  rows : List (List (Byte × Bool)) := []
  window : List (Nat × List Int) := []
  sat : Bool := false
  res : Option Nat := none
  wrote : List (Nat × Nat × Nat × Nat) := []
  deriving DecidableEq, Repr

/-- A copy or SAE operation in flight (10_copy R242–R255). -/
structure CopyOp where
  ch : Nat
  act : CopyAct
  dst : Side
  src : Side
  dstAddr : Word
  srcAddr : Word
  shape : Word
  idx : Option (Nat × Nat)
  whole : Bool
  nonres : List Nat
  prog : CopyProg := {}
  deriving DecidableEq, Repr

/-- A matrix instruction queued or running (09_matrix R240 Table 9-10), with its slot word and its tiles as bound at
issue. `steps` are those performed before its stop, `summed` those of them whose sums its accumulator holds, with what
happened in them (R239). -/
structure MtxOp where
  instr : Instr
  acc : Nat
  klen : Nat
  m : Nat
  n : Nat
  a : Nat
  b : Nat
  ay : Nat
  ra : Nat
  ca : Nat
  rb : Nat
  cb : Nat
  shift : Int
  exp : Int
  whole : Bool
  mf : Word
  rseed : Word
  rstep : Word
  started : Option Nat
  census : Nat
  lastRep : Bool
  steps : Nat
  word : Nat := 0
  summed : Nat := 0
  sat : Bool := false
  sub : Bool := false
  bad : Option FaultCode := none
  deriving DecidableEq, Repr

/-- Which remote access an operation awaits (15_fabric R359, R360). -/
inductive FarKind
  | atom (op : AtomOp) (wide uns nores : Bool) (v cmp : Word) (off : Nat)
  | signal (plus : Bool) (v : Word) (ch : Nat)
  deriving DecidableEq, Repr

/-- An ATOM or SIGNAL in flight (10_copy R256, R257). -/
structure FarOp where
  kind : FarKind
  place : Place
  scope : Scope
  rel : Bool
  addr : Word
  performed : Bool
  old : Word
  sat : Bool
  begun : Bool := false
  deriving DecidableEq, Repr

/-- What has come back for a packet: nothing, the bytes read with the offsets of the poisoned ones, or an error. -/
inductive PartAns
  | waits
  | data (bytes : List Byte) (bad : List Nat)
  | error (code : FaultCode)
  deriving DecidableEq, Repr

/-- What sends packets of its own: an operation in flight, the front end for a queue's next packet or for the word of
a parked queue's WAIT (16_front_end R381, R384), or the firmware that writes and reads a task's fault record
(06_sequencer R162, R163) or reads its image (02_bundles R57); or firmware that awaits no answer. -/
inductive Client
  | op (id : Nat)
  | start (qid : Nat)
  | parked (qid : Nat)
  | faultRec (task : Nat)
  | image (task : Nat)
  | posted
  deriving DecidableEq, Repr

/-- One packet of an access that reaches another package, a frozen page or one that has moved (15_fabric R359;
12_migration R306): who sent it, the step of the sender's work that it serves, and the answer. -/
structure PartOp where
  client : Client
  row : Nat
  place : Place
  act : RemoteAct
  ans : PartAns
  deriving DecidableEq, Repr

/-- A merge of one child in progress (14_revisions R343). -/
structure MergeOp where
  rev : Nat
  gran : Nat
  deriving DecidableEq, Repr

/-- Where the bytes of a packet's access are: host memory, or the device (16_front_end R381). -/
inductive PktSide
  | host (addr : Nat)
  | dev (runs : List Run)
  deriving DecidableEq, Repr

/-- The command of a packet that has started (16_front_end R380). `sent` says that its writes are made or on their way. -/
inductive PktKind
  | launch (task : Nat)
  | wait
  | signal (dst : PktSide) (add sent : Bool) (v : Word)
  | copy (dst src : PktSide) (len : Nat) (sent : Bool)
  | publish
  deriving DecidableEq, Repr

/-- A packet started and not completed (16_front_end R379, R380); `noted` says that the add of its PUBLISH, or its
completion record, is on its way. -/
structure PktOp where
  qid : Nat
  index : Nat
  tag : Nat
  irq : Bool
  kindCode : Nat
  kind : PktKind
  status : Option FaultCode
  faultRec : Word
  taskId : Nat
  finished : Bool
  noted : Bool := false
  deriving DecidableEq, Repr

/-- The kinds of engine operation in flight. -/
inductive OpKind
  | load (l : LoadOp)
  | store (w : StoreOp)
  | copy (c : CopyOp)
  | cgld (ch : Nat) (clr : Bool) (slot : Nat) (va : Nat) (places : List (Nat × Nat × Place))
  | far (f : FarOp)
  | pgreq (va len : Nat) (w : Bool) (asked : Bool) (refused : Bool)
  | migr (va target off : Nat) (result : Option (MigrStatus × Nat))
  | matrix (m : MtxOp)
  | vfnld (table : Nat) (side : Side) (addr : Word)
  | vopt (rule : OptRule) (w m g : Nat) (vf rseed rstep : Word) (optc : List Word)
  | pipew (pipe entry slotHandle : Nat) (bytes : Nat)
  | walk (asid va : Nat) (master : Nat)
  | xlt (n : Nat) (addr : Word) (w : Bool)
  | fill (vec : Bool) (granule : Nat)
  | part (p : PartOp)
  | record (fork : Bool) (addr : Word) (l : LoadOp)
  | desc (l : LoadOp) (err : Option FaultCode)
  | cow (gran : Nat)
  | merge (m : MergeOp)
  | fenceHeavy (scope : Scope) (waiting : List (Nat × Nat)) (reply : Option ReqId)
  | publish (begun : Bool)
  | invalidate (asid va len : Nat) (until_ : Option Nat) (admin : Option Nat) (page : Option PageKey)
  | packet (p : PktOp)
  | ownerCmd (command waiting : Nat)
  | chunk (asid slot i : Nat)
  deriving DecidableEq, Repr

/-- An engine operation in flight. `id` rises in issue order; `stamp` is the number of the bundle that
issued it; `due` is the clock cycle at which it nominally ends; `issued` is the clock cycle of its
issue; `bundle` is the bundle address of its slot. `view` is the revision it works in (R332). `queuedAt` is the
place in the order of requests of one that leaves the core later than it issued: a release, an ATOM or a SIGNAL
(04_memory_model R82, R85). -/
structure Op where
  id : Nat
  core : Nat
  task : Nat
  member : Nat
  asid : Nat
  view : Nat
  stamp : Nat
  bundle : Nat
  issued : Nat
  issuedU : Nat
  due : Nat
  slot : Nat
  ranges : List Range
  kind : OpKind
  queuedAt : Nat := 0
  deriving DecidableEq, Repr

/-- An operation's place in the order in which requests leave their cores. -/
def Op.pos (o : Op) : Nat := max o.id o.queuedAt

/-! ### Tasks -/

/-- A set entry of a task record (13_tasks R310 Table 13-2). -/
inductive SetEntry
  | unused
  | tile (core first last : Nat)
  | ring (die start len : Nat)
  | global (va len : Nat)
  deriving DecidableEq, Repr

/-- A task record (13_tasks R310 Table 13-1). -/
structure TaskRec where
  image : Nat
  prio : Nat
  useImg : Bool
  lines : Nat
  acc : Nat
  remote : Bool
  die : Nat
  noSteal : Bool
  arg0 : Word
  arg1 : Word
  rseed : Word
  rstep : Word
  faultRec : Word
  handler : Nat
  reads : List SetEntry
  writes : List SetEntry
  deriving DecidableEq, Repr

/-- The states of a task (13_tasks R314 Table 13-3). STOPPED splits into the task that may be
dispatched again (READY) and the one that waits for its handler, for a merge or for system software; `stealing` is
READY while its thief confirms (R329). -/
inductive TaskState
  | pooled
  | waiting
  | ready
  | queued (core : Nat)
  | stealing
  | running
  | stopped
  | done
  deriving DecidableEq, Repr

/-- How a task was created (06_sequencer R163; 13_tasks R312); `remote` with the id of its parent on the package that it
came from, none for the root of a LAUNCH. -/
inductive Origin
  | packet (qid index : Nat)
  | spawn (parent : Nat)
  | fork (parent : Nat)
  | handler (task : Nat)
  | remote (acc : Nat) (parent : Option Nat)
  deriving DecidableEq, Repr

/-- The states of a pipe slot (13_tasks R323). -/
inductive SlotState
  | empty | claimed | filled | held
  deriving DecidableEq, Repr

/-- A slot of a pipe. -/
structure PipeSlot where
  handle : Nat
  state : SlotState
  ver : Nat
  entry : Option Nat
  deriving DecidableEq, Repr

/-- A pipe of a gang (13_tasks R323). `order` lists the claimed and filled slots, oldest first. -/
structure Pipe where
  src : Nat
  dst : Nat
  slots : List PipeSlot
  order : List Nat
  deriving DecidableEq, Repr

/-- The saved state of a task's member (06_sequencer R167): the core it left, where its tiles and private space
stand until it is restored. `kind` is the stop kind of HDR: 0 boundary, 1 within a stall, 2 fault; `again` is a BRK or
TRAP that was not reported with its gang's stop (R164).
DESIGN CHOICE (notes/assumptions/19). -/
structure Saved where
  member : Nat
  core : Nat
  kind : Nat
  ctx : Ctx
  ended : Bool
  again : Option FaultInfo := none
  deriving DecidableEq, Repr

/-- A record on its way to a thief (13_tasks R329 Table 13-4). -/
structure Transit where
  core : Nat
  since : Nat
  epoch : Nat
  thief : Nat
  timerU : Nat
  deriving DecidableEq, Repr

/-- A task of the package (13_tasks R310–R318). A record that came from another package has that
package's id plus one above its own 32 bits. `readyNo` gives the READY order and `runDie` the die it runs on
(R319), `mergeTo` the fork number up to which a JOIN or END of its member `mergeBy` has its children merged
(14_revisions R345), `doomed` that firmware terminates it (R410), `blockedOn`
the fork number up to which its children must be merged before it is queued again (R321), and `token` the release that its
first bundle waits for (04_memory_model R97): the creator's core, the bundle and the operation before
which its accesses must have performed; `recWait` its fault record that is being written; and `endCode` the fault that the package which created it is told
(16_front_end R380). -/
structure Task where
  id : Nat
  asid : Nat
  depth : Nat
  view : Nat
  origin : Origin
  homeDie : Nat
  spec : TaskRec
  order : Nat
  state : TaskState
  admitted : Option Nat := none
  waits : List Nat := []
  binds : FMap Nat := []
  fills : List (Nat × Nat) := []
  width : Nat := 1
  ran : Bool := false
  cores : List Nat := []
  ended : List Nat := []
  saved : List Saved := []
  pipes : FMap Pipe := []
  lineMap : FMap Nat := []
  forkNo : Nat := 0
  joined : List Nat := []
  fault : Option FaultInfo := none
  faultMember : Nat := 0
  recAddr : Word := 0
  transit : Option Transit := none
  tilesDue : Nat := 0
  readyNo : Nat := 0
  runDie : Nat := 0
  mergeTo : Nat := 0
  mergeBy : Nat := 0
  doomed : Bool := false
  blockedOn : Option Nat := none
  token : Option (Nat × Nat × Nat) := none
  endCode : Option FaultCode := none
  recWait : Option RecWait := none
  deriving DecidableEq, Repr

/-- A clamp line bound to a gang (13_tasks R322; 06_sequencer R154): the members that have arrived and
the cycle of the release, 6 cycles after the last arrival. -/
structure Clamp where
  task : Nat
  line : Nat
  arrived : List Nat
  releaseAt : Option Nat
  deriving DecidableEq, Repr

/-- The task engine of one die (01_engines R18; 13_tasks). `stolen` lists the tasks of whose records its
stealing agent holds a copy (R329). -/
structure DieState where
  lastId : Nat := 0
  epoch : Nat := 0
  stolen : List Nat := []
  l2 : List TlbEntry := []
  clamps : FMap Clamp := []
  binding : Option (Nat × List Nat) := none
  deriving DecidableEq, Repr

/-- A live task of this package that runs on another, with what created it: its id is still held (13_tasks R312), and a
LAUNCH awaits its end (16_front_end R380). -/
structure AwayTask where
  id : Nat
  acc : Nat
  origin : Origin
  deriving DecidableEq, Repr

/-- A batch of records of the forwarding engine (13_tasks R328). -/
structure Batch where
  acc : Nat
  tasks : List SentTask
  sinceU : Nat
  sent : Bool
  deriving DecidableEq, Repr

/-! ### Revisions -/

/-- A revisable region with its conflict map (14_revisions R333, R334) and its pages' frames. -/
structure Region where
  base : Nat
  len : Nat
  width : Nat
  signed : Bool
  merge : Nat
  cmap : Nat
  frames : List (Nat × Nat × Nat)
  deriving DecidableEq, Repr

/-- What has become of a revision (14_revisions R331, R344, R348). -/
inductive RevState
  | forking
  | live
  | merged (conflicts : Nat)
  | discarded
  deriving DecidableEq, Repr

/-- A revision made by a FORK (14_revisions R336). `todo` lists the granules still to merge once its
merge has begun; `stuck` is why it has stopped before one of them, until the JOIN or END has raised that and
its task resumes (R343). -/
structure Rev where
  asid : Nat
  parent : Nat
  owner : Nat
  forker : Nat
  number : Nat
  state : RevState
  todo : Option (List Nat)
  conflicts : Nat
  stuck : Option FaultCode := none
  deriving DecidableEq, Repr

/-- A copy of a granule: an ancestor copy of a parent view, shared by the children forked while it
represented the parent's state (`current` until the parent side writes), or a child's private copy
(14_revisions R338, R341). Its bytes stand at the pool place `id`. -/
inductive CopyKind
  | ancestor (view : Nat) (children : List Nat) (current : Bool)
  | private_ (rev : Nat)
  deriving DecidableEq, Repr

/-- A granule copy of the revision pool. -/
structure GranCopy where
  id : Nat
  gran : Nat
  kind : CopyKind
  deriving DecidableEq, Repr

/-! ### Contexts, fabric and front end -/

/-- A chunk operation (15_fabric R363 Table 15-2). -/
structure ChunkOp where
  op : Nat
  fn : Nat
  ty : Nat
  dim : Nat
  dir : Nat
  rel : Bool
  rot : Nat
  base : Nat
  station : Nat
  tag : Nat
  waits : Nat
  succ0 : Nat
  succ1 : Nat
  moff : Nat
  soff : Nat
  len : Nat
  deriving DecidableEq, Repr

/-- A loaded graph slot with its staging reservations, each a station and a length, and its SEQ
(15_fabric R367, R368). -/
structure GraphSlot where
  ops : List ChunkOp
  stage : List (Nat × Nat)
  seq : Nat
  deriving DecidableEq, Repr

/-- A run in progress: the translated bytes of each LOAD and STORE, by op, the op counters, the ops done and running,
whether an ADDS saturated, when it was armed, and the VA ranges whose translations it holds, made before the operation
`armedAt` (15_fabric R370, R372, R374). -/
structure RunState where
  bases : List (Nat × List Run)
  counters : List Nat
  doneOps : List Nat
  running : List Nat
  sat : Bool
  armedU : Nat
  seq : Nat
  spans : List (Nat × Nat) := []
  armedAt : Nat := 0
  deriving DecidableEq, Repr

/-- The current entry of a work ring (15_fabric R369 Table 15-5, R370). -/
structure RingEntry where
  slot : Nat
  runs : Nat
  j : Nat
  task : Nat
  bases : List Nat
  stride : Nat
  trigAddr : Nat
  trigVal : Nat
  run : Option RunState
  deriving DecidableEq, Repr

/-- A registered work ring (15_fabric R369). TAIL, RUNS and STATUS stand in its control block. -/
structure WorkRing where
  base : Nat
  size : Nat
  control : Nat
  tail : Nat
  runs : Nat
  halted : Bool
  current : Option RingEntry
  lastPollU : Nat
  deriving DecidableEq, Repr

/-- A service record (16_front_end R388 Table 16-10). -/
structure ServiceRec where
  kind : Nat
  code : Nat
  asid : Nat
  task : Nat
  address : Word
  length : Nat
  parent : Nat
  flags : Nat
  bundle : Nat
  deriving DecidableEq, Repr

/-- A context on the package (16_front_end R413 Table 16-9; 01_engines R19). -/
structure Context where
  ptroot : Nat
  hb : Nat
  hl : Nat
  ho : Nat
  pubcnt : Word
  frec : Nat
  frecn : Nat
  frecNext : Nat
  quota : Nat
  mode : Nat
  ctimeout : Nat
  defHandler : Nat
  wins : List Word
  regions : FMap Region := []
  slots : FMap GraphSlot := []
  rings : FMap WorkRing := []
  policy : Bool := false
  pins : List (Nat × Nat) := []
  service : List ServiceRec := []
  serviceHeld : List ServiceRec := []
  serviceFree : Nat
  deriving DecidableEq, Repr

/-- The states of a queue (16_front_end R379). -/
inductive QState
  | idle | waiting | mapped | parked | halted
  deriving DecidableEq, Repr

/-- A registered queue: its control block (16_front_end R379 Table 16-1). `inflight` lists the packets
started and not completed; `armed` is the time at which the coalescing timer expires; `removing` is the number
of the command that removes it. -/
structure Queue where
  asid : Nat
  prio : Nat
  state : QState := .idle
  pending : Bool := false
  logSize : Nat
  ring : Word
  head : Nat := 0
  started : Nat := 0
  done : Nat := 0
  cring : Word
  waddr : Word := 0
  wval : Word := 0
  vector : Nat
  coal : Nat
  status : Option FaultCode := none
  since : Nat := 0
  mapAt : Nat := 0
  inflight : List Nat := []
  armed : Option Nat := none
  removing : Option Nat := none
  deriving DecidableEq, Repr

/-- How far an admin command that has not completed has come: its turn has not come, it is tried again, or it completes
by an event of its own (16_front_end R382, R387). -/
inductive AdminStage
  | waiting | running | issued
  deriving DecidableEq, Repr

/-- An admin command that has not completed, with its number in the admin queue (16_front_end R387). -/
structure AdminCmd where
  index : Nat
  packet : BitVec 512
  stage : AdminStage
  deriving DecidableEq, Repr

/-- A completion record of the admin queue (16_front_end R387, Table 16-4). -/
structure AdminDone where
  tag : Nat
  kind : Nat
  status : Option FaultCode
  index : Nat
  deriving DecidableEq, Repr

/-- An early chunk held at a station (15_fabric R373). -/
structure EarlyChunk where
  chunk : Chunk
  sinceU : Nat
  deriving DecidableEq, Repr

/-- Flits that wait for credit at a station (15_fabric R358), with the message they carry, and the chunk operation
that ends with the last of them.
PRESUMED (notes/assumptions/39). -/
structure HeldMsg where
  peer : Nat
  ch : Channel
  flits : Nat
  msg : Instr
  op : Option Nat
  deriving DecidableEq, Repr

/-- A sender's credits for one peer station (15_fabric R358); `chkShared` counts its CHK flits on shared credit
there. -/
structure Credit where
  shared : Nat := 512
  req : Nat := 4
  rsp : Nat := 4
  chk : Nat := 4
  chkShared : Nat := 0
  deriving DecidableEq, Repr

/-- A fabric station (15_fabric R350, R357, R358, R361, R373): its credits by peer, what it holds for want of them,
the flits whose tokens it withholds by sender, channel and reservation bit, its early chunks, and the chunk operations
that may run, in the order in which they became runnable (R362). -/
structure Station where
  down : Bool := false
  credit : FMap Credit := []
  held : List HeldMsg := []
  owed : List (Nat × Channel × Bool) := []
  early : List EarlyChunk := []
  queue : List (Nat × Nat × Nat) := []
  deriving DecidableEq, Repr

/-! ### Migration -/

/-- STATE of a home-directory entry (12_migration R284). -/
inductive HomeState
  | stable | moving | lost
  deriving DecidableEq, Repr

/-- A home-directory entry (12_migration R284 Table 12-1), with the issuer of a move in progress. -/
structure HomeEntry where
  page : PageKey
  state : HomeState
  owner : Nat
  target : Nat
  epoch : Nat
  issuer : Option ReqId
  deriving DecidableEq, Repr

/-- An owner-cache entry (12_migration R285 Table 12-2); `last` in nanoseconds. -/
structure OwnerEntry where
  page : PageKey
  owner : Nat
  epoch : Nat
  last : Nat
  deriving DecidableEq, Repr

/-- The stages of a move at the owner (12_migration R296–R299). -/
inductive MoveStage
  | reserving | frozen | committing
  deriving DecidableEq, Repr

/-- A move at the owner, with its frame's address, the freeze queue, and the requests that wait for space in it
(12_migration R297). -/
structure Move where
  req : MoveReq
  frame : Nat
  home : Nat
  stage : MoveStage
  queue : List RemoteReq
  sinceU : Nat
  overflow : List RemoteReq := []
  deriving DecidableEq, Repr

/-- A page INCOMING at the target, with the requests it holds (12_migration R296, R300). -/
structure Incoming where
  page : PageKey
  owner : Nat
  home : Nat
  frame : Nat
  held : List RemoteReq
  deriving DecidableEq, Repr

/-- A forwarding stub, the time its lifetime ends, and the old frame's address until the drain that frees it
(12_migration R299, R302, R303); `gone` once only the frame is left. -/
structure Stub where
  page : PageKey
  frame : Option Nat
  owner : Nat
  endU : Nat
  retiring : Bool
  gone : Bool := false
  deriving DecidableEq, Repr

/-- A page whose requester changes destination: the operations whose home consult is unanswered, those refused and
those held, each in issue order (12_migration R288, R289). -/
structure Hold where
  page : PageKey
  asked : List Nat
  refused : List Nat
  held : List Nat
  deriving DecidableEq, Repr

/-- A page that came here by a move: its epoch and its frame's address (12_migration R299, R300). -/
structure Owned where
  page : PageKey
  epoch : Nat
  frame : Nat
  deriving DecidableEq, Repr

/-- The migration agent (12_migration). `sent` lists this package's unanswered page requests: the
operation, the page and the package each was sent to; `owned` the pages that came here by a move; `stalled` the requests
that wait here for a granule to be copied or merged (14_revisions R339), in order of arrival; `taken` those taken out of a
queue to be performed that have not been yet; `fails` how often packets of an operation have failed authentication
(15_fabric R350), and `lost` those of other messages that this package sent; `registered` the pages that this package
registered as their owner; `behind` the core accesses that wait to be sent behind a release of their core (04_memory_model
R81); and `rebuilding` the packages whose reports a home that was reset still awaits (R308). -/
structure Migration where
  sent : List (Nat × PageKey × Nat) := []
  home : List HomeEntry := []
  cache : List OwnerEntry := []
  moves : List Move := []
  incoming : List Incoming := []
  stubs : List Stub := []
  holds : List Hold := []
  owned : List Owned := []
  stalled : List RemoteReq := []
  taken : List RemoteReq := []
  fails : FMap Nat := []
  lost : List ((Nat × Instr) × Nat) := []
  registered : List PageKey := []
  behind : List Nat := []
  rebuilding : List Nat := []
  deriving DecidableEq, Repr

/-! ### The system -/

/-- BOOT_STS.STATE (17_system R395 Table 17-3). -/
inductive BootState
  | init | waitImage | checking | running | ready | fatal
  deriving DecidableEq, Repr

/-- An access-table entry (17_system R399 Table 17-5); `base` and `limit` are the 32-bit fields. -/
structure AccessEntry where
  wr : Bool
  rd : Bool
  mhi : Nat
  mlo : Nat
  limit : Nat
  base : Nat
  deriving DecidableEq, Repr

/-- A storage-window entry (17_system R393). -/
structure WinEntry where
  off : Nat
  pa : Nat
  len : Nat
  deriving DecidableEq, Repr

/-- What the host port answers (17_system R392, R393; 11_translation R267): a write performed or dropped has no
answer of its own. -/
inductive PortAnswer
  | data (bytes : List Byte)
  | poisoned
  | abort
  | mapping (accepted : Bool)
  deriving DecidableEq, Repr

/-- The host port's registers, protection and power (17_system). `steppedU` is the time of the last step of the
arithmetic clock; `softEcc` lists the 64-byte granules whose storage holds an error that a read corrects (R402). -/
structure System where
  boot : BootState := .init
  err : Nat := 0
  version : Nat := 0
  len : Nat := 0
  cfgoff : Nat := 0
  ide : Bool := false
  frozen : Bool := false
  thermtrip : Bool := false
  clock : Nat := 18
  cap : Nat := 1600
  ras : FMap Nat := []
  access : List (Guard × FMap AccessEntry) := []
  windows : FMap WinEntry := []
  requesters : FMap Nat := []
  poison : List Nat := []
  badCode : List Nat := []
  badEcc : List Nat := []
  softEcc : List Nat := []
  workersOut : List Nat := []
  readout : Bool := false
  steppedU : Option Nat := none
  deriving DecidableEq, Repr

/-- The settings of TIMING and of the pod configuration (16_front_end R412; 12_migration R302; 17_system R394); `keys` are
the keys of UALinkSec (15_fabric R350). -/
structure Settings where
  qslice : Nat := 1000
  tslice : Nat := 1048576
  ftimeout : Nat := 100
  stubLife : Nat := 1000
  poolGib : Nat := 16
  hseed : Word := 0
  homemap : FMap Nat := []
  lx : Nat := 1
  ly : Nat := 1
  lz : Nat := 1
  members : List Nat := []
  keys : List Byte := []
  deriving DecidableEq, Repr

/-! ### The issue of a bundle -/

/-- What a bundle that stalls at step 7 does while it waits (06_sequencer R139, R154; 04_memory_model
R88, R90; 13_tasks R326): it notes where a fence stands among the engine operations, registers an
arrival on a clamp line, sends a heavy fence's requests, starts a PUBLISH, has the copies of
granules allocated for a store (14_revisions R339), asks for merges (R345), or reads a remote region
descriptor (R334). -/
inductive HoldAct
  | none
  | stamp
  | sync (line : Nat)
  | heavy (scope : Scope)
  | publish
  | cow (view : Nat) (grans : List Nat)
  | join (upTo : Nat)
  | desc (runs : List Run)
  deriving DecidableEq, Repr

/-- What the checks of a slot or of a bundle say (06_sequencer R139, R160; 11_translation R270): it may
issue; it stalls at step 7; a source has no value yet; a page needs a walk; a register granule is
absent; or it faults, at WAIT and END with the class whose oldest mark is raised. -/
inductive Verdict
  | ok
  | hold (a : HoldAct)
  | stall
  | walk (asid va : Nat)
  | fill (vec : Bool) (granule : Nat)
  | fault (code : FaultCode) (faddr : Word) (aux : Nat) (async : Bool) (mark : Option Cls)
  deriving DecidableEq, Repr

/-- What `exec` of a slot does: a bundle of several slots is checked whole before any slot acts
(02_bundles R31, R40); a bundle of one slot is checked, acts and is finished at once. -/
inductive Phase
  | whole | check | commit
  deriving DecidableEq, Repr

/-- What a slot takes of the core's bounded resources: counts of the four classes, scoreboard entries,
pending pushes, and posted writes through peer windows, each with its window and the window's allowance
(06_sequencer R152, R161; 10_copy R247; 15_fabric R356). -/
structure Need where
  c0 : Nat := 0
  c1 : Nat := 0
  t : Nat := 0
  s : Nat := 0
  ranges : Nat := 0
  pushes : Nat := 0
  wins : List (Nat × Nat) := []
  deriving DecidableEq, Repr

/-- The scratch of the bundle being issued: the model's own. `verdict` is that of slot `vslot`; `slot`
is the slot `exec` now runs; `words` is the bundle's length; `limm` and `rep` are what a prefix left
for the next slot; `deferred` is what governs the next issue cycle. -/
structure Issue where
  phase : Phase := .whole
  verdict : Verdict := .ok
  vslot : Nat := 0
  slot : Nat := 0
  words : Nat := 1
  limm : Option (BitVec 22) := none
  rep : Option (BitVec 12 × List RepSel) := none
  need : Need := {}
  deferred : List Deferred := []
  deriving DecidableEq, Repr

/-- One G4 package. -/
structure State where
  /-- The accelerator id (01_engines R19). -/
  accid : Nat
  /-- Clock cycles since reset: CYC (05_scalar R127). -/
  cyc : Nat
  /-- The reference clock's time in units of 10 ns / 12252240, now and before the last clock cycle (00_scope R1). -/
  timeU : Nat
  lastU : Nat
  /-- Memory: the bytes that do not read as zero, addresses rising. -/
  mem : List Host.Cell
  /-- Host memory, outside the device (16_front_end R381). -/
  host : List Host.Cell
  /-- The 256 cores. -/
  cores : FMap Core
  /-- The four dies. -/
  dies : FMap DieState
  /-- The tasks of the package that are not done, and those whose records are still needed. -/
  tasks : List Task
  /-- The number of the next pooled record (R314) and of the next admission (R315). -/
  poolOrder : Nat
  admitOrder : Nat
  /-- Batches of the forwarding engine. -/
  batches : List Batch
  /-- Tasks created here that run on other packages. -/
  away : List AwayTask
  /-- Contexts by ASID. -/
  ctxs : FMap Context
  /-- Revisions by number, from 1; view 0 is the base revision. -/
  revs : FMap Rev
  nextRev : Nat
  /-- Granule copies of the revision pool. -/
  copies : List GranCopy
  nextCopy : Nat
  /-- Operations in flight, in issue order, and the number of the next. -/
  ops : List Op
  nextOp : Nat
  /-- The number of the next bundle issued on the package. -/
  nextBundle : Nat
  /-- Queues by QID, the admin queue's completions, the number of its next command, its commands that have not
  completed, and MSI-X vectors sent. -/
  queues : FMap Queue
  admin : List AdminDone
  adminCount : Nat
  adminCmds : List AdminCmd
  msix : List Nat
  /-- Stations. -/
  stations : FMap Station
  /-- The migration agent. -/
  mig : Migration
  /-- The host port, protection and power. -/
  sys : System
  /-- Settings. -/
  cfg : Settings
  /-- The model's own: events from outside still to come, each with its delay in clock cycles after the
  one before it. -/
  agenda : List (Nat × Instr)
  /-- The model's own: the messages of the package to itself and the events that it tries again, each with its delay in
  clock cycles after the one before it. -/
  own : List (Nat × Instr)
  /-- The model's own: messages sent to other packages. -/
  outbox : List (Nat × Instr)
  /-- The model's own: what the host port has answered. -/
  answers : List PortAnswer
  /-- The model's own: the core whose turn it is and the cores still to act in this clock cycle. -/
  cur : Nat
  turn : List Nat
  /-- The model's own: the bundle being issued. -/
  iss : Issue
  /-- The model's own: the index of the next free value. -/
  freeCount : Nat
  deriving DecidableEq, Repr

/-- The package right after reset (17_system R394): no context, no task, the boot state INIT, and the
reset values of the inventory.
DESIGN CHOICE (notes/assumptions/3). -/
def State.reset : State where
  accid := 0
  cyc := 0
  timeU := 0
  lastU := 0
  mem := []
  host := []
  cores := []
  dies := []
  tasks := []
  poolOrder := 0
  admitOrder := 0
  batches := []
  away := []
  ctxs := []
  revs := []
  nextRev := 1
  copies := []
  nextCopy := 0
  ops := []
  nextOp := 0
  nextBundle := 0
  queues := []
  admin := []
  adminCount := 0
  adminCmds := []
  msix := []
  stations := []
  mig := {}
  sys := {}
  cfg := {}
  agenda := []
  own := []
  outbox := []
  answers := []
  cur := 0
  turn := []
  iss := {}
  freeCount := 0

end Sys2Proof.Machine
end

