-- ==== Sys2Proof/WellFormed.lean ====
section
/-! DEFINITION. Which terms of `Instr` are instructions of the encoding: the field values that an
entry forbids (02_bundles R32, R35, R37) and that the operand types do not already shut out. -/

namespace Sys2Proof

/-- The element types of four bits. -/
def ElemTy.isNibble : ElemTy → Bool
  | .i4 | .n4 => true
  | _ => false

/-- The element types of thirty-two bits. -/
def ElemTy.isWord : ElemTy → Bool
  | .i32 | .n32 => true
  | _ => false

/-- The net right shift of MLOAD and MADD lies in −40…40 (09_matrix Table 9-3). -/
def shiftInRange (sh : BitVec 8) : Bool := decide (-40 ≤ sh.toInt ∧ sh.toInt ≤ 40)

/-- The rows that have an encoding: the instructions. -/
def Instr.isEncoded : Instr → Bool
  | .add _ _ _ => true
  | .sub _ _ _ => true
  | .and _ _ _ => true
  | .or _ _ _ => true
  | .xor _ _ _ => true
  | .andn _ _ _ => true
  | .shl _ _ _ => true
  | .shr _ _ _ => true
  | .sar _ _ _ => true
  | .mul _ _ _ => true
  | .mulh _ _ _ => true
  | .mulhu _ _ _ => true
  | .div _ _ _ => true
  | .divu _ _ _ => true
  | .rem _ _ _ => true
  | .remu _ _ _ => true
  | .min _ _ _ => true
  | .max _ _ _ => true
  | .minu _ _ _ => true
  | .maxu _ _ _ => true
  | .clz _ _ => true
  | .cls _ _ => true
  | .popc _ _ => true
  | .ext _ _ _ _ => true
  | .addi _ _ _ => true
  | .andi _ _ _ => true
  | .ori _ _ _ => true
  | .xori _ _ _ => true
  | .shli _ _ _ => true
  | .shri _ _ _ => true
  | .sari _ _ _ => true
  | .lih _ _ => true
  | .cmp _ _ _ _ => true
  | .cmpi _ _ _ _ => true
  | .sel _ _ _ _ _ => true
  | .plog _ _ _ _ => true
  | .ld _ _ _ _ _ => true
  | .st _ _ _ _ => true
  | .ldAcq _ _ _ _ _ => true
  | .stRel _ _ _ _ _ => true
  | .spcq _ _ => true
  | .spcast _ _ _ _ => true
  | .xlt _ _ _ => true
  | .setmf _ _ => true
  | .setvf _ _ => true
  | .mfs _ _ => true
  | .mts _ _ => true
  | .chk _ _ => true
  | .tinfo _ _ _ => true
  | .tsets _ _ => true
  | .rng _ _ _ => true
  | .vadd _ _ _ _ _ => true
  | .vsub _ _ _ _ _ => true
  | .vadds _ _ _ _ _ => true
  | .vsubs _ _ _ _ _ => true
  | .vmul _ _ _ _ _ => true
  | .vmulhr _ _ _ _ _ => true
  | .vmin _ _ _ _ _ => true
  | .vmax _ _ _ _ _ => true
  | .vabs _ _ _ _ => true
  | .vneg _ _ _ _ => true
  | .vand _ _ _ _ _ => true
  | .vor _ _ _ _ _ => true
  | .vxor _ _ _ _ _ => true
  | .vshl _ _ _ _ _ => true
  | .vshr _ _ _ _ _ => true
  | .vsar _ _ _ _ _ => true
  | .vshli _ _ _ _ _ => true
  | .vsari _ _ _ _ _ => true
  | .vrshr _ _ _ _ _ => true
  | .vcvt _ _ _ _ _ => true
  | .vcmp _ _ _ _ _ => true
  | .vsel _ _ _ _ => true
  | .vbcast _ _ _ _ => true
  | .vextr _ _ _ _ => true
  | .vperm _ _ _ _ _ => true
  | .vslide _ _ _ _ _ => true
  | .vrsum _ _ _ _ => true
  | .vrmax _ _ _ _ => true
  | .vrmin _ _ _ _ => true
  | .vscan _ _ _ _ => true
  | .vdot _ _ _ _ _ => true
  | .vcls _ _ _ _ => true
  | .vcensus _ _ _ _ => true
  | .vld _ _ _ => true
  | .vst _ _ _ => true
  | .vldx _ _ _ _ => true
  | .vstx _ _ _ _ => true
  | .mpush _ _ => true
  | .minv => true
  | .mpop => true
  | .mget _ _ => true
  | .vfn _ _ _ _ _ => true
  | .vfnld _ _ _ => true
  | .vdiv _ _ _ _ _ => true
  | .vopt _ _ _ => true
  | .vchk _ _ => true
  | .vres _ => true
  | .mma _ _ _ => true
  | .mmaz _ _ _ => true
  | .mmat _ _ _ => true
  | .mmbt _ _ _ => true
  | .mmac _ _ _ => true
  | .mout _ _ _ => true
  | .mload _ _ _ => true
  | .madd _ _ _ => true
  | .mzero _ _ _ => true
  | .mcens _ => true
  | .mbias _ _ _ => true
  | .copy _ _ _ _ _ => true
  | .copyg _ _ _ _ => true
  | .copys _ _ _ _ => true
  | .copyr _ _ _ _ _ => true
  | .saeq _ _ _ _ _ => true
  | .saef _ _ _ _ _ => true
  | .atom _ _ _ _ _ => true
  | .signal _ _ _ _ _ => true
  | .pgreq _ _ _ _ => true
  | .migr _ _ _ _ => true
  | .cgld _ _ _ _ => true
  | .nop => true
  | .prep _ _ => true
  | .prepr _ _ => true
  | .br _ _ _ _ => true
  | .bru _ => true
  | .call _ => true
  | .ret => true
  | .loop _ _ _ => true
  | .loops _ _ _ _ => true
  | .wait _ _ _ _ => true
  | .sync _ => true
  | .fence _ => true
  | .fenceLite => true
  | .fenceHeavy _ => true
  | .brk _ => true
  | .limm _ => true
  | .rept _ _ _ _ _ => true
  | .talloc _ _ _ _ _ => true
  | .tfree _ => true
  | .tlink _ _ => true
  | .tid _ _ => true
  | .spawn _ _ => true
  | .fork _ _ => true
  | .join _ _ => true
  | .yield => true
  | .endTask => true
  | .trap _ => true
  | .pipew _ _ => true
  | .piper _ _ => true
  | .publish => true
  | .rvset _ _ _ => true
  | .resultPush _ => false
  | .formatWriteApply _ => false
  | .storePerformAtHome _ => false
  | .releaseStorePerform _ => false
  | .postedWriteAcknowledge _ _ => false
  | .remoteLoadResponse _ _ _ => false
  | .fabricRequestTimeout _ => false
  | .fenceHeavySerialisation _ _ => false
  | .fenceHeavyAcknowledge _ _ _ => false
  | .firmwareStopRequest _ => false
  | .taskSave _ => false
  | .taskRestore _ => false
  | .lazyRestoreFill _ => false
  | .timeSliceExpiry _ => false
  | .joinBlockSwitch _ => false
  | .clampLineRelease _ _ => false
  | .vfnldComplete _ _ => false
  | .voptComplete _ => false
  | .matrixInstructionStart _ => false
  | .matrixInstructionComplete _ => false
  | .repeatRepetition _ => false
  | .copyOperationComplete _ _ => false
  | .atomPerform _ => false
  | .signalPerform _ => false
  | .farOperationAcknowledge _ _ _ _ => false
  | .pageWalkComplete _ => false
  | .xltResult _ => false
  | .pgreqComplete _ => false
  | .invalidate _ => false
  | .invalidationDrainComplete _ => false
  | .remoteRequestReceive _ => false
  | .requestRefused _ _ => false
  | .homeConsult _ _ => false
  | .homeAnswer _ _ _ => false
  | .requesterHoldRelease _ => false
  | .redirect _ _ _ => false
  | .ownerCacheExpiry _ => false
  | .migrationRequestAtHome _ => false
  | .migrationForwardAtOwner _ _ => false
  | .reserve _ _ _ _ => false
  | .reserveAccept _ _ => false
  | .transferAcknowledge _ => false
  | .migrationAbort _ => false
  | .commit _ _ => false
  | .commitAcknowledge _ _ => false
  | .endForward _ _ _ _ _ => false
  | .migrComplete _ _ _ => false
  | .policyMove _ _ => false
  | .stubLifetimeEnd _ => false
  | .stubRetire _ _ => false
  | .stubRetireAcknowledge _ => false
  | .stubRetireTimeout _ => false
  | .taskAdmission _ => false
  | .taskDispatch _ => false
  | .gangRelease _ => false
  | .pipewFill _ => false
  | .proxyBatchSend _ => false
  | .taskRecordBatch _ _ => false
  | .jobCardTileArrival _ _ _ => false
  | .stealRequest _ => false
  | .stolenRecordArrival _ _ _ => false
  | .stealAck _ _ => false
  | .stealConfirm _ _ => false
  | .stealTimerExpiry _ => false
  | .stealCancel _ _ => false
  | .snapshotEstablish _ => false
  | .cowCopyComplete _ => false
  | .childMerge _ => false
  | .granuleMergeComplete _ => false
  | .flitReceive _ _ _ _ => false
  | .creditToken _ _ _ _ => false
  | .stationLinkFailure _ => false
  | .chunkOpRun _ _ _ => false
  | .chunkOpComplete _ _ => false
  | .chunkReceive _ => false
  | .cgldComplete _ _ => false
  | .workRingPoll _ _ => false
  | .runArm _ _ => false
  | .runComplete _ _ => false
  | .collectiveTimeout _ _ => false
  | .earlyChunkTimeout _ _ => false
  | .kick _ _ => false
  | .launch _ _ => false
  | .waitPacket _ _ => false
  | .signalPacket _ _ => false
  | .copyPacket _ _ => false
  | .publishPacket _ _ => false
  | .publishAcknowledge _ => false
  | .packetComplete _ _ => false
  | .coalescingTimerExpiry _ => false
  | .queueMap _ => false
  | .queueSliceEnd _ => false
  | .queueAgeingStep _ => false
  | .signalUnitPoll _ _ => false
  | .ctxSet _ => false
  | .ctxEnd _ => false
  | .queueSet _ => false
  | .queueRemoveComplete _ => false
  | .queueReset _ => false
  | .pool _ => false
  | .wring _ => false
  | .pin _ => false
  | .pageReply _ => false
  | .migrPolicy _ => false
  | .timing _ => false
  | .owner _ => false
  | .schedulerMemoryError _ => false
  | .workerFailure _ => false
  | .fwFatal => false
  | .deviceReset => false
  | .bootGo => false
  | .bootReset => false
  | .registerWrite _ _ => false
  | .firmwareReady => false
  | .cxlMemAccess _ _ => false
  | .storageWindowAccess _ _ _ => false
  | .accessTableChange _ _ _ => false
  | .freeze => false
  | .tapReadout => false
  | .rasCounterClear _ => false
  | .coreOffline _ => false
  | .thermalStepDown => false
  | .thermalStepUp => false
  | .thermalTrip => false
  | .illegalSlotWord _ => false
  | .loadPerformAtHome _ => false
  | .taskAgeingStep _ => false
  | .peerPackageReset _ => false
  | .serviceRingFreed _ _ => false
  | .cxlIdeKeyExchange => false
  | .stagingWindowWrite _ _ => false
  | .mappingRequest _ _ _ => false
  | .storageWindowEntrySet _ _ _ _ _ _ => false
  | .powerCapSet _ => false

/-- A well-formed instruction: it has an encoding and no field holds a value its entry forbids. -/
def Instr.wf (i : Instr) : Bool :=
  i.isEncoded &&
  match i with
  | .ld _ _ _ z sgn => !(z == .b64 && sgn)
  | .spcast _ _ b k => !(k == .toLocal) || b == .g 0
  | .br _ p neg always => !always || (p == 0 && !neg)
  | .vbcast _ _ _ m => !(m == .keepA)
  | .vperm _ _ _ t _ => !t.isNibble
  | .vfn _ _ _ t _ => !t.isNibble
  | .vdot _ _ _ t _ => !t.isWord
  | .mload _ _ sh => shiftInRange sh
  | .madd _ _ sh => shiftInRange sh
  | .cgld _ a _ clr => !clr || a == .g 0
  | .rvset a _ clr => !clr || a == .g 0
  | _ => true

end Sys2Proof
end

