-- ==== Sys2Proof/Decode.lean ====
section
/-! DEFINITION. Slot words to instructions, rejecting by name (02_bundles R27, R32–R38), instructions
back to slot words, and the decoding of a whole bundle (R29, R30, R38–R43). -/

namespace Sys2Proof

/-- Why a slot word is not an instruction (02_bundles R34, R37). -/
inductive DecErr
  | slot
  | operand
  deriving DecidableEq, Repr

/-- `n` bits of a word from bit `lo` up. -/
def fld (w lo n : Nat) : Nat := w / 2 ^ lo % 2 ^ n

/-- A scalar source specifier (R34 Table 2-6). -/
def ssrcOf (n : Nat) : Except DecErr SSrc :=
  if n < 32 then .ok (.g (Fin.ofNat 32 n))
  else if n < 48 then .ok (.q (Fin.ofNat 16 (n - 32)))
  else if n < 56 then .ok (.tx (Fin.ofNat 8 (n - 48)))
  else if n < 60 then .ok (.lc (Fin.ofNat 4 (n - 56)))
  else .error .operand

/-- A vector source specifier (R34 Table 2-6). -/
def vsrcOf (n : Nat) : Except DecErr VSrc :=
  if n < 32 then .ok (.v (Fin.ofNat 32 n))
  else if n < 48 then .ok (.vq (Fin.ofNat 16 (n - 32)))
  else .error .operand

/-- The code of a scalar source. -/
def SSrc.code : SSrc → Nat
  | .g n => n.val
  | .q n => 32 + n.val
  | .tx n => 48 + n.val
  | .lc n => 56 + n.val

/-- The code of a vector source. -/
def VSrc.code : VSrc → Nat
  | .v n => n.val
  | .vq n => 32 + n.val

/-- Element type codes (03_numbers Table 3-1). -/
def ElemTy.ofCode : Nat → ElemTy
  | 0 => .i8 | 1 => .n8 | 2 => .i16 | 3 => .n16 | 4 => .i32 | 5 => .n32 | 6 => .i4 | _ => .n4

/-- The code of an element type. -/
def ElemTy.code : ElemTy → Nat
  | .i8 => 0 | .n8 => 1 | .i16 => 2 | .n16 => 3 | .i32 => 4 | .n32 => 5 | .i4 => 6 | .n4 => 7

/-- Mask modes (R32); 0b11 is reserved. -/
def MaskMode.ofCode : Nat → Except DecErr MaskMode
  | 0 => .ok .all | 1 => .ok .keepA | 2 => .ok .zero | _ => .error .slot

/-- The code of a mask mode. -/
def MaskMode.code : MaskMode → Nat
  | .all => 0 | .keepA => 1 | .zero => 2

/-- Conditions (R35); 6 and 7 are reserved. -/
def Cond.ofCode : Nat → Except DecErr Cond
  | 0 => .ok .eq | 1 => .ok .ne | 2 => .ok .lt | 3 => .ok .ge | 4 => .ok .ltu | 5 => .ok .geu
  | _ => .error .slot

/-- The code of a condition. -/
def Cond.code : Cond → Nat
  | .eq => 0 | .ne => 1 | .lt => 2 | .ge => 3 | .ltu => 4 | .geu => 5

/-- Conditions of VCMP (R35). -/
def VCond.ofCode : Nat → VCond
  | 0 => .eq | 1 => .ne | 2 => .lt | _ => .ge

/-- The code of a condition of VCMP. -/
def VCond.code : VCond → Nat
  | .eq => 0 | .ne => 1 | .lt => 2 | .ge => 3

/-- Access sizes (R35). -/
def Size.ofCode : Nat → Size
  | 0 => .b8 | 1 => .b16 | 2 => .b32 | _ => .b64

/-- The code of an access size. -/
def Size.code : Size → Nat
  | .b8 => 0 | .b16 => 1 | .b32 => 2 | .b64 => 3

/-- Scope codes in a slot word (01_engines R24, R25): 6 and 7 raise ILLEGAL_SLOT. -/
def Scope.ofCode : Nat → Except DecErr Scope
  | 0 => .ok .core | 1 => .ok .gang | 2 => .ok .die | 3 => .ok .pkg | 4 => .ok .pod | 5 => .ok .sys
  | _ => .error .slot

/-- The code of a scope. -/
def Scope.code : Scope → Nat
  | .core => 0 | .gang => 1 | .die => 2 | .pkg => 3 | .pod => 4 | .sys => 5

/-- PLOG operations (05_scalar R118). -/
def PlogOp.ofCode : Nat → PlogOp
  | 0 => .and | 1 => .or | 2 => .xor | 3 => .andn | 4 => .orn | 5 => .nand | 6 => .nor | _ => .xnor

/-- The code of a PLOG operation. -/
def PlogOp.code : PlogOp → Nat
  | .and => 0 | .or => 1 | .xor => 2 | .andn => 3 | .orn => 4 | .nand => 5 | .nor => 6 | .xnor => 7

/-- SPCAST kinds (05_scalar R124). -/
def CastKind.ofCode : Nat → Except DecErr CastKind
  | 0 => .ok .peer | 1 => .ok .toLocal | 2 => .ok .handle | _ => .error .slot

/-- The code of an SPCAST kind. -/
def CastKind.code : CastKind → Nat
  | .peer => 0 | .toLocal => 1 | .handle => 2

/-- TINFO selectors (05_scalar Table 5-7). -/
def TinfoSel.ofCode : Nat → Except DecErr TinfoSel
  | 0 => .ok .shape | 1 => .ok .exp | 2 => .ok .census | 3 => .ok .flags | 4 => .ok .comp
  | 5 => .ok .ver | 6 => .ok .bytes | 7 => .ok .owner | _ => .error .slot

/-- The code of a TINFO selector. -/
def TinfoSel.code : TinfoSel → Nat
  | .shape => 0 | .exp => 1 | .census => 2 | .flags => 3 | .comp => 4 | .ver => 5 | .bytes => 6
  | .owner => 7

/-- TID selectors (05_scalar R138). -/
def TidSel.ofCode : Nat → Except DecErr TidSel
  | 0 => .ok .id | 1 => .ok .member | 2 => .ok .width | 3 => .ok .depth | 4 => .ok .pool
  | 5 => .ok .mode | _ => .error .slot

/-- The code of a TID selector. -/
def TidSel.code : TidSel → Nat
  | .id => 0 | .member => 1 | .width => 2 | .depth => 3 | .pool => 4 | .mode => 5

/-- COPY modes (10_copy R251). -/
def CopyMode.ofCode : Nat → Except DecErr CopyMode
  | 0 => .ok .plain | 1 => .ok .fill | 2 => .ok .trans1 | 3 => .ok .trans2 | 4 => .ok .trans4
  | _ => .error .slot

/-- The code of a COPY mode. -/
def CopyMode.code : CopyMode → Nat
  | .plain => 0 | .fill => 1 | .trans1 => 2 | .trans2 => 3 | .trans4 => 4

/-- COPYR operations (10_copy R253). -/
def RedOp.ofCode : Nat → Except DecErr RedOp
  | 0 => .ok .add | 1 => .ok .sadd | 2 => .ok .max | 3 => .ok .min | _ => .error .slot

/-- The code of a COPYR operation. -/
def RedOp.code : RedOp → Nat
  | .add => 0 | .sadd => 1 | .max => 2 | .min => 3

/-- SAEQ and SAEF operations (10_copy R255). -/
def SaeOp.ofCode : Nat → Except DecErr SaeOp
  | 0 => .ok .add | 1 => .ok .sadd | 2 => .ok .max | 3 => .ok .min | 4 => .ok .set
  | _ => .error .slot

/-- The code of an SAEQ or SAEF operation. -/
def SaeOp.code : SaeOp → Nat
  | .add => 0 | .sadd => 1 | .max => 2 | .min => 3 | .set => 4

/-- ATOM operations (10_copy R256). -/
def AtomOp.ofCode : Nat → AtomOp
  | 0 => .add | 1 => .sadd | 2 => .min | 3 => .max | 4 => .xchg | 5 => .cas | 6 => .and | _ => .or

/-- The code of an ATOM operation. -/
def AtomOp.code : AtomOp → Nat
  | .add => 0 | .sadd => 1 | .min => 2 | .max => 3 | .xchg => 4 | .cas => 5 | .and => 6 | .or => 7

/-- REPEAT selectors (R43); 0b11 is reserved. -/
def RepSel.ofCode : Nat → Except DecErr RepSel
  | 0 => .ok .hold | 1 => .ok .add | 2 => .ok .sub | _ => .error .slot

/-- The code of a REPEAT selector. -/
def RepSel.code : RepSel → Nat
  | .hold => 0 | .add => 1 | .sub => 2

/-- System register numbers (05_scalar Table 5-4). A number that names none is ILLEGAL_OPERAND
(R37). -/
def SysReg.ofNumber (n : Nat) : Except DecErr SysReg :=
  if n = 0x000 then .ok .core
  else if n = 0x001 then .ok .die
  else if n = 0x002 then .ok .accid
  else if n = 0x003 then .ok .asid
  else if n = 0x010 then .ok .mf
  else if n = 0x011 then .ok .vf
  else if n = 0x020 then .ok .hb
  else if n = 0x021 then .ok .hl
  else if n = 0x022 then .ok .ho
  else if n = 0x030 then .ok .rseed
  else if n = 0x031 then .ok .rstep
  else if n = 0x040 then .ok (.cstat 0)
  else if n = 0x041 then .ok (.cstat 1)
  else if n = 0x050 then .ok .fltrec
  else if n = 0x060 then .ok .satf
  else if n = 0x070 then .ok .cyc
  else if n = 0x071 then .ok .nbun
  else if 0x080 ≤ n ∧ n < 0x090 then .ok (.wa (Fin.ofNat 16 (n - 0x080)))
  else if 0x090 ≤ n ∧ n < 0x094 then .ok (.mo (Fin.ofNat 4 (n - 0x090)))
  else if 0x094 ≤ n ∧ n < 0x098 then .ok (.mi (Fin.ofNat 4 (n - 0x094)))
  else if 0x0A0 ≤ n ∧ n < 0x0A8 then .ok (.optc (Fin.ofNat 8 (n - 0x0A0)))
  else if n = 0x0B0 then .ok .rmasklo
  else if 0x0C0 ≤ n ∧ n < 0x0C4 then .ok (.lc (Fin.ofNat 4 (n - 0x0C0)))
  else if n = 0x0C8 then .ok .pred
  else .error .operand

/-- The number of a system register. -/
def SysReg.number : SysReg → Nat
  | .core => 0x000 | .die => 0x001 | .accid => 0x002 | .asid => 0x003
  | .mf => 0x010 | .vf => 0x011 | .hb => 0x020 | .hl => 0x021 | .ho => 0x022
  | .rseed => 0x030 | .rstep => 0x031 | .cstat c => 0x040 + c.val | .fltrec => 0x050
  | .satf => 0x060 | .cyc => 0x070 | .nbun => 0x071 | .wa n => 0x080 + n.val
  | .mo n => 0x090 + n.val | .mi n => 0x094 + n.val | .optc n => 0x0A0 + n.val
  | .rmasklo => 0x0B0 | .lc n => 0x0C0 + n.val | .pred => 0x0C8

/-- The fields of a slot word, by the forms of R32. -/
def wD (w : Nat) : Fin 32 := Fin.ofNat 32 (fld w 17 5)
/-- Predicate number in a d5 field. -/
def wP (w : Nat) : Fin 16 := Fin.ofNat 16 (fld w 17 4)
/-- Element type field of VR and VI. -/
def wT (w : Nat) : ElemTy := .ofCode (fld w 2 3)
/-- Accumulator number of TM. -/
def wX (w : Nat) : Fin 64 := Fin.ofNat 64 (fld w 16 6)
/-- Handle field h8 of TM. -/
def wH (w : Nat) : BitVec 8 := BitVec.ofNat 8 (fld w 8 8)
/-- Field k8 of TM. -/
def wK (w : Nat) : BitVec 8 := BitVec.ofNat 8 (fld w 0 8)

/-- A check of a word that the word decides by itself (R37): a breach is ILLEGAL_SLOT. -/
def need (b : Bool) : Except DecErr Unit := if b then .ok () else .error .slot

/-- SR with three registers and f zero. -/
def sr3 (k : Fin 32 → SSrc → SSrc → Instr) (w : Nat) : Except DecErr Instr :=
  if fld w 0 5 = 0 then
    (ssrcOf (fld w 11 6)).bind fun a => (ssrcOf (fld w 5 6)).bind fun b => .ok (k (wD w) a b)
  else .error .slot

/-- SR with d and a; b and f zero. -/
def sr2 (k : Fin 32 → SSrc → Instr) (w : Nat) : Except DecErr Instr :=
  if fld w 0 11 = 0 then (ssrcOf (fld w 11 6)).bind fun a => .ok (k (wD w) a) else .error .slot

/-- SR with a and b; d and f zero. -/
def srAB (k : SSrc → SSrc → Instr) (w : Nat) : Except DecErr Instr :=
  if fld w 17 5 = 0 ∧ fld w 0 5 = 0 then
    (ssrcOf (fld w 11 6)).bind fun a => (ssrcOf (fld w 5 6)).bind fun b => .ok (k a b)
  else .error .slot

/-- SI. -/
def si (k : Fin 32 → SSrc → BitVec 11 → Instr) (w : Nat) : Except DecErr Instr :=
  (ssrcOf (fld w 11 6)).bind fun a => .ok (k (wD w) a (BitVec.ofNat 11 (fld w 0 11)))

/-- The address sources a and b of a scalar access. -/
def srMem (k : SSrc → SSrc → Instr) (w : Nat) : Except DecErr Instr :=
  (ssrcOf (fld w 11 6)).bind fun a => (ssrcOf (fld w 5 6)).bind fun b => .ok (k a b)

/-- Opcodes of class SCL (R36 Table 2-7). -/
def decodeScl (w : Nat) : Nat → Except DecErr Instr
  | 0x00 => sr3 .add w | 0x01 => sr3 .sub w | 0x02 => sr3 .and w | 0x03 => sr3 .or w
  | 0x04 => sr3 .xor w | 0x05 => sr3 .andn w | 0x06 => sr3 .shl w | 0x07 => sr3 .shr w
  | 0x08 => sr3 .sar w | 0x09 => sr3 .mul w | 0x0A => sr3 .mulh w | 0x0B => sr3 .mulhu w
  | 0x0C => sr3 .div w | 0x0D => sr3 .divu w | 0x0E => sr3 .rem w | 0x0F => sr3 .remu w
  | 0x10 => sr3 .min w | 0x11 => sr3 .max w | 0x12 => sr3 .minu w | 0x13 => sr3 .maxu w
  | 0x14 => sr2 .clz w | 0x15 => sr2 .cls w | 0x16 => sr2 .popc w
  | 0x17 =>
    if fld w 1 4 = 0 then srMem (fun a b => .ext (wD w) a b (fld w 0 1 == 1)) w else .error .slot
  | 0x18 => si .addi w | 0x19 => si .andi w | 0x1A => si .ori w | 0x1B => si .xori w
  | 0x1C => si .shli w | 0x1D => si .shri w | 0x1E => si .sari w
  | 0x1F => .ok (.lih (wD w) (BitVec.ofNat 17 (fld w 0 17)))
  | 0x20 =>
    if fld w 21 1 = 0 ∧ fld w 3 2 = 0 then
      (Cond.ofCode (fld w 0 3)).bind fun c => srMem (fun a b => .cmp (wP w) a b c) w
    else .error .slot
  | 0x21 =>
    if fld w 21 1 = 0 then
      (Cond.ofCode (fld w 8 3)).bind fun c =>
        (ssrcOf (fld w 11 6)).bind fun a => .ok (.cmpi (wP w) a c (BitVec.ofNat 8 (fld w 0 8)))
    else .error .slot
  | 0x22 =>
    srMem (fun a b => .sel (wD w) a b (fld w 4 1 == 1) (Fin.ofNat 16 (fld w 0 4))) w
  | 0x23 =>
    if fld w 21 1 = 0 ∧ fld w 15 2 = 0 ∧ fld w 9 2 = 0 ∧ fld w 3 2 = 0 then
      .ok (.plog (wP w) (Fin.ofNat 16 (fld w 11 4)) (Fin.ofNat 16 (fld w 5 4)) (.ofCode (fld w 0 3)))
    else .error .slot
  | 0x24 =>
    if fld w 0 2 = 0 ∧ ¬ (fld w 3 2 = 3 ∧ fld w 2 1 = 1) then
      srMem (fun a b => .ld (wD w) a b (.ofCode (fld w 3 2)) (fld w 2 1 == 1)) w
    else .error .slot
  | 0x25 =>
    if fld w 0 3 = 0 then srMem (fun a b => .st (wD w) a b (.ofCode (fld w 3 2))) w
    else .error .slot
  | 0x26 =>
    (Scope.ofCode (fld w 0 3)).bind fun o =>
      srMem (fun a b => .ldAcq (wD w) a b (.ofCode (fld w 3 2)) o) w
  | 0x27 =>
    (Scope.ofCode (fld w 0 3)).bind fun o =>
      srMem (fun a b => .stRel (wD w) a b (.ofCode (fld w 3 2)) o) w
  | 0x28 => sr2 .spcq w
  | 0x29 =>
    (CastKind.ofCode (fld w 0 5)).bind fun k =>
      if k = .toLocal ∧ fld w 5 6 ≠ 0 then .error .slot
      else srMem (fun a b => .spcast (wD w) a b k) w
  | 0x2A =>
    if fld w 20 2 = 0 ∧ fld w 1 10 = 0 then
      (ssrcOf (fld w 11 6)).bind fun a => .ok (.xlt (Fin.ofNat 8 (fld w 17 3)) a (fld w 0 1 == 1))
    else .error .slot
  | 0x2B => srAB .setmf w | 0x2C => srAB .setvf w
  | 0x2D =>
    if fld w 11 6 = 0 then (SysReg.ofNumber (fld w 0 11)).bind fun n => .ok (.mfs (wD w) n)
    else .error .slot
  | 0x2E =>
    if fld w 17 5 = 0 then
      (ssrcOf (fld w 11 6)).bind fun a =>
        (SysReg.ofNumber (fld w 0 11)).bind fun n => .ok (.mts a n)
    else .error .slot
  | 0x2F => srAB .chk w
  | 0x30 =>
    if fld w 5 6 = 0 then
      (TinfoSel.ofCode (fld w 0 5)).bind fun f =>
        (ssrcOf (fld w 11 6)).bind fun a => .ok (.tinfo (wD w) a f)
    else .error .slot
  | 0x31 => srAB .tsets w
  | 0x32 => sr3 .rng w
  | _ => .error .slot

/-- VR with two vector sources and a mask mode. -/
def vr3 (k : Fin 32 → VSrc → VSrc → ElemTy → MaskMode → Instr) (w : Nat) : Except DecErr Instr :=
  (MaskMode.ofCode (fld w 0 2)).bind fun m =>
    (vsrcOf (fld w 11 6)).bind fun a => (vsrcOf (fld w 5 6)).bind fun b =>
      .ok (k (wD w) a b (wT w) m)

/-- VR with one vector source, b zero, and a mask mode. -/
def vr2 (k : Fin 32 → VSrc → ElemTy → MaskMode → Instr) (w : Nat) : Except DecErr Instr :=
  if fld w 5 6 = 0 then
    (MaskMode.ofCode (fld w 0 2)).bind fun m =>
      (vsrcOf (fld w 11 6)).bind fun a => .ok (k (wD w) a (wT w) m)
  else .error .slot

/-- VR with a vector and a scalar source and a mask mode. -/
def vrS (k : Fin 32 → VSrc → SSrc → ElemTy → MaskMode → Instr) (w : Nat) : Except DecErr Instr :=
  (MaskMode.ofCode (fld w 0 2)).bind fun m =>
    (vsrcOf (fld w 11 6)).bind fun a => (ssrcOf (fld w 5 6)).bind fun b =>
      .ok (k (wD w) a b (wT w) m)

/-- VI. -/
def vi (k : Fin 32 → VSrc → BitVec 6 → ElemTy → MaskMode → Instr) (w : Nat) : Except DecErr Instr :=
  (MaskMode.ofCode (fld w 0 2)).bind fun m =>
    (vsrcOf (fld w 11 6)).bind fun a => .ok (k (wD w) a (BitVec.ofNat 6 (fld w 5 6)) (wT w) m)

/-- The addressing modes of VLD and VST (R32); h must be zero in the generic modes (R37). -/
def vaddrOf (w : Nat) : Except DecErr VAddr :=
  let h := BitVec.ofNat 8 (fld w 9 8)
  match fld w 0 3 with
  | 0 => .ok (.tile h false)
  | 1 => .ok (.tile h true)
  | 2 => if h = 0 then .ok (.generic false) else .error .slot
  | 3 => if h = 0 then .ok (.generic true) else .error .slot
  | _ => .error .slot

/-- VM of VLD and VST. -/
def vmMem (k : Fin 32 → VAddr → SSrc → Instr) (w : Nat) : Except DecErr Instr :=
  (vaddrOf w).bind fun ad => (ssrcOf (fld w 3 6)).bind fun a => .ok (k (wD w) ad a)

/-- VM of VLDX and VSTX: tile modes only (07_vector R197). -/
def vmIdx (k : Fin 32 → BitVec 8 → VSrc → Bool → Instr) (w : Nat) : Except DecErr Instr :=
  if fld w 1 2 = 0 then
    (vsrcOf (fld w 3 6)).bind fun a =>
      .ok (k (wD w) (BitVec.ofNat 8 (fld w 9 8)) a (fld w 0 1 == 1))
  else .error .slot

/-- Opcodes of class VEC (R36 Table 2-8). -/
def decodeVec (w : Nat) : Nat → Except DecErr Instr
  | 0x00 => vr3 .vadd w | 0x01 => vr3 .vsub w | 0x02 => vr3 .vadds w | 0x03 => vr3 .vsubs w
  | 0x04 => vr3 .vmul w | 0x05 => vr3 .vmulhr w | 0x06 => vr3 .vmin w | 0x07 => vr3 .vmax w
  | 0x08 => vr2 .vabs w | 0x09 => vr2 .vneg w
  | 0x0A => vr3 .vand w | 0x0B => vr3 .vor w | 0x0C => vr3 .vxor w
  | 0x0D => vr3 .vshl w | 0x0E => vr3 .vshr w | 0x0F => vr3 .vsar w
  | 0x10 => vi .vshli w | 0x11 => vi .vsari w
  | 0x12 => vrS .vrshr w | 0x13 => vrS .vcvt w
  | 0x14 =>
    (vsrcOf (fld w 11 6)).bind fun a => (vsrcOf (fld w 5 6)).bind fun b =>
      .ok (.vcmp (wD w) a b (wT w) (.ofCode (fld w 0 2)))
  | 0x15 =>
    if fld w 0 2 = 0 then
      (vsrcOf (fld w 11 6)).bind fun a => (vsrcOf (fld w 5 6)).bind fun b =>
        .ok (.vsel (wD w) a b (wT w))
    else .error .slot
  | 0x16 =>
    if fld w 5 6 = 0 ∧ fld w 0 2 ≠ 1 then
      (MaskMode.ofCode (fld w 0 2)).bind fun m =>
        (ssrcOf (fld w 11 6)).bind fun a => .ok (.vbcast (wD w) a (wT w) m)
    else .error .slot
  | 0x17 =>
    if fld w 0 2 = 0 then
      (vsrcOf (fld w 11 6)).bind fun a => (ssrcOf (fld w 5 6)).bind fun b =>
        .ok (.vextr (wD w) a b (wT w))
    else .error .slot
  | 0x18 => if (wT w).isNibble then .error .slot else vr3 .vperm w
  | 0x19 => vrS .vslide w
  | 0x1A => vr2 .vrsum w | 0x1B => vr2 .vrmax w | 0x1C => vr2 .vrmin w | 0x1D => vr2 .vscan w
  | 0x1E => if (wT w).isWord then .error .slot else vr3 .vdot w
  | 0x1F => vr2 .vcls w | 0x20 => vr2 .vcensus w
  | 0x21 => vmMem .vld w | 0x22 => vmMem .vst w
  | 0x23 => vmIdx .vldx w | 0x24 => vmIdx .vstx w
  | 0x25 =>
    if fld w 17 5 = 0 ∧ fld w 5 6 = 0 ∧ fld w 0 2 = 0 then
      (vsrcOf (fld w 11 6)).bind fun a => .ok (.mpush a (wT w))
    else .error .slot
  | 0x26 => if fld w 0 22 = 0 then .ok .minv else .error .slot
  | 0x27 => if fld w 0 22 = 0 then .ok .mpop else .error .slot
  | 0x28 => if fld w 5 12 = 0 ∧ fld w 0 2 = 0 then .ok (.mget (wD w) (wT w)) else .error .slot
  | 0x29 =>
    if fld w 9 2 = 0 ∧ (wT w).isNibble = false then
      (MaskMode.ofCode (fld w 0 2)).bind fun m =>
        (vsrcOf (fld w 11 6)).bind fun a =>
          .ok (.vfn (wD w) a (Fin.ofNat 16 (fld w 5 4)) (wT w) m)
    else .error .slot
  | 0x2A =>
    if fld w 21 1 = 0 ∧ fld w 20 1 = 1 then
      match fld w 0 3 with
      | 0 =>
        (ssrcOf (fld w 3 6)).bind fun a =>
          .ok (.vfnld (Fin.ofNat 8 (fld w 17 3)) (.tile (BitVec.ofNat 8 (fld w 9 8))) a)
      | 2 =>
        if fld w 9 8 = 0 then
          (ssrcOf (fld w 3 6)).bind fun a =>
            .ok (.vfnld (Fin.ofNat 8 (fld w 17 3)) .generic a)
        else .error .slot
      | _ => .error .slot
    else .error .slot
  | 0x2B => vr3 .vdiv w
  | 0x2C =>
    if fld w 18 4 = 0 ∧ fld w 0 3 = 0 then
      (ssrcOf (fld w 3 6)).bind fun a =>
        .ok (.vopt (if fld w 17 1 = 0 then .sgdm else .lion) (BitVec.ofNat 8 (fld w 9 8)) a)
    else .error .slot
  | 0x2D =>
    if fld w 17 5 = 0 ∧ fld w 0 5 = 0 then
      (vsrcOf (fld w 11 6)).bind fun a => (vsrcOf (fld w 5 6)).bind fun b => .ok (.vchk a b)
    else .error .slot
  | 0x2E => if fld w 0 17 = 0 then .ok (.vres (wD w)) else .error .slot
  | _ => .error .slot

/-- Opcodes of class MTX (R36 Table 2-9; fields by 09_matrix Table 9-3). -/
def decodeMtx (w : Nat) : Nat → Except DecErr Instr
  | 0x00 => .ok (.mma (wX w) (wH w) (wK w))
  | 0x01 => .ok (.mmaz (wX w) (wH w) (wK w))
  | 0x02 => .ok (.mmat (wX w) (wH w) (wK w))
  | 0x03 => .ok (.mmbt (wX w) (wH w) (wK w))
  | 0x04 =>
    if fld w 6 2 = 0 then .ok (.mmac (wX w) (wH w) (Fin.ofNat 64 (fld w 0 6))) else .error .slot
  | 0x05 =>
    if fld w 6 2 = 0 ∧ fld w 0 6 ≤ 40 then .ok (.mout (wX w) (wH w) (Fin.ofNat 41 (fld w 0 6)))
    else .error .slot
  | 0x06 => if shiftInRange (wK w) then .ok (.mload (wX w) (wH w) (wK w)) else .error .slot
  | 0x07 => if shiftInRange (wK w) then .ok (.madd (wX w) (wH w) (wK w)) else .error .slot
  | 0x08 =>
    if fld w 15 1 = 0 ∧ fld w 7 1 = 0 then
      .ok (.mzero (wX w) (Fin.ofNat 128 (fld w 8 7)) (Fin.ofNat 128 (fld w 0 7)))
    else .error .slot
  | 0x09 => if fld w 0 16 = 0 then .ok (.mcens (wX w)) else .error .slot
  | 0x0A => if fld w 1 7 = 0 then .ok (.mbias (wX w) (wH w) (fld w 0 1 == 1)) else .error .slot
  | _ => .error .slot

/-- The three scalar sources of form C. -/
def c3 (k : Fin 2 → SSrc → SSrc → SSrc → Instr) (w : Nat) : Except DecErr Instr :=
  (ssrcOf (fld w 15 6)).bind fun a => (ssrcOf (fld w 9 6)).bind fun b =>
    (ssrcOf (fld w 3 6)).bind fun c => .ok (k (Fin.ofNat 2 (fld w 21 1)) a b c)

/-- Opcodes of class CPY (R36 Table 2-10; fields by 10_copy Table 10-4). -/
def decodeCpy (w : Nat) : Nat → Except DecErr Instr
  | 0x00 => (CopyMode.ofCode (fld w 0 3)).bind fun f => c3 (fun n a b c => .copy n a b c f) w
  | 0x01 => if fld w 0 3 = 0 then c3 .copyg w else .error .slot
  | 0x02 => if fld w 0 3 = 0 then c3 .copys w else .error .slot
  | 0x03 => (RedOp.ofCode (fld w 0 3)).bind fun f => c3 (fun n a b c => .copyr n a b c f) w
  | 0x04 => (SaeOp.ofCode (fld w 0 3)).bind fun f => c3 (fun n a b c => .saeq n a b c f) w
  | 0x05 => (SaeOp.ofCode (fld w 0 3)).bind fun f => c3 (fun n a b c => .saef n a b c f) w
  | 0x06 => c3 (fun n a b c => .atom n a b c (.ofCode (fld w 0 3))) w
  | 0x07 =>
    if fld w 4 5 = 0 then
      (Scope.ofCode (fld w 0 3)).bind fun f =>
        (ssrcOf (fld w 15 6)).bind fun a => (ssrcOf (fld w 9 6)).bind fun b =>
          .ok (.signal (Fin.ofNat 2 (fld w 21 1)) a b (fld w 3 1 == 1) f)
    else .error .slot
  | 0x08 =>
    if fld w 1 8 = 0 then
      (ssrcOf (fld w 15 6)).bind fun a => (ssrcOf (fld w 9 6)).bind fun b =>
        .ok (.pgreq (Fin.ofNat 2 (fld w 21 1)) a b (fld w 0 1 == 1))
    else .error .slot
  | 0x09 => if fld w 0 3 = 0 then c3 .migr w else .error .slot
  | 0x0A =>
    if fld w 1 8 = 0 ∧ ¬ (fld w 0 1 = 1 ∧ fld w 15 6 ≠ 0) then
      (ssrcOf (fld w 15 6)).bind fun a => (ssrcOf (fld w 9 6)).bind fun b =>
        .ok (.cgld (Fin.ofNat 2 (fld w 21 1)) a b (fld w 0 1 == 1))
    else .error .slot
  | _ => .error .slot

/-- A branch-target number (R33). -/
def wB (w : Nat) : Fin 8 := Fin.ofNat 8 (fld w 19 3)

/-- Opcodes of class CTL (R33 Table 2-5, R36 Table 2-11). -/
def decodeCtl (w : Nat) : Nat → Except DecErr Instr
  | 0x00 => if fld w 0 22 = 0 then .ok .nop else .error .slot
  | 0x01 => .ok (.prep (wB w) (BitVec.ofNat 19 (fld w 0 19)))
  | 0x02 =>
    if fld w 0 13 = 0 then (ssrcOf (fld w 13 6)).bind fun a => .ok (.prepr (wB w) a)
    else .error .slot
  | 0x03 =>
    if fld w 0 13 = 0 ∧ ¬ (fld w 13 1 = 1 ∧ fld w 14 5 ≠ 0) then
      .ok (.br (wB w) (Fin.ofNat 16 (fld w 15 4)) (fld w 14 1 == 1) (fld w 13 1 == 1))
    else .error .slot
  | 0x04 => if fld w 0 19 = 0 then .ok (.bru (wB w)) else .error .slot
  | 0x05 => if fld w 0 19 = 0 then .ok (.call (wB w)) else .error .slot
  | 0x06 => if fld w 0 22 = 0 then .ok .ret else .error .slot
  | 0x07 =>
    if fld w 0 8 = 0 then
      (ssrcOf (fld w 14 6)).bind fun a =>
        .ok (.loop (Fin.ofNat 4 (fld w 20 2)) a (Fin.ofNat 64 (fld w 8 6)))
    else .error .slot
  | 0x08 =>
    if fld w 0 5 = 0 then
      (ssrcOf (fld w 14 6)).bind fun a =>
        .ok (.loops (Fin.ofNat 4 (fld w 20 2)) a (Fin.ofNat 64 (fld w 8 6))
          (Fin.ofNat 8 (fld w 5 3)))
    else .error .slot
  | 0x09 =>
    if fld w 0 6 = 0 then
      .ok (.wait (Fin.ofNat 16 (fld w 18 4)) (Fin.ofNat 16 (fld w 14 4)) (Fin.ofNat 16 (fld w 10 4))
        (Fin.ofNat 16 (fld w 6 4)))
    else .error .slot
  | 0x0A => if fld w 0 20 = 0 then .ok (.sync (Fin.ofNat 4 (fld w 20 2))) else .error .slot
  | 0x0B =>
    if fld w 0 19 = 0 then (Scope.ofCode (fld w 19 3)).bind fun o => .ok (.fence o)
    else .error .slot
  | 0x0C => if fld w 0 22 = 0 then .ok .fenceLite else .error .slot
  | 0x0D =>
    if fld w 0 19 = 0 then (Scope.ofCode (fld w 19 3)).bind fun o => .ok (.fenceHeavy o)
    else .error .slot
  | 0x0E => if fld w 16 6 = 0 then .ok (.brk (BitVec.ofNat 16 (fld w 0 16))) else .error .slot
  | _ => .error .slot

/-- Opcodes of class PFX (R36 Table 2-12, R42, R43). -/
def decodePfx (w : Nat) : Nat → Except DecErr Instr
  | 0x00 => .ok (.limm (BitVec.ofNat 22 (fld w 0 22)))
  | 0x01 =>
    if fld w 8 2 = 0 then
      (RepSel.ofCode (fld w 0 2)).bind fun e0 => (RepSel.ofCode (fld w 2 2)).bind fun e1 =>
        (RepSel.ofCode (fld w 4 2)).bind fun e2 => (RepSel.ofCode (fld w 6 2)).bind fun e3 =>
          .ok (.rept (BitVec.ofNat 12 (fld w 10 12)) e0 e1 e2 e3)
    else .error .slot
  | _ => .error .slot

/-- Opcodes of class TSK (R36 Table 2-13). -/
def decodeTsk (w : Nat) : Nat → Except DecErr Instr
  | 0x00 =>
    if fld w 4 1 = 0 then
      srMem (fun a b => .talloc (wD w) a b (if fld w 3 1 = 0 then .tile else .ring)
        (.ofCode (fld w 0 3))) w
    else .error .slot
  | 0x01 =>
    if fld w 17 5 = 0 ∧ fld w 0 11 = 0 then (ssrcOf (fld w 11 6)).bind fun a => .ok (.tfree a)
    else .error .slot
  | 0x02 => srAB .tlink w
  | 0x03 =>
    if fld w 5 12 = 0 then (TidSel.ofCode (fld w 0 5)).bind fun f => .ok (.tid (wD w) f)
    else .error .slot
  | 0x04 => sr2 .spawn w
  | 0x05 => sr2 .fork w
  | 0x06 => sr2 .join w
  | 0x07 => if fld w 0 22 = 0 then .ok .yield else .error .slot
  | 0x08 => if fld w 0 22 = 0 then .ok .endTask else .error .slot
  | 0x09 => if fld w 17 5 = 0 then .ok (.trap (BitVec.ofNat 17 (fld w 0 17))) else .error .slot
  | 0x0A =>
    if fld w 17 5 = 0 ∧ fld w 4 7 = 0 then
      (ssrcOf (fld w 11 6)).bind fun a => .ok (.pipew a (Fin.ofNat 16 (fld w 0 4)))
    else .error .slot
  | 0x0B => if fld w 4 13 = 0 then .ok (.piper (wD w) (Fin.ofNat 16 (fld w 0 4))) else .error .slot
  | 0x0C => if fld w 0 22 = 0 then .ok .publish else .error .slot
  | 0x0D =>
    if fld w 17 5 = 0 ∧ fld w 1 4 = 0 ∧ ¬ (fld w 0 1 = 1 ∧ fld w 11 6 ≠ 0) then
      srMem (fun a b => .rvset a b (fld w 0 1 == 1)) w
    else .error .slot
  | _ => .error .slot

/-- The instruction of one slot word, its stop bit aside (R27 Tables 2-1 and 2-2). -/
def decodeSlot (w : Nat) : Except DecErr Instr :=
  match fld w 28 3 with
  | 0 => decodeScl w (fld w 22 6)
  | 1 => decodeVec w (fld w 22 6)
  | 2 => decodeMtx w (fld w 22 6)
  | 3 => decodeCpy w (fld w 22 6)
  | 4 => decodeCtl w (fld w 22 6)
  | 5 => decodePfx w (fld w 22 6)
  | 6 => decodeTsk w (fld w 22 6)
  | _ => .error .slot

/-- A slot word's stop bit (R27). -/
def stopBit (w : Nat) : Bool := fld w 31 1 == 1

/-! ### The encoder -/

/-- The bits of a truth value. -/
def bitOf (b : Bool) : Nat := if b then 1 else 0

/-- Class and opcode. -/
def head (cls op : Nat) : Nat := cls * 2 ^ 28 + op * 2 ^ 22

/-- SR, VR and VI operand bits. -/
def ops3 (d a b f : Nat) : Nat := d * 2 ^ 17 + a * 2 ^ 11 + b * 2 ^ 5 + f

/-- SI operand bits. -/
def opsI (d a i : Nat) : Nat := d * 2 ^ 17 + a * 2 ^ 11 + i

/-- The t and m fields of VR and VI. -/
def tm (t : ElemTy) (m : MaskMode) : Nat := t.code * 4 + m.code

/-- The h and k fields of VM. -/
def VAddr.bits : VAddr → Nat
  | .tile h masked => h.toNat * 2 ^ 9 + bitOf masked
  | .generic masked => 2 + bitOf masked

/-- TM operand bits. -/
def opsT (x h k : Nat) : Nat := x * 2 ^ 16 + h * 2 ^ 8 + k

/-- C operand bits. -/
def opsC (n a b c f : Nat) : Nat := n * 2 ^ 21 + a * 2 ^ 15 + b * 2 ^ 9 + c * 2 ^ 3 + f

/-- The slot word of an instruction without its stop bit; none for an event. -/
def encode : Instr → Option Nat
  | .add d a b => some (head 0 0x0 + ops3 d.val a.code b.code 0)
  | .sub d a b => some (head 0 0x1 + ops3 d.val a.code b.code 0)
  | .and d a b => some (head 0 0x2 + ops3 d.val a.code b.code 0)
  | .or d a b => some (head 0 0x3 + ops3 d.val a.code b.code 0)
  | .xor d a b => some (head 0 0x4 + ops3 d.val a.code b.code 0)
  | .andn d a b => some (head 0 0x5 + ops3 d.val a.code b.code 0)
  | .shl d a b => some (head 0 0x6 + ops3 d.val a.code b.code 0)
  | .shr d a b => some (head 0 0x7 + ops3 d.val a.code b.code 0)
  | .sar d a b => some (head 0 0x8 + ops3 d.val a.code b.code 0)
  | .mul d a b => some (head 0 0x9 + ops3 d.val a.code b.code 0)
  | .mulh d a b => some (head 0 0xa + ops3 d.val a.code b.code 0)
  | .mulhu d a b => some (head 0 0xb + ops3 d.val a.code b.code 0)
  | .div d a b => some (head 0 0xc + ops3 d.val a.code b.code 0)
  | .divu d a b => some (head 0 0xd + ops3 d.val a.code b.code 0)
  | .rem d a b => some (head 0 0xe + ops3 d.val a.code b.code 0)
  | .remu d a b => some (head 0 0xf + ops3 d.val a.code b.code 0)
  | .min d a b => some (head 0 0x10 + ops3 d.val a.code b.code 0)
  | .max d a b => some (head 0 0x11 + ops3 d.val a.code b.code 0)
  | .minu d a b => some (head 0 0x12 + ops3 d.val a.code b.code 0)
  | .maxu d a b => some (head 0 0x13 + ops3 d.val a.code b.code 0)
  | .clz d a => some (head 0 0x14 + ops3 d.val a.code 0 0)
  | .cls d a => some (head 0 0x15 + ops3 d.val a.code 0 0)
  | .popc d a => some (head 0 0x16 + ops3 d.val a.code 0 0)
  | .ext d a b sgn => some (head 0 0x17 + ops3 d.val a.code b.code (bitOf sgn))
  | .addi d a imm => some (head 0 0x18 + opsI d.val a.code imm.toNat)
  | .andi d a imm => some (head 0 0x19 + opsI d.val a.code imm.toNat)
  | .ori d a imm => some (head 0 0x1a + opsI d.val a.code imm.toNat)
  | .xori d a imm => some (head 0 0x1b + opsI d.val a.code imm.toNat)
  | .shli d a imm => some (head 0 0x1c + opsI d.val a.code imm.toNat)
  | .shri d a imm => some (head 0 0x1d + opsI d.val a.code imm.toNat)
  | .sari d a imm => some (head 0 0x1e + opsI d.val a.code imm.toNat)
  | .lih d imm => some (head 0 0x1F + opsI d.val 0 imm.toNat)
  | .cmp p a b c => some (head 0 0x20 + ops3 p.val a.code b.code c.code)
  | .cmpi p a c imm => some (head 0 0x21 + opsI p.val a.code (c.code * 256 + imm.toNat))
  | .sel d a b neg p => some (head 0 0x22 + ops3 d.val a.code b.code (bitOf neg * 16 + p.val))
  | .plog d a b o => some (head 0 0x23 + ops3 d.val a.val b.val o.code)
  | .ld d a b z sgn => some (head 0 0x24 + ops3 d.val a.code b.code (z.code * 8 + bitOf sgn * 4))
  | .st d a b z => some (head 0 0x25 + ops3 d.val a.code b.code (z.code * 8))
  | .ldAcq d a b z o => some (head 0 0x26 + ops3 d.val a.code b.code (z.code * 8 + o.code))
  | .stRel d a b z o => some (head 0 0x27 + ops3 d.val a.code b.code (z.code * 8 + o.code))
  | .spcq d a => some (head 0 0x28 + ops3 d.val a.code 0 0)
  | .spcast d a b k => some (head 0 0x29 + ops3 d.val a.code b.code k.code)
  | .xlt x a w => some (head 0 0x2A + ops3 x.val a.code 0 (bitOf w))
  | .setmf a b => some (head 0 0x2B + ops3 0 a.code b.code 0)
  | .setvf a b => some (head 0 0x2C + ops3 0 a.code b.code 0)
  | .mfs d n => some (head 0 0x2D + opsI d.val 0 n.number)
  | .mts a n => some (head 0 0x2E + opsI 0 a.code n.number)
  | .chk a b => some (head 0 0x2F + ops3 0 a.code b.code 0)
  | .tinfo d a f => some (head 0 0x30 + ops3 d.val a.code 0 f.code)
  | .tsets a b => some (head 0 0x31 + ops3 0 a.code b.code 0)
  | .rng d a b => some (head 0 0x32 + ops3 d.val a.code b.code 0)
  | .vadd d a b t m => some (head 1 0x0 + ops3 d.val a.code b.code (tm t m))
  | .vsub d a b t m => some (head 1 0x1 + ops3 d.val a.code b.code (tm t m))
  | .vadds d a b t m => some (head 1 0x2 + ops3 d.val a.code b.code (tm t m))
  | .vsubs d a b t m => some (head 1 0x3 + ops3 d.val a.code b.code (tm t m))
  | .vmul d a b t m => some (head 1 0x4 + ops3 d.val a.code b.code (tm t m))
  | .vmulhr d a b t m => some (head 1 0x5 + ops3 d.val a.code b.code (tm t m))
  | .vmin d a b t m => some (head 1 0x6 + ops3 d.val a.code b.code (tm t m))
  | .vmax d a b t m => some (head 1 0x7 + ops3 d.val a.code b.code (tm t m))
  | .vand d a b t m => some (head 1 0xa + ops3 d.val a.code b.code (tm t m))
  | .vor d a b t m => some (head 1 0xb + ops3 d.val a.code b.code (tm t m))
  | .vxor d a b t m => some (head 1 0xc + ops3 d.val a.code b.code (tm t m))
  | .vshl d a b t m => some (head 1 0xd + ops3 d.val a.code b.code (tm t m))
  | .vshr d a b t m => some (head 1 0xe + ops3 d.val a.code b.code (tm t m))
  | .vsar d a b t m => some (head 1 0xf + ops3 d.val a.code b.code (tm t m))
  | .vabs d a t m => some (head 1 0x8 + ops3 d.val a.code 0 (tm t m))
  | .vneg d a t m => some (head 1 0x9 + ops3 d.val a.code 0 (tm t m))
  | .vrsum d a t m => some (head 1 0x1a + ops3 d.val a.code 0 (tm t m))
  | .vrmax d a t m => some (head 1 0x1b + ops3 d.val a.code 0 (tm t m))
  | .vrmin d a t m => some (head 1 0x1c + ops3 d.val a.code 0 (tm t m))
  | .vscan d a t m => some (head 1 0x1d + ops3 d.val a.code 0 (tm t m))
  | .vcls d a t m => some (head 1 0x1f + ops3 d.val a.code 0 (tm t m))
  | .vcensus d a t m => some (head 1 0x20 + ops3 d.val a.code 0 (tm t m))
  | .vshli d a imm t m => some (head 1 0x10 + ops3 d.val a.code imm.toNat (tm t m))
  | .vsari d a imm t m => some (head 1 0x11 + ops3 d.val a.code imm.toNat (tm t m))
  | .vrshr d a b t m => some (head 1 0x12 + ops3 d.val a.code b.code (tm t m))
  | .vcvt d a b t m => some (head 1 0x13 + ops3 d.val a.code b.code (tm t m))
  | .vperm d a b t m => some (head 1 0x18 + ops3 d.val a.code b.code (tm t m))
  | .vslide d a b t m => some (head 1 0x19 + ops3 d.val a.code b.code (tm t m))
  | .vdot d a b t m => some (head 1 0x1e + ops3 d.val a.code b.code (tm t m))
  | .vdiv d a b t m => some (head 1 0x2b + ops3 d.val a.code b.code (tm t m))
  | .vcmp d a b t c => some (head 1 0x14 + ops3 d.val a.code b.code (t.code * 4 + c.code))
  | .vsel d a b t => some (head 1 0x15 + ops3 d.val a.code b.code (t.code * 4))
  | .vbcast d a t m => some (head 1 0x16 + ops3 d.val a.code 0 (tm t m))
  | .vextr d a b t => some (head 1 0x17 + ops3 d.val a.code b.code (t.code * 4))
  | .vld x k a => some (head 1 0x21 + (x.val * 2 ^ 17 + a.code * 2 ^ 3 + k.bits))
  | .vst x k a => some (head 1 0x22 + (x.val * 2 ^ 17 + a.code * 2 ^ 3 + k.bits))
  | .vldx x h a masked => some (head 1 0x23 + (x.val * 2 ^ 17 + h.toNat * 2 ^ 9 + a.code * 2 ^ 3 + bitOf masked))
  | .vstx x h a masked => some (head 1 0x24 + (x.val * 2 ^ 17 + h.toNat * 2 ^ 9 + a.code * 2 ^ 3 + bitOf masked))
  | .mpush a t => some (head 1 0x25 + ops3 0 a.code 0 (t.code * 4))
  | .minv => some (head 1 0x26)
  | .mpop => some (head 1 0x27)
  | .mget d t => some (head 1 0x28 + ops3 d.val 0 0 (t.code * 4))
  | .vfn d a b t m => some (head 1 0x29 + ops3 d.val a.code b.val (tm t m))
  | .vfnld x (.tile h) a =>
    some (head 1 0x2A + ((8 + x.val) * 2 ^ 17 + h.toNat * 2 ^ 9 + a.code * 2 ^ 3))
  | .vfnld x .generic a => some (head 1 0x2A + ((8 + x.val) * 2 ^ 17 + a.code * 2 ^ 3 + 2))
  | .vopt .sgdm h a => some (head 1 0x2C + (h.toNat * 2 ^ 9 + a.code * 2 ^ 3))
  | .vopt .lion h a => some (head 1 0x2C + (2 ^ 17 + h.toNat * 2 ^ 9 + a.code * 2 ^ 3))
  | .vchk a b => some (head 1 0x2D + ops3 0 a.code b.code 0)
  | .vres d => some (head 1 0x2E + ops3 d.val 0 0 0)
  | .mma x h k => some (head 2 0 + opsT x.val h.toNat k.toNat)
  | .mmaz x h k => some (head 2 1 + opsT x.val h.toNat k.toNat)
  | .mmat x h k => some (head 2 2 + opsT x.val h.toNat k.toNat)
  | .mmbt x h k => some (head 2 3 + opsT x.val h.toNat k.toNat)
  | .mmac x h y => some (head 2 4 + opsT x.val h.toNat y.val)
  | .mout x h sh => some (head 2 5 + opsT x.val h.toNat sh.val)
  | .mload x h sh => some (head 2 6 + opsT x.val h.toNat sh.toNat)
  | .madd x h sh => some (head 2 7 + opsT x.val h.toNat sh.toNat)
  | .mzero x r c => some (head 2 8 + opsT x.val r.val c.val)
  | .mcens x => some (head 2 9 + opsT x.val 0 0)
  | .mbias x h col => some (head 2 10 + opsT x.val h.toNat (bitOf col))
  | .copy n a b c f => some (head 3 0 + opsC n.val a.code b.code c.code f.code)
  | .copyr n a b c f => some (head 3 3 + opsC n.val a.code b.code c.code f.code)
  | .saeq n a b c f => some (head 3 4 + opsC n.val a.code b.code c.code f.code)
  | .saef n a b c f => some (head 3 5 + opsC n.val a.code b.code c.code f.code)
  | .atom n a b c f => some (head 3 6 + opsC n.val a.code b.code c.code f.code)
  | .copyg n a b c => some (head 3 1 + opsC n.val a.code b.code c.code 0)
  | .copys n a b c => some (head 3 2 + opsC n.val a.code b.code c.code 0)
  | .migr n a b c => some (head 3 9 + opsC n.val a.code b.code c.code 0)
  | .signal n a b plus f => some (head 3 7 + opsC n.val a.code b.code (bitOf plus) f.code)
  | .pgreq n a b w => some (head 3 8 + opsC n.val a.code b.code 0 (bitOf w))
  | .cgld n a b clr => some (head 3 10 + opsC n.val a.code b.code 0 (bitOf clr))
  | .nop => some (head 4 0)
  | .prep b off => some (head 4 1 + (b.val * 2 ^ 19 + off.toNat))
  | .prepr b a => some (head 4 2 + (b.val * 2 ^ 19 + a.code * 2 ^ 13))
  | .br b p neg always => some (head 4 3 + (b.val * 2 ^ 19 + p.val * 2 ^ 15 + bitOf neg * 2 ^ 14 + bitOf always * 2 ^ 13))
  | .bru b => some (head 4 4 + b.val * 2 ^ 19)
  | .call b => some (head 4 5 + b.val * 2 ^ 19)
  | .ret => some (head 4 6)
  | .loop l a len => some (head 4 7 + (l.val * 2 ^ 20 + a.code * 2 ^ 14 + len.val * 2 ^ 8))
  | .loops l a len stages => some (head 4 8 + (l.val * 2 ^ 20 + a.code * 2 ^ 14 + len.val * 2 ^ 8 + stages.val * 2 ^ 5))
  | .wait w x y z => some (head 4 9 + (w.val * 2 ^ 18 + x.val * 2 ^ 14 + y.val * 2 ^ 10 + z.val * 2 ^ 6))
  | .sync l => some (head 4 10 + l.val * 2 ^ 20)
  | .fence o => some (head 4 11 + o.code * 2 ^ 19)
  | .fenceLite => some (head 4 12)
  | .fenceHeavy o => some (head 4 13 + o.code * 2 ^ 19)
  | .brk c => some (head 4 14 + c.toNat)
  | .limm p => some (head 5 0 + p.toNat)
  | .rept c e0 e1 e2 e3 => some (head 5 1 + (c.toNat * 2 ^ 10 + e3.code * 64 + e2.code * 16 + e1.code * 4 + e0.code))
  | .talloc d a b l t =>
    some (head 6 0 + ops3 d.val a.code b.code ((if l = .tile then 0 else 8) + t.code))
  | .tfree a => some (head 6 1 + ops3 0 a.code 0 0)
  | .tlink a b => some (head 6 2 + ops3 0 a.code b.code 0)
  | .tid d f => some (head 6 3 + ops3 d.val 0 0 f.code)
  | .spawn d a => some (head 6 4 + ops3 d.val a.code 0 0)
  | .fork d a => some (head 6 5 + ops3 d.val a.code 0 0)
  | .join d a => some (head 6 6 + ops3 d.val a.code 0 0)
  | .yield => some (head 6 7)
  | .endTask => some (head 6 8)
  | .trap c => some (head 6 9 + c.toNat)
  | .pipew a p => some (head 6 10 + ops3 0 a.code 0 p.val)
  | .piper d p => some (head 6 11 + ops3 d.val 0 0 p.val)
  | .publish => some (head 6 12)
  | .rvset a b clr => some (head 6 13 + ops3 0 a.code b.code (bitOf clr))
  | _ => none
/-- The slot word of an instruction with its stop bit. A prefix is encoded without one (R41). -/
def encodeWord (i : Instr) (stop : Bool) : Option Nat :=
  (encode i).map fun w => w + (if stop then 2 ^ 31 else 0)

/-! ### Bundles -/

/-- A fault found while decoding a bundle, with the slot index reported (R38). -/
structure BundleErr where
  code : FaultCode
  slot : Nat
  deriving DecidableEq, Repr

/-- The words of a bundle: up to and including the first word with a stop bit, among the words that
instruction memory still holds from the bundle address on (R28, R29). None when the extent cannot be
formed. -/
def takeBundle : Nat → List Nat → Option (List Nat)
  | 0, _ => none
  | _ + 1, [] => none
  | k + 1, w :: ws => if stopBit w then some [w] else (takeBundle k ws).map (w :: ·)

/-- The extent of a bundle (R29). The slot index of a failure is that of the last word examined.
DESIGN CHOICE (notes/assumptions/62). -/
def bundleExtent (ws : List Nat) : Except BundleErr (List Nat) :=
  match takeBundle 8 ws with
  | some b => .ok b
  | none => .error ⟨.illegalBundle, min 8 ws.length - 1⟩

/-- Each slot in ascending slot index (R38 step 2). -/
def decodeSlots : Nat → List Nat → Except BundleErr (List Instr)
  | _, [] => .ok []
  | k, w :: ws =>
    match decodeSlot w with
    | .ok i => (decodeSlots (k + 1) ws).map (i :: ·)
    | .error .slot => .error ⟨.illegalSlot, k⟩
    | .error .operand => .error ⟨.illegalOperand, k⟩

/-- The acceptors of LIMM (R42). -/
def Instr.takesLimm : Instr → Bool
  | .addi .. | .andi .. | .ori .. | .xori .. | .shli .. | .shri .. | .sari .. | .cmpi ..
  | .vshli .. | .vsari .. => true
  | _ => false

/-- The acceptors of REPEAT (R43). -/
def Instr.takesRepeat : Instr → Bool
  | .mma .. | .mmaz .. | .mmat .. | .mmbt .. | .mmac .. | .mout .. | .mload .. | .madd ..
  | .mzero .. | .mbias .. => true
  | _ => false

/-- LIMM and REPEAT. -/
def Instr.isLimm : Instr → Bool
  | .limm _ => true
  | _ => false

/-- The REPEAT prefix. -/
def Instr.isRepeat : Instr → Bool
  | .rept .. => true
  | _ => false

/-- The prefix rules (R41): the slot index of the first offending prefix. `last` is the slot index of
the word with the stop bit. -/
def prefixRules (last : Nat) : Nat → Bool → Bool → List Instr → Option Nat
  | _, _, _, [] => none
  | k, l, r, i :: is =>
    if i.isLimm then
      if k = last ∨ l ∨ ¬ (is.head?.any Instr.takesLimm) then some k
      else prefixRules last (k + 1) true r is
    else if i.isRepeat then
      if k = last ∨ r ∨ ¬ (is.head?.any Instr.takesRepeat) then some k
      else prefixRules last (k + 1) l true is
    else prefixRules last (k + 1) l r is

/-- An SI immediate as its acceptor sees it (R42). -/
def immSI (p : Option (BitVec 22)) (imm : BitVec 11) : Int :=
  match p with
  | none => imm.toInt
  | some p => (p ++ imm).toInt

/-- A CMPI immediate (R42). -/
def immCmpi (p : Option (BitVec 22)) (imm : BitVec 8) : Int :=
  match p with
  | none => imm.toInt
  | some p => (p ++ imm).toInt

/-- A VI immediate (R42). -/
def immVI (p : Option (BitVec 22)) (imm : BitVec 6) : Int :=
  match p with
  | none => imm.toInt
  | some p => (p ++ imm).toInt

/-- The width of an element type (03_numbers Table 3-1). -/
def ElemTy.width : ElemTy → Nat
  | .i8 | .n8 => 8
  | .i16 | .n16 => 16
  | .i32 | .n32 => 32
  | .i4 | .n4 => 4

/-- The immediates whose limit applies to the value after any LIMM (R38 step 3; R114, R184). -/
def immInRange (p : Option (BitVec 22)) : Instr → Bool
  | .shli _ _ i | .shri _ _ i | .sari _ _ i => decide (0 ≤ immSI p i ∧ immSI p i ≤ 63)
  | .vshli _ _ i t _ | .vsari _ _ i t _ => decide (0 ≤ immVI p i ∧ immVI p i ≤ t.width)
  | _ => true

/-- The first slot whose immediate is out of range. -/
def immRules : Nat → Option (BitVec 22) → List Instr → Option Nat
  | _, _, [] => none
  | k, _, .limm v :: is => immRules (k + 1) (some v) is
  | k, p, i :: is => if immInRange p i then immRules (k + 1) none is else some k

/-- The class of an instruction (R27 Table 2-2). -/
def Instr.slotClass (i : Instr) : Nat := (encode i).getD 0 / 2 ^ 28

/-- The copy channel of a CPY slot. -/
def Instr.channel : Instr → Option (Fin 2)
  | .copy n .. | .copyg n .. | .copys n .. | .copyr n .. | .saeq n .. | .saef n .. | .atom n ..
  | .signal n .. | .pgreq n .. | .migr n .. | .cgld n .. => some n
  | _ => none

/-- A named destination (R39). -/
inductive Dest
  | g (n : Fin 32)
  | v (n : Fin 32)
  | p (n : Fin 16)
  | lc (n : Fin 4)
  | tx (n : Fin 8)
  deriving DecidableEq, Repr

/-- The named destination of a slot (R36 Tables 2-7 to 2-13). A d of g0 or v0 names none. -/
def Instr.dest : Instr → Option Dest
  | .add d .. | .sub d .. | .and d .. | .or d .. | .xor d .. | .andn d .. | .shl d .. | .shr d ..
  | .sar d .. | .mul d .. | .mulh d .. | .mulhu d .. | .div d .. | .divu d .. | .rem d ..
  | .remu d .. | .min d .. | .max d .. | .minu d .. | .maxu d .. | .clz d .. | .cls d .. | .popc d ..
  | .ext d .. | .addi d .. | .andi d .. | .ori d .. | .xori d .. | .shli d .. | .shri d .. | .sari d ..
  | .lih d .. | .sel d .. | .ld d .. | .ldAcq d .. | .spcq d .. | .spcast d .. | .mfs d ..
  | .tinfo d .. | .rng d .. | .vextr d .. | .vrsum d .. | .vrmax d .. | .vrmin d .. | .vcensus d ..
  | .talloc d .. | .tid d .. | .spawn d .. | .fork d .. | .join d .. | .piper d .. =>
    if d = 0 then none else some (.g d)
  | .vadd d .. | .vsub d .. | .vadds d .. | .vsubs d .. | .vmul d .. | .vmulhr d .. | .vmin d ..
  | .vmax d .. | .vabs d .. | .vneg d .. | .vand d .. | .vor d .. | .vxor d .. | .vshl d ..
  | .vshr d .. | .vsar d .. | .vshli d .. | .vsari d .. | .vrshr d .. | .vcvt d .. | .vcmp d ..
  | .vsel d .. | .vbcast d .. | .vperm d .. | .vslide d .. | .vscan d .. | .vdot d .. | .vcls d ..
  | .vld d .. | .vldx d .. | .mget d .. | .vfn d .. | .vdiv d .. | .vres d .. =>
    if d = 0 then none else some (.v d)
  | .cmp p .. | .cmpi p .. | .plog p .. => some (.p p)
  | .xlt x .. => some (.tx x)
  | .loop l .. | .loops l .. => some (.lc l)
  | _ => none

/-- The slot that first exceeds a count: the slots that satisfy `f`, at most `n` of them. -/
def overCount (f : Instr → Bool) (n : Nat) : Nat → List Instr → Option Nat
  | _, [] => none
  | k, i :: is =>
    if f i then
      match n with
      | 0 => some k
      | m + 1 => overCount f m (k + 1) is
    else overCount f n (k + 1) is

/-- The slot that repeats a destination (R39). -/
def repeatedDest (seen : List Dest) : Nat → List Instr → Option Nat
  | _, [] => none
  | k, i :: is =>
    match i.dest with
    | none => repeatedDest seen (k + 1) is
    | some d => if d ∈ seen then some k else repeatedDest (d :: seen) (k + 1) is

/-- What a REPEAT bundle must not hold (09_matrix R237). -/
def Instr.barredByRepeat : Instr → Bool
  | .nop => false
  | .mts _ (.mo _) | .mts _ (.mi _) => true
  | i => i.slotClass == 4 || i.slotClass == 6

/-- What a close bundle of the top loop must not hold (06_sequencer R151). -/
def Instr.barredAtClose : Instr → Bool
  | .call _ | .ret | .loop .. | .loops .. => true
  | _ => false

/-- MPUSH, MINV and MPOP (07_vector R181). -/
def Instr.isMaskOp : Instr → Bool
  | .mpush .. | .minv | .mpop => true
  | _ => false

/-- VLDX and VSTX (07_vector R181). -/
def Instr.isIndexed : Instr → Bool
  | .vldx .. | .vstx .. => true
  | _ => false

/-- VFN, VFNLD, VDIV and VOPT (08_function R201). -/
def Instr.isFunction : Instr → Bool
  | .vfn .. | .vfnld .. | .vdiv .. | .vopt .. => true
  | _ => false

/-- The bundle rules (R38 step 4): the lowest slot index among the slots that break one. `atClose`
says that the bundle stands at the close address of the top loop-stack entry. -/
def bundleRules (atClose : Bool) (is : List Instr) : Option Nat :=
  let offenders : List (Option Nat) :=
    [ overCount (fun i => i.slotClass == 0 || i.slotClass == 6) 1 0 is,
      overCount (fun i => i.slotClass == 1) 2 0 is,
      overCount (fun i => i.slotClass == 2) 1 0 is,
      overCount (fun i => i.slotClass == 3) 2 0 is,
      overCount (fun i => i.channel == some 0) 1 0 is,
      overCount (fun i => i.channel == some 1) 1 0 is,
      overCount (fun i => i.slotClass == 4) 1 0 is,
      overCount Instr.isMaskOp 1 0 is,
      overCount Instr.isIndexed 1 0 is,
      overCount Instr.isFunction 1 0 is,
      if is.any Instr.isRepeat then overCount Instr.barredByRepeat 0 0 is else none,
      if 1 < is.length then overCount (· == .endTask) 0 0 is else none,
      if atClose then overCount Instr.barredAtClose 0 0 is else none,
      repeatedDest [] 0 is ]
  (offenders.filterMap id).min?

/-- The decoding of a bundle from the words that stand from its address on (R38): its instructions, or
the first failure with the slot index reported. -/
def decodeBundle (atClose : Bool) (ws : List Nat) : Except BundleErr (List Instr) :=
  (bundleExtent ws).bind fun b =>
    (decodeSlots 0 b).bind fun is =>
      match prefixRules (b.length - 1) 0 false false is with
      | some k => .error ⟨.illegalPrefix, k⟩
      | none =>
        match immRules 0 none is with
        | some k => .error ⟨.illegalSlot, k⟩
        | none =>
          match bundleRules atClose is with
          | some k => .error ⟨.illegalBundle, k⟩
          | none => .ok is

/-- The host's question: the instruction of a word numbered as the table numbers it. A slot word is
32 bits; a prefix with its stop bit set is refused (R41). -/
def decodeTableWord (nbits w : Nat) : Option Instr :=
  if nbits ≤ 32 ∧ w < 2 ^ nbits ∧ ¬ (fld w 28 3 = 5 ∧ stopBit w) then (decodeSlot w).toOption
  else none

end Sys2Proof
end

