-- ==== Sys2Proof/Machine/Flags.lean ====
section
/-! DEFINITION. Numbers, format fields and flags: the ranges, saturation, census, rounding and random
word of 03_numbers (R58–R77), the fields of MF and VF, and the bits of SATF. -/

namespace Sys2Proof.Machine

open Sys2Proof

/-! ### Ranges and codes (R58, R59) -/

/-- The I types: two's complement. -/
def tySigned : ElemTy → Bool
  | .i8 | .i16 | .i32 | .i4 => true
  | .n8 | .n16 | .n32 | .n4 => false

/-- The least value of a type (R58 Table 3-1). -/
def minv (t : ElemTy) : Int := if tySigned t then -(2 ^ (t.width - 1) : Int) else 0

/-- The greatest value of a type (R58 Table 3-1). -/
def maxv (t : ElemTy) : Int := if tySigned t then 2 ^ (t.width - 1) - 1 else 2 ^ t.width - 1

/-- The range of A40 (R58). -/
def a40Min : Int := -(2 ^ 39)
/-- The greatest A40 value (R58). -/
def a40Max : Int := 2 ^ 39 - 1

/-- The value of a `w`-bit code read as two's complement. -/
def signedOf (w code : Nat) : Int := if code < 2 ^ (w - 1) then (code : Int) else (code : Int) - 2 ^ w

/-- The value an element code stands for (R58). -/
def elemVal (t : ElemTy) (code : Nat) : Int := if tySigned t then signedOf t.width code else (code : Int)

/-- The code of a value: its low bits. -/
def codeOf (w : Nat) (x : Int) : Nat := (x % (2 ^ w : Int)).toNat

/-! ### Saturation (R60, R67, R76) -/

/-- Clamps to a range and says whether it did. -/
def clamp (lo hi x : Int) : Int × Bool :=
  if hi < x then (hi, true) else if x < lo then (lo, true) else (x, false)

/-- `sat` of R76: an I type under symmetric mode is clamped to −max…max. -/
def sat (sym : Bool) (t : ElemTy) (x : Int) : Int × Bool :=
  clamp (if tySigned t && sym then -(maxv t) else minv t) (maxv t) x

/-- `sat` to A40, which is never symmetric (R58). -/
def satA40 (x : Int) : Int × Bool := clamp a40Min a40Max x

/-- The reserved code of an I type (R60). -/
def isReserved (sym : Bool) (t : ElemTy) (code : Nat) : Bool :=
  sym && tySigned t && code == 2 ^ (t.width - 1)

/-- The SUBST field (R60 Table 3-2). The code 3 is refused by every write of it (R65). -/
inductive Subst
  | negmax | zero | fault
  deriving DecidableEq, Repr

/-- The value used in place of a reserved code: ZERO where FAULT cannot fault at its own bundle (R61). -/
def Subst.value (u : Subst) (t : ElemTy) : Int :=
  match u with
  | .negmax => -(maxv t)
  | .zero | .fault => 0

/-- An element read as an arithmetic operand: its value, and whether a reserved code was replaced (R60). -/
def readElem (sym : Bool) (u : Subst) (t : ElemTy) (code : Nat) : Int × Bool :=
  if isReserved sym t code then (u.value t, true) else (elemVal t code, false)

/-! ### Census (R72, R76) -/

/-- The number of significant bits of a natural number. -/
def bitLen (n : Nat) : Nat := if n = 0 then 0 else n.log2 + 1

/-- `cls` of a `w`-bit value: its headroom (R76). -/
def cls (sgn : Bool) (w : Nat) (x : Int) : Nat :=
  if sgn then w - 1 - bitLen (if x < 0 then (-x - 1).toNat else x.toNat)
  else w - bitLen x.toNat

/-- The census of an element of a type. -/
def clsElem (t : ElemTy) (x : Int) : Nat := cls (tySigned t) t.width x

/-- The largest census of a type (R58 Table 3-1). -/
def clsMax (t : ElemTy) : Nat := if tySigned t then t.width - 1 else t.width

/-- The least census over some values, or the given one. -/
def minCensus (t : ElemTy) (xs : List Int) (h : Nat) : Nat :=
  xs.foldl (fun m x => min m (clsElem t x)) h

/-! ### Rounding (R70, R71, R76) -/

/-- A rounding mode (R70 Table 3-7). -/
inductive Round
  | rne | rtz | rdn | rna | stoch
  deriving DecidableEq, Repr

/-- The mode of an RND field; the codes 5 to 7 are refused by every write of it (R65). -/
def Round.ofCode : Nat → Round
  | 0 => .rne
  | 1 => .rtz
  | 2 => .rdn
  | 3 => .rna
  | 4 => .stoch
  | _ => .rne

/-- C1 of R71. -/
def keyC1 : Nat := 0x9E3779B97F4A7C15
/-- C2 of R71. -/
def keyC2 : Nat := 0xD1B54A32D192ED03

/-- `mix64` of R76. -/
def mix64 (z : Word) : Word :=
  let z := (z ^^^ (z >>> 30)) * 0xBF58476D1CE4E5B9#64
  let z := (z ^^^ (z >>> 27)) * 0x94D049BB133111EB#64
  z ^^^ (z >>> 31)

/-- The keyed random word of R71 for tensor key `key` and element index `i`. -/
def randomWord (seed step : Word) (key i : Word) : Word :=
  mix64 (seed ^^^ (key * BitVec.ofNat 64 keyC1) ^^^ (step * BitVec.ofNat 64 keyC2) ^^^ i)

/-- `rnd` of R76: the shift-down of `x` by `s`, with `r` the random word that STOCH uses. -/
def rnd (m : Round) (r : Word) (x : Int) (s : Nat) : Int :=
  if s = 0 then x
  else
    let p : Int := 2 ^ s
    let q := x / p
    let rem := x % p
    let half : Int := 2 ^ (s - 1)
    match m with
    | .rne => if half < rem ∨ (rem = half ∧ q % 2 = 1) then q + 1 else q
    | .rtz => if x < 0 ∧ rem ≠ 0 then q + 1 else q
    | .rdn => q
    | .rna => if half < rem ∨ (rem = half ∧ 0 ≤ x) then q + 1 else q
    | .stoch => (x + ((r.toNat : Int) % p)) / p

/-- A shift-down by `s`, or for negative `s` an exact left shift (R70). -/
def shiftBy (m : Round) (r : Word) (x : Int) (s : Int) : Int :=
  if 0 ≤ s then rnd m r x s.toNat else x * 2 ^ (-s).toNat

/-- The automatic shift of R73: from `srcW` bits of census `h` to `w` bits. -/
def autoShift (srcW h w : Nat) : Nat := (srcW - h) - w

/-! ### The fields of MF and VF (R64 Tables 3-4 and 3-5) -/

/-- Bits `lo … lo + n − 1` of a word. -/
def bits (v : Word) (lo n : Nat) : Nat := v.toNat / 2 ^ lo % 2 ^ n

/-- SYM, bit 0 of either register. -/
def fmtSym (v : Word) : Bool := bits v 0 1 == 1
/-- SUBST, bits 2:1 of either register. -/
def fmtSubst (v : Word) : Subst :=
  match bits v 1 2 with
  | 0 => .negmax
  | 1 => .zero
  | _ => .fault
/-- RND, bits 5:3 of either register. -/
def fmtRnd (v : Word) : Round := Round.ofCode (bits v 3 3)
/-- AUTO, bit 6 of either register. -/
def fmtAuto (v : Word) : Bool := bits v 6 1 == 1
/-- MF.CHSH, bits 12:7. -/
def mfChsh (v : Word) : Nat := bits v 7 6
/-- MF.CHT, bits 15:13. -/
def mfCht (v : Word) : ElemTy := ElemTy.ofCode (bits v 13 3)
/-- VF.FFRAC, bits 11:7. -/
def vfFfrac (v : Word) : Nat := bits v 7 5
/-- VF.DSH, bits 16:12. -/
def vfDsh (v : Word) : Nat := bits v 12 5
/-- VF.CVT, bits 19:17. -/
def vfCvt (v : Word) : ElemTy := ElemTy.ofCode (bits v 17 3)

/-- A value that MF may take: reserved bits zero and no reserved code (R65). -/
def mfLegal (v : Word) : Bool :=
  bits v 16 48 == 0 && bits v 1 2 != 3 && decide (bits v 3 3 < 5) && decide (bits v 7 6 ≤ 40)

/-- A value that VF may take (R65). -/
def vfLegal (v : Word) : Bool :=
  bits v 20 44 == 0 && bits v 1 2 != 3 && decide (bits v 3 3 < 5)

/-! ### SATF (R67 Table 3-6) -/

/-- SATF.VEC. -/
def satVec : BitVec 6 := 0b000001#6
/-- SATF.ACC. -/
def satAcc : BitVec 6 := 0b000010#6
/-- SATF.OUT. -/
def satOut : BitVec 6 := 0b000100#6
/-- SATF.RED. -/
def satRed : BitVec 6 := 0b001000#6
/-- SATF.DIV. -/
def satDiv : BitVec 6 := 0b010000#6
/-- SATF.RSUB. -/
def satRsub : BitVec 6 := 0b100000#6

/-- A flag when a condition holds. -/
def flagIf (b : Bool) (f : BitVec 6) : BitVec 6 := if b then f else 0

/-! ### Lanes (R59) -/

/-- The number of lanes of a vector register for a width. -/
def laneCount (w : Nat) : Nat := 2048 / w

/-- The code of lane `l`. -/
def laneOf (w : Nat) (v : VWord) (l : Nat) : Nat := v.toNat / 2 ^ (w * l) % 2 ^ w

/-- Lane codes packed from lane 0 on. -/
def packLanes (w : Nat) : List Nat → Nat
  | [] => 0
  | x :: xs => x % 2 ^ w + 2 ^ w * packLanes w xs

/-- The vector whose lane `l` has the code `f l`. -/
def vecOf (w : Nat) (f : Nat → Nat) : VWord :=
  BitVec.ofNat 2048 (packLanes w ((List.range (laneCount w)).map f))

/-- The bytes of a vector register, byte 0 first. -/
def vecBytes (v : VWord) : List Byte := (List.range 256).map fun k => BitVec.ofNat 8 (laneOf 8 v k)

/-- A little-endian number (00_scope R5). -/
def leNat : List Byte → Nat
  | [] => 0
  | b :: bs => b.toNat + 256 * leNat bs

/-- The little-endian bytes of a number, `n` of them. -/
def leBytes : Nat → Nat → List Byte
  | 0, _ => []
  | n + 1, x => BitVec.ofNat 8 x :: leBytes n (x / 256)

end Sys2Proof.Machine
end

