-- ==== Sys2Proof/Machine/Memory.lean ====
section
/-! DEFINITION. Memory: the canonical list of bytes, where each space of the package lies in it, check
codes and poison (17_system R401, R402), and the copies that revisions read and write
(14_revisions R338–R341). -/

namespace Sys2Proof.Machine

open Sys2Proof

/-! ### The canonical list -/

/-- The byte of a key; an unlisted key reads as zero (17_system R394; notes/assumptions 5). -/
def Memory.get : List Host.Cell → Nat → Byte
  | [], _ => 0
  | (a, b) :: m, k => if a = k then b else Memory.get m k

/-- Writes a byte, keeping the keys rising and no entry zero. -/
def Memory.set : List Host.Cell → Nat → Byte → List Host.Cell
  | [], k, b => if b = 0 then [] else [(k, b)]
  | (a, x) :: m, k, b =>
    if k < a then (if b = 0 then (a, x) :: m else (k, b) :: (a, x) :: m)
    else if k = a then (if b = 0 then m else (k, b) :: m)
    else (a, x) :: Memory.set m k b

/-- The keys of a list are all above a bound and strictly rising, and no entry is zero. -/
def Memory.wfFrom : Nat → List Host.Cell → Bool
  | _, [] => true
  | lo, (a, b) :: m => decide (lo ≤ a) && b != 0 && Memory.wfFrom (a + 1) m

/-- The canonical form of memory. -/
def Memory.wf (m : List Host.Cell) : Bool := Memory.wfFrom 0 m

/-- Bytes from a key on. -/
def Memory.getN (m : List Host.Cell) (k : Nat) : Nat → List Byte
  | 0 => []
  | n + 1 => Memory.get m k :: Memory.getN m (k + 1) n

/-- Writes bytes from a key on. -/
def Memory.setN (m : List Host.Cell) (k : Nat) : List Byte → List Host.Cell
  | [] => m
  | b :: bs => Memory.setN (Memory.set m k b) (k + 1) bs

/-- Makes the keys of a range read as zero. -/
def Memory.clear (m : List Host.Cell) (k n : Nat) : List Host.Cell :=
  m.filter fun c => !(decide (k ≤ c.1) && decide (c.1 < k + n))

/-! ### Where the spaces lie (04_memory_model R78) -/

/-- The bytes of LPDDR6 of the package: 768 GiB (11_translation R260). -/
def lpddrBytes : Nat := 768 * 2 ^ 30

/-- The bytes of one die's ring: 192 MiB (01_engines R20). -/
def ringBytes : Nat := 0x0C000000

/-- A byte of a die's ring. -/
def ringKey (die off : Nat) : Nat := 2 ^ 41 + die * 2 ^ 28 + off

/-- A byte of a core's tile memory.
DESIGN CHOICE (notes/assumptions/51). -/
def tileKey (core off : Nat) : Nat := 2 ^ 42 + core * 2 ^ 22 + off

/-- A byte of the staging window of the boot mailbox (17_system R395). -/
def stagingKey (off : Nat) : Nat := 2 ^ 43 + off

/-- A byte of the staging that a graph slot of a context has at a station's ring sequencer (15_fabric R362,
R367). -/
def seqKey (asid slot station off : Nat) : Nat := 2 ^ 90 + ((asid * 32 + slot) * 64 + station) * 2 ^ 21 + off

/-- A byte of the private space of a member of a task (01_engines R20).
DESIGN CHOICE (notes/assumptions/51). -/
def privKey (task member off : Nat) : Nat := 2 ^ 48 + (task * 64 + member) * 2 ^ 22 + off

/-- A byte of a copy of the revision pool (14_revisions R340). -/
def poolKey (id off : Nat) : Nat := 2 ^ 100 + id * 4096 + off

/-- The number under which an engine of a die, or a saved task whose core was on it, stands where an operation names its
core. -/
def engineCore (die : Nat) : Nat := 256 + die

/-- The engines that belong to no die: firmware's. -/
def noDie : Nat := 4

/-- The die of a core (01_engines R12), or of an engine. -/
def dieOf (core : Nat) : Nat := if core < 256 then core / 64 else core - 256

/-- The die whose ring, tile memory, private space or controller holds a key, given the core whose
private space it is (04_memory_model R78; 01_engines R12). -/
def homeDie (core : Nat) (key : Nat) : Nat :=
  if key < 2 ^ 41 then key / 4096 % 96 / 24
  else if key < 2 ^ 42 then (key - 2 ^ 41) / 2 ^ 28
  else if key < 2 ^ 43 then (key - 2 ^ 42) / 2 ^ 22 / 64
  else dieOf core

/-- The ring stop of a ring offset (01_engines R13). -/
def ringStop (off : Nat) : Nat := off / 4096 % 16

/-- The address of a ring offset within its stop (01_engines R13). -/
def stopAddress (off : Nat) : Nat := off / 65536 * 4096 + off % 4096

/-- The home unit that performs the accesses to a key, in order of arrival: a channel's controller, a ring stop, or a
core's tile memory or private space (01_engines R13; 04_memory_model R82; 11_translation R260). -/
def homeUnit (core key : Nat) : Nat × Nat :=
  if key < 2 ^ 41 then (0, key / 4096 % 96)
  else if key < 2 ^ 42 then (1 + (key - 2 ^ 41) / 2 ^ 28, ringStop ((key - 2 ^ 41) % 2 ^ 28))
  else if key < 2 ^ 43 then (5, (key - 2 ^ 42) / 2 ^ 22)
  else (6, core)

/-- The home units of a range of keys. -/
def homeUnits (core key len : Nat) : List (Nat × Nat) :=
  (List.range (min 97 ((key + len - 1) / 4096 - key / 4096 + 1))).map fun i => homeUnit core (key + 4096 * i - key % 4096)

/-- A local range of tile memory, private space or a ring, as the scoreboard sees it (10_copy R247). -/
def isLocalKey (key : Nat) : Bool := decide (2 ^ 41 ≤ key)

/-- Two ranges of keys share a byte. -/
def overlaps (a la b lb : Nat) : Bool := decide (a < b + lb) && decide (b < a + la)

/-! ### Check codes and poison (R401, R402) -/

/-- The CRC-16 of polynomial 0x8BB7 over bytes in ascending address (R401). -/
def crcStep (r : BitVec 16) : Nat → BitVec 16
  | 0 => r
  | n + 1 => crcStep (if r.msb then (r <<< 1) ^^^ 0x8BB7#16 else r <<< 1) n

/-- The check code of some bytes (R401). -/
def checkCode (bs : List Byte) : BitVec 16 :=
  bs.foldl (fun (r : BitVec 16) (b : Byte) => crcStep (r ^^^ ((b.setWidth 16) <<< (8 : Nat))) 8) 0

/-- The 64-byte granules of a range of keys. -/
def granules64 (key len : Nat) : List Nat :=
  if len = 0 then [] else (List.range ((key + len - 1) / 64 - key / 64 + 1)).map (· + key / 64)

/-- What a read of a granule finds (R402 Table 17-6). -/
def granuleFault (y : System) (g : Nat) : Option FaultCode :=
  if g ∈ y.badEcc then some .eccUe
  else if g ∈ y.badCode then some .checkValue
  else if g ∈ y.poison then some .poison
  else none

/-- The first fault of a read of a range (R402).
DEDUCED (notes/assumptions/53). -/
def readFault (y : System) (key len : Nat) : Option FaultCode :=
  (granules64 key len).findSome? (granuleFault y)

/-- Adds to a RAS counter; it saturates at 2^32 − 1 (R405). -/
def System.count (y : System) (k n : Nat) : System :=
  { y with ras := if n = 0 then y.ras else y.ras.set k (min (2 ^ 32 - 1) (y.ras.getD k 0 + n)) }

/-- The RAS counter of an uncorrected error (Table 17-8): LPDDR6's, or SRAM's. -/
def eccCounter (g : Nat) : Nat := if isLocalKey (g * 64) && decide (g * 64 < 2 ^ 100) then 1 else 3

/-- The correctable errors of the storage of some granules are corrected by the read that finds them, and counted (R402,
R405). DEDUCED (notes/assumptions/53). -/
def correctGranules (y : System) (gs : List Nat) : System :=
  let soft := gs.filter (· ∈ y.softEcc)
  if soft = [] then y
  else { (y.count 0 (soft.countP (eccCounter · == 1))).count 2 (soft.countP (eccCounter · == 3)) with
    softEcc := y.softEcc.filter (· ∉ soft) }

/-- The granules of some whose code or storage is bad are counted and poisoned by the read that finds them (R402, R405).
DEDUCED (notes/assumptions/53). -/
def readGranules (y : System) (gs : List Nat) : System :=
  let y := correctGranules y gs
  let bad := gs.filter fun g => decide (g ∈ y.badEcc) || decide (g ∈ y.badCode)
  let ecc := bad.filter fun g => decide (g ∈ y.badEcc)
  if bad = [] then y
  else { ((y.count 4 (bad.length - ecc.length)).count 1 (ecc.countP (eccCounter · == 1))).count 3
      (ecc.countP (eccCounter · == 3)) with
    poison := bad ++ y.poison
    badEcc := y.badEcc.filter (· ∉ bad)
    badCode := y.badCode.filter (· ∉ bad) }

/-- What a read of a range leaves of its granules. -/
def afterRead (y : System) (key len : Nat) : System := readGranules y (granules64 key len)

/-- A write of some granules, of which it covers some whole: a whole write clears poison and makes a new code; a write of a
part checks the old code of the bytes it keeps (R401, R402). -/
def writeGranules (y : System) (gs whole : List Nat) : System :=
  readGranules
    { y with
      poison := y.poison.filter (· ∉ whole)
      badEcc := y.badEcc.filter (· ∉ whole)
      softEcc := y.softEcc.filter (· ∉ whole)
      badCode := y.badCode.filter (· ∉ whole) } gs

/-- A write of every byte of a range. -/
def afterWrite (y : System) (key len : Nat) : System :=
  let gs := granules64 key len
  writeGranules y gs (gs.filter fun g => decide (key ≤ g * 64) && decide (g * 64 + 64 ≤ key + len))

/-- The granules that the bits of some bytes, each at its own offset from a key, reach, and those of them that they cover
whole. -/
def wbyteGranules (key : Nat) (ws : List WByte) : List Nat × List Nat :=
  let gs := (granules64 key (ws.foldl (fun m w => max m (w.off + 1)) 0)).filter fun g =>
    ws.any fun w => (key + w.off) / 64 == g
  (gs, gs.filter fun g => decide (64 ≤ ws.countP fun w => w.bits == 0xFF && (key + w.off) / 64 == g))

/-- The bytes of a range, as they stand. -/
def State.bytes (s : State) (key len : Nat) : List Byte := Memory.getN s.mem key len

/-- Writes bytes as one write: the bytes, and what happens to their granules' codes. -/
def State.putBytes (s : State) (key : Nat) (bs : List Byte) : State :=
  { s with mem := Memory.setN s.mem key bs, sys := afterWrite s.sys key bs.length }

/-- Memory with the bits of a byte written. -/
def putWByte (m : List Host.Cell) (key : Nat) (w : WByte) : List Host.Cell :=
  Memory.set m key ((Memory.get m key &&& ~~~w.bits) ||| (w.val &&& w.bits))

/-- Writes the bits of some bytes, each at its own offset from a key, as one write. -/
def State.putWBytes (s : State) (key : Nat) (ws : List WByte) : State :=
  let g := wbyteGranules key ws
  { s with mem := ws.foldl (fun m w => putWByte m (key + w.off) w) s.mem, sys := writeGranules s.sys g.1 g.2 }

/-! ### Views (R331, R332, R338, R339) -/

/-- The context whose revisable region holds a granule of LPDDR6 (R333). -/
def regionOf (s : State) (gran : Nat) : Option (Nat × Region) :=
  s.ctxs.findSome? fun (a, c) =>
    c.regions.findSome? fun (_, r) =>
      if r.frames.any fun (_, pa, n) => decide (pa ≤ gran * 4096) && decide (gran * 4096 < pa + n)
      then some (a, r) else none

/-- A revision that reads through its own copies: live, or forking (R331). -/
def revLive (r : Rev) : Bool :=
  match r.state with
  | .live | .forking => true
  | .merged _ | .discarded => false

/-- The private copy of a granule in a revision. -/
def privateCopy (s : State) (view gran : Nat) : Option GranCopy :=
  s.copies.find? fun c => c.gran == gran && c.kind == .private_ view

/-- Whether a copy is an ancestor copy kept for a revision's fork. -/
def isAncestorFor (view : Nat) (c : GranCopy) : Bool :=
  match c.kind with
  | .ancestor _ vs _ => decide (view ∈ vs)
  | .private_ _ => false

/-- The ancestor copy of a granule kept for a revision's fork. -/
def ancestorCopy (s : State) (view gran : Nat) : Option GranCopy :=
  s.copies.find? fun c => c.gran == gran && isAncestorFor view c

/-- Where a view reads a granule (R338): its private copy, the ancestor copy kept for its fork, or
what its parent view reads. The first argument bounds the depth of the revision tree. -/
def viewGranule (s : State) : Nat → Nat → Nat → Nat
  | 0, _, gran => gran * 4096
  | f + 1, view, gran =>
    if view = 0 then gran * 4096
    else
      match privateCopy s view gran with
      | some c => poolKey c.id 0
      | none =>
        match ancestorCopy s view gran with
        | some c => poolKey c.id 0
        | none =>
          match s.revs.get? view with
          | some r => viewGranule s f r.parent gran
          | none => gran * 4096

/-- The key at which a view reads a key. Only LPDDR6 has views. -/
def viewKey (s : State) (view key : Nat) : Nat :=
  if s.copies = [] then key
  else if key < lpddrBytes then viewGranule s 16 view (key / 4096) + key % 4096
  else key

/-- The key at which a view writes: its private copy, or base storage (R339). -/
def writeKey (s : State) (view key : Nat) : Nat :=
  if s.copies = [] then key
  else if key < lpddrBytes then
    match privateCopy s view (key / 4096) with
    | some c => poolKey c.id 0 + key % 4096
    | none => key
  else key

/-- The 64-byte granules that hold the bytes which a view reads in a range. -/
def viewGranules (s : State) (view key len : Nat) : List Nat :=
  (granules64 key len).map fun g => viewKey s view (g * 64) / 64

/-- The first fault of a view's read of a range (R402; 14_revisions R338). -/
def State.viewFault (s : State) (view key len : Nat) : Option FaultCode :=
  (viewGranules s view key len).findSome? (granuleFault s.sys)

/-- What a view's read of a range leaves of its granules. -/
def State.viewAfterRead (s : State) (view key len : Nat) : State :=
  { s with sys := readGranules s.sys (viewGranules s view key len) }

/-- A byte as a view reads it. -/
def State.viewByte (s : State) (view key : Nat) : Byte := Memory.get s.mem (viewKey s view key)

/-- Bytes as a view reads them. -/
def State.viewBytes (s : State) (view key : Nat) : Nat → List Byte
  | 0 => []
  | n + 1 => s.viewByte view key :: State.viewBytes s view (key + 1) n

/-- The live revisions of a context forked from a view whose snapshots stand (R337). -/
def childrenOf (s : State) (asid view : Nat) : List Nat :=
  (s.revs.filter fun (_, r) => r.asid == asid && r.parent == view && r.state == .live).map Prod.fst

/-- The children of a view for whose fork no ancestor copy of a granule exists. -/
def lackingAncestor (s : State) (asid view gran : Nat) : List Nat :=
  (childrenOf s asid view).filter fun v => (ancestorCopy s v gran).isNone

/-- The parent view of a view. -/
def parentView (s : State) (view : Nat) : Nat := ((s.revs.get? view).map Rev.parent).getD 0

/-- The copies that the first write of a view to a granule needs (R339): an ancestor copy for the
children of the view, an ancestor copy for the view's own fork, and the view's private copy. -/
def copiesNeeded (s : State) (view gran : Nat) : List CopyKind :=
  match regionOf s gran with
  | none => []
  | some (asid, _) =>
    let below := lackingAncestor s asid view gran
    let above := lackingAncestor s asid (parentView s view) gran
    (if below = [] then [] else [.ancestor view below false]) ++
    (if view = 0 then []
     else (if view ∈ above then [.ancestor (parentView s view) above true] else []) ++
       (if (privateCopy s view gran).isNone then [.private_ view] else []))

/-- The copies the pool holds at most (R340). -/
def poolCopies (s : State) : Nat := s.cfg.poolGib * 2 ^ 30 / 4096

/-- The pool can supply some more copies. -/
def poolHas (s : State) (n : Nat) : Bool := n == 0 || decide (s.copies.length + n ≤ poolCopies s)

/-- Makes one copy of a granule with the bytes that a view reads there; an error that the reading finds, or poison, leaves
the copy's bytes poisoned (17_system R401, R402). -/
def addCopy (s : State) (gran : Nat) (k : CopyKind) : State :=
  let from_ := match k with
    | .ancestor v _ _ => v
    | .private_ v => v
  let data := s.viewBytes from_ (gran * 4096) 4096
  let gs := viewGranules s from_ (gran * 4096) 4096
  let bad := (gs.zipIdx).filterMap fun (g, i) =>
    if (granuleFault s.sys g).isSome then some (poolKey s.nextCopy 0 / 64 + i) else none
  let y := readGranules s.sys gs
  { s with
    mem := Memory.setN s.mem (poolKey s.nextCopy 0) data
    sys := if bad = [] then y else { y with poison := bad ++ y.poison }
    copies := s.copies ++ [⟨s.nextCopy, gran, k⟩]
    nextCopy := s.nextCopy + 1 }

/-- Makes every copy a write of a view to a granule needs (R339). -/
def makeCopies (s : State) (view gran : Nat) : State :=
  (copiesNeeded s view gran).foldl (fun s k => addCopy s gran k) s

/-- The parent side has written a granule: its ancestor copies no longer stand for the present state,
so that a later fork takes a new one (R341). -/
def markWritten (s : State) (view gran : Nat) : State :=
  if s.copies = [] then s
  else { s with copies := s.copies.map fun (c : GranCopy) =>
    if c.gran = gran then
      match c.kind with
      | .ancestor v vs _ => if v = view then { c with kind := .ancestor v vs false } else c
      | .private_ _ => c
    else c }

/-- The 4 KiB granules of LPDDR6 that a range of keys touches. -/
def granules4k (key len : Nat) : List Nat :=
  if len = 0 ∨ lpddrBytes ≤ key then []
  else (List.range ((key + len - 1) / 4096 - key / 4096 + 1)).map (· + key / 4096)

/-- The copies that writes of a view to some granules need in all. -/
def copiesForGranules (s : State) (view : Nat) (gs : List Nat) : Nat :=
  (gs.map fun g => (copiesNeeded s view g).length).sum

/-- Makes a view's copies of the granules of a range and marks them written. -/
def State.prepareWrite (s : State) (view key len : Nat) : State :=
  if s.revs = [] then s
  else (granules4k key len).foldl (fun s g => markWritten (makeCopies s view g) view g) s

/-- Performs a write of a view: the copies it needs, then the bits of its bytes and what becomes of the granules they are
in (R339, R79; 17_system R401, R402). -/
def State.viewWrite (s : State) (view key len : Nat) (ws : List WByte) : State :=
  let s := s.prepareWrite view key len
  let g := wbyteGranules key ws
  let at_ (n : Nat) : Nat := writeKey s view (n * 64) / 64
  { s with
    mem := ws.foldl (fun m w => putWByte m (writeKey s view (key + w.off)) w) s.mem
    sys := writeGranules s.sys (g.1.map at_) (g.2.map at_) }

/-- Whole bytes as the bytes of a write. -/
def wholeBytes (off : Nat) : List Byte → List WByte
  | [] => []
  | b :: bs => ⟨off, b, 0xFF⟩ :: wholeBytes (off + 1) bs

/-- Performs a write of whole bytes in a view. -/
def State.viewPut (s : State) (view key : Nat) (bs : List Byte) : State :=
  s.viewWrite view key bs.length (wholeBytes 0 bs)

/-- Frees a copy of the pool (R341). -/
def freeCopy (s : State) (c : GranCopy) : State :=
  { s with
    mem := Memory.clear s.mem (poolKey c.id 0) 4096
    copies := s.copies.filter (·.id != c.id) }

/-- Frees the copies that a revision's end releases: its private copies, and every ancestor copy kept
for no other child (R341). -/
def freeRevision (s : State) (view : Nat) : State :=
  let s := (s.copies.filter fun (c : GranCopy) => c.kind == .private_ view).foldl freeCopy s
  let s := { s with copies := s.copies.map fun (c : GranCopy) =>
    match c.kind with
    | .ancestor v vs cur => { c with kind := .ancestor v (vs.filter (· != view)) cur }
    | .private_ _ => c }
  (s.copies.filter fun (c : GranCopy) =>
    match c.kind with
    | .ancestor _ vs _ => vs.isEmpty
    | .private_ _ => false).foldl freeCopy s

end Sys2Proof.Machine
end

