-- ==== Sys2Proof/Machine/Ops.lean ====
section
/-! DEFINITION. The named operations over cores, registers, result queues, counters, marks, engine
operations and tasks, and taking a fault and returning from one. -/

namespace Sys2Proof.Machine

open Sys2Proof

/-- The outcome of a step. -/
abbrev Out := Host.Outcome State Fault Refusal

/-- The codes of fault records (17_system R403 Table 17-7). -/
def faultNumber : FaultCode → Nat
  | .illegalSlot => 0x01
  | .illegalBundle => 0x02
  | .illegalPrefix => 0x03
  | .illegalOperand => 0x04
  | .loopCount => 0x05
  | .stackDepth => 0x06
  | .space => 0x10
  | .tileForeign => 0x11
  | .tileBounds => 0x12
  | .tileHandle => 0x13
  | .tileShape => 0x14
  | .reservedCode => 0x15
  | .scaleMismatch => 0x16
  | .align => 0x17
  | .window => 0x18
  | .translation => 0x20
  | .permission => 0x21
  | .heapLimit => 0x22
  | .pageSpan => 0x23
  | .nonresWrite => 0x24
  | .accessTable => 0x25
  | .checkValue => 0x30
  | .eccUe => 0x31
  | .shadowMismatch => 0x32
  | .poison => 0x33
  | .fabricTimeout => 0x40
  | .remoteError => 0x41
  | .collTimeout => 0x42
  | .migration => 0x43
  | .revisionPool => 0x50
  | .mergeType => 0x51
  | .regionOverlap => 0x52
  | .brk => 0x60
  | .trap => 0x61

/-! ### Cores and tasks -/

/-- A core of the package. -/
def State.coreAt (s : State) (n : Nat) : Core := s.cores.getD n {}

/-- Puts a core. -/
def State.setCore (s : State) (n : Nat) (c : Core) : State := { s with cores := s.cores.set n c }

/-- Changes a core. -/
def State.modCore (s : State) (n : Nat) (f : Core → Core) : State := s.setCore n (f (s.coreAt n))

/-- The core whose bundle or event is being executed. -/
def State.core (s : State) : Core := s.coreAt s.cur

/-- The task state on that core. -/
def State.ctx (s : State) : Ctx := s.core.ctx

/-- Changes the task state of a core. -/
def State.modCtxAt (s : State) (n : Nat) (f : Ctx → Ctx) : State :=
  s.modCore n fun c => { c with ctx := f c.ctx }

/-- Changes the task state of the executing core. -/
def State.modCtx (s : State) (f : Ctx → Ctx) : State := s.modCtxAt s.cur f

/-- The task of an id. -/
def State.task? (s : State) (id : Nat) : Option Task := s.tasks.find? fun t => t.id == id

/-- Changes a task. -/
def State.modTask (s : State) (id : Nat) (f : Task → Task) : State :=
  { s with tasks := s.tasks.map fun t => if t.id = id then f t else t }

/-- The record of the task on a core. -/
def State.taskAt (s : State) (n : Nat) : Option Task := s.task? (s.coreAt n).task

/-- The ASID of the task on a core (01_engines R19). -/
def State.asidAt (s : State) (n : Nat) : Nat := ((s.taskAt n).map Task.asid).getD 0

/-- The view of the task on a core (14_revisions R331). -/
def State.viewAt (s : State) (n : Nat) : Nat := ((s.taskAt n).map Task.view).getD 0

/-- The gang width of the task on a core. -/
def State.widthAt (s : State) (n : Nat) : Nat := ((s.taskAt n).map Task.width).getD 1

/-- The context of an ASID. -/
def State.context? (s : State) (asid : Nat) : Option Context := s.ctxs.get? asid

/-- Changes a context. -/
def State.modContext (s : State) (asid : Nat) (f : Context → Context) : State :=
  match s.ctxs.get? asid with
  | some c => { s with ctxs := s.ctxs.set asid (f c) }
  | none => s

/-- A die's task engine and TLB. -/
def State.dieAt (s : State) (d : Nat) : DieState := s.dies.getD d {}

/-- Changes a die. -/
def State.modDie (s : State) (d : Nat) (f : DieState → DieState) : State :=
  { s with dies := s.dies.set d (f (s.dieAt d)) }

/-- The core that holds the state of a member of a task: running it, stopped with it, or ended. While a restore waits
the state is still in the save area (06_sequencer R172, R173). -/
def State.coreOf (s : State) (task member : Nat) : Option Nat :=
  (s.cores.find? fun (_, c) => c.mode != .idle && c.mode != .restoring && c.task == task && c.member == member).map
    Prod.fst

/-- Changes the state of a member of a task wherever it is: on a core, or in its save area
(06_sequencer R173). -/
def State.modOwner (s : State) (task member : Nat) (f : Ctx → Ctx) : State :=
  match s.coreOf task member with
  | some n => s.modCtxAt n f
  | none => s.modTask task fun t => { t with saved := t.saved.map fun (v : Saved) =>
      if v.member = member then { v with ctx := f v.ctx } else v }

/-- The state of a member of a task wherever it is. -/
def State.ownerCtx (s : State) (task member : Nat) : Ctx :=
  match s.coreOf task member with
  | some n => (s.coreAt n).ctx
  | none =>
    match s.task? task with
    | some t => ((t.saved.find? fun v => v.member == member).map Saved.ctx).getD {}
    | none => {}

/-! ### Registers -/

/-- The value of a scalar source (02_bundles R34; 05_scalar R107): g0 reads zero, and a loop counter is
zero-extended. -/
def Ctx.sread (c : Ctx) : SSrc → Word
  | .g n => if n = 0 then 0 else c.g.getD n.val 0
  | .q n => c.q.getD n.val 0
  | .tx n => c.tx.getD n.val 0
  | .lc n => (c.lc.getD n.val 0).setWidth 64

/-- The value of a vector source: v0 reads zero. -/
def Ctx.vread (c : Ctx) : VSrc → VWord
  | .v n => if n = 0 then 0 else c.v.getD n.val 0
  | .vq n => c.vq.getD n.val 0

/-- A predicate. -/
def Ctx.pread (c : Ctx) (p : Fin 16) : Bool := c.p.getLsbD p.val

/-- The predicates with one of them written. -/
def setPred (ps : BitVec 16) (p : Nat) (b : Bool) : BitVec 16 :=
  if b then ps ||| (1#16 <<< p) else ps &&& ~~~(1#16 <<< p)

/-- Writes a general register; a write of g0 is discarded (05_scalar R107). -/
def Ctx.gwrite (c : Ctx) (n : Nat) (v : Word) : Ctx :=
  if n = 0 then c else { c with g := c.g.set n v }

/-- Writes a vector register; a write of v0 is discarded. -/
def Ctx.vwrite (c : Ctx) (n : Nat) (v : VWord) : Ctx :=
  if n = 0 then c else { c with v := c.v.set n v }

/-- A register's granule is absent (06_sequencer R171): 8 general or 4 vector registers. -/
def Ctx.gMissing (c : Ctx) (n : Nat) : Bool := decide (n / 8 ∈ c.gAbsent)
/-- A vector register's granule is absent. -/
def Ctx.vMissing (c : Ctx) (n : Nat) : Bool := decide (n / 4 ∈ c.vAbsent)

/-- A source read by the executing core. -/
def State.rs (s : State) (a : SSrc) : Word := s.ctx.sread a
/-- A vector source read by the executing core. -/
def State.rv (s : State) (a : VSrc) : VWord := s.ctx.vread a

/-! ### Result queues (02_bundles R44–R48) -/

/-- A queue with a value pushed: entry 15 is discarded. -/
def pushQueue {α : Type} (q : List α) (x : α) : List α := (x :: q).take 16

/-- A pending scalar push. -/
def scalarPush (d : Fin 32) (lat : Nat) (v : Word) (f : BitVec 6) : Push :=
  ⟨false, d.val, lat, .ready, v, 0, 0, f, 0, false⟩

/-- A pending vector push. -/
def vectorPush (d : Fin 32) (lat : Nat) (v : VWord) (f : BitVec 6) : Push :=
  ⟨true, d.val, lat, .ready, 0, v, 0, f, 0, false⟩

/-- Adds a pending push, last in issue order. -/
def State.addPush (s : State) (p : Push) : State :=
  s.modCtx fun c => { c with pushes := c.pushes ++ [p] }

/-- A scalar result of latency `lat` (02_bundles R45, R46). -/
def pushS (d : Fin 32) (lat : Nat) (v : Word) (s : State) : State := s.addPush (scalarPush d lat v 0)

/-- A scalar result that sets SATF bits when it is pushed (03_numbers R68). -/
def pushSF (d : Fin 32) (lat : Nat) (v : Word) (f : BitVec 6) (s : State) : State :=
  s.addPush (scalarPush d lat v f)

/-- A vector result. -/
def pushV (d : Fin 32) (lat : Nat) (v : VWord) (f : BitVec 6) (s : State) : State :=
  s.addPush (vectorPush d lat v f)

/-- Performs a push that has its value (02_bundles R44, R45; 03_numbers R68; 07_vector R194). -/
def Ctx.performPush (c : Ctx) (p : Push) : Ctx :=
  let c := if p.vec then { c with vq := pushQueue c.vq p.vval }.vwrite p.dest p.vval
           else { c with q := pushQueue c.q p.sval }.gwrite p.dest p.sval
  { c with satf := c.satf ||| p.satf, rmask := c.rmask ||| p.rmask, rmScl := c.rmScl || p.scl }

/-- An operation that completes in a clock cycle sets bits of SATF (03_numbers R68). -/
def Ctx.setSatf (c : Ctx) (now : Nat) (f : BitVec 6) : Ctx :=
  { c with satf := c.satf ||| f, satNew := (if c.satAt = now then c.satNew else 0) ||| f, satAt := now }

/-- The bits of SATF that a completion of this clock cycle has set: a write of the cycle leaves them 1
(03_numbers R68). -/
def Ctx.satKept (c : Ctx) (now : Nat) : BitVec 6 := if c.satAt = now then c.satNew else 0

/-- The first push due at this boundary, with the others (02_bundles R46). -/
def takeDue : List Push → Option (Push × List Push)
  | [] => none
  | p :: ps =>
    if p.count = 0 then some (p, ps)
    else (takeDue ps).map fun (d, r) => (d, p :: r)

/-! ### Counters and marks (06_sequencer R152, R174) -/

/-- The value of a class. -/
def PerCls.get {α : Type} (x : PerCls α) : Cls → α
  | .c0 => x.c0
  | .c1 => x.c1
  | .t => x.t
  | .s => x.s

/-- Changes the value of a class. -/
def PerCls.modify {α : Type} (x : PerCls α) (k : Cls) (f : α → α) : PerCls α :=
  match k with
  | .c0 => { x with c0 := f x.c0 }
  | .c1 => { x with c1 := f x.c1 }
  | .t => { x with t := f x.t }
  | .s => { x with s := f x.s }

/-- The class of a copy channel. -/
def chanCls (ch : Nat) : Cls := if ch = 0 then .c0 else .c1

/-- Raises a class counter. -/
def Ctx.raise (c : Ctx) (k : Cls) : Ctx := { c with cnt := c.cnt.modify k (· + 1) }
/-- Lowers a class counter. -/
def Ctx.lower (c : Ctx) (k : Cls) : Ctx := { c with cnt := c.cnt.modify k (· - 1) }

/-- Appends a mark to a class: at most four are kept, and the newest counts those lost (R174). -/
def appendMark (ms : List Mark) (m : Mark) : List Mark :=
  if ms.length < 4 then ms ++ [m]
  else ms.take 3 ++ (ms.drop 3).map fun x => { x with lost := min 255 (x.lost + 1) }

/-- Records an error of a class. -/
def Ctx.mark (c : Ctx) (k : Cls) (code : FaultCode) (bundle : Nat) (faddr : Word) : Ctx :=
  { c with marks := c.marks.modify k fun ms => appendMark ms ⟨code, 0, bundle, faddr⟩ }

/-- The first mark of some classes in the order C0, C1, T, S (R174). -/
def firstMark (ms : PerCls (List Mark)) (on : Cls → Bool) : Option (Cls × Mark) :=
  [Cls.c0, .c1, .t, .s].findSome? fun k =>
    if on k then (ms.get k).head?.map fun m => (k, m) else none

/-! ### Engine operations -/

/-- An operation in flight. -/
def State.op? (s : State) (id : Nat) : Option Op := s.ops.find? fun o => o.id == id

/-- Removes an operation. -/
def State.dropOp (s : State) (id : Nat) : State := { s with ops := s.ops.filter fun o => o.id != id }

/-- Changes an operation. -/
def State.modOp (s : State) (id : Nat) (f : Op → Op) : State :=
  { s with ops := s.ops.map fun o => if o.id = id then f o else o }

/-- Starts an operation for the executing core's task, due after some clock cycles.
DESIGN CHOICE (notes/assumptions/6). -/
def State.startOp (s : State) (lat : Nat) (ranges : List Range) (k : OpKind) : State :=
  { s with
    ops := s.ops ++ [{ id := s.nextOp, core := s.cur, task := s.core.task, member := s.core.member,
                       asid := s.asidAt s.cur, view := s.viewAt s.cur, stamp := s.nextBundle,
                       bundle := s.ctx.pc, issued := s.cyc, issuedU := s.timeU, due := s.cyc + lat,
                       slot := s.iss.slot, ranges := ranges, kind := k }]
    nextOp := s.nextOp + 1 }

/-- Starts an operation of an engine of a die. -/
def State.startDieOp (s : State) (die asid lat : Nat) (k : OpKind) : State :=
  { s with
    ops := s.ops ++ [{ id := s.nextOp, core := engineCore die, task := 0, member := 0, asid := asid, view := 0,
                       stamp := s.nextBundle, bundle := 0, issued := s.cyc, issuedU := s.timeU,
                       due := s.cyc + lat, slot := 0, ranges := [], kind := k }]
    nextOp := s.nextOp + 1 }

/-- Starts an operation of the package itself: firmware's, or a merge engine's. -/
def State.startEngineOp (s : State) (asid lat : Nat) (k : OpKind) : State := s.startDieOp noDie asid lat k

/-- The operations of a member of a task. -/
def State.opsOf (s : State) (task member : Nat) : List Op :=
  s.ops.filter fun o => o.task == task && o.member == member

/-- A denial by an access table is counted (17_system R405). -/
def State.noteErr (s : State) (err : Option FaultCode) : State :=
  { s with sys := if err = some .accessTable then s.sys.count 9 1 else s.sys }

/-- An operation's class counter and mark go to its issuer (R152, R173, R174). -/
def State.endOp (s : State) (o : Op) (k : Cls) (err : Option (FaultCode × Word)) : State :=
  ((s.dropOp o.id).noteErr (err.map Prod.fst)).modOwner o.task o.member fun c =>
    match err with
    | none => c.lower k
    | some (code, faddr) => (c.lower k).mark k code o.bundle faddr

/-! ### Messages (01_engines R19) -/

/-- An event some clock cycles from now, after those due by then. -/
def insertAt (d : Nat) (i : Instr) : List (Nat × Instr) → List (Nat × Instr)
  | [] => [(d, i)]
  | (e, j) :: r => if e ≤ d then (e, j) :: insertAt (d - e) i r else (d, i) :: (e - d, j) :: r

/-- A station of the package. -/
def State.stationAt (s : State) (n : Nat) : Station := s.stations.getD n {}

/-- Changes a station. -/
def State.modStation (s : State) (n : Nat) (f : Station → Station) : State :=
  { s with stations := s.stations.set n (f (s.stationAt n)) }

/-- The offset that chooses a request's plane: its VA, or its offset in a tile or ring (15_fabric R352). -/
def planeOffset : RemoteTarget → Nat
  | .page _ va => va
  | .peerTile _ _ off => off
  | .peerRing _ off => off

/-- The plane of a request at a package (15_fabric R352). -/
def planeOf (dest : Nat) (t : RemoteTarget) : Nat := (planeOffset t / 4096 + dest) % 64

/-- The plane of migration and directory traffic for a page (15_fabric R352). -/
def pagePlane (dest : Nat) (p : PageKey) : Nat := (p.vpn * 16 + dest) % 64

/-- The flits of a message of some bytes of data: at least one (15_fabric R350, R357).
PRESUMED (notes/assumptions/39). -/
def flitsOf (bytes : Nat) : Nat := max 1 ((bytes + 63) / 64)

/-- The bytes of data that a request carries. -/
def actData : RemoteAct → Nat
  | .read _ => 0
  | .write _ len _ => len
  | .atom _ _ _ _ _ | .add _ => 8

/-- The station, channel and flits of a message from a package to another (15_fabric R352, R357), none for credit
tokens, which need no credit. An answer returns on the plane of the request, which is that of an access to this package.
PRESUMED (notes/assumptions/39). -/
def routeOf (self dest : Nat) (i : Instr) : Option (Nat × Channel × Nat) :=
  match i with
  | .remoteRequestReceive r => some (planeOf dest r.target, .req, flitsOf (actData r.act))
  | .homeConsult _ p | .commit p _ | .stubRetire p _ => some (pagePlane dest p, .req, 1)
  | .migrationRequestAtHome m | .migrationForwardAtOwner m _ => some (pagePlane dest m.page, .req, 1)
  | .reserve m _ _ frame => some (pagePlane dest m.page, .req, flitsOf ((frame.map fun f => f.bytes.length).getD 0))
  | .endForward p _ _ _ q => some (pagePlane dest p, .req, flitsOf (64 * q.length))
  | .homeAnswer _ p _ | .redirect p _ _ | .reserveAccept p _ | .transferAcknowledge p | .commitAcknowledge p _
  | .stubRetireAcknowledge p => some (pagePlane self p, .rsp, 1)
  | .owner (.record _ p _) | .owner (.lost p _) | .owner (.report p _ _) => some (pagePlane dest p, .req, 1)
  | .owner (.reported _) => some (dest % 64, .req, 1)
  | .pin (.apply asid va _) => some (planeOf dest (.page asid va), .req, 1)
  | .taskRecordBatch _ ts =>
    let die := (ts.headD ⟨0, 0, 0, 0, 0, [], none, none⟩).id / 2 ^ 30
    if ts.all fun t => t.bytes == [] then some ((self + die) % 64, .rsp, 1)
    else some ((dest + die) % 64, .req, flitsOf (256 * ts.length))
  | .jobCardTileArrival _ task t => some ((dest + task / 2 ^ 30) % 64, .req, flitsOf t.data.length)
  | .chunkReceive c => some (c.station, .chk, flitsOf c.data.length)
  | .fenceHeavySerialisation _ _ => some (dest % 64, .req, 1)
  | .fenceHeavyAcknowledge _ _ _ => some (self % 64, .rsp, 1)
  | _ => none

/-- The credit that the next flit of a channel takes: whether the dedicated reserve, and the credits after it; none
where the sender must hold the flit (15_fabric R358). -/
def takeCredit (ch : Channel) (c : Credit) : Option (Bool × Credit) :=
  if 0 < c.shared ∧ (ch ≠ .chk ∨ c.chkShared < 256) then
    some (false, { c with shared := c.shared - 1, chkShared := c.chkShared + if ch = .chk then 1 else 0 })
  else
    match ch with
    | .req => if 0 < c.req then some (true, { c with req := c.req - 1 }) else none
    | .rsp => if 0 < c.rsp then some (true, { c with rsp := c.rsp - 1 }) else none
    | .chk => if 0 < c.chk then some (true, { c with chk := c.chk - 1 }) else none

/-- Sends as many of some flits as the credits allow: those left, the reservation bits of those sent, and the credits. -/
def takeCredits (ch : Channel) : Nat → Credit → Nat × List Bool × Credit
  | 0, c => (0, [], c)
  | n + 1, c =>
    match takeCredit ch c with
    | some (b, c) =>
      let r := takeCredits ch n c
      (r.1, b :: r.2.1, r.2.2)
    | none => (n + 1, [], c)

/-- Some flits leave a station for a peer, each with its reservation bit (15_fabric R357). -/
def State.emitFlits (s : State) (station peer : Nat) (ch : Channel) (bits : List Bool) : State :=
  { s with outbox := s.outbox ++ bits.map fun b => (peer, .flitReceive station s.accid ch { reserved := b }) }

/-- Sends a message's flits from a station, or holds what lacks credit behind what it holds already. The message is
whole with its last flit. -/
def sendFlits (station : Nat) (m : HeldMsg) (s : State) : State :=
  let x := s.stationAt station
  if x.held.any fun h => h.peer == m.peer && h.ch == m.ch then
    s.modStation station fun x => { x with held := x.held ++ [m] }
  else
    let r := takeCredits m.ch m.flits (x.credit.getD m.peer {})
    let s := (s.modStation station fun x => { x with credit := x.credit.set m.peer r.2.2 }).emitFlits station m.peer m.ch
      r.2.1
    if r.1 = 0 then { s with outbox := s.outbox ++ [(m.peer, m.msg)] }
    else s.modStation station fun x => { x with held := x.held ++ [{ m with flits := r.1 }] }

/-- Sends a message through a station: nothing leaves by one that is down (R361), where what a chunk operation sends
stands for ever. A message for this package comes
through the package's own list, in the next clock cycle. -/
def State.sendOn (s : State) (station : Nat) (ch : Channel) (flits : Nat) (op : Option Nat) (dest : Nat) (i : Instr) :
    State :=
  if dest = s.accid then { s with own := insertAt 1 i s.own }
  else if (s.stationAt station).down then
    if op.isSome then s.modStation station fun x => { x with held := x.held ++ [⟨dest, ch, flits, i, op⟩] } else s
  else sendFlits station ⟨dest, ch, flits, i, op⟩ s

/-- Sends an event to a package: to this one through its own list, to another through the station of its plane.
DESIGN CHOICE (notes/assumptions/10). -/
def State.send (s : State) (dest : Nat) (i : Instr) : State :=
  match routeOf s.accid dest i with
  | some (station, ch, flits) => s.sendOn station ch flits none dest i
  | none =>
    if dest = s.accid then { s with own := insertAt 1 i s.own }
    else { s with outbox := s.outbox ++ [(dest, i)] }

/-- An event that cannot act yet comes again in the next clock cycle. -/
def State.retry (s : State) (i : Instr) : State := { s with own := insertAt 1 i s.own }

/-- Counts a RAS event; a counter saturates at 2^32 − 1 (17_system R405).
DEDUCED (notes/assumptions/32). -/
def State.ras (s : State) (k : Nat) : State :=
  { s with sys := s.sys.count k 1 }

/-- Takes the next free value's index (notes/assumptions 2). -/
def State.tickFree (s : State) : State := { s with freeCount := s.freeCount + 1 }

/-- The bundles of a deferred effect of the slot now acting (06_sequencer R139). -/
def State.defer (s : State) (d : Deferred) : State :=
  { s with iss := { s.iss with deferred := s.iss.deferred ++ [d] } }

/-! ### Taking a fault and returning from one (06_sequencer R159–R164, R170, R171) -/

/-- The fault record's fields for a fault of the bundle at the program counter (R162 Table 6-4): BUNDLE
and RESUME are that bundle, and REPCNT counts the repetitions left when a REPEAT run was active. -/
def faultInfo (s : State) (code : FaultCode) (slot : Nat) (faddr : Word) (aux : Nat) (async : Bool) :
    FaultInfo :=
  { code := code, slot := slot, async := async, bundle := s.ctx.pc, resume := s.ctx.pc, faddr := faddr,
    aux := aux, repcnt := (s.ctx.rep.map RepState.left).getD 0, at_ := s.cyc }

/-- The mark that a WAIT or END raises: the oldest of its class (R153). -/
def raisedMark (s : State) (mark : Option Cls) : Raised :=
  match mark.bind fun k => ((s.ctx.marks.get k).head?).map fun m => (k, m) with
  | some (k, m) => .mark k m
  | none => .nothing

/-- The task's state after its fault took a mark or a push from it. -/
def dropMark (mark : Option Cls) (c : Ctx) : Ctx :=
  match mark with
  | some k => { c with marks := c.marks.modify k List.tail }
  | none => c

/-- Taking a fault at the executing core's boundary (R139 step 6, R159): the bundle takes no effect, the
task stops there with the record's fields latched, and a WAIT or END consumes the mark it raises
(R153). Firmware then saves the task and starts its handler (TASK_SAVE). -/
def takeFault (code : FaultCode) (slot : Nat) (faddr : Word) (aux : Nat) (async : Bool)
    (mark : Option Cls) (s : State) : State :=
  let info := { faultInfo s code slot faddr aux async with raised := raisedMark s mark }
  { (s.noteErr (if async then none else some code)).modCore s.cur fun c =>
      { c with
        mode := .stopped (.faulted info)
        stopReq := none
        walkRes := []
        waitStamp := none
        waitSince := none
        released := false
        pubDone := none
        ctx := dropMark mark c.ctx } with
    iss := {} }

/-- Stopping at a boundary without a fault (R139 step 5): pre-emption, YIELD, a gang's stop; BRK and
TRAP stop with their record, whose RESUME is the bundle that would have issued next (R155, R156). -/
def stopCore (n : Nat) (k : StopKind) (s : State) : State :=
  s.modCore n fun c =>
    { c with
      mode := .stopped (match k with
        | .faulted f => .faulted { f with resume := c.ctx.pc, at_ := s.cyc }
        | k => k)
      stopReq := none
      walkRes := []
      waitStamp := none
      released := false
      pubDone := none }

/-- The granules of the named files, all absent after a restore (R171). -/
def allG : List Nat := [0, 1, 2, 3]
/-- The vector granules. -/
def allV : List Nat := [0, 1, 2, 3, 4, 5, 6, 7]

/-- The state with which a saved member starts again (R142, R170, R171): every granule of the named
files absent, and every branch target counted as written at the resume cycle. -/
def resumeCtx (c : Ctx) : Ctx :=
  { c with
    gAbsent := allG
    vAbsent := allV
    btAt := (List.range 8).map fun b => (b, c.icyc) }

/-- Returning from a fault or from any stop (R163, R170): the core runs the member's saved state from
its resume bundle, at the boundary before it, from the next clock cycle on (R176). -/
def returnToTask (n task member : Nat) (c : Ctx) (s : State) : State :=
  { s.modCore n fun k =>
      { k with mode := .running, task := task, member := member, ctx := resumeCtx c, bubble := 0, stalled := false, fenced := false,
               waitSince := none, sliceAt := s.cyc } with
    turn := s.turn.filter (· != n) }

end Sys2Proof.Machine
end

