-- ==== Sys2Proof/Machine/Operands.lean ====
section
/-! DEFINITION. Operand forms: sources and the stalls they cause, generic addresses and the checks of
01_engines R21, peer windows, access tables, tile handles, and the range scoreboard. -/

namespace Sys2Proof.Machine

open Sys2Proof

/-! ### Verdicts -/

/-- The first verdict that is not ok. -/
def Verdict.seq : Verdict → Verdict → Verdict
  | .ok, w => w
  | v, _ => v

/-- A fault of an issue check. -/
def faultV (code : FaultCode) (faddr : Word) : Verdict := .fault code faddr 0 false none

/-- A check: ok when it holds, else the fault.
DEDUCED (notes/assumptions/11). -/
def require (b : Bool) (code : FaultCode) (faddr : Word) : Verdict := if b then .ok else faultV code faddr

/-- A stall at step 7 while a condition holds. -/
def holdIf (b : Bool) : Verdict := if b then .hold .none else .ok

/-- The first verdict of a list that is not ok. -/
def firstV : List Verdict → Verdict
  | [] => .ok
  | v :: vs => v.seq (firstV vs)

/-! ### Sources (02_bundles R34; 11_translation R273; 06_sequencer R171) -/

/-- A translation to a tx register is pending for a member of a task (R273). -/
def xltPending (s : State) (task member n : Nat) : Bool :=
  s.ops.any fun o => o.task == task && o.member == member &&
    match o.kind with
    | .xlt m _ _ => m == n
    | _ => false

/-- What reading a scalar source needs: its granule present, no translation to it pending. -/
def needS (s : State) (a : SSrc) : Verdict :=
  match a with
  | .g n => if n ≠ 0 ∧ s.ctx.gMissing n.val then .fill false (n.val / 8) else .ok
  | .tx n => if xltPending s s.core.task s.core.member n.val then .stall else .ok
  | .q _ | .lc _ => .ok

/-- What reading a vector source needs. -/
def needV (s : State) (a : VSrc) : Verdict :=
  match a with
  | .v n => if n ≠ 0 ∧ s.ctx.vMissing n.val then .fill true (n.val / 4) else .ok
  | .vq _ => .ok

/-- Two scalar sources, in the order of their fields. -/
def needSS (s : State) (a b : SSrc) : Verdict := (needS s a).seq (needS s b)

/-! ### Generic addresses (01_engines R20 Table 1-3) -/

/-- The space tag. -/
def tagOf (a : Nat) : Nat := a / 2 ^ 60

/-- Bits `lo … lo + n − 1` of an address. -/
def abits (a lo n : Nat) : Nat := a / 2 ^ lo % 2 ^ n

/-- Step 1 of R21 for a footprint of `len` bytes. -/
def spaceOk (a len : Nat) : Bool :=
  match tagOf a with
  | 0x0 => abits a 48 12 == 0 && decide (abits a 0 48 + len ≤ 2 ^ 48)
  | 0x8 => abits a 22 38 == 0
  | 0x9 => abits a 22 22 == 0
  | 0xA => abits a 28 30 == 0 && decide (abits a 0 28 + len ≤ ringBytes)
  | 0xB => abits a 22 12 == 0
  | 0xC => abits a 28 20 == 0 && decide (abits a 0 28 + len ≤ ringBytes)
  | _ => false

/-- The fields of a tag 0x9 address: owner core, handle, offset. -/
def tileCore (a : Nat) : Nat := abits a 52 8
/-- The handle of a tag 0x9 address. -/
def tileHandle (a : Nat) : Nat := abits a 44 8
/-- The offset of tags 0x8, 0x9 and 0xB. -/
def offOf (a : Nat) : Nat := abits a 0 22
/-- The die of a tag 0xA address. -/
def ringDie (a : Nat) : Nat := abits a 58 2
/-- The offset of tags 0xA and 0xC. -/
def ringOff (a : Nat) : Nat := abits a 0 28
/-- The accelerator id of tags 0xB and 0xC. -/
def peerAcc (a : Nat) : Nat := abits a 50 10
/-- The core of a tag 0xB address. -/
def peerCore (a : Nat) : Nat := abits a 42 8
/-- The handle of a tag 0xB address. -/
def peerHandle (a : Nat) : Nat := abits a 34 8
/-- The die of a tag 0xC address. -/
def peerDie (a : Nat) : Nat := abits a 48 2
/-- The VA of a tag 0x0 address. -/
def vaOf (a : Nat) : Nat := abits a 0 48

/-- What a peer address reaches at its owner. -/
def peerTarget (a : Nat) : RemoteTarget :=
  if tagOf a = 0xB then .peerTile (peerCore a) (peerHandle a) (offOf a) else .peerRing (peerDie a) (ringOff a)

/-! ### Peer windows (15_fabric R355 Table 15-1) -/

/-- A window is enabled, covers the accelerator id, and its SPACE includes the tag. -/
def windowMatches (w : Word) (a : Nat) : Bool :=
  decide (bits w 54 10 ≤ peerAcc a) && decide (peerAcc a ≤ bits w 44 10) &&
    (if tagOf a = 0xB then bits w 42 1 == 1 else bits w 43 1 == 1)

/-- The lowest-numbered matching window, from window `k` on. -/
def findWindow (a : Nat) : Nat → List Word → Option (Nat × Word)
  | _, [] => none
  | k, w :: ws => if windowMatches w a then some (k, w) else findWindow a (k + 1) ws

/-- The window of an address for the task on a core. -/
def windowAt (s : State) (core a : Nat) : Option (Nat × Word) :=
  findWindow a 0 (((s.context? (s.asidAt core)).map Context.wins).getD [])

/-- The window grants the access (R355). -/
def windowGrants (w : Word) (rd wr : Bool) : Bool :=
  (!rd || bits w 40 1 == 1) && (!wr || bits w 41 1 == 1)

/-! ### Access tables (17_system R398, R399) -/

/-- The entries of a target's table. -/
def guardTable (s : State) (g : Guard) : FMap AccessEntry :=
  ((s.sys.access.find? fun e => e.1 == g).map Prod.snd).getD []

/-- The lowest-numbered valid entry that covers the access decides; none denies it (R399). -/
def tableGrants (m x y : Nat) (rd wr : Bool) : FMap AccessEntry → Bool
  | [] => false
  | (_, e) :: es =>
    if e.mlo ≤ m ∧ m ≤ e.mhi ∧ e.base * 256 ≤ x ∧ y ≤ e.limit * 256 + 255 then
      (!rd || e.rd) && (!wr || e.wr)
    else tableGrants m x y rd wr es

/-- Whether a target allows a master's access to bytes x…y of its address space. -/
def allowed (s : State) (g : Guard) (m x y : Nat) (rd wr : Bool) : Bool :=
  tableGrants m x y rd wr (guardTable s g)

/-- The controllers of a range of physical addresses allow an access, each for the bytes of the range
in its granules (11_translation R260; 17_system R398). -/
def lpddrAllowed (s : State) (m pa len : Nat) (rd wr : Bool) : Bool :=
  (granules4k pa len).all fun g =>
    let x := max pa (g * 4096)
    let y := min (pa + len - 1) (g * 4096 + 4095)
    allowed s (.controller (g % 96)) m x y rd wr

/-- The controllers allow a master's access to bytes of LPDDR6 as it reaches them (17_system R398, R400): a ring stop judges
an access when it accepts it, before the access is made.
DESIGN CHOICE (notes/assumptions/73). -/
def keyAllowed (s : State) (m key len : Nat) (rd wr : Bool) : Bool :=
  decide (lpddrBytes ≤ key) || lpddrAllowed s m key len rd wr

/-- The controllers allow an access of an operation of a core: one of a task that has left its core was accepted under
that core's identifier. -/
def coreAllowed (s : State) (core key len : Nat) (rd wr : Bool) : Bool :=
  decide (256 ≤ core) || keyAllowed s core key len rd wr

/-- The master identifier of a die's task engine, walkers, revision units and merge engines
(17_system Table 17-4). -/
def dieMaster (die : Nat) : Nat := 0x14A + die

/-- The migration agent's master identifier (17_system Table 17-4). -/
def agentMaster : Nat := 0x14E

/-- The revision unit behind a granule's controller may read and write it. -/
def unitAllowed (s : State) (gran : Nat) (wr : Bool) : Bool :=
  lpddrAllowed s (dieMaster (homeDie 0 (gran * 4096))) (gran * 4096) 4096 true wr

/-- Why the copies that writes of a view to some granules need cannot be made, if they cannot: the controller denies the
revision unit the granule (17_system R398), or the pool has no room (14_revisions R339).
DESIGN CHOICE (notes/assumptions/73). -/
def copiesFail (s : State) (view : Nat) (gs : List Nat) : Option FaultCode :=
  let n := copiesForGranules s view gs
  if n = 0 then none
  else if gs.any fun g => copiesNeeded s view g != [] && !unitAllowed s g false then some .accessTable
  else if poolHas s n then none
  else some .revisionPool

/-- The ring stops of a range of ring offsets allow an access (01_engines R13).
DEDUCED (notes/assumptions/15). -/
def ringAllowed (s : State) (m die off len : Nat) (rd wr : Bool) : Bool :=
  (granules4k off len).all fun g =>
    let x := max off (g * 4096)
    let y := min (off + len - 1) (g * 4096 + 4095)
    allowed s (.ringStop die (ringStop (g * 4096))) m x y rd wr

/-! ### Tiles (05_scalar R130–R132) -/

/-- A tile's byte size (R132). -/
def tileBytes (e : TileEntry) : Nat :=
  match e.ty with
  | .i4 | .n4 => (e.rows * e.cols + 1) / 2
  | t => e.rows * e.cols * t.width / 8

/-- The key of a byte of a tile (R132). -/
def tileByteKey (core : Nat) (e : TileEntry) (off : Nat) : Nat :=
  match e.level with
  | .tile => tileKey core (e.base * 256 + off)
  | .ring => ringKey (dieOf core) (e.base * 4096 + off)

/-- The physical entry that a member of a task has for a handle: its mask and binding (R130). -/
def Ctx.entryOf (c : Ctx) (h : Nat) : Option Nat := c.hmap.get? h

/-- The tile that the task on a core has under a handle. -/
def State.tileAt (s : State) (core h : Nat) : Option (Nat × TileEntry) :=
  match (s.coreAt core).ctx.entryOf h with
  | some i => ((s.coreAt core).tiles.get? i).map fun e => (i, e)
  | none => none

/-- The tile of a handle operand in a register: none when bits 63:8 are not zero or the handle is
outside the mask (R130). -/
def State.tileOfReg (s : State) (v : Word) : Option (Nat × TileEntry) :=
  if v.toNat < 256 then s.tileAt s.cur v.toNat else none

/-- Changes a tile-table entry of a core. -/
def State.modTile (s : State) (core i : Nat) (f : TileEntry → TileEntry) : State :=
  s.modCore core fun c =>
    match c.tiles.get? i with
    | some e => { c with tiles := c.tiles.set i (f e) }
    | none => c

/-- The elements that bytes `off … off + len − 1` of a tile wholly or partly hold (R72, R120). -/
def touchedElems (e : TileEntry) (off len : Nat) : List Nat :=
  let w := e.ty.width
  if len = 0 then []
  else
    let first := off * 8 / w
    let last := min ((off + len) * 8 - 1) (e.rows * e.cols * w - 1) / w
    (List.range (last + 1 - first)).map (· + first)

/-- A byte as a core sees it: memory with the core's own stores that have not performed over it, those of
operations below a bound (04_memory_model R81). -/
def coreByte (s : State) (core bound key : Nat) : Byte :=
  s.ops.foldl (fun b o =>
    if o.core = core ∧ o.id < bound then
      match o.kind with
      | .store w =>
        match w.place with
        | .here k =>
          w.data.foldl (fun b x => if k + x.off = key then (b &&& ~~~x.bits) ||| (x.val &&& x.bits) else b) b
        | .far _ _ _ | .zero => b
      | _ => b
    else b) (s.viewByte (s.viewAt core) key)

/-- Bytes as a core sees them. -/
def coreBytes (s : State) (core bound key : Nat) : Nat → List Byte
  | 0 => []
  | n + 1 => coreByte s core bound key :: coreBytes s core bound (key + 1) n

/-- The code of element `n` of a tile (03_numbers R59), as its core sees it. -/
def elemCode (s : State) (core : Nat) (e : TileEntry) (n : Nat) : Nat :=
  let w := e.ty.width
  if w = 4 then
    (coreByte s core s.nextOp (tileByteKey core e (n / 2))).toNat / (if n % 2 = 0 then 1 else 16) % 16
  else leNat (coreBytes s core s.nextOp (tileByteKey core e (n * w / 8)) (w / 8))

/-- The value of element `n` of a tile. -/
def elemAt (s : State) (core : Nat) (e : TileEntry) (n : Nat) : Int := elemVal e.ty (elemCode s core e n)

/-- The census of a partial or whole write over some elements, with the values they hold afterwards
(03_numbers R72). -/
def censusAfter (s : State) (core : Nat) (e : TileEntry) (whole : Bool) (ns : List Nat) : Nat :=
  if ns = [] then e.census
  else minCensus e.ty (ns.map (elemAt s core e)) (if whole then clsMax e.ty else e.census)

/-- A core's own write of some elements of a tile: DIRTY, and the census of a partial write, or of a
whole one (05_scalar R120; 07_vector R195). A write of no element changes nothing. -/
def noteTileWrite (s : State) (core i : Nat) (whole : Bool) (ns : List Nat) : State :=
  if ns = [] then s
  else
    match (s.coreAt core).tiles.get? i with
    | none => s
    | some e =>
      s.modTile core i fun e' => { e' with dirty := true, census := censusAfter s core e whole ns }

/-! ### Allocation (05_scalar R130–R134; 13_tasks R317, R318) -/

/-- Changes an entry of a tile table. -/
def modEntry (m : FMap TileEntry) (i : Nat) (f : TileEntry → TileEntry) : FMap TileEntry :=
  match m.get? i with
  | some e => m.set i (f e)
  | none => m

/-- The bytes of a shape in a type (R132). -/
def shapeBytes (rows cols : Nat) (t : ElemTy) : Nat := (rows * cols * t.width + 7) / 8

/-- The granules that a tile of a level needs (R131). -/
def granuleCount (l : Level) (bytes : Nat) : Nat :=
  match l with
  | .tile => (bytes + 255) / 256
  | .ring => (bytes + 4095) / 4096

/-- The granules of a level: of a core's tile memory or of a die's ring. -/
def granuleTotal : Level → Nat
  | .tile => 12288
  | .ring => 49152

/-- The runs of granules in use: by the tiles of a core and its private spaces, or by the ring tiles of
the cores of its die. -/
def usedRuns (s : State) (core : Nat) (l : Level) : List (Nat × Nat) :=
  let of_ (c : Core) : List (Nat × Nat) :=
    (c.tiles.vals.filter fun e => e.level == l).map fun e => (e.base, granuleCount l (tileBytes e))
  match l with
  | .tile => of_ (s.coreAt core) ++ (s.coreAt core).privs.map fun p => (p.base, p.count)
  | .ring => ((s.cores.filter fun (n, _) => dieOf n == dieOf core).map fun (_, c) => of_ c).flatten

/-- The lowest start of a free run of granules (R133: first fit). -/
def firstFit (total n : Nat) (used : List (Nat × Nat)) : Option Nat :=
  ((0 :: used.map fun (b, k) => b + k).filter fun b =>
    decide (b + n ≤ total) && used.all fun (u, k) => !overlaps b n u k).min?

/-- The lowest physical entry of a core that describes no tile. -/
def freeEntry (c : Core) : Option Nat := (List.range 512).find? fun i => (c.tiles.get? i).isNone

/-- A task that has not completed. -/
def inFlight (t : Task) : Bool := t.state != .done

/-- A set entry names a handle of a core. -/
def entryNames (core h : Nat) : SetEntry → Bool
  | .tile c f l => c == core && decide (f ≤ h) && decide (h ≤ l)
  | .unused | .ring _ _ _ | .global _ _ => false

/-- A task's record names a handle of a core (13_tasks R318). -/
def namesHandle (t : Task) (core h : Nat) : Bool :=
  t.spec.reads.any (entryNames core h) || t.spec.writes.any (entryNames core h)

/-- The core that a task's TILE entries bind it to (13_tasks R311). -/
def boundCore (t : Task) : Option Nat :=
  (t.spec.reads ++ t.spec.writes).findSome? fun e =>
    match e with
    | .tile c _ _ => some c
    | .unused | .ring _ _ _ | .global _ _ => none

/-- A pipe of a gang has a slot of this handle on a core (13_tasks R323). -/
def slotHandle (t : Task) (core h : Nat) : Bool :=
  t.pipes.vals.any fun p => t.cores[p.dst]? == some core && p.slots.any fun x => x.handle == h

/-- A handle is allocated on a core: it has a tile there, an in-flight task names it, or it is a pipe
slot's (R133; 13_tasks R318, R323). -/
def handleTaken (s : State) (core h : Nat) : Bool :=
  ((s.coreAt core).handles.get? h).isSome ||
    s.tasks.any fun t => inFlight t && (namesHandle t core h || slotHandle t core h)

/-- The tile that a side of an operation reads or writes: its core and entry, through tag 0x9 or through a peer form
that names this package (04_memory_model R78). -/
def sideTile (s : State) (core : Nat) (x : Side) : Option (Nat × Nat) :=
  match x with
  | .tile e _ => some (core, e)
  | .peer acc (.peerTile c h _) => if acc = s.accid then ((s.coreAt c).handles.get? h).map fun e => (c, e) else none
  | .peer _ (.peerRing _ _) | .peer _ (.page _ _) | .priv _ | .ring _ _ | .global _ _ | .none => none

/-- The tiles that an operation in flight reads or writes, each a core and a physical entry. -/
def opTiles (s : State) (o : Op) : List (Nat × Nat) :=
  let own (es : List Nat) : List (Nat × Nat) := es.map fun e => (o.core, e)
  match o.kind with
  | .copy c => (sideTile s o.core c.dst).toList ++ (sideTile s o.core c.src).toList ++ own (c.idx.map Prod.fst).toList
  | .matrix m => own [m.a, m.b]
  | .vfnld _ x _ => (sideTile s o.core x).toList
  | .vopt _ w m g _ _ _ _ => own [w, m, g]
  | .pipew _ e _ _ => own [e]
  | _ => []

/-- An asynchronous operation that reads or writes a tile is in flight (R134). -/
def tileBusy (s : State) (core entry : Nat) : Bool := s.ops.any fun o => decide ((core, entry) ∈ opTiles s o)

/-- An entry is still needed: it is a handle's current version, an in-flight task is bound to it or is to have a copy of
it, a pipe slot holds it, or an operation uses it (R134; 13_tasks R317). -/
def entryNeeded (s : State) (core entry : Nat) : Bool :=
  decide (entry ∈ (s.coreAt core).handles.vals) ||
    (s.tasks.any fun t => inFlight t &&
      ((boundCore t == some core && (decide (entry ∈ t.binds.vals) || t.fills.any fun p => p.2 == entry)) ||
       t.pipes.vals.any fun p => t.cores[p.dst]? == some core && p.slots.any fun x => x.entry == some entry)) ||
    tileBusy s core entry

/-- Frees the storage of every version of a core that nothing needs any more (13_tasks R317).
DESIGN CHOICE (notes/assumptions/63). -/
def collectTiles (core : Nat) (s : State) : State :=
  s.modCore core fun c => { c with tiles := c.tiles.filter fun (i, _) => entryNeeded s core i }

/-- A pipe slot of a handle becomes EMPTY (13_tasks R323). -/
def emptySlot (core h : Nat) (t : Task) : Task :=
  { t with pipes := t.pipes.map fun (k, p) =>
    if t.cores[p.dst]? = some core then
      (k, { p with slots := p.slots.map fun (x : PipeSlot) =>
        if x.handle = h ∧ x.state = .held then { x with state := .empty, entry := none } else x })
    else (k, p) }

/-- The entries of a handle map whose companion is one of some freed handles are companions of themselves (R134). -/
def unlinkAll (freed : List Nat) (hm : FMap Nat) (tiles : FMap TileEntry) : FMap TileEntry :=
  hm.foldl (fun m (k, j) => modEntry m j fun e => if e.comp ∈ freed then { e with comp := k } else e) tiles

/-- Frees a handle of the task on a core (R134): it leaves the task's mask, its companions are unlinked,
and its storage returns when no version of it is needed. -/
def freeHandle (core h : Nat) (s : State) : State :=
  match (s.coreAt core).ctx.entryOf h with
  | none => s
  | some i =>
    let s := s.modCore core fun c =>
      let hm := c.ctx.hmap.erase h
      { c with
        ctx := { c.ctx with hmap := hm }
        handles := if c.handles.get? h = some i then c.handles.erase h else c.handles
        tiles := unlinkAll [h] hm c.tiles }
    let s := s.modTask (s.coreAt core).task fun t => emptySlot core h { t with binds := t.binds.erase h }
    collectTiles core s

/-! ### The range scoreboard (10_copy R247; 05_scalar R121; 09_matrix R234) -/

/-- An operation in flight of the core holds a range from an access. -/
def heldRange (s : State) (core : Nat) (wr : Bool) (key len : Nat) : Bool :=
  s.ops.any fun o => o.core == core &&
    o.ranges.any fun r => (wr || r.excl) && overlaps r.key r.len key len

/-- The scoreboard entries in use on a core: those of copy, SAE and far operations (R247), of MIGR
(12_migration R292) and of PIPEW (13_tasks R324). -/
def entriesUsed (s : State) (core : Nat) : Nat :=
  ((s.ops.filter fun o => o.core == core &&
      match o.kind with
      | .copy _ | .far _ | .migr _ _ _ _ | .pipew _ _ _ _ => true
      | _ => false).map fun o => o.ranges.length).sum

/-! ### Peer forms at their owner (01_engines R20–R22; 15_fabric R359) -/

/-- The tile that a peer form reaches at this package, under the handle of its core (R21): the core, the
entry and the byte offset. -/
def peerTileOf (s : State) : RemoteTarget → Option (Nat × Nat × Nat)
  | .peerTile c h off => if c < 256 then ((s.coreAt c).handles.get? h).map fun e => (c, e, off) else none
  | .peerRing _ _ | .page _ _ => none

/-- The key of the bytes that a peer form reaches at this package, none where the handle or the bounds
are refused (R21). -/
def peerKey (s : State) (t : RemoteTarget) (len : Nat) : Option Nat :=
  match t with
  | .peerTile c h off =>
    match peerTileOf s (.peerTile c h off) with
    | none => none
    | some (_, i, _) =>
      ((s.coreAt c).tiles.get? i).bind fun e =>
        if off + len ≤ tileBytes e then some (tileByteKey c e off) else none
  | .peerRing d off => if off + len ≤ ringBytes then some (ringKey d off) else none
  | .page _ _ => none

/-- A peer form that names this package itself (R22): the key of its bytes. -/
def ownPeer (s : State) (p : Place) (len : Nat) : Option Nat :=
  match p with
  | .far acc _ t => if acc = s.accid then peerKey s t len else none
  | .here _ | .zero => none

end Sys2Proof.Machine
end

