-- ==== Sys2Proof/Machine/Translate.lean ====
section
/-! DEFINITION. Address translation (11_translation R260–R270): the heap window, page tables and walks,
TLBs, the checks at issue, and where the bytes of an access are. -/

namespace Sys2Proof.Machine

open Sys2Proof

/-! ### The heap window (R261, R262) -/

/-- A footprint wholly inside the heap window. -/
def inHeap (c : Context) (va len : Nat) : Bool :=
  decide (0 < c.hl) && decide (c.hb ≤ va) && decide (va + len ≤ c.hb + c.hl)

/-- A footprint that overlaps the heap window. -/
def touchesHeap (c : Context) (va len : Nat) : Bool :=
  decide (0 < c.hl) && overlaps va len c.hb c.hl

/-- The physical address of a heap byte (R262). -/
def heapPa (c : Context) (va : Nat) : Nat := (va + c.ho) % 2 ^ 40

/-! ### Page tables and walks (R263–R265) -/

/-- The bytes of a page of a size code (R263 Table 11-1). -/
def pageBytes : Nat → Nat
  | 0 => 2 ^ 16
  | 1 => 2 ^ 21
  | _ => 2 ^ 30

/-- The base VA of the page of a size that holds a VA. -/
def pageBase (size va : Nat) : Nat := va / pageBytes size * pageBytes size

/-- A page-table entry as it stands in memory. -/
def pteAt (s : State) (pa : Nat) : Nat := leNat (s.bytes pa 8)

/-- The VA bits that index a level's table. -/
def levelIndex (level va : Nat) : Nat :=
  match level with
  | 3 => abits va 39 9
  | 2 => abits va 30 9
  | 1 => abits va 21 9
  | _ => abits va 16 5

/-- The fields that are zero in every kind of entry but TABLE's NEXT (R264 Table 11-2). -/
def pteZeros (e : Nat) : Bool := abits e 48 16 == 0 && abits e 40 2 == 0

/-- A LOCAL entry's frame, aligned to its page and inside LPDDR6 (R265). -/
def frameOk (size frame : Nat) : Bool :=
  frame * 2 ^ 16 % pageBytes size == 0 && decide (frame * 2 ^ 16 < lpddrBytes)

/-- How one entry ends or continues a walk (R264, R265): `none` continues at the table of the physical
address. -/
inductive PteStep
  | bad
  | table (pa : Nat)
  | localPage (frame : Nat) (rd w : Bool)
  | remotePage (owner : Nat) (rd w : Bool)
  | nonResident (rd w : Bool)
  deriving DecidableEq, Repr

/-- Reads one entry at a level. A table at or above 768 GiB is none of the failures that R265 lists: memory has
no bytes there, its entries read as zero, and a walk into it ends at an INVALID entry.
DESIGN CHOICE (notes/assumptions/80). -/
def pteStep (level e : Nat) : PteStep :=
  let rd := abits e 42 1 == 1
  let w := abits e 43 1 == 1
  let leafOk := pteZeros e && abits e 3 13 == 0 && decide (level < 3)
  match abits e 0 3 with
  | 1 =>
    let next := abits e 8 32 * 256
    if pteZeros e && abits e 3 5 == 0 && abits e 42 6 == 0 && decide (0 < level) &&
        (level == 1 || next % 4096 == 0) then .table next else .bad
  | 2 =>
    let frame := abits e 16 24
    if leafOk && frameOk level frame then .localPage frame rd w else .bad
  | 3 => if leafOk && abits e 26 14 == 0 then .remotePage (abits e 16 10) rd w else .bad
  | 4 => if leafOk then .nonResident rd w else .bad
  | _ => .bad

/-- The verdicts of the access tables for a master and a LOCAL page (R268; 17_system R399).
DEDUCED (notes/assumptions/55). -/
def leafVerdict (s : State) (master size frame : Nat) (rd wr : Bool) : Bool :=
  let x := frame * 2 ^ 16
  let y := x + pageBytes size - 1
  (List.range (min 96 (pageBytes size / 4096))).all fun k =>
    allowed s (.controller ((x / 4096 + k) % 96)) master x y rd wr

/-- The master identifier of the walker that walks for a master: that of the walkers of the die of its core or station,
or the master's own where it is firmware or an agent, which has no die.
DESIGN CHOICE (notes/assumptions/73). -/
def walkerOf (master : Nat) : Nat :=
  if master < 0x100 then dieMaster (dieOf master)
  else if master < 0x140 then dieMaster ((master - 0x100) / 16)
  else master

/-- A walk from a level's table down (R265): its end, and the entries read. A controller that denies the walker a
table read ends the walk as ACCESS_TABLE (17_system R398, R399).
DESIGN CHOICE (notes/assumptions/73). -/
def walkFrom (s : State) (asid va master : Nat) : Nat → Nat → WalkEnd × Nat
  | level, table =>
    let pa := table + 8 * levelIndex level va
    if !lpddrAllowed s (walkerOf master) pa 8 true false then (.failed .accessTable, 1)
    else if readFault s.sys pa 8 = some .eccUe then (.failed .eccUe, 1)
    else
      match pteStep level (pteAt s pa) with
      | .bad => (.failed .translation, 1)
      | .table next =>
        match level with
        | 0 => (.failed .translation, 1)
        | l + 1 =>
          let r := walkFrom s asid va master l next
          (r.1, r.2 + 1)
      | .localPage frame rd w =>
        (.leaf ⟨asid, pageBase level va / 2 ^ 16, level, none, frame, rd, w, master,
          leafVerdict s master level frame true false, leafVerdict s master level frame false true⟩, 1)
      | .remotePage owner rd w =>
        (.leaf ⟨asid, pageBase level va / 2 ^ 16, level, some owner, 0, rd, w, master, true, true⟩, 1)
      | .nonResident rd w => (.nonResident (pageBase level va / 2 ^ 16) level rd w, 1)

/-- A walk of a context's page tables. A context that is not on the package has no root. -/
def walk (s : State) (asid va master : Nat) : WalkEnd × Nat :=
  match s.context? asid with
  | some c => walkFrom s asid va master 3 c.ptroot
  | none => (.failed .translation, 1)

/-! ### TLBs (R269, R279) -/

/-- An entry translates a VA of an ASID. -/
def TlbEntry.hits (e : TlbEntry) (asid va : Nat) : Bool :=
  e.asid == asid && e.vpn * 2 ^ 16 == pageBase e.size va

/-- The smallest matching entry (R279). -/
def tlbFind (es : List TlbEntry) (asid va : Nat) : Option TlbEntry :=
  [0, 1, 2].findSome? fun z => es.find? fun e => e.size == z && e.hits asid va

/-- An entry filled, the most recently used first, within a capacity (R269). -/
def tlbFill (cap : Nat) (e : TlbEntry) (es : List TlbEntry) : List TlbEntry :=
  (e :: es.filter fun x => !(x.asid == e.asid && x.vpn == e.vpn && x.size == e.size)).take cap

/-- The entries after a use of the one that translates a VA: it is then the most recently used (R269). -/
def tlbUse (cap asid va : Nat) (es : List TlbEntry) : List TlbEntry :=
  match tlbFind es asid va with
  | some e => tlbFill cap e es
  | none => es

/-- The entries after the use of the pages of a footprint. -/
def tlbUsePages (cap asid : Nat) : Nat → Nat → Nat → List TlbEntry → List TlbEntry
  | 0, _, _, es => es
  | f + 1, va, stop, es =>
    if stop ≤ va then es
    else tlbUsePages cap asid f ((va / 2 ^ 16 + 1) * 2 ^ 16) stop (tlbUse cap asid va es)

/-- An access of the executing core uses the translations of its pages (R269). -/
def usePages (addr : Word) (len : Nat) (s : State) : State :=
  if tagOf addr.toNat = 0 then
    let va := vaOf addr.toNat
    s.modCore s.cur fun c =>
      { c with l1 := tlbUsePages 256 (s.asidAt s.cur) (len / 2 ^ 16 + 2) va (va + len) c.l1 }
  else s

/-- The page that a walk's result tells of: its base and bytes. A failure tells of its 64 KiB alone. -/
def WalkRes.extent (r : WalkRes) : Nat × Nat :=
  match r.res with
  | .leaf e => (e.vpn * 2 ^ 16, pageBytes e.size)
  | .nonResident vpn size _ _ => (vpn * 2 ^ 16, pageBytes size)
  | .failed _ => (r.page * 2 ^ 16, 2 ^ 16)

/-- A walk's result tells of a VA. -/
def WalkRes.covers (r : WalkRes) (asid va : Nat) : Bool :=
  r.asid == asid && decide (r.extent.1 ≤ va) && decide (va < r.extent.1 + r.extent.2)

/-- What a core's translation of a page gives, none when a walk is needed (R268 step 1): the walk made for this very
64 KiB of the stalled bundle, then the first-level TLB, then a walk for another part of a large page. The end of a
walk serves its bundle until it issues, whatever holds it meanwhile, a non-resident page too.
DESIGN CHOICE (notes/assumptions/80). -/
def pageAt (s : State) (core asid va : Nat) : Option WalkEnd :=
  let walks := (s.coreAt core).walkRes
  ((walks.find? fun r => r.asid == asid && r.page == va / 2 ^ 16).map WalkRes.res).or
    (((tlbFind (s.coreAt core).l1 asid va).map WalkEnd.leaf).or
      ((walks.find? fun r => r.covers asid va).map WalkRes.res))

/-- The first VA after a page. -/
def pageEnd (va : Nat) : WalkEnd → Nat
  | .leaf e => pageBase e.size va + pageBytes e.size
  | .nonResident _ size _ _ => pageBase size va + pageBytes size
  | .failed _ => pageBase 0 va + pageBytes 0

/-- The places of an ASID where a core's translations may change inside a large page: a smaller page that its TLB
holds, or a walk's own 64 KiB (R279). -/
def cutsOf (s : State) (core asid : Nat) : List Nat :=
  let c := s.coreAt core
  (c.l1.filterMap fun e => if e.asid = asid then some (e.vpn * 2 ^ 16) else none) ++
    c.walkRes.filterMap fun r => if r.asid = asid then some (r.page * 2 ^ 16) else none

/-- The first of some places after a VA and before the end of its page, else that end. -/
def cutAt (cuts : List Nat) (va stop : Nat) : Nat :=
  cuts.foldl (fun e b => if va < b ∧ b < e then b else e) stop

/-- The first VA after one that need not be translated as it is. -/
def pageStop (s : State) (core asid va : Nat) (r : WalkEnd) : Nat := cutAt (cutsOf s core asid) va (pageEnd va r)

/-- Steps 1 to 4 of R268 for one page. -/
def pageCheck (rd wr : Bool) (faddr : Word) : WalkEnd → Verdict
  | .failed code => faultV code faddr
  | .nonResident _ _ r w =>
    if (rd && !r) || (wr && !w) then faultV .permission faddr
    else if wr then faultV .nonresWrite faddr
    else .ok
  | .leaf e =>
    if (rd && !e.rd) || (wr && !e.w) then faultV .permission faddr
    else if e.remote.isNone && ((rd && !e.vrd) || (wr && !e.vw)) then faultV .accessTable faddr
    else .ok

/-- The pages of a footprint in ascending VA order (R268). -/
def checkPages (s : State) (core asid : Nat) (rd wr : Bool) (faddr : Word) : Nat → Nat → Nat → Verdict
  | 0, _, _ => .ok
  | f + 1, va, stop =>
    if stop ≤ va then .ok
    else
      match pageAt s core asid va with
      | none => .walk asid va
      | some r =>
        (pageCheck rd wr faddr r).seq (checkPages s core asid rd wr faddr f (pageStop s core asid va r) stop)

/-- The checks of a tag 0x0 footprint (R262, R268). -/
def checkGlobal (s : State) (core : Nat) (rd wr : Bool) (faddr : Word) (va len : Nat) : Verdict :=
  match s.context? (s.asidAt core) with
  | none => faultV .translation faddr
  | some c =>
    if inHeap c va len then
      require (lpddrAllowed s core (heapPa c va) len rd wr) .accessTable faddr
    else if touchesHeap c va len then faultV .heapLimit faddr
    else checkPages s core (s.asidAt core) rd wr faddr (len / 2 ^ 16 + 2) va (va + len)

/-- Where a page's byte is. -/
def pagePlace (asid va : Nat) : WalkEnd → Place
  | .leaf e =>
    match e.remote with
    | none => .here (e.frame * 2 ^ 16 + (va - pageBase e.size va))
    | some o => .far o e.size (.page asid va)
  | .nonResident _ _ _ _ => .zero
  | .failed _ => .zero

/-- The runs of a footprint that passed its checks. -/
def pageRuns (s : State) (core asid : Nat) : Nat → Nat → Nat → List Run
  | 0, _, _ => []
  | f + 1, va, stop =>
    if stop ≤ va then []
    else
      match pageAt s core asid va with
      | none => []
      | some r => ⟨pagePlace asid va r, min stop (pageStop s core asid va r) - va⟩ ::
          pageRuns s core asid f (pageStop s core asid va r) stop

/-! ### The checks of a generic address, and its bytes (R21, R119) -/

/-- Steps 2 to 5 of R21 and the translation of tag 0x0, for an access of `len` bytes. -/
def checkSpace (s : State) (rd wr : Bool) (addr : Word) (len : Nat) : Verdict :=
  let a := addr.toNat
  match tagOf a with
  | 0xB | 0xC =>
    match windowAt s s.cur a with
    | some (_, w) => require (windowGrants w rd wr) .window addr
    | none => faultV .window addr
  | 0x9 =>
    if tileCore a ≠ s.cur then faultV .tileForeign addr
    else
      match s.tileAt s.cur (tileHandle a) with
      | none => faultV .tileHandle addr
      | some (_, e) => require (decide (offOf a + len ≤ tileBytes e)) .tileBounds addr
  | 0x8 => require (decide (offOf a + len ≤ s.ctx.priv)) .tileBounds addr
  | 0xA => require (ringAllowed s s.cur (ringDie a) (ringOff a) len rd wr) .accessTable addr
  | _ => checkGlobal s s.cur rd wr addr (vaOf a) len

/-- The checks of a scalar or vector access in the order of R119. -/
def checkAccess (s : State) (rd wr : Bool) (al : Nat) (addr : Word) (len : Nat) : Verdict :=
  (require (spaceOk addr.toNat len) .space addr).seq
    ((require (addr.toNat % al == 0) .align addr).seq (checkSpace s rd wr addr len))

/-- The bytes of an access that passed its checks. -/
def accessRuns (s : State) (addr : Word) (len : Nat) : List Run :=
  let a := addr.toNat
  match tagOf a with
  | 0xB | 0xC => [⟨.far (peerAcc a) 0 (peerTarget a), len⟩]
  | 0x9 =>
    match s.tileAt s.cur (tileHandle a) with
    | some (_, e) => [⟨.here (tileByteKey s.cur e (offOf a)), len⟩]
    | none => []
  | 0x8 => [⟨.here (privKey s.core.task s.core.member (offOf a)), len⟩]
  | 0xA => [⟨.here (ringKey (ringDie a) (ringOff a)), len⟩]
  | _ =>
    match s.context? (s.asidAt s.cur) with
    | none => []
    | some c =>
      if inHeap c (vaOf a) len then [⟨.here (heapPa c (vaOf a)), len⟩]
      else pageRuns s s.cur (s.asidAt s.cur) (len / 2 ^ 16 + 2) (vaOf a) (vaOf a + len)

/-- The tile of a tag 0x9 address. -/
def tileOfAddr (s : State) (addr : Word) : Option (Nat × TileEntry) :=
  if tagOf addr.toNat = 0x9 then s.tileAt s.cur (tileHandle addr.toNat) else none

/-- Where an access's location lives decides its latency (02_bundles R47 Table 2-14). -/
inductive Space
  | tile | ring | global
  deriving DecidableEq, Repr

/-- The space of a generic address: tile memory, ring (a level-1 tile among it), or global and peer. -/
def spaceOf (s : State) (addr : Word) : Space :=
  match tagOf addr.toNat with
  | 0x8 => .tile
  | 0x9 =>
    match tileOfAddr s addr with
    | some (_, e) => if e.level = .ring then .ring else .tile
    | none => .tile
  | 0xA => .ring
  | _ => .global

/-- A scoreboard hold on any run of an access, whatever the tag that reached it (05_scalar R121;
10_copy R247). -/
def runsHeld (s : State) (wr : Bool) (rs : List Run) : Bool :=
  rs.any fun r =>
    match r.place with
    | .here k => heldRange s s.cur wr k r.len
    | .far _ _ _ =>
      match ownPeer s r.place r.len with
      | some k => heldRange s s.cur wr k r.len
      | none => false
    | .zero => false

/-! ### Frames in transit (12_migration R297, R299) -/

/-- A key lies in the frame of a page: its offset there. -/
def inFrame (p : PageKey) (frame key : Nat) : Option Nat :=
  if frame ≤ key ∧ key < frame + pageBytes p.size then some (key - frame) else none

/-- The page whose frame the frame's controller relays to the new owner (R299), with the offset of a key.
DEDUCED (notes/assumptions/28). -/
def movedAt (s : State) (key : Nat) : Option (PageKey × Nat) :=
  s.mig.stubs.findSome? fun x => x.frame.bind fun f => (inFrame x.page f key).map fun o => (x.page, o)

/-- A move past its freeze. -/
def Move.isFrozen (m : Move) : Bool :=
  match m.stage with
  | .reserving => false
  | .frozen | .committing => true

/-- The page whose frame is frozen, with its freeze queue and the offset of a key.
DEDUCED (notes/assumptions/28). -/
def frozenAt (s : State) (key : Nat) : Option (Move × Nat) :=
  s.mig.moves.findSome? fun m =>
    if m.isFrozen then (inFrame m.req.page m.frame key).map fun o => (m, o) else none

/-- The VA of an offset of a page. -/
def pageVa (p : PageKey) (off : Nat) : Nat := p.vpn * 2 ^ 16 + off

/-- The bytes of a page that a request touches: VA and length. -/
def reqSpan (r : RemoteReq) : Nat × Nat :=
  match r.target, r.act with
  | .page _ va, .read n => (va, n)
  | .page _ va, .write _ n _ => (va, n)
  | .page _ va, .atom _ wide _ _ _ => (va, if wide then 8 else 4)
  | .page _ va, .add _ => (va, 8)
  | _, _ => (0, 0)

/-- A queued write covers a byte of a range of a page (R297). -/
def queuedOver (m : Move) (va len : Nat) : Bool :=
  (m.queue ++ m.overflow).any fun r =>
    match r.act with
    | .read _ => false
    | _ => overlaps (reqSpan r).1 (reqSpan r).2 va len

/-! ### Translations that do not stall the core (R269, R270) -/

/-- A second-level entry that another master's walk filled, with the access tables' verdicts for this master
(R268 step 4). -/
def forMaster (s : State) (master : Nat) (e : TlbEntry) : TlbEntry :=
  if e.remote.isSome ∨ e.master = master then e
  else
    { e with
      master := master
      vrd := leafVerdict s master e.size e.frame true false
      vw := leafVerdict s master e.size e.frame false true }

/-- A translation made by an engine for a master: from the die's second-level TLB, or by a walk. -/
def engineWalk (s : State) (core asid va : Nat) : WalkEnd :=
  match tlbFind (s.dieAt (dieOf core)).l2 asid va with
  | some e => .leaf (forMaster s core e)
  | none => (walk s asid va core).1

/-- An XLT's address is translated by the page tables (R272): tag 0x0, in range, outside the heap window. -/
def xltPaged (s : State) (asid : Nat) (addr : Word) : Bool :=
  spaceOk addr.toNat 1 && tagOf addr.toNat == 0 &&
    match s.context? asid with
    | some c => !inHeap c (vaOf addr.toNat) 1
    | none => true

/-- What a translation made on a core's die for a page leaves in the die's second-level TLB: its entry, the most
recently used (R269). -/
def fillL2 (core asid va : Nat) (s : State) : State :=
  match engineWalk s core asid va with
  | .leaf e => s.modDie (dieOf core) fun d => { d with l2 := tlbFill 32768 e d.l2 }
  | .nonResident _ _ _ _ | .failed _ => s

/-- What the translations of a row's two pages leave there. -/
def fillRow (core asid va len : Nat) (s : State) : State :=
  fillL2 core asid ((va + len - 1) / 2 ^ 16 * 2 ^ 16) (fillL2 core asid va s)

/-- The state in which an engine's access of up to 64 KiB for a core is checked and placed: the pages it
touches are translated by the engine. -/
def engineView (s : State) (core asid va len : Nat) : State :=
  let first := va / 2 ^ 16
  let last := (va + len - 1) / 2 ^ 16
  let s := { s with cur := core }
  s.modCore core fun c => { c with
    l1 := []
    walkRes := [⟨asid, first, engineWalk s core asid va⟩, ⟨asid, last, engineWalk s core asid (last * 2 ^ 16)⟩] }

/-- The bases of the non-resident pages of a footprint that passed its checks. -/
def nonresBases (s : State) (asid : Nat) : Nat → Nat → Nat → List Nat
  | 0, _, _ => []
  | f + 1, va, stop =>
    if stop ≤ va then []
    else
      match pageAt s s.cur asid va with
      | none => []
      | some r =>
        (match r with
          | .nonResident _ size _ _ => [pageBase size va]
          | .leaf _ | .failed _ => []) ++ nonresBases s asid f (pageStop s s.cur asid va r) stop

end Sys2Proof.Machine
end

