-- ==== Sys2Proof/Machine/Remote.lean ====
section
/-! DEFINITION. The requester's side of remote accesses (12_migration R283–R291; 15_fabric R359): the
owner cache, the destination of a page's requests, and holding them while it changes. -/

namespace Sys2Proof.Machine

open Sys2Proof

/-- The units of State.timeU in one microsecond. -/
def microU : Nat := 1225224000

/-- The time in nanoseconds of the reference clock. -/
def nowNs (s : State) : Nat := s.timeU * 10 / 12252240

/-- The last clock cycle has crossed a mark of a period that is counted from a time (00_scope R1): timers follow the
reference clock, whatever the arithmetic clock does. -/
def crossed (s : State) (start period : Nat) : Bool :=
  decide ((s.timeU - start) / period ≠ (s.lastU - start) / period)

/-- A page of a context (12_migration Table 12-1). -/
def pageKey (asid size va : Nat) : PageKey := ⟨asid, pageBase size va / 2 ^ 16, size⟩

/-- The home of a page (R283). -/
def homeOf (s : State) (p : PageKey) : Nat :=
  let line := p.vpn / 2 ^ 5 % 2 ^ 27
  let ix := (mix64 (BitVec.ofNat 64 (p.asid * 2 ^ 32) ^^^ BitVec.ofNat 64 line ^^^ s.cfg.hseed)).toNat % 1024
  s.cfg.homemap.getD ix 0

/-- The owner-cache entry of a page, unless 500 µs have passed since its last use (R285). -/
def ownerEntry (s : State) (p : PageKey) : Option OwnerEntry :=
  s.mig.cache.find? fun e => e.page == p && decide (nowNs s < e.last + 500000)

/-- Marks an entry as used now: the most recently used stands first. -/
def touchOwner (s : State) (p : PageKey) : State :=
  match ownerEntry s p with
  | some e =>
    { s with mig := { s.mig with
      cache := { e with last := nowNs s } :: s.mig.cache.filter fun x => x.page != p } }
  | none => s

/-- Fills or replaces an entry, keeping the 8,192 most recently used (R285). -/
def fillOwner (p : PageKey) (owner epoch : Nat) (s : State) : State :=
  { s with mig := { s.mig with
    cache := (⟨p, owner, epoch, nowNs s⟩ :: s.mig.cache.filter fun x => x.page != p).take 8192 } }

/-- Where a page's requests go: the owner cache's owner, else the leaf's hint (R286). -/
def destOf (s : State) (p : PageKey) (hint : Nat) : Nat := ((ownerEntry s p).map OwnerEntry.owner).getD hint

/-- What a load asks of its remote home now. -/
def loadRequest (s : State) (o : Op) (l : LoadOp) : Option (Nat × Nat × RemoteReq) :=
  match l.runs[l.next]? with
  | some ⟨.far acc size t, n⟩ => some (acc, size, ⟨⟨s.accid, o.id⟩, o.asid, t, .read n, 1⟩)
  | _ => none

/-- What an operation asks of its remote home now, with the owner hint and page size (R359). -/
def requestOf (s : State) (o : Op) : Option (Nat × Nat × RemoteReq) :=
  match o.kind with
  | .load l | .record _ _ l | .desc l _ => loadRequest s o l
  | .store w =>
    match w.place with
    | .far acc size t => some (acc, size, ⟨⟨s.accid, o.id⟩, o.asid, t, .write w.data w.len [], 1⟩)
    | _ => none
  | .far f =>
    match f.place with
    | .far acc size t =>
      match f.kind with
      | .atom op wide uns _ v cmp _ => some (acc, size, ⟨⟨s.accid, o.id⟩, o.asid, t, .atom op wide uns v cmp, 1⟩)
      | .signal true v _ => some (acc, size, ⟨⟨s.accid, o.id⟩, o.asid, t, .add v, 1⟩)
      | .signal false v _ =>
        some (acc, size, ⟨⟨s.accid, o.id⟩, o.asid, t, .write (wholeBytes 0 (leBytes 8 v.toNat)) 8 [], 1⟩)
    | _ => none
  | .part p =>
    match p.place with
    | .far acc size t => some (acc, size, ⟨⟨s.accid, o.id⟩, o.asid, t, p.act, 1⟩)
    | _ => none
  | _ => none

/-- The page of a request. -/
def reqPage (size : Nat) (r : RemoteReq) : Option PageKey :=
  match r.target with
  | .page asid va => some (pageKey asid size va)
  | .peerTile _ _ _ | .peerRing _ _ => none

/-- The hold on a page (R289). -/
def holdOf (s : State) (p : PageKey) : Option Hold := s.mig.holds.find? fun h => h.page == p

/-- This package's unanswered requests for a page. -/
def sentFor (s : State) (p : PageKey) : List (Nat × PageKey × Nat) := s.mig.sent.filter fun e => e.2.1 == p

/-- An operation's number in a list in issue order. -/
def insertId (id : Nat) : List Nat → List Nat
  | [] => [id]
  | n :: ns => if id < n then id :: n :: ns else n :: insertId id ns

/-- Changes the hold on a page. -/
def modHold (p : PageKey) (f : Hold → Hold) (s : State) : State :=
  { s with mig := { s.mig with holds := s.mig.holds.map fun h => if h.page = p then f h else h } }

/-- Has a hold on a page. -/
def makeHold (p : PageKey) (s : State) : State :=
  if (holdOf s p).isSome then s else { s with mig := { s.mig with holds := s.mig.holds ++ [⟨p, [], [], []⟩] } }

/-- Holds an operation's access to a page, in issue order (R289). -/
def holdOp (p : PageKey) (id : Nat) (s : State) : State :=
  modHold p (fun h => { h with held := insertId id h.held }) (makeHold p s)

/-- The runs of a global side as its translations were made. -/
def Side.frames : Side → List Run
  | .global _ tr => tr.map fun x => ⟨x.2.2, x.2.1⟩
  | .tile _ _ | .priv _ | .ring _ _ | .peer _ _ | .none => []

/-- The memory of the work-ring run in progress that a chunk operation belongs to. -/
def runFrames (s : State) (asid slot : Nat) : List Run :=
  (((s.context? asid).map fun c => c.rings.vals.flatMap fun r =>
    match r.current with
    | some e => if e.slot = slot then ((e.run.map fun x => (x.bases.map Prod.snd).flatten).getD []) else []
    | none => []).getD [])

/-- The runs of the accesses that an operation has still to make with the translations of its issue: a core's, or those
of an engine for it. -/
def unmadeRuns (s : State) (o : Op) : List Run :=
  match o.kind with
  | .load l | .record _ _ l | .desc l _ => if l.taken then [] else l.runs
  | .store w => [⟨w.place, w.len⟩]
  | .far f => if f.performed then [] else [⟨f.place, 8⟩]
  | .copy c => c.dst.frames ++ c.src.frames
  | .vfnld _ x _ => x.frames
  | .cgld _ _ _ _ tr => tr.map fun x => ⟨x.2.2, x.2.1⟩
  | .chunk asid slot _ => runFrames s asid slot
  | _ => []

/-- An operation has an access to a frame of this package that it has not made. -/
def touchesFrame (s : State) (p : PageKey) (frame : Nat) (o : Op) : Bool :=
  (unmadeRuns s o).any fun r =>
    match r.place with
    | .here k => overlaps k r.len frame (pageBytes p.size)
    | .far _ _ _ | .zero => false

/-- An access made before an operation to a page that has left this package is still on its way to the old frame
(R301). -/
def localBefore (s : State) (p : PageKey) (id : Nat) : Bool :=
  s.mig.stubs.any fun x => x.page == p &&
    match x.frame with
    | some f => s.ops.any fun o => decide (o.id < id) && touchesFrame s p f o
    | none => false

/-- A request for a page from before an operation is unanswered or held, when the page has come here since (R300):
the operation's access to the new frame waits. -/
def requestsBefore (s : State) (id key len : Nat) : Bool :=
  s.mig.owned.any fun x =>
    overlaps key len x.frame (pageBytes x.page.size) &&
      ((sentFor s x.page).any (fun e => decide (e.1 < id)) ||
        ((holdOf s x.page).map fun h => (h.refused ++ h.held).any fun i => decide (i < id)).getD false)

/-- The request of an operation leaves for a package, and stands as unanswered. -/
def emitRequest (id : Nat) (p : PageKey) (dest : Nat) (r : RemoteReq) (s : State) : State :=
  ({ touchOwner s p with mig := { (touchOwner s p).mig with sent := s.mig.sent ++ [(id, p, dest)] } }).send dest
    (.remoteRequestReceive r)

/-- Two targets of requests share a byte. -/
def targetsMeet (t : RemoteTarget) (n : Nat) (u : RemoteTarget) (m : Nat) : Bool :=
  match t, u with
  | .peerTile c h a, .peerTile d k b => c == d && h == k && overlaps a n b m
  | .peerRing c a, .peerRing d b => c == d && overlaps a n b m
  | .page x a, .page y b => x == y && overlaps a n b m
  | _, _ => false

/-- The bytes of a request. -/
def requestLen : RemoteAct → Nat
  | .read n => n
  | .write _ n _ => n
  | .atom _ wide _ _ _ => if wide then 8 else 4
  | .add _ => 8

/-- A release of a core, issued before an access of it, to bytes of its request has not been sent: the access waits behind
it (04_memory_model R81; 15_fabric R353). -/
def behindRelease (s : State) (core id : Nat) (hint : Nat) (r : RemoteReq) : Bool :=
  s.ops.any fun p => p.core == core && decide (p.id < id) &&
    match p.kind with
    | .store w =>
      w.rel.isSome && !w.sent &&
        match w.place with
        | .far acc _ t =>
          (match t with
            | .page _ _ => true
            | .peerTile _ _ _ | .peerRing _ _ => acc == hint) && targetsMeet t w.len r.target (requestLen r.act)
        | .here _ | .zero => false
    | _ => false

/-- The operation for whose core access an operation's request goes: a load or store, the reading of a record or a
descriptor, or a packet of one of these; none for a request of an engine. -/
def accessId (s : State) (o : Op) : Option Nat :=
  match o.kind with
  | .load _ | .store _ | .record _ _ _ | .desc _ _ => some o.id
  | .part p =>
    match p.client with
    | .op id => (s.op? id).bind fun q =>
        match q.kind with
        | .load _ | .record _ _ _ | .desc _ _ => some id
        | _ => none
    | .start _ | .parked _ | .faultRec _ | .image _ | .posted => none
  | _ => none

/-- Sends an operation's request: a peer form goes to the package it names; an access to a frame of this package that
is frozen or has moved goes to the frame's own controller, which queues or relays it (R297, R299); any other request for
a page goes to the page's destination, or waits while that destination changes (R286, R289, R301). -/
def sendNow (id hint size : Nat) (r : RemoteReq) (s : State) : State :=
  match reqPage size r with
  | none => s.send hint (.remoteRequestReceive r)
  | some p =>
    if hint = s.accid then emitRequest id p s.accid r s
    else
      let dest := destOf s p hint
      if (holdOf s p).isSome || localBefore s p id || (sentFor s p).any (fun e => e.2.2 != dest) then holdOp p id s
      else emitRequest id p dest r s

/-- Sends an operation's request, a core's access once the releases before it to its bytes have gone. -/
def sendRequest (id : Nat) (s : State) : State :=
  match s.op? id, (s.op? id).bind (requestOf s) with
  | some o, some (hint, size, r) =>
    if ((accessId s o).map fun n => behindRelease s o.core n hint r).getD false then { s with mig := { s.mig with behind := insertId id s.mig.behind } }
    else sendNow id hint size r s
  | _, _ => s

/-- A release has gone: the accesses behind it are sent, in issue order, unless another holds them. -/
def sendBehind (s : State) : State :=
  s.mig.behind.foldl (fun s id => sendRequest id (s.modOp id fun o => { o with issuedU := s.timeU }))
    { s with mig := { s.mig with behind := [] } }

/-- An answered or abandoned request no longer stands against its page. -/
def dropSent (id : Nat) (s : State) : State :=
  { s with mig := { s.mig with
    sent := s.mig.sent.filter fun e => e.1 != id
    fails := s.mig.fails.erase id
    holds := s.mig.holds.map fun h =>
      { h with refused := h.refused.filter (· != id), held := h.held.filter (· != id)
               asked := h.asked.filter (· != id) }
    behind := s.mig.behind.filter (· != id) } }

/-! ### Packets (15_fabric R359) -/

/-- An operation is a packet of a step of a client. -/
def isPartOf (c : Client) (row : Nat) (o : Op) : Bool :=
  match o.kind with
  | .part p => p.client == c && p.row == row
  | _ => false

/-- Sends one packet for an operation or for firmware, whose core, task and context it carries. -/
def startPart (o : Op) (c : Client) (row : Nat) (p : Place) (a : RemoteAct) (s : State) : State :=
  let id := s.nextOp
  sendRequest id
    { s with
      ops := s.ops ++ [{ o with id := id, issued := s.cyc, issuedU := s.timeU, due := s.cyc, ranges := [],
                                kind := .part ⟨c, row, p, a, .waits⟩ }]
      nextOp := id + 1 }

/-- A client awaits the answer of a packet. -/
def clientWaits (s : State) (c : Client) : Bool :=
  s.ops.any fun o =>
    match o.kind with
    | .part p => p.client == c && p.ans == .waits
    | _ => false

/-- A client's work is over: its answered packets go, and the others with their answers. -/
def endParts (c : Client) (s : State) : State :=
  { s with ops := s.ops.filterMap fun o =>
    match o.kind with
    | .part p =>
      if p.client ≠ c then some o
      else if p.ans = .waits then some { o with kind := .part { p with client := .posted } }
      else none
    | _ => some o }

end Sys2Proof.Machine
end

