-- ==== Sys2Proof/Machine/Issue.lean ====
section
/-! DEFINITION. Issuing a bundle (06_sequencer R139, R152, R159–R161): checking its slots, what a bundle
that may not issue does, and the boundary after a bundle that has issued. -/

namespace Sys2Proof.Machine

open Sys2Proof

/-! ### What a bundle needs (R152, R161; 10_copy R246) -/

/-- What two slots need together. -/
def Need.add (a b : Need) : Need :=
  ⟨a.c0 + b.c0, a.c1 + b.c1, a.t + b.t, a.s + b.s, a.ranges + b.ranges, a.pushes + b.pushes, a.wins ++ b.wins⟩

/-- A slot that pushes one value. -/
def Need.push : Need := { pushes := 1 }

/-- A class counter would exceed 63, the range scoreboard lacks the entries, or the posted writes through a peer window
would exceed its allowance (15_fabric R356). -/
def exceeds (s : State) (n : Need) : Bool :=
  let c := s.ctx.cnt
  decide (63 < c.c0 + n.c0 ∨ 63 < c.c1 + n.c1 ∨ 63 < c.t + n.t ∨ 63 < c.s + n.s) ||
    decide (0 < n.ranges ∧ 16 < entriesUsed s s.cur + n.ranges) ||
    n.wins.any fun (k, allow) => decide (allow < s.core.win.getD k 0 + n.wins.countP fun x => x.1 == k)

/-- A later slot's verdict stands when the earlier slots may issue, or only wait at step 7 (R139, R160).
DEDUCED (notes/assumptions/9). -/
def Verdict.givesWay : Verdict → Verdict → Bool
  | .ok, _ => true
  | .hold _, .ok => false
  | .hold _, .hold _ => false
  | .hold _, _ => true
  | _, _ => false

/-- A slot whose push would be the 33rd pending raises ILLEGAL_BUNDLE with AUX 1 (R161).
DESIGN CHOICE (notes/assumptions/66). -/
def pushLimit (s : State) (n : Need) (v : Verdict) : Verdict :=
  if n.pushes ≠ 0 ∧ 32 < s.ctx.pushes.length + (s.iss.need.add n).pushes then
    match v with
    | .ok | .hold _ => .fault .illegalBundle 0 1 false none
    | v => v
  else v

/-- Notes the checks of a slot in the bundle's scratch.
DEDUCED (notes/assumptions/9). -/
def noteSlot (n : Need) (v : Verdict) (s : State) : State :=
  let v := pushLimit s n v
  let i := { s.iss with need := s.iss.need.add n, limm := none }
  { s with iss := if s.iss.verdict.givesWay v then { i with verdict := v, vslot := s.iss.slot } else i }

/-- The verdict of a bundle whose slots are all checked. -/
def bundleVerdict (s : State) : Verdict :=
  match s.iss.verdict with
  | .ok => if exceeds s s.iss.need then .hold .none else .ok
  | v => v

/-! ### REPEAT runs (R175; 09_matrix R236) -/

/-- The words of instruction memory from an address on, at most `n` (02_bundles R28). -/
def imemWords (c : Core) (a : Nat) : Nat → List Nat
  | 0 => []
  | n + 1 => if 65536 ≤ a then [] else (c.imem.getD a 0).toNat :: imemWords c (a + 1) n

/-- The slot word that a REPEAT of the bundle at the program counter repeats (R175). -/
def repeatedWord : List Nat → Nat
  | a :: b :: ws => if fld a 28 3 = 5 ∧ fld a 22 6 = 1 then b else repeatedWord (b :: ws)
  | _ => 0

/-- The repetitions that a prefix names: 0 is 4,096. -/
def repCount (count : BitVec 12) : Nat := if count = 0 then 4096 else count.toNat

/-- The REPEAT run of the bundle at a core's program counter, no repetition of which has issued (R175). -/
def freshRepeat (c : Core) (count : BitVec 12) (sel : List RepSel) : RepState :=
  { sel := sel, left := repCount count, addr := c.ctx.pc, issued := 0, word := repeatedWord (imemWords c c.ctx.pc 8),
    adv := false }

/-- A fault that a repetition raises stops the run before it: the run is the task's state from the first repetition on
(R175; 09_matrix R238). -/
def openRun (rep : Option (BitVec 12 × List RepSel)) (s : State) : State :=
  match rep with
  | some (n, sel) => s.modCtx fun c => { c with rep := some (c.rep.getD (freshRepeat s.core n sel)) }
  | none => s

/-! ### What a bundle that does not issue does -/

/-- The cores within a scope of a core, in this package (01_engines R24 Table 1-4). -/
def withinScope (s : State) (core : Nat) (o : Scope) (n : Nat) : Bool :=
  match o with
  | .core => n == core
  | .gang => (s.coreAt n).task == (s.coreAt core).task
  | .die => dieOf n == dieOf core
  | .pkg | .pod | .sys => true

/-- A core has a task whose accesses may be unperformed: it runs, or has stopped and is not saved yet. -/
def atWork (c : Core) : Bool :=
  match c.mode with
  | .running | .stopped _ => true
  | .idle | .ended | .restoring => false

/-- The cores of the package that run a task of a context, one whose stopped task is not saved yet among them
(04_memory_model R90). -/
def coresRunning (s : State) (asid : Nat) : List Nat :=
  (s.cores.filter fun (n, c) => atWork c && s.asidAt n == asid).map Prod.fst

/-- The recipients of a heavy fence of the executing core: every other core within the scope that runs
the context, and, at POD or SYS, every other package of the pod, named by core 256 (R90). -/
def heavyRecipients (s : State) (o : Scope) : List (Nat × Nat) :=
  let here := (coresRunning s (s.asidAt s.cur)).filter fun n => n != s.cur && withinScope s s.cur o n
  let there := match o with
    | .pod | .sys => s.cfg.members.filter (· != s.accid)
    | .core | .gang | .die | .pkg => []
  here.map (fun n => (s.accid, n)) ++ there.map fun p => (p, 256)

/-- Sends a heavy fence's requests to its recipients (R90). -/
def startHeavy (o : Scope) (s : State) : State :=
  let dests := heavyRecipients s o
  let ask : FenceAsk := ⟨⟨s.accid, s.nextOp⟩, s.asidAt s.cur, o⟩
  dests.foldl (fun s (p, n) => s.send p (.fenceHeavySerialisation ask (if n < 256 then some n else none)))
    (s.startOp 0 [] (.fenceHeavy o dests none))

/-- The members of a gang that have arrived on a clamp line, the ended ones among them (R154). -/
def gangArrived (t : Task) (c : Clamp) : Bool :=
  (List.range t.width).all fun m => decide (m ∈ c.arrived) || decide (m ∈ t.ended)

/-- Registers the executing core's arrival on a logical clamp line; the last arrival sets the release six
cycles later (R154). -/
def arrive (line : Nat) (s : State) : State :=
  match s.taskAt s.cur with
  | none => s
  | some t =>
    match t.lineMap.get? line with
    | none => s
    | some phys =>
      match (s.dieAt (dieOf s.cur)).clamps.get? phys with
      | none => s
      | some c =>
        let m := s.core.member
        let c := { c with arrived := if m ∈ c.arrived then c.arrived else m :: c.arrived }
        let c := if c.releaseAt.isNone ∧ gangArrived t c then { c with releaseAt := some (s.cyc + 6) } else c
        (s.modDie (dieOf s.cur) fun d => { d with clamps := d.clamps.set phys c }).modCtx fun x =>
          { x with arrived := if line ∈ x.arrived then x.arrived else line :: x.arrived }

/-- Has the copies of granules allocated for a store that waits for them (14_revisions R339). -/
def allocCopies (view : Nat) (gs : List Nat) (s : State) : State :=
  gs.foldl (fun s g =>
    if copiesNeeded s view g = [] then s
    else (makeCopies s view g).startEngineOp (s.asidAt s.cur) 40 (.cow g)) s

/-- Asks a remote home for the region descriptor of a RVSET that waits for it (14_revisions R334). -/
def startDesc (rs : List Run) (s : State) : State :=
  sendRequest s.nextOp (s.startOp 80 [] (.desc
    { runs := rs, nbytes := 16, sgn := false, vec := false, mask := 0, acq := none, got := [], next := 0,
      taken := true } none))

/-- What a waiting bundle does while it waits. -/
def doHold (a : HoldAct) (s : State) : State :=
  match a with
  | .none => s
  | .stamp => s.modCore s.cur fun c => { c with waitStamp := some (c.waitStamp.getD s.nextOp) }
  | .sync line => arrive line s
  | .heavy o => startHeavy o s
  | .publish => s.startOp 0 [] (.publish false)
  | .cow view gs => allocCopies view gs s
  | .desc rs => startDesc rs s
  | .join n => s.modTask s.core.task fun t =>
      { t with mergeTo := max n t.mergeTo, mergeBy := s.core.member }

/-- Notes since when the core's bundle waits. -/
def noteWait (s : State) : State :=
  s.modCore s.cur fun c => { c with waitSince := some (c.waitSince.getD s.cyc) }

/-- The core's bundle has been tried and has not issued. -/
def noteStall (s : State) : State := s.modCore s.cur fun c => { c with stalled := true }

/-- The VA that an operation walks for: a stalled bundle's, or an XLT's. A translation of an indexed row takes no time
of its own.
DESIGN CHOICE (notes/assumptions/8). -/
def walkedVa (s : State) (o : Op) : Option Nat :=
  match o.kind with
  | .walk _ v _ => some v
  | .xlt _ addr _ => if xltPaged s o.asid addr then some (vaOf addr.toNat) else none
  | _ => none

/-- An operation walks for the page of a VA (11_translation R269): the page at which its walk will end. -/
def isWalkOf (s : State) (asid va : Nat) (o : Op) : Bool :=
  o.asid == asid && ((walkedVa s o).map fun v =>
    (WalkRes.mk asid (v / 2 ^ 16) (engineWalk s o.core asid v)).covers asid va).getD false

/-- An operation is a walk of a die's walkers. -/
def isWalkOn (s : State) (die : Nat) (o : Op) : Bool := dieOf o.core == die && (walkedVa s o).isSome

/-- The walk of a page in flight on a die (11_translation R269). -/
def walkOn (s : State) (die asid va : Nat) : Option Op :=
  s.ops.find? fun o => isWalkOn s die o && isWalkOf s asid va o

/-- A die's 1,024 walks are all busy (R269). -/
def walksBusy (s : State) (die : Nat) : Bool := decide (1024 ≤ (s.ops.filter (isWalkOn s die)).length)

/-- The executing core's stalled bundle already waits for the walk of a page. -/
def walkAsked (s : State) (asid va : Nat) : Bool :=
  s.ops.any fun o => o.core == s.cur && isWalkOf s asid va o &&
    match o.kind with
    | .walk _ _ _ => true
    | _ => false

/-- Starts the walk of a page for the stalled bundle, with its nominal cost (11_translation R270
Table 11-3): a second-level hit, the rest of a walk of the same page in flight on the die, or a walk of its own, for
which it waits while the die's 1,024 walks are busy (R269). -/
def startWalk (asid va : Nat) (s : State) : State :=
  let die := dieOf s.cur
  if walkAsked s asid va then s
  else
    match tlbFind (s.dieAt die).l2 asid va, walkOn s die asid va with
    | some _, _ => s.startOp 6 [] (.walk asid va s.cur)
    | none, some o => s.startOp (o.due - s.cyc) [] (.walk asid va s.cur)
    | none, none =>
      if walksBusy s die then s
      else s.startOp (6 + 110 * (walk s asid va s.cur).2) [] (.walk asid va s.cur)

/-- Starts the fill of an absent granule with its nominal duration (R171). -/
def startFill (vec : Bool) (g : Nat) (s : State) : State :=
  let same (o : Op) : Bool := o.core == s.cur && o.kind == .fill vec g
  if s.ops.any same then s else s.startOp (if vec then 112 else 80) [] (.fill vec g)

/-- A bundle that does not issue: it waits, or its fault is taken; it has no other effect (R139, R159). -/
def settle (v : Verdict) (s : State) : State :=
  let slot := s.iss.vslot
  let rep := s.iss.rep
  let s := { s with iss := {} }
  match v with
  | .ok => s
  | .stall => noteStall s
  | .hold a => doHold a (noteWait (noteStall s))
  | .walk asid va => startWalk asid va (noteStall s)
  | .fill vec g => startFill vec g (noteStall s)
  | .fault code faddr aux async mark => takeFault code slot faddr aux async mark (openRun rep s)

/-! ### The boundary after a bundle (R139) -/

/-- The length in words of the bundle at an address, if its extent can be formed. -/
def bundleLen (c : Core) (a : Nat) : Option Nat := (takeBundle 8 (imemWords c a 8)).map List.length

/-- The address of the bundle that stands `n` bundles after an address (R147). -/
def skipBundles (c : Core) : Nat → Nat → Option Nat
  | 0, a => some a
  | n + 1, a => (bundleLen c a).bind fun k => skipBundles c n (a + k)

/-- A target lies in a loop's body: first body bundle to close address (R151). -/
def LoopEntry.holds (e : LoopEntry) (t : Nat) : Bool := decide (e.first ≤ t) && decide (t ≤ e.close)

/-- The loop stack after a taken BR or BRU to a target, at a depth of the return stack (R151). A branch stands in the
bodies of the loops begun at its depth: a callee's bundles lie outside those of its caller, which stay active.
DEDUCED (notes/assumptions/68). -/
def branchLoops (t depth : Nat) : List LoopEntry → List LoopEntry
  | [] => []
  | e :: r =>
    if e.holds t ∨ e.retDepth ≠ depth then e :: r
    else r.filter fun x => x.holds t || x.retDepth != depth

/-- The stage predicates rotated, with a new p8 (R149). -/
def rotate (ps : BitVec 16) (p8 : Bool) : BitVec 16 :=
  (ps &&& 0xFF) ||| (((((ps >>> 8) <<< 1) ||| (if p8 then 1#16 else 0#16)) &&& 0xFF) <<< 8)

/-- The close of the top loop (R149), at the end of a close bundle of `words` words. -/
def closeLoop (e : LoopEntry) (rest : List LoopEntry) (words : Nat) (c : Ctx) : Ctx :=
  let old := c.lc.getD e.lc 0
  let new := if old.toNat ≤ 1 then 0#32 else old - 1
  let p := if e.loops then rotate c.p (decide (e.stages ≤ new.toNat)) else c.p
  if old.toNat ≤ 1 then { c with lc := c.lc.set e.lc 0, loops := rest, p := p, pc := c.pc + words }
  else { c with lc := c.lc.set e.lc new, p := p, pc := e.first }

/-- The bundle at the program counter closes a loop: it stands at the close address, at the depth of the return stack at
which the loop began, since a callee's bundles lie outside the body (R147, R151). -/
def LoopEntry.closesAt (e : LoopEntry) (c : Ctx) : Bool := c.pc == e.close && e.retDepth == c.ret.length

/-- The next bundle when none transfers: after the bundle, or by the close of the top loop. -/
def sequential (words : Nat) (c : Ctx) : Ctx :=
  match c.loops with
  | e :: rest => if e.closesAt c then closeLoop e rest words c else { c with pc := c.pc + words }
  | [] => { c with pc := c.pc + words }

/-- The loop counter that a LOOP of the bundle writes (05_scalar R126). -/
def loopCounter : List Deferred → Option Nat
  | [] => none
  | .loop n _ _ _ :: _ => some n
  | _ :: ds => loopCounter ds

/-- Step 1 of R139: the MTS writes of LC0–LC3. -/
def applyLc (own : Option Nat) (ds : List Deferred) (c : Ctx) : Ctx :=
  ds.foldl (fun c d =>
    match d with
    | .sys (.lc n) v => if own = some n.val then c else { c with lc := c.lc.set n.val (v.setWidth 32) }
    | _ => c) c

/-- The control transfer of a bundle, if it has one. -/
def transferOf : List Deferred → Option Deferred
  | [] => none
  | d :: ds =>
    match d with
    | .goto _ | .callTo _ _ | .retTo | .loop _ _ _ _ => some d
    | _ => transferOf ds

/-- Step 2 of R139: the loop close or control transfer, which selects the next bundle. -/
def applyTransfer (words : Nat) (ds : List Deferred) (c : Ctx) : Ctx :=
  match transferOf ds with
  | some (.goto t) => { c with pc := t, loops := branchLoops t c.ret.length c.loops }
  | some (.callTo t r) => { c with pc := t, ret := (r, c.icyc) :: c.ret }
  | some .retTo =>
    match c.ret with
    | (a, _) :: rest => { c with pc := a, ret := rest, loops := c.loops.filter fun e => decide (e.retDepth < c.ret.length) }
    | [] => c
  | some (.loop n total entry next) =>
    let c := { c with lc := c.lc.set n total, pc := next }
    match entry with
    | some e => { c with loops := e :: c.loops, p := if e.loops then (c.p &&& 0xFF) ||| 0x100 else c.p }
    | none => c
  | _ => sequential words c

/-- Step 3 of R139: CMP, CMPI and PLOG, then MTS to PRED (05_scalar R108), and the branch targets. -/
def applyPreds (ds : List Deferred) (c : Ctx) : Ctx :=
  let c := ds.foldl (fun c d =>
    match d with
    | .pred p b => { c with p := setPred c.p p b }
    | .bt n t => { c with bt := c.bt.set n t, btAt := c.btAt.set n c.icyc }
    | _ => c) c
  ds.foldl (fun c d =>
    match d with
    | .sys .pred v => { c with p := v.setWidth 16 }
    | _ => c) c

/-- A channel status word as MTS clears it: RES, SAT and FLT are W1C, and PAGE reads zero once RES and
FLT are both clear (10_copy R243 Table 10-1). -/
def clearCstat (x : ChanStat) (v : Word) : ChanStat :=
  let res := x.res && !v.getLsbD 63
  let sat := x.sat && !v.getLsbD 62
  let flt := x.flt && !v.getLsbD 61
  { x with res := res, sat := sat, flt := flt, page := if res || flt then x.page else 0 }

/-- The bits of OPTC0–OPTC7 that are not reserved (08_function R209 Table 8-6). -/
def optcMask (n : Nat) : Word :=
  match n with
  | 0 => 0x3FFFFFFFFF#64
  | 1 | 2 | 3 => 0xFFFF#64
  | 4 => 0xFFFFFFFF#64
  | _ => BitVec.allOnes 64

/-- A system register written by MTS, as it governs the next issue cycle (05_scalar R125 Table 5-4). -/
def writeSys (r : SysReg) (v : Word) (c : Ctx) : Ctx :=
  match r with
  | .rseed => { c with rseed := v }
  | .rstep => { c with rstep := v }
  | .cstat ch => if ch = 0 then { c with chan0 := clearCstat c.chan0 v } else { c with chan1 := clearCstat c.chan1 v }
  | .satf => { c with satf := c.satf &&& ~~~(v.setWidth 6) }
  | .mo n => { c with mo := c.mo.set n.val v }
  | .mi n => { c with mi := c.mi.set n.val v }
  | .optc n => { c with optc := c.optc.set n.val (v &&& optcMask n.val) }
  | .rmasklo => { c with rmScl := c.rmScl && !v.getLsbD 63 }
  | .core | .die | .accid | .asid | .mf | .vf | .hb | .hl | .ho | .fltrec | .cyc | .nbun | .wa _
  | .lc _ | .pred => c

/-- The top of the mask stack; an empty stack counts as all ones (07_vector R182; 06_sequencer R144). -/
def Ctx.maskTop (c : Ctx) : MaskWord := c.mask.headD (BitVec.allOnes 512)

/-- The entry below the top of the mask stack. -/
def Ctx.maskBelow (c : Ctx) : MaskWord := (c.mask.drop 1).headD (BitVec.allOnes 512)

/-- The other writes that govern the next issue cycle. -/
def applyRest (ds : List Deferred) (c : Ctx) : Ctx :=
  ds.foldl (fun c d =>
    match d with
    | .sys r v => writeSys r v c
    | .maskPush m => { c with mask := m :: c.mask }
    | .maskInv => { c with mask := (c.maskBelow &&& ~~~c.maskTop) :: c.mask.drop 1 }
    | .maskPop => { c with mask := c.mask.drop 1 }
    | .clearRmask => { c with rmask := 0 }
    | .newTile h i _ => { c with hmap := c.hmap.set h i }
    | .holdSlot h i => { c with hmap := c.hmap.set h i }
    | _ => c) c

/-- What the boundary does to the core itself: its tile table and handle map, a stop to come, the end.
DESIGN CHOICE (notes/assumptions/64). -/
def applyCore (ds : List Deferred) (c : Core) : Core :=
  ds.foldl (fun c d =>
    match d with
    | .newTile h i e => { c with tiles := c.tiles.set i e, handles := c.handles.set h i }
    | .holdSlot h i => { c with handles := c.handles.set h i }
    | .tileExp i x => { c with tiles := modEntry c.tiles i fun e => { e with exp := x } }
    | .tileComp i h => { c with tiles := modEntry c.tiles i fun e => { e with comp := h } }
    | .stop k => { c with stopReq := some k }
    | .endTask => { c with mode := .ended }
    | _ => c) c

/-- A bundle that has issued counts in NBUN and uses one issue cycle: pending pushes and format writes
come one cycle nearer (02_bundles R48; 03_numbers R66; 05_scalar NBUN). -/
def countIssue (c : Ctx) : Ctx :=
  { c with
    nbun := c.nbun + 1
    icyc := c.icyc + 1
    pushes := c.pushes.map fun p => { p with count := p.count - 1 }
    fmts := c.fmts.map fun f => { f with count := f.count - 1 } }

/-- The boundary after a repetition (09_matrix R236, R237): the advance of the offsets is to come, and after the last
repetition the next bundle follows, by the close of the top loop if it stands there. -/
def noteRepeat (r : RepState) (words : Nat) (c : Ctx) : Ctx :=
  let c := { c with rep := some { r with adv := true } }
  if r.left ≤ 1 then sequential words c else c

/-- Steps 1 to 3 of R139 for a bundle that has issued, on the task's state. A REPEAT bundle transfers
only after its last repetition. -/
def boundary (c : Core) (i : Issue) : Ctx :=
  let x := applyLc (loopCounter i.deferred) i.deferred c.ctx
  let x := match i.rep with
    | some (n, sel) => noteRepeat (c.ctx.rep.getD (freshRepeat c n sel)) i.words x
    | none => applyTransfer i.words i.deferred x
  countIssue (applyRest i.deferred (applyPreds i.deferred x))

/-- The core after its bundle has issued. -/
def finishCore (i : Issue) (c : Core) : Core :=
  applyCore i.deferred
    { c with ctx := boundary c i, walkRes := [], waitStamp := none, waitSince := none, released := false,
             pubDone := none, stalled := false }

/-- What the boundary does beyond the core: a handle freed (05_scalar R134). -/
def applyState (ds : List Deferred) (s : State) : State :=
  ds.foldl (fun s d =>
    match d with
    | .freeTile h => freeHandle s.cur h s
    | _ => s) s

/-- The end of a bundle that has issued. -/
def finishBundle (s : State) : State :=
  { applyState s.iss.deferred (s.modCore s.cur (finishCore s.iss)) with
    iss := {}, nextBundle := s.nextBundle + 1 }

/-- A bundle whose slots are checked: it issues, or it does not. -/
def conclude (noted acted : State) : State :=
  match bundleVerdict noted with
  | .ok => finishBundle acted
  | v => settle v noted

/-! ### One slot -/

/-- A slot in the phase of its bundle: its checks, its effect, or both with the boundary after it
(02_bundles R31, R40). -/
def slot (n : Need) (chk : State → Verdict) (eff : State → State) (s : State) : Out :=
  match s.iss.phase with
  | .check => .next (noteSlot n (chk s) s)
  | .commit => .next (let t := eff s; { t with iss := { t.iss with limm := none } })
  | .whole => .next (conclude (noteSlot n (chk s) s) (eff s))

end Sys2Proof.Machine
end

