-- ==== Sys2Proof/Machine/Fetch.lean ====
section
/-! DEFINITION. Fetching and decoding a core's bundle (02_bundles R28, R29, R38), the boot ROM's own
step, and the clock's tick. -/

namespace Sys2Proof.Machine

open Sys2Proof

/-- The bundle of a core stands at the close of its top loop (06_sequencer R147, R151). -/
def atClose (c : Ctx) : Bool :=
  match c.loops with
  | e :: _ => e.closesAt c
  | [] => false

/-- The instructions of the bundle at a core's program counter, or its decode fault (R38). -/
def fetchBundle (c : Core) : Except BundleErr (List Instr) :=
  decodeBundle (atClose c.ctx) (imemWords c c.ctx.pc 8)

/-- The length in words of the bundle at a core's program counter. -/
def fetchLen (c : Core) : Nat := (bundleLen c c.ctx.pc).getD 1

/-- The cores that issue in a clock cycle. -/
def runningCores (s : State) : List Nat :=
  (s.cores.filter fun (_, c) => c.mode == .running).map Prod.fst

/-- A list of events one clock cycle later. -/
def nearer : List (Nat × Instr) → List (Nat × Instr)
  | (d + 1, i) :: r => (d, i) :: r
  | a => a

/-- One clock cycle passes (00_scope R1): CYC, the reference clock's time, the delay of the next event
from outside; every running core then has its turn. -/
def tick (s : State) : State :=
  { s with
    cyc := s.cyc + 1
    timeU := s.timeU + 12252240 / s.sys.clock
    lastU := s.timeU
    agenda := nearer s.agenda
    own := nearer s.own
    turn := runningCores s }

/-- The boot ROM after reset: memory is zeroed and the mailbox waits for an image (17_system R394). -/
def bootRom (s : State) : State := { s with sys := { s.sys with boot := .waitImage } }

/-- The words that stand at the program counter for an instruction word: a prefix stands before an
acceptor of its own (02_bundles R41–R43), every other word ends its bundle. -/
def fetchWords (w : Nat) : List Nat :=
  if fld w 28 3 = 5 then [w, if fld w 22 6 = 1 then 0xA2000000 else 0x86000000]
  else [w % 2 ^ 31 + 2 ^ 31]

/-- Instruction memory with words stored from an address on. -/
def storeWords (m : FMap SlotWord) (a : Nat) : List Nat → FMap SlotWord
  | [] => m
  | w :: ws => storeWords (m.set a (BitVec.ofNat 32 w)) (a + 1) ws

/-- The core that runs the instruction placed at its program counter, with nothing due before it.
DEDUCED (notes/assumptions/7). -/
def readyCore (w : Nat) (c : Core) : Core :=
  { c with
    mode := .running
    imem := storeWords c.imem c.ctx.pc (fetchWords w)
    bubble := 0
    waitStamp := none
    waitSince := none
    stopReq := none
    fences := []
    ctx := { c.ctx with pushes := [], fmts := [], rep := none, loops := [] } }

end Sys2Proof.Machine
end

