-- ==== Sys2Proof/Machine/Sides.lean ====
section
/-! DEFINITION. The sides of engine operations: where the bytes of an address fixed at issue are, reading
and writing them at completion (10_copy R246–R250), and reading and writing the elements of tiles. -/

namespace Sys2Proof.Machine

open Sys2Proof

/-! ### Sides -/

/-- The translations of a footprint: the VA, length and place of each run. -/
def trOf (va : Nat) : List Run → List (Nat × Nat × Place)
  | [] => []
  | r :: rs => (va, r.len, r.place) :: trOf (va + r.len) rs

/-- The side that a generic address names, with the runs of a tag 0x0 footprint. -/
def sideOf (s : State) (addr : Word) (rs : List Run) : Side :=
  let a := addr.toNat
  match tagOf a with
  | 0x8 => .priv (offOf a)
  | 0x9 =>
    match s.tileAt s.cur (tileHandle a) with
    | some (i, _) => .tile i (offOf a)
    | none => .none
  | 0xA => .ring (ringDie a) (ringOff a)
  | 0xB | 0xC => .peer (peerAcc a) (peerTarget a)
  | _ => .global (vaOf a) (trOf (vaOf a) rs)

/-- A place some bytes further on. -/
def Place.shift (p : Place) (n : Nat) : Place :=
  match p with
  | .here k => .here (k + n)
  | .far acc size t =>
    .far acc size (match t with
      | .page asid va => .page asid (va + n)
      | .peerTile c h o => .peerTile c h (o + n)
      | .peerRing d o => .peerRing d (o + n))
  | .zero => .zero

/-- The part of a run list of a global side that a range of VAs covers. -/
def trRuns (lo hi : Nat) : List (Nat × Nat × Place) → List Run
  | [] => []
  | (a, n, p) :: r =>
    let x := max lo a
    let y := min hi (a + n)
    if x < y then ⟨p.shift (x - a), y - x⟩ :: trRuns lo hi r else trRuns lo hi r

/-- The runs of `len` bytes from byte `i` of a side on, for an operation of a member of a task. -/
def sideRuns (s : State) (o : Op) (x : Side) (i len : Nat) : List Run :=
  if len = 0 then []
  else
    match x with
    | .tile e off =>
      match (s.coreAt o.core).tiles.get? e with
      | some t => [⟨.here (tileByteKey o.core t (off + i)), len⟩]
      | none => []
    | .priv off => [⟨.here (privKey o.task o.member (off + i)), len⟩]
    | .ring die off => [⟨.here (ringKey die (off + i)), len⟩]
    | .global va tr => trRuns (va + i) (va + i + len) tr
    | .peer acc t => [⟨(Place.far acc 0 t).shift i, len⟩]
    | .none => []

/-- A run with a peer form that names this package found at its owner (01_engines R21, R22).
DEDUCED (notes/assumptions/18). -/
def ownRun (s : State) (r : Run) : Run :=
  match ownPeer s r.place r.len with
  | some k => ⟨.here k, r.len⟩
  | none => r

/-- Two runs share a byte. -/
def runMeets (a b : Run) : Bool :=
  match a.place, b.place with
  | .here j, .here k => overlaps j a.len k b.len
  | .far p _ (.page x v), .far q _ (.page y w) => p == q && x == y && overlaps v a.len w b.len
  | .far p _ (.peerTile c h i), .far q _ (.peerTile d k j) => p == q && c == d && h == k && overlaps i a.len j b.len
  | .far p _ (.peerRing c i), .far q _ (.peerRing d j) => p == q && c == d && overlaps i a.len j b.len
  | _, _ => false

/-- A VFNLD of a core before some operation still reads a byte that some runs write (08_function R207). -/
def vfnldReads (s : State) (core bound : Nat) (rs : List Run) : Bool :=
  s.ops.any fun o => o.core == core && decide (o.id < bound) &&
    match o.kind with
    | .vfnld _ side _ => (sideRuns s o side 0 832).any fun q => rs.any fun r => runMeets (ownRun s q) (ownRun s r)
    | _ => false

/-- A VFNLD of the executing core still reads a byte that some runs write. -/
def vfnldHolds (s : State) (rs : List Run) : Bool := vfnldReads s s.cur s.nextOp rs

/-- The first uncorrectable error or code mismatch among some runs (17_system R402). -/
def runsFault (s : State) (view : Nat) (rs : List Run) : Option FaultCode :=
  rs.findSome? fun r =>
    match r.place with
    | .here k => s.viewFault view k r.len
    | .far _ _ _ | .zero => none

/-- The poison of the bytes of some runs (17_system R402). -/
def runPoison (s : State) (view : Nat) : List Run → List Bool
  | [] => []
  | r :: rs =>
    (match r.place with
      | .here k => (List.range r.len).map fun i => decide (viewKey s view (k + i) / 64 ∈ s.sys.poison)
      | .far _ _ _ | .zero => List.replicate r.len false) ++ runPoison s view rs

/-- An error that ends an engine's read: bad storage or a bad code, but not poison, which travels with the data
(10_copy R248; 17_system R402). -/
def hardFault (s : State) (view : Nat) (rs : List Run) : Option FaultCode :=
  rs.findSome? fun r =>
    match r.place with
    | .here k => (viewGranules s view k r.len).findSome? fun g =>
        match granuleFault s.sys g with
        | some .poison => none
        | f => f
    | .far _ _ _ | .zero => none

/-- The offsets of the bytes of a read that reach the requester poisoned: those of granules in which the read finds an
error (17_system R402). -/
def badOffsets (s : State) (key n : Nat) : List Nat :=
  (List.range n).filter fun i => (granuleFault s.sys ((key + i) / 64)).isSome

/-! ### Elements of tiles (03_numbers R59) -/

/-- The bytes of some element codes in order; two 4-bit codes share a byte. -/
def packElems (w : Nat) (codes : List Nat) : List Byte :=
  if w = 4 then
    (List.range ((codes.length + 1) / 2)).map fun k =>
      BitVec.ofNat 8 (codes.getD (2 * k) 0 % 16 + 16 * (codes.getD (2 * k + 1) 0 % 16))
  else (codes.map (leBytes (w / 8))).flatten

/-- The code of element `n` of some bytes. -/
def codeIn (w : Nat) (bs : List Byte) (n : Nat) : Nat :=
  if w = 4 then (bs.getD (n / 2) 0).toNat / (if n % 2 = 0 then 1 else 16) % 16
  else leNat ((bs.drop (n * (w / 8))).take (w / 8))

/-- The code of an element of a tile as memory holds it. -/
def memCode (s : State) (core : Nat) (e : TileEntry) (n : Nat) : Nat :=
  let w := e.ty.width
  if w = 4 then (Memory.get s.mem (tileByteKey core e (n / 2))).toNat / (if n % 2 = 0 then 1 else 16) % 16
  else leNat (s.bytes (tileByteKey core e (n * w / 8)) (w / 8))

/-- Writes the codes of consecutive elements of a tile from element `n` on. -/
def writeElems (core : Nat) (e : TileEntry) (n : Nat) (codes : List Nat) (s : State) : State :=
  let w := e.ty.width
  if w = 4 then
    s.putWBytes (tileByteKey core e 0) ((List.range codes.length).map fun i =>
      let g := n + i
      ⟨g / 2, BitVec.ofNat 8 (codes.getD i 0 % 16 * (if g % 2 = 0 then 1 else 16)),
        if g % 2 = 0 then 0x0F else 0xF0⟩)
  else s.putBytes (tileByteKey core e (n * w / 8)) (packElems w codes)

/-- A completed write of an engine into a tile: DIRTY, and the census of the values written (R72). -/
def noteEngineWrite (core i : Nat) (whole : Bool) (xs : List Int) (s : State) : State :=
  if xs = [] then s
  else s.modTile core i fun e =>
    { e with dirty := true, census := minCensus e.ty xs (if whole then clsMax e.ty else e.census) }

/-- The handle under which a member of a task has an entry. -/
def handleOf (c : Ctx) (i : Nat) : Nat := ((c.hmap.find? fun e => e.2 == i).map Prod.fst).getD 0

/-- The tensor key of a tile (R71). -/
def tileTensor (c : Ctx) (i : Nat) (e : TileEntry) : Word := BitVec.ofNat 64 (handleOf c i * 2 ^ 32 + e.ver)

/-- The range that a side's bytes claim in the scoreboard, when they are local (10_copy R247). -/
def sideRange (s : State) (x : Side) (i len : Nat) (excl : Bool) : List Range :=
  match x with
  | .tile e off =>
    match s.core.tiles.get? e with
    | some t => [⟨tileByteKey s.cur t (off + i), len, excl⟩]
    | none => []
  | .priv off => [⟨privKey s.core.task s.core.member (off + i), len, excl⟩]
  | .ring die off => [⟨ringKey die (off + i), len, excl⟩]
  | .peer acc t =>
    match ownPeer s ((Place.far acc 0 t).shift i) len with
    | some k => [⟨k, len, excl⟩]
    | none => []
  | .global _ _ | .none => []

/-- The bytes of a whole tile as a range. -/
def tileRange (core : Nat) (e : TileEntry) (excl : Bool) : Range := ⟨tileByteKey core e 0, tileBytes e, excl⟩

/-- What an engine's read of a whole tile finds (17_system R402). -/
def tileFault (s : State) (core : Nat) (e : TileEntry) : Option FaultCode :=
  readFault s.sys (tileByteKey core e 0) (tileBytes e)

/-- A mark of class T for an error in an operand (17_system R402; 09_matrix R223). -/
def markT (o : Op) (code : Option FaultCode) (c : Ctx) : Ctx :=
  match code with
  | some k => c.mark .t k o.bundle (BitVec.ofNat 64 o.bundle)
  | none => c

end Sys2Proof.Machine
end

