-- ==== Sys2Proof/Machine/MemOps.lean ====
section
/-! DEFINITION. Core accesses (04_memory_model; 05_scalar R119–R122; 07_vector R193–R197): what holds
them back, how a load takes its value and a store performs, and when an access is performed at a
scope. -/

namespace Sys2Proof.Machine

open Sys2Proof

/-! ### Performed at a scope (04_memory_model R83 Table 4-1) -/

/-- The scopes at which a write must be performed at home wherever that is. -/
def scopeWide : Scope → Bool
  | .pkg | .pod | .sys => true
  | .core | .gang | .die => false

/-- A core access in flight: a load, a store or a release. -/
def isAccess (o : Op) : Bool :=
  match o.kind with
  | .load _ | .store _ | .record _ _ _ => true
  | _ => false

/-- An unperformed access counts as performed at a scope: a write at CORE once it has issued, and at
GANG and DIE once it has entered the die's ordering queue (R83 Table 4-1). A release that still waits
has entered no queue.
DEDUCED (notes/assumptions/52). -/
def performedAt (scope : Scope) (o : Op) : Bool :=
  match o.kind with
  | .store w =>
    match scope with
    | .core => true
    | .gang | .die => w.queued && (w.rel.isNone || w.sent)
    | .pkg | .pod | .sys => false
  | _ => false

/-- Every access of a core in bundles before a stamp is performed at a scope: one that waits behind a release has entered
no queue. -/
def accessesDone (s : State) (core : Nat) (scope : Scope) (stamp : Nat) : Bool :=
  s.ops.all fun o => !(o.core == core && decide (o.stamp < stamp) && isAccess o) ||
    (performedAt scope o && (scope == .core || !decide (o.id ∈ s.mig.behind)))

/-- The runs of an access that lie in this package. -/
def hereRuns (rs : List Run) : List (Nat × Nat) :=
  rs.filterMap fun r =>
    match r.place with
    | .here k => some (k, r.len)
    | .far _ _ _ | .zero => none

/-- Some runs have bytes in other packages. -/
def runsFar (rs : List Run) : Bool :=
  rs.any fun r =>
    match r.place with
    | .far _ _ _ => true
    | .here _ | .zero => false

/-- The accesses of an operation on bytes of this package that have left their core and are not performed: whether each
writes, and its bytes (R82). -/
def queuedRuns (o : Op) : List (Bool × Nat × Nat) :=
  match o.kind with
  | .store w =>
    match w.place with
    | .here k => if w.rel.isNone || w.sent then [(true, k, w.len)] else []
    | .far _ _ _ | .zero => []
  | .load l | .record _ _ l | .desc l _ => if l.taken then [] else (hereRuns l.runs).map fun (k, n) => (false, k, n)
  | .far f =>
    match f.place with
    | .here k => if f.begun && !f.performed then [(true, k, 8)] else []
    | .far _ _ _ | .zero => []
  | _ => []

/-- An operation has a request in its die's ordering queues: to a home off the die, or to another package (R82). -/
def inQueues (o : Op) : Bool :=
  ((queuedRuns o).any fun (_, k, _) => homeDie o.core k != dieOf o.core) ||
    match o.kind with
    | .store w => runsFar [⟨w.place, w.len⟩] && w.sent
    | .load l | .record _ _ l | .desc l _ => decide (l.next < l.runs.length) && runsFar (l.runs.drop l.next)
    | .far f => runsFar [⟨f.place, 8⟩] && f.performed
    | .part p => p.ans == .waits
    | _ => false

/-- Every request that stood in a die's ordering queues before a point has performed at home (R85, R88). -/
def queuesDrained (s : State) (die bound : Nat) : Bool :=
  s.ops.all fun o => !(decide (o.pos < bound) && dieOf o.core == die && inQueues o)

/-- A request stands in its die's queue of a location, none of the bytes' home on the die, before an access of the die
to a range, one of the two writing it (R82). -/
def queueBlocks (core : Nat) (wr : Bool) (key len : Nat) (p : Op) : Bool :=
  dieOf p.core == dieOf core && (queuedRuns p).any fun (w, k, n) =>
    (w || wr) && overlaps k n key len && homeDie p.core k != dieOf p.core

/-- A request of the same core stands before its access to a range, at a home unit of the range (01_engines R11, R13;
R82). -/
def unitBlocks (core key len : Nat) (p : Op) : Bool :=
  p.core == core && (queuedRuns p).any fun (_, k, n) =>
    (homeUnits core key len).any fun u => u ∈ homeUnits p.core k n

/-- An operation left its core before another. -/
def leftBefore (p o : Op) : Bool := decide (p.pos < o.pos) || (p.pos == o.pos && decide (p.id < o.id))

/-- An operation's access to a range of this package waits for requests that left before it. -/
def arrivesLater (s : State) (o : Op) (wr : Bool) (key len : Nat) : Bool :=
  s.ops.any fun p => leftBefore p o && (queueBlocks o.core wr key len p || unitBlocks o.core key len p)

/-- An engine of a core reaches some bytes behind every request that stands in its die's queues of their locations. -/
def engineBehind (s : State) (core : Nat) (wr : Bool) (rs : List (Nat × Nat)) : Bool :=
  s.ops.any fun p => rs.any fun (k, n) => queueBlocks core wr k n p

/-- What a release or a fence of a core at a scope waits for (R85, R88).
DEDUCED (notes/assumptions/52). -/
def releaseReady (s : State) (core : Nat) (scope : Scope) (stamp bound : Nat) : Bool :=
  accessesDone s core scope stamp && (!scopeWide scope || queuesDrained s (dieOf core) bound)

/-- The narrowest scope of R26 that encloses two cores of the package. -/
def scopeBetween (s : State) (a b : Nat) : Scope :=
  if a = b then .core
  else if (s.coreAt a).mode = .running ∧ (s.coreAt b).mode = .running ∧ (s.coreAt a).task = (s.coreAt b).task then .gang
  else if dieOf a = dieOf b then .die
  else .pkg

/-! ### What holds an access back -/

/-- A LD.ACQ of an earlier bundle has not returned its value (R86). -/
def acqPending (s : State) : Bool :=
  s.ops.any fun o => o.core == s.cur &&
    match o.kind with
    | .load l => l.acq.isSome
    | _ => false

/-- A granule of LPDDR6 is being copied or merged (14_revisions R339, R343). -/
def granBusy (s : State) (key len : Nat) : Bool :=
  s.ops.any fun o =>
    match o.kind with
    | .cow g => decide (g ∈ granules4k key len)
    | .merge m => decide (m.gran ∈ granules4k key len)
    | _ => false

/-- A load of the executing core to bytes of tile memory or private space has not taken its value, since it goes over the
die-to-die links through a peer form: a later load of them, which takes its own at issue, waits for it (R81). -/
def loadsPending (s : State) (rs : List Run) : Bool :=
  s.ops.any fun o => o.core == s.cur &&
    match o.kind with
    | .load l => !l.taken && (hereRuns rs).any fun (k, n) => decide (2 ^ 42 ≤ k) &&
        (hereRuns l.runs).any fun (j, m) => overlaps j m k n
    | _ => false

/-- What holds back an access of the executing core (R81, R86; 05_scalar R121; 14_revisions R339). -/
def accessHeld (s : State) (wr : Bool) (rs : List Run) : Bool :=
  acqPending s || runsHeld s wr rs || ((hereRuns rs).any fun (k, n) => granBusy s k n) || (!wr && loadsPending s rs)

/-- A fork of the executing task whose snapshot is not established, its record perhaps not yet read. -/
def forkPending (s : State) : Bool :=
  (s.revs.any fun (_, r) => r.forker == s.core.task && r.state == .forking) ||
    s.ops.any fun o => o.task == s.core.task &&
      match o.kind with
      | .record fork _ _ => fork
      | _ => false

/-- Such a fork holds back the task's writes to revisable regions (14_revisions R337). -/
def snapshotPending (s : State) (gs : List Nat) : Bool :=
  forkPending s && gs.any fun g => (regionOf s g).isSome

/-- A store's granules in LPDDR6. -/
def storeGranules (rs : List Run) : List Nat :=
  ((hereRuns rs).map fun (k, n) => granules4k k n).flatten

/-- The copies a store needs before it may issue (14_revisions R337, R339). -/
def storeCopies (s : State) (addr : Word) (rs : List Run) : Verdict :=
  if s.revs = [] ∧ forkPending s = false then .ok
  else
    let view := s.viewAt s.cur
    let gs := storeGranules rs
    if snapshotPending s gs then .hold .none
    else
      let n := copiesForGranules s view gs
      if n = 0 then .ok
      else
        match copiesFail s view gs with
        | some code => faultV code addr
        | none => .hold (.cow view gs)

/-- A peer form's window: its number. -/
def peerWindow (s : State) (addr : Word) : Option (Nat × Word) :=
  if tagOf addr.toNat = 0xB ∨ tagOf addr.toNat = 0xC then windowAt s s.cur addr.toNat else none

/-- The window allowance is reached (15_fabric R356). -/
def windowFull (s : State) (addr : Word) : Bool :=
  match peerWindow s addr with
  | some (k, w) => decide (bits w 0 8 ≤ s.core.win.getD k 0)
  | none => false

/-- The posted remote writes among a store's runs (04_memory_model R84). -/
def farCount (rs : List Run) : Nat :=
  (rs.filter fun r =>
    match r.place with
    | .far _ _ _ => true
    | .here _ | .zero => false).length

/-- The checks of a load after its address is formed. -/
def checkLoad (s : State) (al : Nat) (addr : Word) (len : Nat) : Verdict :=
  (checkAccess s true false al addr len).seq (holdIf (accessHeld s false (accessRuns s addr len)))

/-- The checks of a store after its address is formed. -/
def checkStore (s : State) (al : Nat) (addr : Word) (len : Nat) : Verdict :=
  let rs := accessRuns s addr len
  (checkAccess s false true al addr len).seq
    ((storeCopies s addr rs).seq (holdIf (accessHeld s true rs || vfnldHolds s rs || windowFull s addr)))

/-- What some posted writes at an address count: in class S (R84), and against a peer window (15_fabric R356). -/
def postedNeed (s : State) (addr : Word) (n : Nat) : Need :=
  { s := n
    wins := match peerWindow s addr with
      | some (k, w) => List.replicate n (k, bits w 0 8)
      | none => [] }

/-- What a store counts. -/
def storeNeed (s : State) (addr : Word) (len : Nat) : Need := postedNeed s addr (farCount (accessRuns s addr len))

/-- A run of a core's access through a peer form that names this package itself: it travels over the die-to-die links to
the bytes it reaches (01_engines R22). One that the owner refuses goes as a request, which is answered with an error. -/
def nearRun (s : State) (rd wr : Bool) (r : Run) : Run :=
  match r.place with
  | .far _ _ (.peerRing d off) =>
    if ringAllowed s s.cur d off r.len rd wr then ((ownPeer s r.place r.len).map fun k => ⟨.here k, r.len⟩).getD r else r
  | .far _ _ (.peerTile _ _ _) => ((ownPeer s r.place r.len).map fun k => ⟨.here k, r.len⟩).getD r
  | .far _ _ (.page _ _) | .here _ | .zero => r

/-- A store through such a form writes elements of a tile, noted at its owner (01_engines R21).
DEDUCED (notes/assumptions/18). -/
def noteOwner (r : Run) (s : State) : State :=
  match r.place with
  | .far acc _ t =>
    if acc ≠ s.accid then s
    else
      match peerTileOf s t with
      | some (c, i, off) =>
        match (s.coreAt c).tiles.get? i with
        | some e => noteTileWrite s c i false (touchedElems e off r.len)
        | none => s
      | none => s
  | .here _ | .zero => s

/-! ### Loads -/

/-- A scalar value of some bytes, sign- or zero-extended (05_scalar R120). -/
def scalarOf (sgn : Bool) (bs : List Byte) : Word :=
  let n := leNat bs
  if sgn then BitVec.ofInt 64 (signedOf (8 * bs.length) n) else BitVec.ofNat 64 n

/-- The nibbles of a vector that a mask keeps (07_vector R194). -/
def keepNibbles (m : MaskWord) (v : VWord) : VWord :=
  vecOf 4 fun j => if m.getLsbD j then laneOf 4 v j else 0

/-- A vector value of 256 bytes. -/
def vectorOf (m : MaskWord) (bs : List Byte) : VWord :=
  let v := BitVec.ofNat 2048 (leNat bs)
  if m = BitVec.allOnes 512 then v else keepNibbles m v

/-- The RMASK bits that bytes `off … off + len − 1` of a vector set (R194). -/
def rmaskBytes (off len : Nat) : MaskWord :=
  BitVec.ofNat 512 ((2 ^ (2 * len) - 1) * 2 ^ (2 * off))

/-- The RMASK bits of the runs that lie in non-resident pages. -/
def rmaskRuns : Nat → List Run → MaskWord
  | _, [] => 0
  | off, r :: rs => (if r.place = .zero then rmaskBytes off r.len else 0) ||| rmaskRuns (off + r.len) rs

/-- The bytes of a load in the order of its runs, from those got. -/
def gotBytes (n : Nat) (got : List (Nat × Byte)) : List Byte :=
  (List.range n).map fun i => ((got.find? fun g => g.1 == i).map Prod.snd).getD 0

/-- Supplies the value of the push that awaits an operation, or its failure, wherever the task is
(02_bundles R48; 05_scalar R122; 06_sequencer R172). -/
def supplyPush (o : Op) (f : Push → Push) (s : State) : State :=
  s.modOwner o.task o.member fun c =>
    { c with pushes := c.pushes.map fun p => if p.state = .awaiting o.id then f p else p }

/-- The push with a load's value. -/
def loadedPush (l : LoadOp) (p : Push) : Push :=
  let bs := gotBytes l.nbytes l.got
  if l.vec then { p with state := .ready, vval := vectorOf l.mask bs }
  else { p with state := .ready, sval := scalarOf l.sgn bs }

/-- A failed push: a remote error, a timeout, or bad data (R122; 17_system R402). -/
def failedPush (code : FaultCode) (p : Push) : Push := { p with state := .failed code 0 }

/-- Takes the bytes of the local runs of a load, with the first fault of a read (17_system R402). -/
def takeRuns (s : State) (core bound : Nat) : Nat → List Run → List (Nat × Byte) × Option FaultCode
  | _, [] => ([], none)
  | off, r :: rs =>
    let rest := takeRuns s core bound (off + r.len) rs
    match r.place with
    | .here k =>
      let bs := coreBytes s core bound k r.len
      (((List.range r.len).map (· + off)).zip bs ++ rest.1, (s.viewFault (s.viewAt core) k r.len).or rest.2)
    | .far _ _ _ | .zero => rest

/-- The controllers allow an operation's access to the runs of it in this package (17_system R400). -/
def runsAllowed (s : State) (core : Nat) (rd wr : Bool) (rs : List Run) : Bool :=
  (hereRuns rs).all fun (k, n) => coreAllowed s core k n rd wr

/-- What a view's reading leaves of the granules of some runs (17_system R402). -/
def readRuns (s : State) (view : Nat) (rs : List Run) : State :=
  { s with sys := (hereRuns rs).foldl (fun y (k, n) => readGranules y (viewGranules s view k n)) s.sys }

/-- The load that an operation carries. -/
def loadOf (o : Op) : Option LoadOp :=
  match o.kind with
  | .load l | .record _ _ l | .desc l _ => some l
  | _ => none

/-- An operation with its load changed. -/
def withLoad (l : LoadOp) (o : Op) : Op :=
  match o.kind with
  | .load _ => { o with kind := .load l }
  | .record fork addr _ => { o with kind := .record fork addr l }
  | .desc _ err => { o with kind := .desc l err }
  | _ => o

/-- Ranges of some runs in this package and one range share a byte. -/
def runsMeet (rs : List Run) (key len : Nat) : Bool := (hereRuns rs).any fun (k, n) => overlaps k n key len

/-- A load of bytes that are about to be given to a new tile takes them first. -/
def takeEarly (key len : Nat) (s : State) (o : Op) : State :=
  match loadOf o with
  | some l =>
    if !l.taken && runsMeet l.runs key len then
      (readRuns s o.view l.runs).modOp o.id (withLoad { l with got := l.got ++ (takeRuns s o.core o.id 0 l.runs).1, taken := true })
    else s
  | none => s

/-- A store without the bytes that it would write in a range. -/
def withoutBytes (key len : Nat) (o : Op) : Op :=
  match o.kind with
  | .store w =>
    match w.place with
    | .here k => { o with kind := .store { w with data := w.data.filter fun x => !(decide (key ≤ k + x.off) && decide (k + x.off < key + len)) } }
    | .far _ _ _ | .zero => o
  | _ => o

/-- The accesses in flight to bytes that become a new tile were made to the storage of an older one: loads take their
bytes now, and stores leave the new tile as it is (05_scalar R133). -/
def detachAccesses (key len : Nat) (s : State) : State :=
  let s := s.ops.foldl (takeEarly key len) s
  { s with ops := s.ops.map (withoutBytes key len) }

/-- The next far run of a load from an index on. -/
def nextFar (rs : List Run) (k : Nat) : Option Nat :=
  (List.range rs.length).find? fun i => decide (k ≤ i) &&
    match (rs[i]?).map Run.place with
    | some (.far _ _ _) => true
    | _ => false

/-- One far run of a load is asked of its home by a packet of its own. -/
def askRun (id : Nat) (l : LoadOp) (s : State) (k : Nat) : State :=
  match s.op? id with
  | none => s
  | some o =>
    match l.runs[k]? with
    | none => s
    | some r =>
      match r.place with
      | .far acc size t => startPart o (.op id) k (.far acc size t) (.read r.len) s
      | .here _ | .zero => s

/-- The far runs of a load are asked of their homes: the first by the load's own request, the others by packets, so that
all leave in the load's place in its core's order (15_fabric R353). -/
def askFar (id : Nat) (l : LoadOp) (s : State) : State :=
  if l.runs.length ≤ l.next then s
  else ((List.range l.runs.length).filter fun k => decide (l.next < k)).foldl (askRun id l) (sendRequest id s)

/-- The clock cycles after which a location's accesses nominally perform (04_memory_model R409). -/
def Space.delay : Space → Nat
  | .tile => 4
  | .ring => 24
  | .global => 80

/-- Starts a load whose checks passed: a tile or private location gives its value at once (an acquiring
load holds later work until the value has returned, R86), any other through an operation that performs
at its home (R79, R120; 07_vector R194). -/
def startLoad (p : Push) (sp : Space) (runs : List Run) (nbytes : Nat) (sgn : Bool) (mask : MaskWord)
    (acq : Option Scope) (s : State) : State :=
  let runs := runs.map (nearRun s true false)
  let s := if sp = .global then usePages p.addr nbytes s else s
  let l : LoadOp := { runs := runs, nbytes := nbytes, sgn := sgn, vec := p.vec, mask := mask, acq := acq,
                      got := [], next := 0, taken := false }
  let near := sp == .tile || runs.all fun r => r.place == .zero
  if near then
    let t := takeRuns s s.cur s.nextOp 0 runs
    match acq, t.2 with
    | none, none => (readRuns s (s.viewAt s.cur) runs).addPush (loadedPush { l with got := t.1 } p)
    | none, some code => (readRuns s (s.viewAt s.cur) runs).addPush (failedPush code p)
    | some _, some code => (readRuns s (s.viewAt s.cur) runs).addPush (failedPush code p)
    | some _, none =>
      ((readRuns s (s.viewAt s.cur) runs).startOp sp.delay []
        (.load { l with got := t.1, next := runs.length, taken := true })).addPush
          { p with state := .awaiting s.nextOp }
  else
    let far := nextFar runs 0
    let l := { l with next := far.getD runs.length, taken := (hereRuns runs).isEmpty }
    let id := s.nextOp
    askFar id l ((s.startOp sp.delay [] (.load l)).addPush { p with state := .awaiting id })

/-- Every byte of a load has come: a load of one run has no packets. -/
def loadDone (s : State) (o : Op) (l : LoadOp) : Bool :=
  l.taken && decide (l.runs.length ≤ l.next) && (decide (l.runs.length ≤ 1) || !clientWaits s (.op o.id))

/-- A load's operation ends: with its value once every run is got, or with a failure. -/
def endLoad (o : Op) (l : LoadOp) (err : Option FaultCode) (s : State) : State :=
  match err with
  | some code => (endParts (.op o.id) ((supplyPush o (failedPush code) s).dropOp o.id)).noteErr err
  | none =>
    if loadDone s o l = true then (supplyPush o (loadedPush l) s).dropOp o.id
    else s.modOp o.id fun x => { x with kind := .load l }

/-! ### Stores -/

/-- A load or store of the core to bytes of a range has not performed: a later store to them waits its turn (R81). -/
def storeWaits (s : State) (key len : Nat) : Bool :=
  s.ops.any fun o => o.core == s.cur &&
    match o.kind with
    | .store w =>
      match w.place with
      | .here k => overlaps k w.len key len
      | .far _ _ _ | .zero => false
    | .load l => !l.taken && runsMeet l.runs key len
    | _ => false

/-- Starts one run of a store whose checks passed (R79, R81–R85, R120). -/
def startRun (sp : Space) (addr : Word) (rel : Option Scope) (r : Run) (data : List WByte) (s : State) :
    State :=
  match r.place with
  | .zero => s
  | .here k =>
    if sp = .tile ∧ rel = none ∧ storeWaits s k r.len = false then s.putWBytes k data
    else
      s.startOp sp.delay []
        (.store { place := r.place, data := data, len := r.len, queued := homeDie s.cur k != dieOf s.cur,
                  posted := false, window := none, rel := rel, faddr := addr, sent := false })
  | .far _ _ _ =>
    let win := (peerWindow s addr).map Prod.fst
    let id := s.nextOp
    let place := (nearRun s false true r).place
    let queued := match place with
      | .here k => homeDie s.cur k != dieOf s.cur
      | .far _ _ _ | .zero => true
    let s := s.startOp sp.delay []
      (.store { place := place, data := data, len := r.len, queued := queued, posted := true, window := win,
                rel := rel, faddr := addr, sent := rel.isNone })
    let s := if place = r.place then s else noteOwner r s
    let s := s.modCore s.cur fun c =>
      { c with
        ctx := c.ctx.raise .s
        win := match win with
          | some k => c.win.set k (c.win.getD k 0 + 1)
          | none => c.win }
    if rel.isNone then sendRequest id s else s

/-- Starts the runs of a store, each with its own bytes. -/
def startRuns (sp : Space) (addr : Word) (rel : Option Scope) : Nat → List Run → List WByte → State → State
  | _, [], _, s => s
  | off, r :: rs, data, s =>
    let mine := (data.filter fun w => decide (off ≤ w.off) && decide (w.off < off + r.len)).map fun w =>
      { w with off := w.off - off }
    startRuns sp addr rel (off + r.len) rs data
      (if mine = [] then s else startRun sp addr rel r mine s)

/-- A store of `len` bytes at an address, with the bits of the bytes it writes. -/
def startStore (addr : Word) (len : Nat) (rel : Option Scope) (data : List WByte) (s : State) : State :=
  startRuns (spaceOf s addr) addr rel 0 (accessRuns s addr len) data (usePages addr len s)

/-- The tile elements that a store through tag 0x9 writes, with their tile (05_scalar R120). -/
def noteStore (addr : Word) (len : Nat) (s : State) : State :=
  match tileOfAddr s addr with
  | some (i, e) => noteTileWrite s s.cur i false (touchedElems e (offOf addr.toNat) len)
  | none => s

end Sys2Proof.Machine
end

