-- ==== Sys2Proof/Machine/Boundary.lean ====
section
/-! DEFINITION. What a core does at its boundary (06_sequencer R139): the order of the steps before a
bundle issues. -/

namespace Sys2Proof.Machine

open Sys2Proof

/-- What a core does next at its boundary: nothing this cycle, a change of state that is no row of the
table, a wait to the next cycle, a row of the table, or the issue of its bundle. -/
inductive CoreNext
  | skip
  | set (s : State)
  | wait (s : State)
  | row (i : Instr)
  | issue (is : List Instr) (words : Nat)

/-- A push due at this boundary lacks its value (02_bundles R48). -/
def lateDue (ps : List Push) : Bool :=
  ps.any fun p => p.count == 0 &&
    match p.state with
    | .awaiting _ => true
    | .ready | .failed _ _ => false

/-- A push due at this boundary has its value. -/
def readyDue (ps : List Push) : Bool := ps.any fun p => p.count == 0 && p.state == .ready

/-- A push due at this boundary has failed (05_scalar R122). -/
def failedDue (ps : List Push) : Bool :=
  ps.any fun p => p.count == 0 &&
    match p.state with
    | .failed _ _ => true
    | .ready | .awaiting _ => false

/-- A heavy fence's request at a boundary (04_memory_model R90): once the accesses of earlier bundles
are performed at its scope, the core acknowledges; until then it waits. -/
def serveFence (s : State) (n : Nat) (f : FenceReq) (rest : List FenceReq) : CoreNext :=
  if releaseReady s n f.ask.scope s.nextBundle f.stamp then
    .set ((s.modCore n fun c => { c with fences := rest, fenced := false }).send f.ask.src.acc
      (.fenceHeavyAcknowledge f.ask.src.op s.accid n))
  else .wait (s.modCore n fun c => { c with fenced := true })

/-- The first push due at this boundary that has its value would write a register of an absent granule
(06_sequencer R171). -/
def dueMissing (c : Ctx) : Bool :=
  match c.pushes.find? fun p => p.count == 0 && p.state == .ready with
  | some p => p.dest != 0 && (if p.vec then c.vMissing p.dest else c.gMissing p.dest)
  | none => false

/-- The bundle of a core whose pushes are performed: its decode fault, a push that failed, or its issue. -/
def nextBundle (s : State) (c : Core) : CoreNext :=
  match fetchBundle c with
  | .error _ => .row (.illegalSlotWord s.cur)
  | .ok is => if failedDue c.ctx.pushes then .row (.resultPush s.cur) else .issue is (fetchLen c)

/-- A core that is to stop performs the pushes due, unless it stalls on one, and stops (R165). -/
def nextStop (s : State) (c : Core) (k : StopKind) : CoreNext :=
  if c.bubble = 0 ∧ readyDue c.ctx.pushes = true ∧ lateDue c.ctx.pushes = false ∧ dueMissing c.ctx = false then
    .row (.resultPush s.cur)
  else .wait (stopCore s.cur k s)

/-- A PUBLISH of a core has sent its add and has not issued (13_tasks R326): it issues before a stop. -/
def publishing (s : State) (core : Nat) : Bool :=
  (s.coreAt core).pubDone.isSome || s.ops.any fun o => o.core == core &&
    match o.kind with
    | .publish _ => true
    | _ => false

/-- The order of R139 at a core's boundary: the advance of a REPEAT run, format writes and pushes due, a stop,
the branch stall, heavy fences, the decode, and the issue. -/
def nextAtBoundary (s : State) (c : Core) : CoreNext :=
  if c.mode ≠ .running then .skip
  else if (c.ctx.rep.map RepState.adv).getD false then .row (.repeatRepetition s.cur)
  else if c.ctx.fmts.any (·.count == 0) then .row (.formatWriteApply s.cur)
  else
    match if publishing s s.cur then none else c.stopReq with
    | some k => nextStop s c k
    | none =>
      if c.bubble ≠ 0 then .wait (s.modCore s.cur fun c => { c with bubble := c.bubble - 1 })
      else
        match c.fences with
        | f :: rest => serveFence s s.cur f rest
        | [] =>
          if lateDue c.ctx.pushes then .wait s
          else if readyDue c.ctx.pushes then .row (.resultPush s.cur)
          else nextBundle s c

/-- Every clock of the package has stopped (17_system R397, R404). -/
def clockStopped (s : State) : Bool := s.sys.frozen || s.sys.boot == .fatal

/-- The events that act on a device whose clocks have stopped: a reset; the read-out of a frozen device, whose CXL
link is down; and, of a device in FATAL, the reset of BOOT_CTL, a read through CXL.mem and the freeze
(17_system R394, R395, R397, R404). -/
def actsWhenStopped (s : State) : Instr → Bool
  | .deviceReset | .thermalTrip => true
  | .tapReadout => s.sys.frozen
  | .bootReset | .cxlMemAccess _ _ | .freeze => !s.sys.frozen
  | _ => false

end Sys2Proof.Machine
end

