-- ==== Sys2Proof/Config.lean ====
section
/-! DEFINITION. What one package fixes and the spec leaves open: the free values. Each is a constant
without a body, so that no statement can rest on a number (notes/assumptions 2 and 4). -/

namespace Sys2Proof.Config

/-- The 32-byte key hash in the fuses (17_system R396).
DESIGN CHOICE (notes/assumptions/4). -/
opaque fuseKeyHash : Nat

/-- The minimum image version in the fuses (17_system R396).
DESIGN CHOICE (notes/assumptions/4). -/
opaque fuseMinVersion : Nat

/-- What firmware reads from the bytes of a pod configuration block (17_system R394): the layout of
the block is not in the spec. None when the block is not valid (BOOT_STS.ERR 6). -/
opaque podAccid : List Byte → Option Nat

/-- The torus lengths LX, LY and LZ in the pod configuration block (15_fabric R354). -/
opaque podTorus : List Byte → Nat × Nat × Nat

/-- HSEED in the pod configuration block (12_migration R283). -/
opaque podHseed : List Byte → Word

/-- The keys of UALinkSec in the pod configuration block (17_system R394; 15_fabric R350). -/
opaque podKeys : List Byte → List Byte

/-- HOMEMAP in the pod configuration block (12_migration R283). -/
opaque podHomemap : List Byte → Nat → Nat

/-- The packages of the pod that firmware learns from the pod configuration block
(17_system R394): whether an accelerator id names one. -/
opaque podMember : List Byte → Nat → Bool

/-- The frame that firmware reserves for a page of a size code (12_migration R296), none when the
package has no free frame of that size.
DESIGN CHOICE (notes/assumptions/2). -/
opaque freeFrame : Nat → Nat → Option Nat

/-- The device physical address of the save area that firmware allocates for a member of a task
(06_sequencer R162, R167). -/
opaque saveArea : Nat → Nat → Nat

/-- A byte of a saved loop-stack entry: the layout within its 8 bytes is not in the spec (06_sequencer R147, R167). -/
opaque loopByte (lc first close : Nat) (loops : Bool) (stages retDepth k : Nat) : Byte

/-- The number of records that the service ring of a context holds: system software's choice
(16_front_end R388).
DESIGN CHOICE (notes/assumptions/57). -/
opaque serviceSlots : Nat → Nat

/-- The host physical address of the service ring of a context (16_front_end R388): system software's choice.
DESIGN CHOICE (notes/assumptions/72). -/
opaque serviceRing : Nat → Nat

/-- The host physical address of the completion ring of the admin queue, and the number of its records (16_front_end
R387): system software's choice.
DESIGN CHOICE (notes/assumptions/72). -/
opaque adminRing : Nat × Nat

/-- The MSI-X vector of the admin queue (16_front_end R387): firmware's choice.
DESIGN CHOICE (notes/assumptions/72). -/
opaque adminVector : Nat

/-- The MSI-X vector of the service queue of a context (16_front_end R388).
DESIGN CHOICE (notes/assumptions/72). -/
opaque serviceVector : Nat → Nat

end Sys2Proof.Config
end

