-- ==== Sys2Proof/Machine/Service.lean ====
section
/-! DEFINITION. Service records to system software (16_front_end R388), and the residency requests of
PGREQ (11_translation R276). -/

namespace Sys2Proof.Machine

open Sys2Proof

/-- The service ring of a context has room, and no record is held back (R388). -/
def serviceRoom (s : State) (asid : Nat) : Bool :=
  ((s.context? asid).map fun c => c.serviceFree != 0 && c.serviceHeld == []).getD false

/-- System software is told that records have been posted.
DESIGN CHOICE (notes/assumptions/72). -/
def serviceMessage (asid : Nat) (s : State) : State := { s with msix := s.msix ++ [Config.serviceVector asid] }

/-- The 64 bytes of a service record (R388 Table 16-10). -/
def serviceBytes (r : ServiceRec) : List Byte :=
  leBytes 1 r.kind ++ leBytes 1 r.code ++ leBytes 2 r.asid ++ leBytes 4 (r.task % 2 ^ 32) ++ leBytes 8 r.address.toNat ++
    leBytes 8 r.length ++ leBytes 4 r.parent ++ leBytes 1 r.flags ++ leBytes 1 0 ++ leBytes 2 r.bundle ++ leBytes 32 0

/-- Writes records into the service ring of a context, from record `n` of it on. -/
def writeService (asid : Nat) : Nat → List ServiceRec → State → State
  | _, [], s => s
  | n, r :: rs, s =>
    writeService asid (n + 1) rs
      { s with host := Memory.setN s.host (Config.serviceRing asid + 64 * (n % Config.serviceSlots asid)) (serviceBytes r) }

/-- Records enter the service ring of a context, which has room for them. -/
def enterService (asid : Nat) (rs : List ServiceRec) (s : State) : State :=
  let n := ((s.context? asid).map fun c => c.service.length).getD 0
  (writeService asid n rs s).modContext asid fun c =>
    { c with service := c.service ++ rs, serviceFree := c.serviceFree - rs.length }

/-- Posts a service record of a context: firmware holds it while the service ring is full (R388). -/
def postService (r : ServiceRec) (s : State) : State :=
  if serviceRoom s r.asid then serviceMessage r.asid (enterService r.asid [r] s)
  else s.modContext r.asid fun c => { c with serviceHeld := c.serviceHeld ++ [r] }

/-- A context holds a service record that a task caused: the task stays stopped (R388). The record of a work ring knows
the 32 bits that the ring's entry gave. -/
def serviceHolds (s : State) (task : Nat) : Bool :=
  s.ctxs.any fun (_, c) => c.serviceHeld.any fun r => r.task == task || (r.kind == 4 && r.task == task % 2 ^ 32)

/-- What a residency request finds in a page. -/
inductive Residency
  | resident | missing | invalid
  deriving DecidableEq, Repr

/-- A page as a residency request judges it (11_translation R276). -/
def residency (w : Bool) : WalkEnd → Residency
  | .leaf e => if w && !e.w then .missing else .resident
  | .nonResident _ _ _ _ => .missing
  | .failed _ => .invalid

/-- The pages of a range outside the heap window, with what a residency request finds there: the base,
the bytes and the finding. The first argument bounds the number of pages. -/
def residencyPages (s : State) (asid : Nat) (c : Context) (w : Bool) :
    Nat → Nat → Nat → List (Nat × Nat × Residency)
  | 0, _, _ => []
  | f + 1, va, stop =>
    if stop ≤ va then []
    else if touchesHeap c va 1 then residencyPages s asid c w f (c.hb + c.hl) stop
    else
      let r := (walk s asid va 0x140).1
      (va, pageEnd va r - va, residency w r) :: residencyPages s asid c w f (pageEnd va r) stop

/-- The pages that a residency request covers. -/
def requestPages (s : State) (asid va len : Nat) (w : Bool) : List (Nat × Nat × Residency) :=
  match s.context? asid with
  | some c => residencyPages s asid c w (len / 2 ^ 16 + 3) va (min (va + len) (2 ^ 48))
  | none => [(va, len, .invalid)]

/-- Firmware passes one request for each missing page to system software. -/
def askPages (asid task va len : Nat) (w : Bool) (s : State) : State :=
  ((requestPages s asid va len w).filter fun p => p.2.2 == .missing).foldl (fun s (a, n, _) =>
    postService { kind := 1, code := 0, asid := asid, task := task, address := BitVec.ofNat 64 a, length := n,
                  parent := 0, flags := if w then 1 else 0, bundle := 0 } s) s

end Sys2Proof.Machine
end

