-- ==== Sys2Proof/Machine/Copy.lean ====
section
/-! DEFINITION. The copy slots at issue (10_copy R242–R258; 11_translation R274, R276; 12_migration R292;
15_fabric R368). What their operations do at completion stands in CopyRun. -/

namespace Sys2Proof.Machine

open Sys2Proof

/-! ### Translation of copy slots (11_translation R267, R274) -/

/-- A tx register as the translation of a page that it holds (R271, R274). -/
def txEnd (core asid : Nat) (v : Word) : WalkEnd :=
  let remote := bits v 59 2 == 1
  .leaf { asid := asid, vpn := bits v 24 32, size := bits v 61 2,
          remote := if remote then some (bits v 0 10) else none,
          frame := if remote then 0 else bits v 0 24, rd := bits v 57 1 == 1, w := bits v 58 1 == 1,
          master := core, vrd := true, vw := true }

/-- The lowest-numbered tx register that translates a page for a copy (R274). -/
def txPage (s : State) (va : Nat) : Option WalkEnd :=
  ((List.range 8).map fun n => s.ctx.tx.getD n 0).findSome? fun v =>
    if bits v 63 1 = 1 ∧ bits v 59 2 < 2 ∧ bits v 24 32 * 2 ^ 16 = pageBase (bits v 61 2) va then
      some (txEnd s.cur (s.asidAt s.cur) v)
    else none

/-- What translates a page of a copy slot's footprint, none when a walk is needed. -/
def copyPageAt (s : State) (va : Nat) : Option WalkEnd :=
  (txPage s va).or (pageAt s s.cur (s.asidAt s.cur) va)

/-- The places where a copy's translations may change inside a large page: those of the core, and the pages of its tx
registers. -/
def copyCuts (s : State) : List Nat :=
  cutsOf s s.cur (s.asidAt s.cur) ++ (List.range 8).map fun n => bits (s.ctx.tx.getD n 0) 24 32 * 2 ^ 16

/-- The first VA after one that need not be translated as it is. -/
def copyStop (s : State) (va : Nat) (r : WalkEnd) : Nat := cutAt (copyCuts s) va (pageEnd va r)

/-- The page that holds a VA: its base and the first VA after it. -/
def pageIs (va : Nat) (r : WalkEnd) : Nat × Nat :=
  let z := match r with
    | .leaf e => e.size
    | .nonResident _ size _ _ => size
    | .failed _ => 0
  (pageBase z va, pageBytes z)

/-- The pieces of a footprint of at most two pages that the core's translations may cut it into, and one more. -/
def copySteps (s : State) : Nat := 2 * (copyCuts s).length + 4

/-- The pages of a footprint, at most two at the sizes that its translations give (R267, R268): `seen` are those
before a VA. -/
def checkTwoPages (s : State) (rd wr : Bool) (faddr : Word) : Nat → List (Nat × Nat) → Nat → Nat → Verdict
  | 0, _, va, stop => require (decide (stop ≤ va)) .pageSpan faddr
  | f + 1, seen, va, stop =>
    if stop ≤ va then .ok
    else
      match copyPageAt s va with
      | none => if seen.length < 2 then .walk (s.asidAt s.cur) va else faultV .pageSpan faddr
      | some r =>
        if pageIs va r ∉ seen ∧ 2 ≤ seen.length then faultV .pageSpan faddr
        else (pageCheck rd wr faddr r).seq
          (checkTwoPages s rd wr faddr f (if pageIs va r ∈ seen then seen else pageIs va r :: seen) (copyStop s va r) stop)

/-- The runs of a footprint's pages. -/
def twoPageRuns (s : State) : Nat → Nat → Nat → List Run
  | 0, _, _ => []
  | f + 1, va, stop =>
    if stop ≤ va then []
    else
      match copyPageAt s va with
      | none => []
      | some r => ⟨pagePlace (s.asidAt s.cur) va r, min stop (copyStop s va r) - va⟩ ::
          twoPageRuns s f (copyStop s va r) stop

/-- The bases of a footprint's non-resident pages. -/
def twoPageBases (s : State) : Nat → Nat → Nat → List Nat
  | 0, _, _ => []
  | f + 1, va, stop =>
    if stop ≤ va then []
    else
      match copyPageAt s va with
      | none => []
      | some r =>
        (match r with
          | .nonResident _ size _ _ => [pageBase size va]
          | .leaf _ | .failed _ => []) ++ twoPageBases s f (copyStop s va r) stop

/-- A footprint of tag 0x0 outside the heap window. -/
def paged (s : State) (addr : Word) (len : Nat) : Bool :=
  tagOf addr.toNat == 0 &&
    match s.context? (s.asidAt s.cur) with
    | some c => !inHeap c (vaOf addr.toNat) len
    | none => true

/-- Step 2 of R246: the checks of R21 up to translation. A ring access is checked by its ring stop as
its rows are reached (17_system R399).
DEDUCED (notes/assumptions/15). -/
def checkNamed (s : State) (rd wr : Bool) (addr : Word) (len : Nat) : Verdict :=
  (require (spaceOk addr.toNat len) .space addr).seq
    (match tagOf addr.toNat with
      | 0x0 | 0xA => .ok
      | _ => checkSpace s rd wr addr len)

/-- Step 4 of R246. -/
def checkTranslated (s : State) (rd wr : Bool) (addr : Word) (len : Nat) : Verdict :=
  if tagOf addr.toNat ≠ 0 then .ok
  else
    match s.context? (s.asidAt s.cur) with
    | none => faultV .translation addr
    | some c =>
      if paged s addr len && !touchesHeap c (vaOf addr.toNat) len then
        checkTwoPages s rd wr addr (copySteps s) [] (vaOf addr.toNat) (vaOf addr.toNat + len)
      else checkGlobal s s.cur rd wr addr (vaOf addr.toNat) len

/-- The runs of a copy slot's footprint that passed its checks. -/
def copyRuns (s : State) (addr : Word) (len : Nat) : List Run :=
  if paged s addr len then twoPageRuns s (copySteps s) (vaOf addr.toNat) (vaOf addr.toNat + len) else accessRuns s addr len

/-- The bases of its non-resident pages. -/
def copyBases (s : State) (addr : Word) (len : Nat) : List Nat :=
  if paged s addr len then twoPageBases s (copySteps s) (vaOf addr.toNat) (vaOf addr.toNat + len) else []

/-- The side that a copy slot's address names, translated for the whole operation (R246). -/
def copySide (s : State) (addr : Word) (len : Nat) : Side := sideOf s addr (copyRuns s addr len)

/-! ### Operand words (R244, R245 Tables 10-2 and 10-3) -/

/-- A shape word. -/
structure ShapeWord where
  dstr : Nat
  sstr : Nat
  rows : Nat
  rlen : Nat

/-- The fields of a shape word. -/
def shapeOf (w : Word) : ShapeWord := ⟨bits w 46 18, bits w 28 18, bits w 16 12 + 1, bits w 0 16⟩

/-- A gather word. -/
structure GatherWord where
  ioff : Nat
  idx : Nat
  str : Nat
  count : Nat
  rlen : Nat

/-- The fields of a gather word: `ioff` in elements, `count` the number of indices. -/
def gatherOf (w : Word) : GatherWord :=
  ⟨bits w 54 10 * 16, bits w 46 8, bits w 28 18, bits w 16 12 + 1, bits w 0 16⟩

/-- The element size of a mode of COPY: 1 where it does not transpose (R251). -/
def modeElem : CopyMode → Nat
  | .plain | .fill | .trans1 => 1
  | .trans2 => 2
  | .trans4 => 4

/-- A transposed mode. -/
def transposed : CopyMode → Bool
  | .trans1 | .trans2 | .trans4 => true
  | .plain | .fill => false

/-- The bytes of a destination row (R244, R251). -/
def dstRowBytes (m : CopyMode) (z : ShapeWord) : Nat := if transposed m then z.rows * modeElem m else z.rlen

/-- The destination rows. -/
def dstRows (m : CopyMode) (z : ShapeWord) : Nat := if transposed m then z.rlen / modeElem m else z.rows

/-- The bytes from the first to the last that a COPY writes. -/
def dstSpan (m : CopyMode) (z : ShapeWord) : Nat := (dstRows m z - 1) * z.dstr + dstRowBytes m z

/-- The bytes from the first to the last that a COPY reads. -/
def srcSpan (z : ShapeWord) : Nat := (z.rows - 1) * z.sstr + z.rlen

/-- The limits of a shape word in a mode (R244, R251). -/
def shapeOk (m : CopyMode) (z : ShapeWord) : Bool :=
  z.rlen != 0 && (m != .fill || z.sstr == 0) && z.rlen % modeElem m == 0 &&
    (decide (dstRows m z ≤ 1) || decide (dstRowBytes m z ≤ z.dstr))

/-- The index tile of a gather word (R245). -/
def checkIndex (s : State) (g : GatherWord) : Verdict :=
  match s.tileAt s.cur g.idx with
  | none => faultV .tileHandle 0
  | some (_, e) =>
    (require (e.ty == .i32 || e.ty == .n32) .tileShape 0).seq
      (require (decide (g.ioff + g.count ≤ e.rows * e.cols)) .tileBounds 0)

/-- The index tile's entry and the first element used. -/
def indexOf (s : State) (g : GatherWord) : Option (Nat × Nat) :=
  (s.tileAt s.cur g.idx).map fun p => (p.1, g.ioff)

/-- The range of an index tile. -/
def indexRange (s : State) (g : GatherWord) : List Range :=
  match s.tileAt s.cur g.idx with
  | some (_, e) => [tileRange s.cur e true]
  | none => []

/-! ### Exponents, types and alignment (R246, R249) -/

/-- The tile of a base address that is checked only as its rows are reached (R246). -/
def baseTile (s : State) (addr : Word) : Option (Nat × TileEntry) :=
  if tagOf addr.toNat = 0x9 ∧ tileCore addr.toNat = s.cur then tileOfAddr s addr else none

/-- The side of such a base: its tile, space or region. -/
def baseSide (s : State) (addr : Word) : Side :=
  if tagOf addr.toNat = 0x9 ∧ tileCore addr.toNat ≠ s.cur then .none else sideOf s addr []

/-- The exponent rule of R249 between a destination and a source tile; a pending one is awaited
(09_matrix R225). -/
def checkCopyExp (d x : Option (Nat × TileEntry)) (whole : Bool) : Verdict :=
  match d, x with
  | some (_, d), some (_, x) =>
    (holdIf (d.expPending.isSome || x.expPending.isSome)).seq
      (require (whole || d.exp == x.exp) .scaleMismatch 0)
  | _, _ => .ok

/-- The destination takes the source's exponent at issue when the write covers it (R249). -/
def adoptExp (d x : Option (Nat × TileEntry)) (whole : Bool) (s : State) : State :=
  match d, x with
  | some (i, _), some (_, x) => if whole then s.modTile s.cur i fun e => { e with exp := x.exp } else s
  | _, _ => s

/-- A source tile has the destination's type (R249). -/
def checkSameType (d x : Option (Nat × TileEntry)) : Verdict :=
  match d, x with
  | some (_, d), some (_, x) => require (d.ty == x.ty) .tileShape 0
  | _, _ => .ok

/-- Addresses and strides are multiples of a size (ALIGN): the failing address, or the destination.
DEDUCED (notes/assumptions/11). -/
def checkMultiples (e : Nat) (a b : Word) (ns : List Nat) : Verdict :=
  (require (a.toNat % e == 0) .align a).seq
    ((require (b.toNat % e == 0) .align b).seq (require (ns.all fun n => n % e == 0) .align a))

/-- The bytes of an element of a tile's type that alignment looks at: 1 for 4-bit types. -/
def alignElem (d : Option (Nat × TileEntry)) : Nat :=
  match d with
  | some (_, e) => max 1 (e.ty.width / 8)
  | none => 1

/-! ### Holding back (R246, R247; 09_matrix R234) -/

/-- A matrix instruction, VOPT, VFNLD or PIPEW in flight holds a range from a copy. -/
def tileOpHeld (s : State) (wr : Bool) (r : Range) : Bool :=
  s.ops.any fun o => o.core == s.cur &&
    (match o.kind with
      | .matrix _ | .vopt _ _ _ _ _ _ _ _ | .vfnld _ _ _ | .pipew _ _ _ _ => true
      | _ => false) &&
    o.ranges.any fun q => (wr || q.excl) && overlaps q.key q.len r.key r.len

/-- What holds a copy slot back: an acquiring load, tile operations on its ranges, a snapshot to come. -/
def copyHeld (s : State) (ws rs : List Range) (dst : List Run) : Bool :=
  acqPending s || ws.any (tileOpHeld s true) || rs.any (tileOpHeld s false) ||
    snapshotPending s (storeGranules dst) || vfnldHolds s dst

/-- A scatter to global rows waits while a snapshot of the executing task's fork is to come
(14_revisions R337). -/
def scatterHeld (s : State) (base : Word) : Bool :=
  tagOf base.toNat == 0 && forkPending s

/-- The whole range that an indexed base names (R247): its tile, private space or ring. -/
def regionRange (s : State) (addr : Word) : List Range :=
  match baseSide s addr with
  | .tile i _ =>
    match s.core.tiles.get? i with
    | some e => [tileRange s.cur e true]
    | none => []
  | .priv _ => if s.ctx.priv = 0 then [] else [⟨privKey s.core.task s.core.member 0, s.ctx.priv, true⟩]
  | .ring die _ => [⟨ringKey die 0, ringBytes, true⟩]
  | .peer acc t =>
    if acc ≠ s.accid then []
    else
      match t with
      | .peerRing die _ => [⟨ringKey die 0, ringBytes, true⟩]
      | t =>
        match peerTileOf s t with
        | some (c, i, _) =>
          match (s.coreAt c).tiles.get? i with
          | some e => [tileRange c e true]
          | none => []
        | none => []
  | .global _ _ | .none => []

/-- A channel operation's need. -/
def chanNeed (ch : Fin 2) (ranges : Nat) : Need :=
  if ch = 0 then { c0 := 1, ranges := ranges } else { c1 := 1, ranges := ranges }

/-! ### Nominal durations (R258 Table 10-6) -/

/-- The bytes a cycle of the side read. -/
def sideRate : Space → Nat
  | .tile => 128
  | .ring => 64
  | .global => 32

/-- The cycles of some rows. -/
def rowsCost (rate rlen rows : Nat) : Nat := rows * max 1 ((rlen + rate - 1) / rate)

/-- The cycles from issue to completion of a copy of rows.
DESIGN CHOICE (notes/assumptions/8). -/
def copyCost (s : State) (m : CopyMode) (dst src : Word) (z : ShapeWord) : Nat :=
  if m = .fill then 2 + rowsCost (sideRate (spaceOf s dst)) z.rlen z.rows + 2
  else 2 + (spaceOf s src).delay + rowsCost (sideRate (spaceOf s src)) z.rlen z.rows + 2

/-- The cycles from issue to completion of a gather, a scatter or a SAE operation but for its entries
applied. -/
def indexCost (s : State) (src : Word) (g : GatherWord) : Nat :=
  2 + 4 + (spaceOf s src).delay + rowsCost (sideRate (spaceOf s src)) g.rlen g.count + 2

/-! ### Starting operations -/

/-- A side fixed at issue uses the translations of its pages (11_translation R269). -/
def useSide (x : Side) (s : State) : State :=
  match x with
  | .global va tr => usePages (BitVec.ofNat 64 va) ((tr.map fun r => r.2.1).sum) s
  | _ => s

/-- Starts a channel operation: its class rises and its ranges are claimed. -/
def startCopy (lat : Nat) (ranges : List Range) (c : CopyOp) (s : State) : State :=
  ((useSide c.src (useSide c.dst s)).startOp lat ranges (.copy c)).modCtx fun x => x.raise (chanCls c.ch)

/-! ### COPY (R251) -/

/-- A COPY's write covers its whole destination tile (R249). -/
def copyWhole (s : State) (m : CopyMode) (a : Word) (z : ShapeWord) : Bool :=
  match baseTile s a with
  | some (_, e) => offOf a.toNat == 0 && (decide (dstRows m z ≤ 1) || z.dstr == dstRowBytes m z) &&
      dstRows m z * dstRowBytes m z == tileBytes e
  | none => false

/-- The source tile that a COPY reads. -/
def copySrcTile (s : State) (m : CopyMode) (b : Word) : Option (Nat × TileEntry) :=
  if m = .fill then none else baseTile s b

/-- The ranges of a COPY: the destination's, and the source's where it reads one. -/
def copyRanges (s : State) (m : CopyMode) (a b : Word) (z : ShapeWord) : List Range × List Range :=
  (sideRange s (copySide s a (dstSpan m z)) 0 (dstSpan m z) true,
   if m = .fill then [] else sideRange s (copySide s b (srcSpan z)) 0 (srcSpan z) true)

/-- The checks of COPY in the order of R246. -/
def checkCopy (s : State) (m : CopyMode) (a b c : Word) : Verdict :=
  let z := shapeOf c
  let reads := m != .fill
  firstV
    [ require (shapeOk m z) .illegalOperand 0,
      checkNamed s false true a (dstSpan m z),
      if reads then checkNamed s true false b (srcSpan z) else .ok,
      if transposed m then checkMultiples (modeElem m) a b [z.dstr, z.sstr] else .ok,
      checkTranslated s false true a (dstSpan m z),
      if reads then checkTranslated s true false b (srcSpan z) else .ok,
      checkCopyExp (baseTile s a) (copySrcTile s m b) (copyWhole s m a z),
      holdIf (copyHeld s (copyRanges s m a b z).1 (copyRanges s m a b z).2 (copyRuns s a (dstSpan m z))) ]

/-- The effect of COPY at issue. -/
def doCopy (n : Fin 2) (m : CopyMode) (a b c : Word) (s : State) : State :=
  let z := shapeOf c
  let whole := copyWhole s m a z
  let r := copyRanges s m a b z
  adoptExp (baseTile s a) (copySrcTile s m b) whole
    (startCopy (copyCost s m a b z) (r.1 ++ r.2)
      { ch := n.val, act := .copy m b, dst := copySide s a (dstSpan m z),
        src := if m = .fill then .none else copySide s b (srcSpan z), dstAddr := a, srcAddr := b, shape := c,
        idx := none, whole := whole, nonres := if m = .fill then [] else copyBases s b (srcSpan z) } s)

/-- What reading three scalar sources needs. -/
def needSSS (s : State) (a b c : SSrc) : Verdict := (needSS s a b).seq (needS s c)

/-- COPY (R251). -/
def execCopy (n : Fin 2) (a b c : SSrc) (f : CopyMode) (s : State) : Out :=
  let r := copyRanges s f (s.rs a) (s.rs b) (shapeOf (s.rs c))
  slot (chanNeed n (r.1.length + r.2.length))
    (fun s => (needSSS s a b c).seq (checkCopy s f (s.rs a) (s.rs b) (s.rs c)))
    (fun s => doCopy n f (s.rs a) (s.rs b) (s.rs c) s) s

/-! ### COPYG, COPYS (R252) -/

/-- The dense and the indexed address of a gather (true) or a scatter. -/
def denseOf (gather : Bool) (a b : Word) : Word × Word := if gather then (a, b) else (b, a)

/-- The bytes of the dense side. -/
def denseSpan (g : GatherWord) : Nat := g.count * g.rlen

/-- A COPYG's write covers its whole destination tile. -/
def gatherWhole (s : State) (a : Word) (g : GatherWord) : Bool :=
  match baseTile s a with
  | some (_, e) => offOf a.toNat == 0 && denseSpan g == tileBytes e
  | none => false

/-- The exponent check of a gather or a scatter. -/
def checkGatherExp (s : State) (gather : Bool) (a b : Word) (g : GatherWord) : Verdict :=
  checkCopyExp (baseTile s a) (baseTile s b) (gather && gatherWhole s a g)

/-- The ranges of a gather or a scatter: those written and those read. -/
def gatherRanges (s : State) (gather : Bool) (a b : Word) (g : GatherWord) : List Range × List Range :=
  let d := denseOf gather a b
  let dense := sideRange s (copySide s d.1 (denseSpan g)) 0 (denseSpan g) true
  if gather then (dense, regionRange s d.2 ++ indexRange s g) else (regionRange s d.2, dense ++ indexRange s g)

/-- The checks of COPYG and COPYS in the order of R246: of the addresses, the dense side's. -/
def checkGather (s : State) (gather : Bool) (a b c : Word) : Verdict :=
  let g := gatherOf c
  let d := denseOf gather a b
  let r := gatherRanges s gather a b g
  firstV
    [ require (g.rlen != 0) .illegalOperand 0,
      checkIndex s g,
      checkNamed s (!gather) gather d.1 (denseSpan g),
      checkTranslated s (!gather) gather d.1 (denseSpan g),
      checkGatherExp s gather a b g,
      holdIf (copyHeld s r.1 r.2 (if gather then copyRuns s d.1 (denseSpan g) else []) ||
        (!gather && scatterHeld s a)) ]

/-- The effect of COPYG and COPYS at issue. -/
def doGather (n : Fin 2) (gather : Bool) (a b c : Word) (s : State) : State :=
  let g := gatherOf c
  let d := denseOf gather a b
  let r := gatherRanges s gather a b g
  let dense := copySide s d.1 (denseSpan g)
  let whole := gather && gatherWhole s a g
  adoptExp (baseTile s a) (baseTile s b) whole
    (startCopy (indexCost s b g) (r.1 ++ r.2)
      { ch := n.val, act := if gather then .gather else .scatter,
        dst := if gather then dense else baseSide s a, src := if gather then baseSide s b else dense,
        dstAddr := a, srcAddr := b, shape := c, idx := indexOf s g, whole := whole,
        nonres := if gather then [] else copyBases s d.1 (denseSpan g) } s)

/-- A gather or a scatter. -/
def gatherSlot (gather : Bool) (n : Fin 2) (a b c : SSrc) (s : State) : Out :=
  let r := gatherRanges s gather (s.rs a) (s.rs b) (gatherOf (s.rs c))
  slot (chanNeed n (r.1.length + r.2.length))
    (fun s => (needSSS s a b c).seq (checkGather s gather (s.rs a) (s.rs b) (s.rs c)))
    (fun s => doGather n gather (s.rs a) (s.rs b) (s.rs c) s) s

/-- COPYG (R252). -/
def execCopyg (n : Fin 2) (a b c : SSrc) (s : State) : Out := gatherSlot true n a b c s

/-- COPYS (R252). -/
def execCopys (n : Fin 2) (a b c : SSrc) (s : State) : Out := gatherSlot false n a b c s

/-! ### COPYR (R253) -/

/-- The checks of COPYR in the order of R246. -/
def checkCopyr (s : State) (a b c : Word) : Verdict :=
  let z := shapeOf c
  let d := baseTile s a
  let x := baseTile s b
  let r := copyRanges s .plain a b z
  firstV
    [ require (shapeOk .plain z) .illegalOperand 0,
      require (tagOf a.toNat == 0x9) .space a,
      checkNamed s true true a (dstSpan .plain z),
      checkNamed s true false b (srcSpan z),
      checkMultiples (alignElem d) a b [z.rlen, z.sstr, z.dstr],
      checkTranslated s true false b (srcSpan z),
      checkSameType d x,
      checkCopyExp d x false,
      holdIf (copyHeld s r.1 r.2 []) ]

/-- The effect of COPYR at issue. -/
def doCopyr (n : Fin 2) (f : RedOp) (a b c : Word) (s : State) : State :=
  let z := shapeOf c
  let r := copyRanges s .plain a b z
  startCopy (copyCost s .plain a b z) (r.1 ++ r.2)
    { ch := n.val, act := .reduce f, dst := copySide s a (dstSpan .plain z), src := copySide s b (srcSpan z),
      dstAddr := a, srcAddr := b, shape := c, idx := none, whole := false, nonres := copyBases s b (srcSpan z) } s

/-- COPYR (R253). -/
def execCopyr (n : Fin 2) (a b c : SSrc) (f : RedOp) (s : State) : Out :=
  let r := copyRanges s .plain (s.rs a) (s.rs b) (shapeOf (s.rs c))
  slot (chanNeed n (r.1.length + r.2.length))
    (fun s => (needSSS s a b c).seq (checkCopyr s (s.rs a) (s.rs b) (s.rs c)))
    (fun s => doCopyr n f (s.rs a) (s.rs b) (s.rs c) s) s

/-! ### SAEQ, SAEF (R254, R255) -/

/-- The bytes of the value side of a SAE operation. -/
def valueSpan (s : State) (flat : Bool) (a : Word) (g : GatherWord) : Nat :=
  if flat then
    match baseTile s a with
    | some (_, e) => (g.count * e.ty.width + 7) / 8
    | none => g.count
  else denseSpan g

/-- The ranges of a SAE operation: those written and those read. -/
def saeRanges (s : State) (flat : Bool) (a b : Word) (g : GatherWord) : List Range × List Range :=
  let n := valueSpan s flat a g
  (regionRange s a, sideRange s (copySide s b n) 0 n true ++ indexRange s g)

/-- The checks of SAEQ and SAEF in the order of R246; the destination's address as that of one element. -/
def checkSae (s : State) (flat : Bool) (a b c : Word) : Verdict :=
  let g := gatherOf c
  let d := baseTile s a
  let n := valueSpan s flat a g
  let r := saeRanges s flat a b g
  firstV
    [ require (if flat then g.rlen == 0 && g.str == 0 else g.rlen != 0) .illegalOperand 0,
      checkIndex s g,
      require (tagOf a.toNat == 0x9) .space a,
      checkNamed s true true a (alignElem d),
      checkNamed s true false b n,
      checkMultiples (alignElem d) a b [g.str, g.rlen],
      checkTranslated s true false b n,
      checkSameType d (baseTile s b),
      checkCopyExp d (baseTile s b) false,
      holdIf (copyHeld s r.1 r.2 []) ]

/-- The indices of a gather word as the index tile now holds them. -/
def indicesNow (s : State) (g : GatherWord) : List Nat :=
  match s.tileAt s.cur g.idx with
  | some (_, e) => (List.range g.count).map fun j => memCode s s.cur e (g.ioff + j)
  | none => []

/-- The entries that the merge window applies for some indices (R255): the window in order of first
arrival, and the count. -/
def windowEntries : List Nat → List Nat → Nat → Nat
  | [], win, n => n + win.length
  | x :: xs, win, n =>
    if x = 0xFFFFFFFF ∨ x ∈ win then windowEntries xs win n
    else if win.length = 64 then windowEntries xs (win.tail ++ [x]) (n + 1)
    else windowEntries xs (win ++ [x]) n

/-- The nominal cycles of a SAE operation. -/
def saeCost (s : State) (b : Word) (g : GatherWord) : Nat :=
  indexCost s b g + windowEntries (indicesNow s g) [] 0 * max 1 ((g.rlen + 127) / 128)

/-- The effect of SAEQ and SAEF at issue. -/
def doSae (n : Fin 2) (flat : Bool) (f : SaeOp) (a b c : Word) (s : State) : State :=
  let g := gatherOf c
  let v := valueSpan s flat a g
  let r := saeRanges s flat a b g
  startCopy (saeCost s b g) (r.1 ++ r.2)
    { ch := n.val, act := if flat then .saeElems f else .saeRows f, dst := baseSide s a, src := copySide s b v,
      dstAddr := a, srcAddr := b, shape := c, idx := indexOf s g, whole := false, nonres := copyBases s b v } s

/-- A SAE operation. -/
def saeSlot (flat : Bool) (n : Fin 2) (a b c : SSrc) (f : SaeOp) (s : State) : Out :=
  let r := saeRanges s flat (s.rs a) (s.rs b) (gatherOf (s.rs c))
  slot (chanNeed n (r.1.length + r.2.length))
    (fun s => (needSSS s a b c).seq (checkSae s flat (s.rs a) (s.rs b) (s.rs c)))
    (fun s => doSae n flat f (s.rs a) (s.rs b) (s.rs c) s) s

/-- SAEQ (R255). -/
def execSaeq (n : Fin 2) (a b c : SSrc) (f : SaeOp) (s : State) : Out := saeSlot false n a b c f s

/-- SAEF (R255). -/
def execSaef (n : Fin 2) (a b c : SSrc) (f : SaeOp) (s : State) : Out := saeSlot true n a b c f s

/-! ### ATOM (R256) -/

/-- The fields of an ATOM control word (Table 10-5). -/
structure AtomWord where
  uns : Bool
  nores : Bool
  scope : Nat
  rel : Bool
  size : Nat
  off : Nat
  high : Nat

/-- An ATOM control word. -/
def atomWord (w : Word) : AtomWord :=
  { uns := bits w 30 1 == 1, nores := bits w 29 1 == 1, scope := bits w 26 3, rel := bits w 24 1 == 1,
    size := bits w 22 2, off := bits w 0 22, high := bits w 31 33 }

/-- The bytes of an ATOM. -/
def AtomWord.bytes (w : AtomWord) : Nat := if w.size = 3 then 8 else 4

/-- A scope of its code (01_engines R24). -/
def scopeOf : Nat → Scope
  | 0 => .core
  | 1 => .gang
  | 2 => .die
  | 3 => .pkg
  | 4 => .pod
  | _ => .sys

/-- The limits of an ATOM control word.
DEDUCED (notes/assumptions/16). -/
def atomOk (f : AtomOp) (w : AtomWord) : Bool :=
  w.high == 0 && decide (2 ≤ w.size) && (!w.uns || f == .min || f == .max) && decide (w.scope ≤ 5) &&
    (!w.nores || w.off == 0)

/-- The tags that ATOM and SIGNAL reach. -/
def farTag (a : Word) : Bool := tagOf a.toNat == 0x0 || tagOf a.toNat == 0xA || tagOf a.toNat == 0xC

/-- ATOM reads or writes its result's place in private space. -/
def usesResult (f : AtomOp) (w : AtomWord) : Bool := !w.nores || f == .cas

/-- The result range of an ATOM (R247). -/
def resultRange (s : State) (w : AtomWord) : List Range :=
  if w.nores then [] else [⟨privKey s.core.task s.core.member w.off, w.bytes, true⟩]

/-- The checks of ATOM in the order of R246.
DEDUCED (notes/assumptions/16). -/
def checkAtom (s : State) (f : AtomOp) (a c : Word) : Verdict :=
  let w := atomWord c
  let n := w.bytes
  firstV
    [ require (atomOk f w) .illegalOperand 0,
      require (farTag a) .space a,
      checkNamed s true true a n,
      require (!usesResult f w || decide (w.off + n ≤ s.ctx.priv)) .tileBounds a,
      require (a.toNat % n == 0 && w.off % n == 0) .align a,
      checkTranslated s true true a n,
      holdIf (acqPending s || snapshotPending s (storeGranules (copyRuns s a n)) ||
        (f == .cas && heldRange s s.cur false (privKey s.core.task s.core.member w.off) n)) ]

/-- The place of a far operation's target: a peer form that names this package itself reaches it over the die-to-die links
(01_engines R22). -/
def farPlace (s : State) (a : Word) (n : Nat) (rd : Bool) : Place :=
  (((copyRuns s a n).head?.map (nearRun s rd true)).map Run.place).getD .zero

/-- Starts a far operation (R258): class S rises; a remote one that waits for nothing is sent. -/
def startFar (f : FarOp) (wait : Bool) (ranges : List Range) (s : State) : State :=
  let id := s.nextOp
  let f := { f with begun := !wait }
  let s := usePages f.addr 8 s
  let t := (s.startOp (2 + if wait then 0 else (spaceOf s f.addr).delay) ranges (.far f)).modCtx fun c => c.raise .s
  match f.place with
  | .far _ _ _ => if wait then t else sendRequest id (t.modOp id fun o => { o with kind := .far { f with performed := true } })
  | .here _ | .zero => t

/-- The low bits of an operand of some bytes. -/
def lowBytes (n : Nat) (v : Word) : Word := BitVec.ofNat 64 (v.toNat % 2 ^ (8 * n))

/-- The effect of ATOM at issue; CAS reads its expected value then, from the private bytes as they stand, not from a
release of the core that has not been performed (R256).
DESIGN CHOICE (notes/assumptions/76). -/
def doAtom (f : AtomOp) (a b c : Word) (s : State) : State :=
  let w := atomWord c
  let n := w.bytes
  let exp := if f = .cas then
      BitVec.ofNat 64 (leNat (s.bytes (privKey s.core.task s.core.member w.off) n)) else 0
  startFar
    { kind := .atom f (n == 8) w.uns w.nores (lowBytes n b) exp w.off, place := farPlace s a n true,
      scope := scopeOf w.scope, rel := w.rel, addr := a, performed := false, old := 0, sat := false }
    w.rel (resultRange s w) s

/-- ATOM (R256): its channel serves the slot limit only (R242). -/
def execAtom (_n : Fin 2) (a b c : SSrc) (f : AtomOp) (s : State) : Out :=
  slot { s := 1, ranges := (resultRange s (atomWord (s.rs c))).length }
    (fun s => (needSSS s a b c).seq (checkAtom s f (s.rs a) (s.rs c)))
    (fun s => doAtom f (s.rs a) (s.rs b) (s.rs c) s) s

/-! ### SIGNAL (R257) -/

/-- The checks of SIGNAL. -/
def checkSignal (s : State) (a : Word) (plus : Bool) : Verdict :=
  firstV
    [ require (farTag a) .space a,
      checkNamed s plus true a 8,
      require (a.toNat % 8 == 0) .align a,
      checkTranslated s plus true a 8,
      holdIf (acqPending s || snapshotPending s (storeGranules (copyRuns s a 8))) ]

/-- SIGNAL (R257). -/
def execSignal (n : Fin 2) (a b : SSrc) (plus : Bool) (f : Scope) (s : State) : Out :=
  slot { s := 1 } (fun s => (needSS s a b).seq (checkSignal s (s.rs a) plus))
    (fun s => startFar
      { kind := .signal plus (s.rs b) n.val, place := farPlace s (s.rs a) 8 plus, scope := f, rel := true,
        addr := s.rs a, performed := false, old := 0, sat := false } true [] s) s

/-! ### PGREQ (11_translation R276) -/

/-- The checks of PGREQ. -/
def checkPgreq (s : State) (a b : Word) : Verdict :=
  (require (spaceOk a.toNat 1 && tagOf a.toNat == 0) .space a).seq
    ((require (decide (1 ≤ b.toNat ∧ b.toNat ≤ 2 ^ 32)) .illegalOperand 0).seq (holdIf (acqPending s)))

/-- The effect of PGREQ at issue: S rises and firmware passes the requests on. -/
def doPgreq (a b : Word) (w : Bool) (s : State) : State :=
  askPages (s.asidAt s.cur) s.core.task (vaOf a.toNat) b.toNat w
    ((s.startOp 0 [] (.pgreq (vaOf a.toNat) b.toNat w true false)).modCtx fun c => c.raise .s)

/-- PGREQ (R276). -/
def execPgreq (_n : Fin 2) (a b : SSrc) (w : Bool) (s : State) : Out :=
  slot { s := 1 } (fun s => (needSS s a b).seq (checkPgreq s (s.rs a) (s.rs b)))
    (fun s => doPgreq (s.rs a) (s.rs b) w s) s

/-! ### MIGR (12_migration R292–R294) -/

/-- An accelerator id names a package of the pod. -/
def podPackage (s : State) (n : Nat) : Bool := n == s.accid || decide (n ∈ s.cfg.members)

/-- The checks of MIGR (R292). -/
def checkMigr (s : State) (a b c : Word) : Verdict :=
  firstV
    [ require (decide (b.toNat < 1024) && podPackage s b.toNat) .illegalOperand 0,
      require (spaceOk a.toNat 1 && tagOf a.toNat == 0) .space a,
      require (c.toNat % 8 == 0) .align c,
      require (decide (c.toNat + 8 ≤ s.ctx.priv)) .tileBounds c,
      holdIf (acqPending s) ]

/-- The page that a MIGR names, by this package's leaf; without one, whichever page of its 2 MiB range holds the VA, of
size code 3 (R294).
DEDUCED (notes/assumptions/17). -/
def migrPage (s : State) (asid va : Nat) : PageKey :=
  match (walk s asid va agentMaster).1 with
  | .leaf e => ⟨asid, e.vpn, e.size⟩
  | .nonResident _ _ _ _ | .failed _ => ⟨asid, va / 2 ^ 16, 3⟩

/-- A VA of the heap window of the executing context. -/
def heapVa (s : State) (va : Nat) : Bool :=
  match s.context? (s.asidAt s.cur) with
  | some c => inHeap c va 1
  | none => false

/-- The effect of MIGR at issue.
DEDUCED (notes/assumptions/17). -/
def doMigr (a b c : Word) (s : State) : State :=
  let va := vaOf a.toNat
  let page := migrPage s (s.asidAt s.cur) va
  let heap := heapVa s va
  let id := s.nextOp
  let t := (s.startOp 0 [⟨privKey s.core.task s.core.member c.toNat, 8, true⟩]
    (.migr va b.toNat c.toNat (if heap then some (.heap, s.accid) else none))).modCtx fun x => x.raise .s
  if heap then t else t.send (homeOf s page) (.migrationRequestAtHome ⟨page, b.toNat, some ⟨s.accid, id⟩⟩)

/-- MIGR (R292). -/
def execMigr (_n : Fin 2) (a b c : SSrc) (s : State) : Out :=
  slot { s := 1, ranges := 1 } (fun s => (needSSS s a b c).seq (checkMigr s (s.rs a) (s.rs b) (s.rs c)))
    (fun s => doMigr (s.rs a) (s.rs b) (s.rs c) s) s

/-! ### CGLD (15_fabric R368) -/

/-- The checks of CGLD. -/
def checkCgld (s : State) (a b : Word) (clr : Bool) : Verdict :=
  firstV
    [ require (decide (b.toNat ≤ 31)) .illegalOperand 0,
      if clr then .ok else
        firstV [ require (spaceOk a.toNat 64 && tagOf a.toNat == 0) .space a,
                 require (a.toNat % 64 == 0) .align a, checkTranslated s true false a 64 ],
      holdIf (acqPending s) ]

/-- The ops that a graph image names, read where its header now stands (R366). -/
def nominalOps (s : State) (rs : List Run) : Nat :=
  match rs with
  | ⟨.here k, _⟩ :: _ => leNat (s.bytes (k + 6) 2)
  | _ => 0

/-- The effect of CGLD at issue. -/
def doCgld (n : Fin 2) (a b : Word) (clr : Bool) (s : State) : State :=
  let rs := if clr then [] else copyRuns s a 64
  ((if clr then s else usePages a 64 s).startOp (300 + 16 * nominalOps s rs) [] (.cgld n.val clr b.toNat (vaOf a.toNat) (trOf (vaOf a.toNat) rs))).modCtx
    fun c => c.raise (chanCls n.val)

/-- CGLD (R368). -/
def execCgld (n : Fin 2) (a b : SSrc) (clr : Bool) (s : State) : Out :=
  slot (chanNeed n 0) (fun s => (if clr then needS s b else needSS s a b).seq (checkCgld s (s.rs a) (s.rs b) clr))
    (fun s => doCgld n (s.rs a) (s.rs b) clr s) s

end Sys2Proof.Machine
end

