-- ==== Sys2Proof/Machine/Parts.lean ====
section
/-! DEFINITION. The packets of an access that reaches another package, a frozen page or one that has moved
(15_fabric R359; 12_migration R286, R297, R299, R306): asking them, awaiting them, and what they answered. -/

namespace Sys2Proof.Machine

open Sys2Proof

/-- Bytes on their way, each with the poison that travels with it (10_copy R248). -/
abbrev RowData := List (Byte × Bool)

/-- A write of this package to some bytes of a page of its own in transit has gone to the frame's controller and has no
answer: a read of them goes behind it (04_memory_model R102; 12_migration R297). -/
def writesAhead (s : State) (p : PageKey) (va len : Nat) : Bool :=
  s.ops.any fun o =>
    match requestOf s o with
    | some (acc, _, r) =>
      acc == s.accid && (s.mig.sent.any fun e => e.1 == o.id && e.2.1 == p) &&
        (match r.act with
          | .read _ => false
          | .write _ _ _ | .atom _ _ _ _ _ | .add _ => true) && overlaps (reqSpan r).1 (reqSpan r).2 va len
    | none => false

/-- A run where an access of this package reaches it now, none where the peer form's target here does not exist
(01_engines R21): a peer form of this package at its owner; a frame that has moved, or a frozen one that the access
cannot use, through its page (12_migration R297, R299).
DEDUCED (notes/assumptions/18). -/
def reachRun (wr : Bool) (s : State) (r : Run) : Option Run :=
  match r.place with
  | .far acc _ (.peerTile _ _ _) | .far acc _ (.peerRing _ _) =>
    if acc = s.accid then (ownPeer s r.place r.len).map fun k => ⟨.here k, r.len⟩ else some r
  | .here k =>
    match movedAt s k, frozenAt s k with
    | some (p, o), _ => some { r with place := .far s.accid p.size (.page p.asid (pageVa p o)) }
    | none, some (m, o) =>
      let va := pageVa m.req.page o
      some (if wr || queuedOver m va r.len || writesAhead s m.req.page va r.len then
        { r with place := .far s.accid m.req.page.size (.page m.req.page.asid va) } else r)
    | none, none => some r
  | .far _ _ (.page _ _) | .zero => some r

/-- Some runs where an access reaches them now. -/
def reach (wr : Bool) (s : State) : List Run → Option (List Run)
  | [] => some []
  | r :: rs =>
    match reachRun wr s r, reach wr s rs with
    | some x, some xs => some (x :: xs)
    | _, _ => none

/-- The offset that chooses a far place's plane. -/
def placeOffset : Place → Nat
  | .far _ _ t => planeOffset t
  | .here _ | .zero => 0

/-- The packets of a far run: at most 256 bytes each, none across a 4 KiB boundary (15_fabric R359), and none that ends
inside an aligned 8-byte unit of the run (04_memory_model R80). -/
def packetsFrom : Nat → Place → Nat → List (Place × Nat)
  | 0, _, _ => []
  | f + 1, p, len =>
    if len = 0 then []
    else
      let k := min len (min (256 - placeOffset p % 8) (4096 - placeOffset p % 4096))
      (p, k) :: packetsFrom f (p.shift k) (len - k)

/-- The packets of a run in another package. -/
def packetsOf (r : Run) : List (Place × Nat) := packetsFrom r.len r.place r.len

/-- The answer to a packet of a step, none where it was never sent. -/
def partAns (s : State) (c : Client) (row : Nat) (p : Place) (a : RemoteAct) : Option PartAns :=
  s.ops.findSome? fun o =>
    match o.kind with
    | .part x => if x.client = c ∧ x.row = row ∧ x.place = p ∧ x.act = a then some x.ans else none
    | _ => none

/-- Removes the packets of a step that is done. -/
def dropParts (c : Client) (row : Nat) (s : State) : State :=
  { s with ops := s.ops.filter fun o => !isPartOf c row o }

/-- What stands for firmware and the other engines of a context that send packets of their own. -/
def engineOp (s : State) (asid : Nat) : Op :=
  { id := s.nextOp, core := engineCore noDie, task := 0, member := 0, asid := asid, view := 0, stamp := s.nextBundle, bundle := 0,
    issued := s.cyc, issuedU := s.timeU, due := s.cyc, slot := 0, ranges := [], kind := .publish false }

/-- Sends some packets of a step. -/
def startParts (o : Op) (c : Client) (row : Nat) (ps : List (Place × RemoteAct)) (s : State) : State :=
  ps.foldl (fun s x => startPart o c row x.1 x.2 s) s

/-- What an access through some runs has come to: the bytes, the packets still to send, whether any answer is awaited,
and the first error. -/
structure Fetched where
  data : RowData := []
  asks : List (Place × RemoteAct) := []
  waits : Bool := false
  fail : Option FaultCode := none

/-- The bytes of a packet's answer. -/
def withPoison (bs : List Byte) (bad : List Nat) : RowData := bs.zipIdx.map fun (b, i) => (b, decide (i ∈ bad))

/-- One packet of an access, after those before it. -/
def fetchPacket (s : State) (c : Client) (row : Nat) (f : Fetched) (p : Place) (a : RemoteAct) : Fetched :=
  match partAns s c row p a with
  | none => { f with asks := f.asks ++ [(p, a)], waits := true }
  | some .waits => { f with waits := true }
  | some (.data bs bad) => { f with data := f.data ++ withPoison bs bad }
  | some (.error code) => { f with fail := f.fail.or (some code) }

/-- Reads some runs in a view, where they are now reached: local bytes as they stand, the others as their packets
answered. -/
def fetchRuns (s : State) (view : Nat) (c : Client) (row : Nat) (rs : List Run) : Fetched :=
  rs.foldl (fun f r =>
    match r.place with
    | .here k => { f with data := f.data ++ (s.viewBytes view k r.len).zip (runPoison s view [r]) }
    | .zero => { f with data := f.data ++ List.replicate r.len (0, false) }
    | .far _ _ _ => (packetsOf r).foldl (fun f x => fetchPacket s c row f x.1 (.read x.2)) f) {}

/-- Goes on with what an access has come to: its packets are sent, its answers awaited, or its error or its bytes
taken. -/
def withFetched (f : Fetched) (o : Op) (c : Client) (row : Nat) (fail : FaultCode → State → State)
    (k : RowData → State → State) (s : State) : State :=
  if f.asks ≠ [] then startParts o c row f.asks s
  else if f.waits then s
  else
    match f.fail with
    | some code => fail code s
    | none => k f.data s

/-- Bytes that the complex itself reads: poison among them is an error (17_system R402).
DEDUCED (notes/assumptions/41). -/
def soundBytes (f : Fetched) : Fetched :=
  if f.data.any Prod.snd then { f with fail := f.fail.or (some .poison) } else f

/-- Reads some runs for firmware or the front end in the base revision, where they are now reached: not past a copying or
a merge of a granule, nor past this package's own earlier requests for a page that has come here (12_migration R289,
R300; 14_revisions R339). -/
def fetchFirm (s : State) (c : Client) (row : Nat) (rs : List Run) : Fetched :=
  match reach false s rs with
  | none => { fail := some .remoteError }
  | some rs =>
    match hardFault s 0 rs with
    | some code => { fail := some code }
    | none =>
      if (hereRuns rs).any fun (k, n) => granBusy s k n || requestsBefore s s.nextOp k n then { waits := true }
      else fetchRuns s 0 c row rs

/-- Poisons the granules that poisoned bytes reach where a view writes them. -/
def spreadPoison (view key : Nat) (d : RowData) (s : State) : State :=
  let gs := (((List.range d.length).zip d).filterMap fun (i, _, p) =>
    if p then some (writeKey s view (key + i) / 64) else none).eraseDups
  if gs = [] then s
  else { s with sys := { s.sys with poison := gs ++ s.sys.poison.filter (· ∉ gs) } }

/-- The write of some bytes to a far place, with their poison. -/
def writeAct (d : RowData) : RemoteAct :=
  .write (wholeBytes 0 (d.map Prod.fst)) d.length (d.zipIdx.filterMap fun (x, i) => if x.2 then some i else none)

/-- The packets of a write of some bytes to a far run. -/
def writePackets (r : Run) (d : RowData) : List (Place × RemoteAct) :=
  ((packetsOf r).foldl (fun (x : RowData × List (Place × RemoteAct)) p =>
    (x.1.drop p.2, x.2 ++ [(p.1, writeAct (x.1.take p.2))])) (d, [])).2

/-- Writes bytes to some runs, where they are now reached: local ones at once, the others by packets. -/
def storeRuns (o : Op) (c : Client) (row : Nat) : List Run → RowData → State → State
  | [], _, s => s
  | r :: rs, d, s =>
    let mine := d.take r.len
    storeRuns o c row rs (d.drop r.len)
      (match r.place with
        | .here k => spreadPoison o.view k mine (s.viewPut o.view k (mine.map Prod.fst))
        | .zero => s
        | .far _ _ _ => startParts o c row (writePackets r mine) s)

/-- A packet writes. -/
def actStores : RemoteAct → Bool
  | .read _ => false
  | .write _ _ _ | .atom _ _ _ _ _ | .add _ => true

/-- What the writing packets of a step have come to: answers awaited, or the first error. -/
def stepAnswers (s : State) (c : Client) (row : Nat) : Bool × Option FaultCode :=
  s.ops.foldl (fun x o =>
    match o.kind with
    | .part p =>
      if p.client = c ∧ p.row = row ∧ actStores p.act = true then
        match p.ans with
        | .waits => (true, x.2)
        | .data _ _ => x
        | .error code => (x.1, x.2.or (some code))
      else x
    | _ => x) (false, none)

/-- The client of a packet is still there. -/
def clientLives (s : State) : Client → Bool
  | .op id => (s.op? id).isSome
  | .start qid | .parked qid => (s.queues.get? qid).isSome
  | .faultRec task | .image task => (s.task? task).isSome
  | .posted => false

/-- The answer of a packet (15_fabric R359). -/
def answerPart (id : Nat) (p : PartOp) (a : PartAns) (s : State) : State :=
  if clientLives s p.client then s.modOp id fun o => { o with kind := .part { p with ans := a } }
  else s.dropOp id

end Sys2Proof.Machine
end

