-- ==== Sys2Proof/Machine/Firmware.lean ====
section
/-! DEFINITION. Firmware's own accesses to a context's addresses, in the base revision (14_revisions R332;
17_system R398), and the PIN, FRZ and STUB bits of page-table entries (11_translation R264;
12_migration R305). -/

namespace Sys2Proof.Machine

open Sys2Proof

/-- The lock-step pair's master identifier (17_system Table 17-4). -/
def pairMaster : Nat := 0x140

/-- The first of the worker cores' master identifiers. -/
def workerMaster : Nat := 0x141

/-- The signal unit's master identifier. -/
def signalMaster : Nat := 0x149

/-- The runs of some pages for a master, or why an access is refused (11_translation R268). -/
def masterPages (s : State) (master asid : Nat) (rd wr : Bool) : Nat → Nat → Nat → Except FaultCode (List Run)
  | 0, _, _ => .ok []
  | f + 1, va, stop =>
    if stop ≤ va then .ok []
    else
      let r := (walk s asid va master).1
      match pageCheck rd wr 0 r with
      | .fault code _ _ _ _ => .error code
      | _ =>
        match masterPages s master asid rd wr f (pageEnd va r) stop with
        | .ok rs => .ok (⟨pagePlace asid va r, min stop (pageEnd va r) - va⟩ :: rs)
        | .error code => .error code

/-- The runs of a VA range of a context for a master (11_translation R262, R268). -/
def masterRuns (s : State) (master asid va len : Nat) (rd wr : Bool) : Except FaultCode (List Run) :=
  if 2 ^ 48 < va + len then .error .space
  else
    match s.context? asid with
    | none => .error .translation
    | some c =>
      if inHeap c va len then
        if lpddrAllowed s master (heapPa c va) len rd wr then .ok [⟨.here (heapPa c va), len⟩]
        else .error .accessTable
      else if touchesHeap c va len then .error .heapLimit
      else masterPages s master asid rd wr (len / 2 ^ 16 + 2) va (va + len)

/-- Runs that lie in this package's memory throughout. -/
def allHere (rs : List Run) : Bool :=
  rs.all fun r =>
    match r.place with
    | .here _ => true
    | .far _ _ _ | .zero => false

/-- The bytes of runs in this package, in a view. -/
def hereBytes (s : State) (view : Nat) (rs : List Run) : List Byte :=
  ((hereRuns rs).map fun (k, n) => s.viewBytes view k n).flatten

/-- Bytes that a master reads from a context's addresses in the base revision, none where it cannot. -/
def readVa (s : State) (master asid va len : Nat) : Option (List Byte) :=
  match masterRuns s master asid va len true false with
  | .ok rs =>
    match reach false s rs with
    | some rs =>
      if allHere rs && (hereRuns rs).all fun (k, n) => (readFault s.sys k n).isNone then some (hereBytes s 0 rs)
      else none
    | none => none
  | .error _ => none

/-- Writes bytes to runs of this package in a view. -/
def putRuns (view : Nat) : List Run → List Byte → State → State
  | [], _, s => s
  | r :: rs, bs, s =>
    match r.place with
    | .here k => putRuns view rs (bs.drop r.len) (s.viewPut view k (bs.take r.len))
    | .far _ _ _ | .zero => putRuns view rs (bs.drop r.len) s

/-- Bytes that a master writes to a context's addresses in the base revision, none where it cannot. -/
def writeVa (s : State) (master asid va : Nat) (bs : List Byte) : Option State :=
  match masterRuns s master asid va bs.length false true with
  | .ok rs =>
    if allHere rs then (reach true s rs).map fun rs => storeRuns (engineOp s asid) .posted 0 rs (bs.map (·, false)) s
    else none
  | .error _ => none

/-! ### Page-table entries -/

/-- The leaf entry that a walk of a VA ends at: its physical address, level and value. -/
def leafFrom (s : State) (va : Nat) : Nat → Nat → Option (Nat × Nat × Nat)
  | level, table =>
    let pa := table + 8 * levelIndex level va
    let e := pteAt s pa
    if readFault s.sys pa 8 = some .eccUe then none
    else match pteStep level e with
    | .table next =>
      match level with
      | 0 => none
      | l + 1 => leafFrom s va l next
    | .bad => none
    | .localPage _ _ _ | .remotePage _ _ _ | .nonResident _ _ => some (pa, level, e)

/-- The leaf entry of a VA of a context. -/
def leafOf (s : State) (asid va : Nat) : Option (Nat × Nat × Nat) :=
  (s.context? asid).bind fun c => leafFrom s va 3 c.ptroot

/-- A master writes a page-table entry; a controller that denies it the write leaves the entry as it is (17_system R398).
DESIGN CHOICE (notes/assumptions/73). -/
def putPte (m pa e : Nat) (s : State) : State :=
  if lpddrAllowed s m pa 8 false true then s.putBytes pa (leBytes 8 e) else s.noteErr (some .accessTable)

/-- PIN, FRZ and STUB in an entry (R264 Table 11-2). -/
def pinBit : Nat := 46
/-- FRZ. -/
def frzBit : Nat := 45
/-- STUB. -/
def stubBit : Nat := 44

/-- A bit of an entry. -/
def pteBit (e n : Nat) : Bool := abits e n 1 == 1

/-- An entry with a bit set or cleared. -/
def setPteBit (e n : Nat) (b : Bool) : Nat :=
  if pteBit e n then (if b then e else e - 2 ^ n) else if b then e + 2 ^ n else e

/-- An entry of kind LOCAL. -/
def isLocal (e : Nat) : Bool := abits e 0 3 == 2

/-- Sets or clears PIN of the LOCAL page that holds a VA. -/
def pinPage (asid va : Nat) (b : Bool) (s : State) : State :=
  match leafOf s asid va with
  | some (pa, _, e) => if isLocal e then putPte pairMaster pa (setPteBit e pinBit b) s else s
  | none => s

/-- The pages of a range: base VA and bytes, by the leaves that its walks end at. -/
def rangePages (s : State) (asid : Nat) : Nat → Nat → Nat → List (Nat × Nat)
  | 0, _, _ => []
  | f + 1, va, stop =>
    if stop ≤ va then []
    else
      let r := (walk s asid va pairMaster).1
      let e := pageEnd va r
      let b := match r with
        | .leaf x => pageBase x.size va
        | .nonResident _ size _ _ => pageBase size va
        | .failed _ => pageBase 0 va
      (b, e - b) :: rangePages s asid f e stop

/-- Sets or clears PIN of every page of a range (12_migration R305). -/
def pinRange (asid va len : Nat) (b : Bool) (s : State) : State :=
  (rangePages s asid (len / 2 ^ 16 + 2) va (va + len)).foldl (fun s p => pinPage asid p.1 b s) s

end Sys2Proof.Machine
end

