-- ==== Sys2Proof/Machine/Image.lean ====
section
/-! DEFINITION. Program images and task records as firmware and the task engine read them
(02_bundles R54–R57; 13_tasks R310, R311, R323). -/

namespace Sys2Proof.Machine

open Sys2Proof

/-- A little-endian field of some bytes. -/
def fieldAt (bs : List Byte) (off n : Nat) : Nat := leNat ((bs.drop off).take n)

/-! ### Images (02_bundles R54) -/

/-- A tile entry (Table 2-21). -/
structure ImageTile where
  handle : Nat
  level : Nat
  ty : Nat
  exp : Int
  rows : Nat
  cols : Nat
  zero : Nat

/-- A pipe entry (Table 2-21). -/
structure ImagePipe where
  num : Nat
  depth : Nat
  src : Nat
  dst : Nat
  zero : Nat

/-- A buffer entry (Table 2-21). -/
structure ImageBuffer where
  name : List Byte
  size : Nat
  page : Nat
  flags : Nat
  va : Nat

/-- A program image's header and entries (Tables 2-20 and 2-21). -/
structure Image where
  magic : Nat
  version : Nat
  width : Nat
  prio : Nat
  code : Nat
  data : Nat
  priv : Nat
  heap : Nat
  entries : List Nat
  buffers : List ImageBuffer
  tiles : List ImageTile
  pipes : List ImagePipe
  fixes : List (Nat × Nat × Nat)
  codeAt : Nat
  dataAt : Nat

/-- The next multiple of 64. -/
def align64 (n : Nat) : Nat := (n + 63) / 64 * 64

/-- The bytes of the entries that follow a header. -/
def entryBytes (h : List Byte) : Nat :=
  32 * fieldAt h 0x14 1 + 16 * fieldAt h 0x15 1 + 8 * fieldAt h 0x16 1 + 8 * fieldAt h 0x17 1

/-- A buffer entry's fields. -/
def bufferOf (b : List Byte) : ImageBuffer := ⟨b.take 16, fieldAt b 0x10 8, fieldAt b 0x18 1, fieldAt b 0x19 1, fieldAt b 0x1A 6⟩

/-- A tile entry's fields. -/
def imageTileOf (b : List Byte) : ImageTile :=
  ⟨fieldAt b 0 1, fieldAt b 1 1, fieldAt b 2 1, signedOf 8 (fieldAt b 3 1), fieldAt b 4 2, fieldAt b 6 2, fieldAt b 8 8⟩

/-- A pipe entry's fields. -/
def pipeOf (b : List Byte) : ImagePipe :=
  ⟨fieldAt b 0 1, fieldAt b 1 1, fieldAt b 2 1, fieldAt b 3 1, fieldAt b 4 4⟩

/-- Entry `k` of a table of entries of some bytes. -/
def entryAt (bs : List Byte) (base size k : Nat) : List Byte := (bs.drop (base + size * k)).take size

/-- The image of a header and the entries after it. -/
def imageOf (h es : List Byte) : Image :=
  let nb := fieldAt h 0x14 1
  let nt := fieldAt h 0x15 1
  let np := fieldAt h 0x16 1
  let nr := fieldAt h 0x17 1
  let codeAt := align64 (0x120 + entryBytes h)
  { magic := fieldAt h 0 4, version := fieldAt h 4 2, width := fieldAt h 6 1, prio := fieldAt h 7 1,
    code := fieldAt h 8 4, data := fieldAt h 0x0C 4, priv := fieldAt h 0x10 4, heap := fieldAt h 0x18 8,
    entries := (List.range 64).map fun i => fieldAt h (0x20 + 4 * i) 4
    buffers := (List.range nb).map fun k => bufferOf (entryAt es 0 32 k)
    tiles := (List.range nt).map fun k => imageTileOf (entryAt es (32 * nb) 16 k)
    pipes := (List.range np).map fun k => pipeOf (entryAt es (32 * nb + 16 * nt) 8 k)
    fixes := (List.range nr).map fun k =>
      let b := entryAt es (32 * nb + 16 * nt + 8 * np) 8 k
      (fieldAt b 0 4, fieldAt b 4 1, fieldAt b 5 3)
    codeAt := codeAt
    dataAt := align64 (codeAt + 4 * fieldAt h 8 4) }

/-- The entry that means none (Table 2-20). -/
def noEntry : Nat := 0xFFFFFFFF

/-- Whether a tile entry's fields are in range. -/
def imageTileOk (t : ImageTile) : Bool :=
  decide (t.level ≤ 1) && decide (t.ty ≤ 7) && decide (-64 ≤ t.exp) && decide (t.exp ≤ 63) &&
    decide (1 ≤ t.rows) && decide (t.rows ≤ 4096) && decide (1 ≤ t.cols) && decide (t.cols ≤ 4096) && t.zero == 0

/-- The slots of the pipes that a member consumes. -/
def slotsOf (im : Image) (m : Nat) : Nat := ((im.pipes.filter (·.dst == m)).map ImagePipe.depth).sum

/-- Whether an image's pipes are legal (13_tasks R323). -/
def pipesOk (im : Image) : Bool :=
  im.pipes.all (fun p =>
    decide (p.num ≤ 15) && decide (1 ≤ p.depth) && decide (p.depth ≤ 16) && p.zero == 0 && p.src != p.dst &&
      decide (p.src < im.width) && decide (p.dst < im.width)) &&
  decide (im.pipes.map ImagePipe.num).Nodup &&
  im.pipes.all fun p => decide (slotsOf im p.dst ≤ 64) &&
    im.tiles.all fun t => decide (t.handle + slotsOf im p.dst < 256)

/-- Whether a region-fix entry is legal (R57). -/
def fixOk (im : Image) (f : Nat × Nat × Nat) : Bool :=
  f.2.2 == 0 && f.1 % 16 == 0 && decide (f.1 + 16 ≤ im.data) &&
    match im.buffers[f.2.1]? with
    | some b => b.va != 0 && b.va % pageBytes b.page == 0
    | none => false

/-- A name of ASCII characters, zero-padded (Table 2-21). -/
def nameOk (n : List Byte) : Bool := n.all (fun c => decide (c.toNat < 128)) && (n.dropWhile (· != 0)).all (· == 0)

/-- Whether a buffer entry is legal. -/
def bufferOk (b : ImageBuffer) : Bool :=
  nameOk b.name &&
  decide (b.page ≤ 2) && b.size % pageBytes b.page == 0 && decide (b.flags ≤ 1)

/-- Whether firmware launches an image (R57; 13_tasks R323). -/
def imageOk (im : Image) : Bool :=
  im.magic == 0x4734494D && im.version == 1 && decide (1 ≤ im.width) && decide (im.width ≤ 64) &&
    decide (im.prio ≤ 3) && decide (1 ≤ im.code) && decide (im.code ≤ 65536) &&
    im.priv % 64 == 0 && decide (64 ≤ im.priv) && decide (im.priv ≤ 2097152) &&
    (im.data == 0 || decide (0x40 + im.data ≤ im.priv)) &&
    decide (im.buffers.length ≤ 64) && decide (im.pipes.length ≤ 16) && decide (im.fixes.length ≤ 64) &&
    im.heap % 65536 == 0 && im.entries.headD noEntry != noEntry &&
    ((List.range 64).all fun i =>
      let e := im.entries.getD i noEntry
      e == noEntry || (decide (e < im.code) && decide (i < im.width))) &&
    im.buffers.all bufferOk && im.tiles.all imageTileOk && pipesOk im && im.fixes.all (fixOk im)

/-- What firmware's reading of a part of an image has come to: packets still to send for a step of it, or awaited; an
image that it refuses; or what it read. -/
inductive Got (α : Type)
  | asks (row : Nat) (ps : List (Place × RemoteAct))
  | refused
  | got (x : α)

/-- What comes after a reading. -/
def Got.bind {α β : Type} (x : Got α) (f : α → Got β) : Got β :=
  match x with
  | .asks row ps => .asks row ps
  | .refused => .refused
  | .got a => f a

/-- What was read, if it was. -/
def Got.toOption {α : Type} : Got α → Option α
  | .got a => some a
  | .asks _ _ | .refused => none

/-- Firmware reads some bytes of an image for a task, those in other packages by packets (02_bundles R57; 12_migration
R286). -/
def readPart (s : State) (task row asid va len : Nat) : Got (List Byte) :=
  match masterRuns s pairMaster asid va len true false with
  | .error _ => .refused
  | .ok rs =>
    let f := soundBytes (fetchFirm s (.image task) row rs)
    if f.waits then .asks row f.asks
    else
      match f.fail with
      | some _ => .refused
      | none => .got (f.data.map Prod.fst)

/-- An image as firmware reads it at a VA of a context. -/
def readImage (s : State) (task asid va : Nat) : Got Image :=
  (readPart s task 0 asid va 0x120).bind fun h =>
    (readPart s task 1 asid (va + 0x120) (entryBytes h)).bind fun es => .got (imageOf h es)

/-- The image of a generic address that firmware launches. -/
def imageAt (s : State) (task asid addr : Nat) : Got Image :=
  if tagOf addr = 0 ∧ addr % 64 = 0 ∧ abits addr 48 12 = 0 then
    (readImage s task asid addr).bind fun im => if imageOk im then .got im else .refused
  else .refused

/-- The entry bundle of a member (R54; 13_tasks R322). -/
def entryOfMember (im : Image) (m : Nat) : Nat :=
  let e := im.entries.getD m noEntry
  if e = noEntry then im.entries.headD 0 else e

/-- The pipes of a gang as its launch presets them (13_tasks R323): the slots of one member's pipes, in
ascending number, take handles downward from 255. -/
def presetPipes (im : Image) : FMap Pipe :=
  im.pipes.foldl (fun m p =>
    let before := ((im.pipes.filter fun q => q.dst == p.dst && decide (q.num < p.num)).map ImagePipe.depth).sum
    m.set p.num
      { src := p.src, dst := p.dst, order := []
        slots := (List.range p.depth).map fun k => ⟨255 - before - k, .empty, 0, none⟩ }) []

/-- The data section with a buffer's address added to the BASE of the descriptors that region-fix entries
name (R56). -/
def fixData (im : Image) (data : List Byte) : List Byte :=
  im.fixes.foldl (fun d f =>
    let va := ((im.buffers[f.2.1]?).map ImageBuffer.va).getD 0
    let base := (fieldAt d f.1 4 + va / 65536) % 2 ^ 32
    d.take f.1 ++ leBytes 4 base ++ d.drop (f.1 + 4)) data

/-! ### Task records (13_tasks R310, R311) -/

/-- A set entry of 16 bytes, or the reason it is not well formed: 1 a reserved field or code, 3 a range. -/
def parseEntry (b : List Byte) : Except Nat SetEntry :=
  let w := leNat b
  let len := abits w 64 48
  if abits w 112 14 ≠ 0 ∨ abits w 58 6 ≠ 0 ∨ (abits w 126 2 ≠ 1 ∧ abits w 48 8 ≠ 0) then .error 1
  else
    match abits w 126 2 with
    | 0 => if w = 0 then .ok .unused else .error 1
    | 1 =>
      if len ≠ 0 ∨ abits w 48 10 ≠ 0 ∨ abits w 16 24 ≠ 0 then .error 1
      else if abits w 8 8 < abits w 0 8 then .error 3
      else .ok (.tile (abits w 40 8) (abits w 0 8) (abits w 8 8))
    | 2 =>
      if abits w 92 20 ≠ 0 ∨ abits w 28 20 ≠ 0 then .error 1
      else if len = 0 ∨ ringBytes < abits w 0 28 + len then .error 3
      else .ok (.ring (abits w 56 2) (abits w 0 28) len)
    | _ =>
      if abits w 56 2 ≠ 0 then .error 1
      else if len = 0 ∨ 2 ^ 48 < abits w 0 48 + len then .error 3
      else .ok (.global (abits w 0 48) len)

/-- Set entries in order. -/
def parseEntries : List (List Byte) → Except Nat (List SetEntry)
  | [] => .ok []
  | b :: bs =>
    match parseEntry b, parseEntries bs with
    | .ok e, .ok es => .ok (e :: es)
    | .error a, .ok _ => .error a
    | .ok _, .error b => .error b
    | .error a, .error b => .error (min a b)

/-- The cores that TILE entries name. -/
def tileCores (es : List SetEntry) : List Nat :=
  es.filterMap fun e =>
    match e with
    | .tile c _ _ => some c
    | .unused | .ring _ _ _ | .global _ _ => none

/-- The fields of a record outside its sets. -/
def recordOf (b : List Byte) (es : List SetEntry) : TaskRec :=
  let place := fieldAt b 0x0A 2
  { image := fieldAt b 0 8, prio := fieldAt b 8 1 % 4, useImg := decide (128 ≤ fieldAt b 8 1),
    lines := fieldAt b 9 1 % 16, acc := place % 1024, remote := abits place 10 1 == 1, die := abits place 11 3,
    noSteal := abits place 14 1 == 1, arg0 := BitVec.ofNat 64 (fieldAt b 0x10 8),
    arg1 := BitVec.ofNat 64 (fieldAt b 0x18 8), rseed := BitVec.ofNat 64 (fieldAt b 0x20 8),
    rstep := BitVec.ofNat 64 (fieldAt b 0x28 8), faultRec := BitVec.ofNat 64 (fieldAt b 0x30 8),
    handler := fieldAt b 0x38 8, reads := es.take 6, writes := es.drop 6 }

/-- The reserved fields and codes of a record outside its sets. -/
def reservedOk (b : List Byte) : Bool :=
  abits (fieldAt b 8 1) 2 5 == 0 && abits (fieldAt b 9 1) 4 4 == 0 && fieldAt b 0x0C 4 == 0 &&
    decide (abits (fieldAt b 0x0A 2) 11 3 ≤ 4) && abits (fieldAt b 0x0A 2) 15 1 == 0

/-- A record, or the reason of R327 for which it is not well formed: the lowest that applies. -/
def parseRecord (b : List Byte) : Except Nat TaskRec :=
  if !reservedOk b then .error 1
  else
    let img := fieldAt b 0 8
    let imgOk := tagOf img == 0 && img % 64 == 0
    match parseEntries ((List.range 12).map fun k => entryAt b 0x40 16 k) with
    | .error 1 => .error 1
    | .error n => if imgOk then .error n else .error 2
    | .ok es =>
      if !imgOk then .error 2
      else if 1 < (tileCores es).eraseDups.length then .error 4
      else .ok (recordOf b es)

end Sys2Proof.Machine
end

