-- ==== Sys2Proof/Machine/Queues.lean ====
section
/-! DEFINITION. Queues: their states, the scheduler's order, and the packets in flight (16_front_end R377–R386). -/

namespace Sys2Proof.Machine

open Sys2Proof

/-! ### Packets (R380) and the commands of the admin queue (R387) -/

/-- A packet's fields; of an admin command also its number in the admin queue and the packet itself. -/
structure Packet where
  kind : Nat
  flags : Nat
  zero : Nat
  tag : Nat
  body : List Byte
  index : Nat := 0
  raw : BitVec 512 := 0

/-- The packet of 64 bytes (Table 16-2). -/
def packetOf (b : List Byte) : Packet := { kind := fieldAt b 0 1, flags := fieldAt b 1 1, zero := fieldAt b 2 2
                                           tag := fieldAt b 4 4, body := b.drop 8 }

/-- BARRIER. -/
def Packet.barrier (p : Packet) : Bool := abits p.flags 0 1 == 1

/-- IRQ. -/
def Packet.irq (p : Packet) : Bool := abits p.flags 1 1 == 1

/-- The 32 bytes of a completion record (16_front_end R386 Table 16-4). -/
def completionRecord (tag kind : Nat) (status : Option FaultCode) (index : Nat) (rec : Word) (task : Nat) : List Byte :=
  leBytes 4 tag ++ leBytes 1 kind ++ leBytes 1 ((status.map faultNumber).getD 0) ++ leBytes 2 0 ++
    leBytes 8 index ++ leBytes 8 rec.toNat ++ leBytes 4 task ++ leBytes 4 0

/-- An admin command completes: its record in the completion ring, and its interrupt (Table 16-4).
DESIGN CHOICE (notes/assumptions/72). -/
def adminRecord (p : Packet) (status : Option FaultCode) (s : State) : State :=
  { s with
    admin := s.admin ++ [⟨p.tag, p.kind, status, p.index⟩]
    host := Memory.setN s.host (Config.adminRing.1 + 32 * (s.admin.length % Config.adminRing.2))
      (completionRecord p.tag p.kind status p.index 0 0)
    msix := if p.irq then s.msix ++ [Config.adminVector] else s.msix }

/-- An admin command that was issued completes. -/
def adminDone (index : Nat) (status : Option FaultCode) (s : State) : State :=
  match s.adminCmds.find? fun c => c.index == index with
  | some c =>
    adminRecord { packetOf (leBytes 64 c.packet.toNat) with index := index } status
      { s with adminCmds := s.adminCmds.filter fun c => c.index != index }
  | none => s

/-- The command of an admin row: one that waits or is tried again, else a new one. -/
def commandOf (s : State) (packet : BitVec 512) : AdminCmd :=
  (s.adminCmds.find? fun c => c.packet == packet && c.stage != .issued).getD ⟨s.adminCount, packet, .waiting⟩

/-- The state without the command of an admin row; a new command takes the next number. -/
def takeCommand (packet : BitVec 512) (s : State) : State :=
  let c := commandOf s packet
  if c ∈ s.adminCmds then { s with adminCmds := s.adminCmds.erase c } else { s with adminCount := s.adminCount + 1 }

/-- A command's turn: commands start in order, and one with BARRIER when every one before it has completed (R382). -/
def commandTurn (s : State) (c : AdminCmd) : Bool :=
  s.adminCmds.all fun e =>
    decide (c.index ≤ e.index) || (e.stage != .waiting && !(packetOf (leBytes 64 c.packet.toNat)).barrier)

/-- A command stays in the admin queue. -/
def keepCommand (index : Nat) (packet : BitVec 512) (stage : AdminStage) (s : State) : State :=
  { s with adminCmds := s.adminCmds ++ [⟨index, packet, stage⟩] }

/-! ### Queues -/

/-- Changes a queue. -/
def modQueue (qid : Nat) (f : Queue → Queue) (s : State) : State :=
  match s.queues.get? qid with
  | some q => { s with queues := s.queues.set qid (f q) }
  | none => s

/-- A queue that an uncorrectable error halts is reported (R388). -/
def reportHalt (qid : Nat) (code : FaultCode) (s : State) : State :=
  match s.queues.get? qid with
  | some q =>
    if code = .eccUe then
      postService { kind := 7, code := faultNumber .eccUe, asid := q.asid, task := 0, address := 0, length := qid, parent := 0
                    flags := 0, bundle := 0 } s
    else s
  | none => s

/-- A queue halts with a code; its packets already started go on (R381). -/
def haltQueue (qid : Nat) (code : FaultCode) (s : State) : State :=
  modQueue qid (fun q => { q with state := .halted, status := some code }) (reportHalt qid code (s.noteErr (some code)))

/-- A packet in flight has been answered: an error is its status and halts its queue (R381). -/
def answerPacket (o : Op) (p : PktOp) (err : Option FaultCode) (s : State) : State :=
  let s := s.modOp o.id fun x => { x with kind := .packet { p with finished := true, status := p.status.or err } }
  match err with
  | some code => haltQueue p.qid code s
  | none => s

/-! ### The scheduler (R378, R385) -/

/-- The units of the reference clock's time in 100 µs. -/
def hundredU : Nat := 100 * microU

/-- The effective priority of a WAITING queue. -/
def queueEff (s : State) (q : Queue) : Nat := min 3 (q.prio + (nowNs s - q.since) / 100000)

/-- The queues that hold a slot. -/
def mappedQueues (s : State) : List (Nat × Queue) := s.queues.filter fun (_, q) => q.state == .mapped

/-- A slot is free for a context. -/
def slotFree (s : State) (asid : Nat) : Bool :=
  decide ((mappedQueues s).length < 128) &&
    decide (((mappedQueues s).countP fun (_, q) => q.asid == asid) < (((s.context? asid).map Context.quota).getD 0))

/-- A mapped queue with nothing to start and nothing in flight. -/
def idleMapped (q : Queue) : Bool := q.state == .mapped && q.head == q.started && q.inflight == []

/-- The idle queue of a context whose slot a waiting one may take. -/
def idleOf (s : State) (asid : Nat) : Option Nat :=
  (s.queues.find? fun (_, q) => q.asid == asid && idleMapped q).map Prod.fst

/-- A WAITING queue can be mapped: a slot is free for its context. -/
def canMap (s : State) (q : Queue) : Bool := q.state == .waiting && slotFree s q.asid

/-- A queue comes before another: by effective priority, then the smaller SINCE, then the lower QID. -/
def queueBefore (s : State) (a b : Nat × Queue) : Bool :=
  if queueEff s a.2 ≠ queueEff s b.2 then decide (queueEff s b.2 < queueEff s a.2)
  else if a.2.since ≠ b.2.since then decide (a.2.since < b.2.since)
  else decide (a.1 < b.1)

/-- The queue that is mapped next. -/
def nextMapped (s : State) : Option Nat :=
  ((s.queues.filter fun (_, q) => canMap s q).foldl (fun (m : Option (Nat × Queue)) x =>
    match m with
    | some y => if queueBefore s x y then some x else some y
    | none => some x) none).map Prod.fst

/-- Unmaps a queue: WAITING when it has work, else IDLE. -/
def unmapQueue (qid : Nat) (s : State) : State :=
  modQueue qid (fun q =>
    if q.pending ∨ q.started < q.head then { q with state := .waiting, since := nowNs s } else { q with state := .idle }) s

/-- Maps a queue. -/
def mapQueue (qid : Nat) (s : State) : State :=
  modQueue qid (fun q => { q with state := .mapped, pending := false, mapAt := nowNs s }) s

/-- An idle queue of a WAITING queue's context gives way when no slot is free for it. -/
def giveWay (q : Queue) (s : State) : State :=
  if q.state == .waiting && !slotFree s q.asid then
    match idleOf s q.asid with
    | some i => unmapQueue i s
    | none => s
  else s

/-- QUEUE_MAP (R385): a slot that is free goes to the queue that is next among all. -/
def execQueueMap (qid : Nat) (s : State) : Out :=
  .next (match s.queues.get? qid with
    | some q =>
      let s := giveWay q s
      if nextMapped s = some qid then mapQueue qid s else s
    | none => s)

/-- A mapped queue's slice has ended, and a WAITING queue of its context qualifies. -/
def sliceEnded (s : State) (q : Queue) : Bool :=
  q.state == .mapped && decide (q.mapAt + 1000 * s.cfg.qslice ≤ nowNs s) &&
    s.queues.any fun (_, x) => x.state == .waiting && x.asid == q.asid && decide (q.prio ≤ queueEff s x)

/-- QUEUE_SLICE_END (R385). -/
def execQueueSliceEnd (qid : Nat) (s : State) : Out :=
  .next (match s.queues.get? qid with
    | some q => if sliceEnded s q then unmapQueue qid s else s
    | none => s)

/-- QUEUE_AGEING_STEP (R385): the slice condition of the mapped queues of its context is examined again. -/
def execQueueAgeingStep (qid : Nat) (s : State) : Out :=
  .next (match s.queues.get? qid with
    | some q =>
      match s.queues.find? fun (_, x) => x.asid == q.asid && sliceEnded s x with
      | some (i, _) => unmapQueue i s
      | none => s
    | none => s)

/-! ### KICK (R383, R386) -/

/-- What a kick does to a queue that is not halted. -/
def kicked (s : State) (head : Nat) (q : Queue) : Queue :=
  let q := { q with head := max q.head head }
  match q.state with
  | .idle => { q with pending := true, state := .waiting, since := nowNs s }
  | .waiting | .parked => { q with pending := true }
  | .mapped | .halted => q

/-- KICK (R383): the doorbell latches the largest value; one below STARTED, or more packets ahead of DONE than the
ring holds, halts the queue. -/
def execKick (qid : Nat) (head : Word) (s : State) : Out :=
  let v := head.toNat
  .next (match s.queues.get? qid with
    | some q =>
      let s := modQueue qid (kicked s v) s
      if q.state != .halted && (decide (v < q.started) || decide (q.done + 2 ^ q.logSize < v)) then
        haltQueue qid .illegalOperand s
      else s
    | none => s)

/-- COALESCING_TIMER_EXPIRY (R386). -/
def execCoalescingTimerExpiry (qid : Nat) (s : State) : Out :=
  .next (match s.queues.get? qid with
    | some q =>
      match q.armed with
      | some t =>
        if t ≤ s.timeU then modQueue qid (fun q => { q with armed := none }) { s with msix := s.msix ++ [q.vector] } else s
      | none => s
    | none => s)

end Sys2Proof.Machine
end

