-- ==== Sys2Proof/Machine/CopyRun.lean ====
section
/-! DEFINITION. What copy and SAE operations do (10_copy R248–R255), and the completion of the operations
that copy slots start. -/

namespace Sys2Proof.Machine

open Sys2Proof

/-! ### An operation at work -/

/-- An operation at work: the state and the progress so far, the failure that ended it with its PAGE, and whether it waits
for answers from other packages. -/
structure CopyRun where
  s : State
  p : CopyProg
  fail : Option (FaultCode × Nat) := none
  paused : Bool := false

/-- An operation goes no further for now. -/
def CopyRun.stands (w : CopyRun) : Bool := w.fail.isSome || w.paused

/-- VA bits 47:16 of the base of the page that holds a VA, at the size of its translation for a core; of its 64 KiB in the
heap window and where it has none. -/
def vpnOf (s : State) (core asid va : Nat) : Nat :=
  if ((s.context? asid).map fun c => inHeap c va 1).getD false then va / 2 ^ 16
  else
    match engineWalk s core asid va with
    | .leaf e => e.vpn
    | .nonResident vpn _ _ _ => vpn
    | .failed _ => va / 2 ^ 16

/-- VA bits 47:16 of the page of a tag 0x0 address; zero for any other (Table 10-1).
DEDUCED (notes/assumptions/13). -/
def pageBits (s : State) (o : Op) (addr : Word) : Nat :=
  if tagOf addr.toNat = 0 then vpnOf s o.core o.asid (vaOf addr.toNat) else 0

/-- An operation that failed, with the PAGE of an address. -/
def CopyRun.stop (w : CopyRun) (o : Op) (code : FaultCode) (addr : Word) : CopyRun :=
  { w with fail := w.fail.or (some (code, pageBits w.s o addr)) }

/-- The first byte of some runs from an address on in a run that satisfies a test, else the address. -/
def firstBad (f : Run → Bool) (addr : Word) : Nat → List Run → Word
  | _, [] => addr
  | off, r :: rs => if f r then addr + BitVec.ofNat 64 off else firstBad f addr (off + r.len) rs

/-- The first byte of a row whose own page refuses it: of the row's first page, or of its second. -/
def refusedAt (s : State) (o : Op) (addr : Word) (len : Nat) (wr : Bool) : Word :=
  let v := engineView s o.core o.asid (vaOf addr.toNat) len
  match checkAccess v (!wr) wr 1 addr 1 with
  | .ok => addr + BitVec.ofNat 64 (len - 1)
  | _ => addr

/-- A row is done: its packets are no longer needed. -/
def CopyRun.closeRow (w : CopyRun) (o : Op) (k : Nat) : CopyRun :=
  { w with s := dropParts (.op o.id) k w.s, p := { w.p with next := k + 1, writing := false } }

/-- The writes of a row to other packages: awaited, failed, or all acknowledged (R248, R250). -/
def CopyRun.awaitWrites (w : CopyRun) (o : Op) (k : Nat) : CopyRun :=
  match stepAnswers w.s (.op o.id) k with
  | (true, _) => { w with p := { w.p with writing := true }, paused := true }
  | (false, some code) => { w with fail := some (code, 0) }
  | (false, none) => w.closeRow o k

/-- One row or entry: nothing before its turn comes, once the operation has failed, or while it waits; and it is done
when its writes have been acknowledged (R250). -/
def rowStep (o : Op) (k : Nat) (f : CopyRun → CopyRun) (w : CopyRun) : CopyRun :=
  if w.stands || decide (k < w.p.next) then w
  else
    let x := if w.p.writing then w else f w
    if x.stands then x else x.awaitWrites o k

/-- An address and what it names, fixed at issue or as its row is reached, with the bases of its
non-resident pages. -/
structure Target where
  side : Side
  addr : Word
  bases : List Nat

/-- The ring stop of a ring side allows an access, by whichever tag reaches it (17_system R399). -/
def stopAllows (s : State) (core : Nat) (x : Side) (off len : Nat) (rd wr : Bool) : Bool :=
  match x with
  | .ring die o => ringAllowed s core die (o + off) len rd wr
  | .peer acc (.peerRing die o) => acc != s.accid || ringAllowed s core die (o + off) len rd wr
  | .tile _ _ | .priv _ | .global _ _ | .peer _ _ | .none => true

/-- The first non-resident page that some runs from an address on read: VA bits 47:16 of its base. -/
def firstNonres (bases : List Nat) : Nat → List Run → Option Nat
  | _, [] => none
  | va, r :: rs =>
    if r.place = .zero then
      some ((((bases.filter fun b => decide (b ≤ va)).max?).getD va) / 2 ^ 16 % 2 ^ 32)
    else firstNonres bases (va + r.len) rs

/-- Reads some bytes of a side: those in other packages, or behind queued writes, by packets. -/
def readSide (o : Op) (x : Target) (off len : Nat) (w : CopyRun) : CopyRun × RowData :=
  let here := x.addr + BitVec.ofNat 64 off
  if !stopAllows w.s o.core x.side off len true false then (w.stop o .accessTable here, [])
  else
    match reach false w.s (sideRuns w.s o x.side off len) with
    | none => ({ w with fail := some (.remoteError, 0) }, [])
    | some rs =>
      match hardFault w.s o.view rs with
      | some code =>
        ({ (w.stop o code (firstBad (fun r => (hardFault w.s o.view [r]).isSome) here 0 rs)) with s := readRuns w.s o.view rs }, [])
      | none =>
        if !runsAllowed w.s o.core true false rs then
          (w.stop o .accessTable (firstBad (fun r => !runsAllowed w.s o.core true false [r]) here 0 rs), [])
        else
        let f := fetchRuns w.s o.view (.op o.id) w.p.next rs
        if f.waits then ({ w with s := startParts o (.op o.id) w.p.next f.asks w.s, paused := true }, [])
        else
          match f.fail with
          | some code => ({ w with fail := some (code, 0) }, [])
          | none => ({ w with p := { w.p with res := w.p.res.or (firstNonres x.bases (vaOf here.toNat) rs) }
                              s := readRuns w.s o.view rs }, f.data)

/-- The tile that a side's bytes lie in: core, entry and byte offset. -/
def tileOfSide (s : State) (o : Op) (x : Side) (off : Nat) : Option (Nat × Nat × Nat) :=
  match x with
  | .tile e t => some (o.core, e, t + off)
  | .peer acc t =>
    if acc = s.accid then (peerTileOf s t).map fun (c, e, i) => (c, e, i + off) else none
  | .priv _ | .ring _ _ | .global _ _ | .none => none

/-- Notes the elements of a tile that bytes touch. -/
def CopyRun.note (w : CopyRun) (t : Option (Nat × Nat × Nat)) (len : Nat) : CopyRun :=
  match t with
  | none => w
  | some (core, i, off) =>
    match (w.s.coreAt core).tiles.get? i with
    | none => w
    | some e =>
      let ns := touchedElems e off len
      { w with p := { w.p with wrote := (core, i, ns.headD 0, ns.length) :: w.p.wrote } }

/-- Writes some bytes of a side, with every copy of a granule that the write needs (R248; 14_revisions
R339); bytes that an earlier VFNLD still reads wait for it (08_function R207). -/
def writeSide (o : Op) (x : Target) (off : Nat) (d : RowData) (w : CopyRun) : CopyRun :=
  if w.stands then w
  else
    let here := x.addr + BitVec.ofNat 64 off
    if !stopAllows w.s o.core x.side off d.length false true then w.stop o .accessTable here
    else
      match reach true w.s (sideRuns w.s o x.side off d.length) with
      | none => { w with fail := some (.remoteError, 0) }
      | some rs =>
        if !runsAllowed w.s o.core false true rs then
          w.stop o .accessTable (firstBad (fun r => !runsAllowed w.s o.core false true [r]) here 0 rs)
        else if vfnldReads w.s o.core o.id rs then { w with paused := true }
        else
          match copiesFail w.s o.view (storeGranules rs) with
          | some code => w.stop o code here
          | none => { w with s := storeRuns o (.op o.id) w.p.next rs d w.s }.note (tileOfSide w.s o x.side off) d.length

/-! ### Indices and indexed rows (R245, R252) -/

/-- Index `j` of an operation, read as N32. -/
def indexAt (o : Op) (idx : Option (Nat × Nat)) (j : Nat) (s : State) : Except FaultCode Nat :=
  match idx with
  | none => .error .tileHandle
  | some (i, first) =>
    match (s.coreAt o.core).tiles.get? i with
    | none => .error .tileHandle
    | some e =>
      match readFault s.sys (tileByteKey o.core e (4 * (first + j))) 4 with
      | some code => .error code
      | none => .ok (memCode s o.core e (first + j))

/-- An indexed row as it is reached: checked by R21 and translated by the engine. -/
def resolveRow (o : Op) (addr : Word) (len : Nat) (wr : Bool) (s : State) : Except FaultCode Target :=
  let v := engineView s o.core o.asid (vaOf addr.toNat) len
  match checkAccess v (!wr) wr 1 addr len with
  | .ok => .ok ⟨sideOf v addr (accessRuns v addr len), addr,
      if paged v addr len then nonresBases v o.asid 2 (vaOf addr.toNat) (vaOf addr.toNat + len) else []⟩
  | .fault code _ _ _ _ => .error code
  | _ => .error .translation

/-- The translations of an indexed row are in its die's second-level TLB, used now (11_translation R269). -/
def CopyRun.useRow (w : CopyRun) (o : Op) (addr : Word) (len : Nat) : CopyRun :=
  if paged { w.s with cur := o.core } addr len then
    { w with s := fillRow o.core o.asid (vaOf addr.toNat) len w.s }
  else w

/-! ### The operations (R251–R253) -/

/-- The destination of an operation. -/
def CopyOp.dstT (c : CopyOp) : Target := ⟨c.dst, c.dstAddr, []⟩

/-- The source of an operation. -/
def CopyOp.srcT (c : CopyOp) : Target := ⟨c.src, c.srcAddr, c.nonres⟩

/-- A byte of a fill pattern: byte q mod 8 of g(b). -/
def fillBytes (v : Word) (n : Nat) : RowData :=
  (List.range n).map fun q => (BitVec.ofNat 8 (bits v (8 * (q % 8)) 8), false)

/-- COPY in modes 0 and 1. -/
def runPlain (o : Op) (c : CopyOp) (fill : Option Word) (w : CopyRun) : CopyRun :=
  let z := shapeOf c.shape
  (List.range z.rows).foldl (fun w i => rowStep o i (fun w =>
    match fill with
    | some v => writeSide o c.dstT (i * z.dstr) (fillBytes v z.rlen) w
    | none =>
      let x := readSide o c.srcT (i * z.sstr) z.rlen w
      writeSide o c.dstT (i * z.dstr) x.2 x.1) w) w

/-- Destination row `x` of a transposed COPY: element `x` of each source row. -/
def transRow (e x : Nat) (rows : List RowData) : RowData := (rows.map fun d => (d.drop (x * e)).take e).flatten

/-- A row of the source of a transposed COPY is read. -/
def readRow (o : Op) (c : CopyOp) (i : Nat) (w : CopyRun) : CopyRun :=
  let z := shapeOf c.shape
  let x := readSide o c.srcT (i * z.sstr) z.rlen w
  if x.1.stands then x.1 else { x.1 with p := { x.1.p with rows := x.1.p.rows ++ [x.2] } }

/-- COPY in modes 2 to 4: the whole source is read before any destination byte is written. -/
def runTrans (o : Op) (c : CopyOp) (e : Nat) (w : CopyRun) : CopyRun :=
  let z := shapeOf c.shape
  let w := (List.range z.rows).foldl (fun w i => rowStep o i (readRow o c i) w) w
  (List.range (z.rlen / e)).foldl (fun w x => rowStep o (z.rows + x) (fun w =>
    writeSide o c.dstT (x * z.dstr) (transRow e x w.p.rows) w) w) w

/-- COPYG and COPYS. -/
def runIndexed (o : Op) (c : CopyOp) (gather : Bool) (w : CopyRun) : CopyRun :=
  let g := gatherOf c.shape
  (List.range g.count).foldl (fun w j => rowStep o j (fun w =>
    match indexAt o c.idx j w.s with
    | .error code => w.stop o code 0
    | .ok x =>
      let base := if gather then c.srcAddr else c.dstAddr
      let ind := base + BitVec.ofNat 64 (x * g.str)
      if x = 0xFFFFFFFF then
        if gather then writeSide o c.dstT (j * g.rlen) (List.replicate g.rlen (0, false)) w else w
      else
        match resolveRow o ind g.rlen (!gather) w.s with
        | .error code => w.stop o code (refusedAt w.s o ind g.rlen (!gather))
        | .ok t =>
          let w := w.useRow o ind g.rlen
          if gather then
            let d := readSide o t 0 g.rlen w
            writeSide o c.dstT (j * g.rlen) d.2 d.1
          else
            let d := readSide o c.srcT (j * g.rlen) g.rlen w
            writeSide o t 0 d.2 d.1) w) w

/-- An element combined with a value (R253): the new element, and whether it saturated. -/
def combine (f : SaeOp) (t : ElemTy) (e x : Int) : Int × Bool :=
  match f with
  | .add => (elemVal t (codeOf t.width (e + x)), false)
  | .sadd => sat false t (e + x)
  | .max => (max e x, false)
  | .min => (min e x, false)
  | .set => (x, false)

/-- COPYR's operation as one of SAE's. -/
def saeOfRed : RedOp → SaeOp
  | .add => .add
  | .sadd => .sadd
  | .max => .max
  | .min => .min

/-- A POISON that a consumer of values meets (17_system R402). -/
def poisoned (d : RowData) : Bool := d.any Prod.snd

/-- The address of the first poisoned byte of a row. -/
def poisonAt (addr : Word) (d : RowData) : Word :=
  addr + BitVec.ofNat 64 ((d.findIdx? Prod.snd).getD 0)

/-- Combines values into consecutive elements of a tile of the operation's core. -/
def updateElems (o : Op) (i first : Nat) (f : SaeOp) (vs : List Int) (w : CopyRun) : CopyRun :=
  match (w.s.coreAt o.core).tiles.get? i with
  | none => w
  | some e =>
    let b := e.ty.width
    match readFault w.s.sys (tileByteKey o.core e (first * b / 8)) ((vs.length * b + 7) / 8) with
    | some code => w.stop o code 0
    | none =>
      let rs := (List.range vs.length).map fun q =>
        combine f e.ty (elemVal e.ty (memCode w.s o.core e (first + q))) (vs.getD q 0)
      { w with
        s := writeElems o.core e first (rs.map fun r => codeOf b r.1) w.s
        p := { w.p with sat := w.p.sat || rs.any Prod.snd, wrote := (o.core, i, first, vs.length) :: w.p.wrote } }

/-- The tile entry and byte offset of a side that is a tile. -/
def tileSide (x : Side) : Option (Nat × Nat) :=
  match x with
  | .tile i off => some (i, off)
  | _ => none

/-- The values of some bytes in a type. -/
def rowValues (t : ElemTy) (d : RowData) : List Int :=
  let bs := d.map Prod.fst
  (List.range (bs.length * 8 / t.width)).map fun q => elemVal t (codeIn t.width bs q)

/-- The type of a tile of an operation's core. -/
def typeOf (s : State) (core i : Nat) : ElemTy := (((s.coreAt core).tiles.get? i).map TileEntry.ty).getD .i8

/-- COPYR. -/
def runReduce (o : Op) (c : CopyOp) (f : RedOp) (w : CopyRun) : CopyRun :=
  match tileSide c.dst with
  | none => w
  | some (i, off) =>
    let z := shapeOf c.shape
    let t := typeOf w.s o.core i
    (List.range z.rows).foldl (fun w k => rowStep o k (fun w =>
      let x := readSide o c.srcT (k * z.sstr) z.rlen w
      if x.1.stands then x.1
      else if poisoned x.2 then x.1.stop o .poison (poisonAt (c.srcAddr + BitVec.ofNat 64 (k * z.sstr)) x.2)
      else updateElems o i ((off + k * z.dstr) * 8 / t.width) (saeOfRed f) (rowValues t x.2) x.1) w) w

/-! ### The scatter-accumulate engine (R255) -/

/-- A value merged into a window entry: exact for sums. -/
def mergeValue (f : SaeOp) (old new : List Int) : List Int :=
  match f with
  | .add | .sadd => List.zipWith (· + ·) old new
  | .max => List.zipWith max old new
  | .min => List.zipWith min old new
  | .set => new

/-- The window with a value for an index that it holds. -/
def mergeInto (f : SaeOp) (x : Nat) (v : List Int) (win : List (Nat × List Int)) : List (Nat × List Int) :=
  win.map fun e => if e.1 = x then (x, mergeValue f e.2 v) else e

/-- Where an index of a SAE operation points: the first element, and the first byte after the update. -/
def saeTarget (flat : Bool) (t : ElemTy) (off : Nat) (g : GatherWord) (x : Nat) : Nat × Nat :=
  if flat then
    let e := off * 8 / t.width + x
    (e, ((e + 1) * t.width + 7) / 8)
  else ((off + x * g.str) * 8 / t.width, off + x * g.str + g.rlen)

/-- Applies the entries of a window, oldest first. -/
def applyWindow (o : Op) (i : Nat) (f : SaeOp) (first : Nat → Nat) (win : List (Nat × List Int))
    (w : CopyRun) : CopyRun :=
  win.foldl (fun w e => updateElems o i (first e.1) f e.2 w) w

/-- The place in the value side of the value `j` of a SAE operation, and its bytes. -/
def valueSpot (flat : Bool) (t : ElemTy) (g : GatherWord) (j : Nat) : Nat × Nat :=
  if flat then (j * t.width / 8, max 1 (t.width / 8)) else (j * g.rlen, g.rlen)

/-- The value `j` of a SAE operation. -/
def saeValue (o : Op) (c : CopyOp) (flat : Bool) (t : ElemTy) (g : GatherWord) (j : Nat) (w : CopyRun) :
    CopyRun × List Int :=
  let at_ := valueSpot flat t g j
  let x := readSide o c.srcT at_.1 at_.2 w
  let vs := rowValues t x.2
  (if poisoned x.2 then x.1.stop o .poison (poisonAt (c.srcAddr + BitVec.ofNat 64 at_.1) x.2) else x.1,
   if flat then (vs.drop (if t.width = 4 then j % 2 else 0)).take 1 else vs)

/-- A value joins the merge window; the oldest entry makes room for a new index when the window is full, and where that
entry cannot be applied the value has no effect (R250, R255). -/
def joinWindow (o : Op) (i : Nat) (f : SaeOp) (first : Nat → Nat) (x : Nat) (v : List Int) (w : CopyRun) : CopyRun :=
  let win := w.p.window
  if win.any fun e => e.1 == x then { w with p := { w.p with window := mergeInto f x v win } }
  else if win.length = 64 then
    let w := applyWindow o i f first (win.take 1) { w with p := { w.p with window := win.tail } }
    if w.fail.isSome then w else { w with p := { w.p with window := w.p.window ++ [(x, v)] } }
  else { w with p := { w.p with window := win ++ [(x, v)] } }

/-- One entry of the stream. -/
def saeEntry (o : Op) (c : CopyOp) (flat : Bool) (f : SaeOp) (i off j : Nat) (w : CopyRun) : CopyRun :=
  let g := gatherOf c.shape
  let t := typeOf w.s o.core i
  match indexAt o c.idx j w.s with
  | .error code => w.stop o code 0
  | .ok x =>
    if x = 0xFFFFFFFF then w
    else if (((w.s.coreAt o.core).tiles.get? i).map tileBytes).getD 0 < (saeTarget flat t off g x).2 then
      w.stop o .tileBounds 0
    else
      let v := saeValue o c flat t g j w
      if v.1.stands then v.1 else joinWindow o i f (fun x => (saeTarget flat t off g x).1) x v.2 v.1

/-- SAEQ and SAEF: the stream through the merge window, then every entry left, also after a failure
(R250, R255). -/
def runSae (o : Op) (c : CopyOp) (flat : Bool) (f : SaeOp) (w : CopyRun) : CopyRun :=
  match tileSide c.dst with
  | none => w
  | some (i, off) =>
    let g := gatherOf c.shape
    let t := typeOf w.s o.core i
    let w := (List.range g.count).foldl (fun w j => rowStep o j (saeEntry o c flat f i off j) w) w
    if w.paused then w
    else applyWindow o i f (fun x => (saeTarget flat t off g x).1) w.p.window { w with p := { w.p with window := [] } }

/-- An operation at work, to its end or until it waits. -/
def runCopy (o : Op) (c : CopyOp) (w : CopyRun) : CopyRun :=
  match c.act with
  | .copy .plain _ => runPlain o c none w
  | .copy .fill v => runPlain o c (some v) w
  | .copy m _ => runTrans o c (modeElem m) w
  | .gather => runIndexed o c true w
  | .scatter => runIndexed o c false w
  | .reduce f => runReduce o c f w
  | .saeRows f => runSae o c false f w
  | .saeElems f => runSae o c true f w

/-! ### Completion (R243, R249, R250, R258) -/

/-- The elements of one tile among those written. -/
def elemsOf (core i n : Nat) (ws : List (Nat × Nat × Nat × Nat)) : List Nat :=
  let mine := ws.filter fun (c, j, _, k) => c == core && j == i && k != 0
  (List.range n).filter fun e => mine.any fun (_, _, a, k) => decide (a ≤ e) && decide (e < a + k)

/-- The DIRTY and census of a tile of which some elements were written (R249; 03_numbers R72). -/
def noteWritten (ws : List (Nat × Nat × Nat × Nat)) (core i : Nat) (s : State) : State :=
  match (s.coreAt core).tiles.get? i with
  | none => s
  | some e =>
    let ns := elemsOf core i (e.rows * e.cols) ws
    noteEngineWrite core i (ns.length == e.rows * e.cols)
      (ns.map fun n => elemVal e.ty (memCode s core e n)) s

/-- The census and DIRTY of every tile that an operation wrote; one into which it wrote no element stays as it is (R249).
DESIGN CHOICE (notes/assumptions/76). -/
def noteAll (ws : List (Nat × Nat × Nat × Nat)) (s : State) : State :=
  ((ws.map fun (c, i, _, _) => (c, i)).eraseDups).foldl (fun s (c, i) => noteWritten ws c i s) s

/-- A channel's status after an operation of it has completed (R243 Table 10-1).
DEDUCED (notes/assumptions/13). -/
def noteChan (sat : Bool) (res : Option Nat) (fail : Option (FaultCode × Nat)) (x : ChanStat) : ChanStat :=
  { res := x.res || res.isSome
    sat := x.sat || sat
    flt := x.flt || fail.isSome
    page := if x.res || x.flt then x.page else (res.or (fail.map Prod.snd)).getD 0
    done := (x.done + 1) % 256 }

/-- Changes the status of a channel. -/
def Ctx.modChan (c : Ctx) (ch : Nat) (f : ChanStat → ChanStat) : Ctx :=
  if ch = 0 then { c with chan0 := f c.chan0 } else { c with chan1 := f c.chan1 }

/-- The end of an operation of a channel: its counter, DONE, flags and mark. -/
def endChan (o : Op) (ch : Nat) (sat : Bool) (res : Option Nat) (fail : Option (FaultCode × Nat)) (s : State) :
    State :=
  (s.endOp o (chanCls ch) (fail.map fun f => (f.1, BitVec.ofNat 64 o.bundle))).modOwner o.task o.member fun c =>
    (c.modChan ch (noteChan sat res fail)).setSatf s.cyc (flagIf sat satRed)

/-- A copy or SAE operation works until it waits for other packages, or completes.
DEDUCED (notes/assumptions/12). -/
def completeCopy (o : Op) (c : CopyOp) (s : State) : State :=
  let w := runCopy o c { s := s, p := c.prog }
  if w.paused then w.s.modOp o.id fun x => { x with kind := .copy { c with prog := w.p } }
  else endChan o c.ch w.p.sat w.p.res w.fail (noteAll w.p.wrote (endParts (.op o.id) w.s))

/-- The local ranges that an operation writes and reads, each a key and a length, for the order of a
channel's operations (R248). -/
def sideHull (s : State) (o : Op) (x : Side) (len : Nat) : List (Nat × Nat) :=
  hereRuns (((sideRuns s o x 0 len).filterMap (reachRun false s)))

/-- A whole tile as a range. -/
def tileHull (s : State) (core i : Nat) : List (Nat × Nat) :=
  match (s.coreAt core).tiles.get? i with
  | some e => [(tileByteKey core e 0, tileBytes e)]
  | none => []

/-- The hull of an indexed base: its whole tile, private space or ring, whatever the tag that reaches it, or all of
LPDDR6. -/
def baseHull (s : State) (o : Op) (x : Side) : List (Nat × Nat) :=
  match x with
  | .tile i _ => tileHull s o.core i
  | .priv _ => [(privKey o.task o.member 0, 2 ^ 22)]
  | .ring die _ => [(ringKey die 0, ringBytes)]
  | .global _ _ => [(0, lpddrBytes)]
  | .peer acc t =>
    if acc ≠ s.accid then []
    else
      match t, peerTileOf s t with
      | .peerRing die _, _ => [(ringKey die 0, ringBytes)]
      | _, some (c, i, _) => tileHull s c i
      | _, none => []
  | .none => []

/-- What a copy writes. -/
def copyWrites (s : State) (o : Op) (c : CopyOp) : List (Nat × Nat) :=
  match c.act with
  | .copy m _ => sideHull s o c.dst (dstSpan m (shapeOf c.shape))
  | .reduce _ => sideHull s o c.dst (dstSpan .plain (shapeOf c.shape))
  | .gather => sideHull s o c.dst (denseSpan (gatherOf c.shape))
  | .scatter | .saeRows _ | .saeElems _ => baseHull s o c.dst

/-- The index tile as a range. -/
def indexHull (s : State) (o : Op) (c : CopyOp) : List (Nat × Nat) :=
  match c.idx with
  | some (i, _) => baseHull s o (.tile i 0)
  | none => []

/-- What a copy reads. -/
def copyReads (s : State) (o : Op) (c : CopyOp) : List (Nat × Nat) :=
  (match c.act with
    | .copy .fill _ => []
    | .copy _ _ | .reduce _ => sideHull s o c.src (srcSpan (shapeOf c.shape))
    | .gather => baseHull s o c.src
    | .scatter | .saeRows _ => sideHull s o c.src (denseSpan (gatherOf c.shape))
    | .saeElems _ => sideHull s o c.src (4 * (gatherOf c.shape).count)) ++ indexHull s o c

/-- Two lists of ranges share a byte. -/
def meet (a b : List (Nat × Nat)) : Bool := a.any fun (k, n) => b.any fun (l, m) => overlaps k n l m

/-- A SAE operation. -/
def isSae (c : CopyOp) : Bool :=
  match c.act with
  | .saeRows _ | .saeElems _ => true
  | .copy _ _ | .gather | .scatter | .reduce _ => false

/-- The channel of a channel operation. -/
def chanOf (p : Op) : Option Nat :=
  match p.kind with
  | .copy d => some d.ch
  | .cgld ch _ _ _ _ => some ch
  | _ => none

/-- The SAE takes one operation of a core before another: in issue order, and ch0 before ch1 within a bundle (R254). -/
def saeBefore (p : Op) (d : CopyOp) (o : Op) (c : CopyOp) : Bool :=
  isSae c && isSae d && p.core == o.core && (decide (p.stamp < o.stamp) || (p.stamp == o.stamp && decide (d.ch < c.ch)))

/-- An operation has not begun: it waits for the SAE (R254). -/
def notBegun (s : State) (p : Op) : Bool :=
  match p.kind with
  | .copy d => s.ops.any fun q =>
      match q.kind with
      | .copy e => saeBefore q e p d
      | _ => false
  | _ => false

/-- Some operation of a channel before an operation has not begun (R242). -/
def behindChannel (s : State) (o : Op) (ch : Nat) : Bool :=
  s.ops.any fun p => p.core == o.core && decide (p.id < o.id) && chanOf p == some ch && notBegun s p

/-- A side may reach another package, or a page that is frozen or has moved. -/
def sideFar (s : State) : Side → Bool
  | .peer acc _ => acc != s.accid
  | .global _ tr => tr.isEmpty || tr.any fun (_, _, p) =>
      match p with
      | .far _ _ _ => true
      | .here k => (movedAt s k).isSome || (frozenAt s k).isSome
      | .zero => false
  | .tile _ _ | .priv _ | .ring _ _ | .none => false

/-- An earlier operation of the core that a copy waits for: of its channel, where it reads a local range
or writes any byte that the earlier one writes, or both write outside the package; and of the SAE (R93, R248, R254).
DEDUCED (notes/assumptions/14). -/
def copyAfter (s : State) (o : Op) (c : CopyOp) (p : Op) : Bool :=
  p.core == o.core &&
    match p.kind with
    | .copy d =>
      saeBefore p d o c ||
        (decide (p.id < o.id) && c.ch == d.ch &&
          (let ws := copyWrites s p d
           meet ws ((copyReads s o c).filter fun r => isLocalKey r.1) || meet ws (copyWrites s o c) ||
             (sideFar s d.dst && sideFar s c.dst)))
    | _ => false

/-- A store of an earlier bundle of the core to a byte that a copy reads or writes has not performed
(R248; 04_memory_model R93).
DEDUCED (notes/assumptions/14). -/
def storeBefore (o : Op) (hull : List (Nat × Nat)) (far : Bool) (p : Op) : Bool :=
  p.core == o.core && decide (p.stamp < o.stamp) &&
    match p.kind with
    | .store w =>
      match w.place with
      | .here k => meet [(k, w.len)] hull
      | .far _ _ _ => far
      | .zero => false
    | _ => false

/-- An earlier VFNLD of the core still reads bytes that a copy writes (08_function R207). -/
def tableBefore (s : State) (o : Op) (c : CopyOp) (p : Op) : Bool :=
  p.core == o.core && decide (p.id < o.id) &&
    match p.kind with
    | .vfnld _ _ _ => meet (p.ranges.map fun r => (r.key, r.len)) (copyWrites s o c)
    | _ => false

/-- The ordering rules let a copy work. -/
def copyReady (s : State) (o : Op) (c : CopyOp) : Bool :=
  let hull := copyReads s o c ++ copyWrites s o c
  !(s.ops.any fun p => copyAfter s o c p || tableBefore s o c p ||
      storeBefore o hull (sideFar s c.src || sideFar s c.dst) p) &&
    !behindChannel s o c.ch && !clientWaits s (.op o.id) &&
    !(hull.any fun (k, n) => granBusy s k n || requestsBefore s o.id k n) &&
    !engineBehind s o.core false (copyReads s o c) && !engineBehind s o.core true (copyWrites s o c)

/-- COPY_OPERATION_COMPLETE (R258).
DEDUCED (notes/assumptions/12). -/
def execCopyOperationComplete (op : Nat) (_ : Unit) (s : State) : Out :=
  match s.op? op with
  | some o =>
    match o.kind with
    | .copy c => .next (if copyReady s o c then completeCopy o c s else s)
    | _ => .next s
  | none => .next s

/-! ### ATOM and SIGNAL at work (R256, R257; 04_memory_model R94, R96) -/

/-- The value of an ATOM's operand as the operation takes it. -/
def atomInt (wide uns : Bool) (v : Word) : Int :=
  let n := if wide then 64 else 32
  if uns then (bits v 0 n : Int) else signedOf n (bits v 0 n)

/-- The new value of an ATOM's target, none where nothing is written, and whether it saturated. -/
def atomNew (op : AtomOp) (wide uns : Bool) (old v cmp : Word) : Option Word × Bool :=
  let n := if wide then 64 else 32
  let put (x : Int) : Word := BitVec.ofNat 64 (codeOf n x)
  let x := atomInt wide uns old
  let y := atomInt wide uns v
  match op with
  | .add => (some (put (x + y)), false)
  | .sadd =>
    let r := clamp (-(2 ^ (n - 1))) (2 ^ (n - 1) - 1) (x + y)
    (some (put r.1), r.2)
  | .min => (some (put (min x y)), false)
  | .max => (some (put (max x y)), false)
  | .xchg => (some (put y), false)
  | .cas => (if bits old 0 n = bits cmp 0 n then some (put y) else none, false)
  | .and => (some (BitVec.ofNat 64 (bits (old &&& v) 0 n)), false)
  | .or => (some (BitVec.ofNat 64 (bits (old ||| v) 0 n)), false)

/-- The new value that a far operation gives its target. -/
def farNew (k : FarKind) (old : Word) : Option Word × Bool :=
  match k with
  | .atom op wide uns _ v cmp _ => atomNew op wide uns old v cmp
  | .signal true v _ => (some (old + v), false)
  | .signal false v _ => (some v, false)

/-- The bytes of a far operation's target. -/
def farBytes : FarKind → Nat
  | .atom _ wide _ _ _ _ _ => if wide then 8 else 4
  | .signal _ _ _ => 8

/-- A far operation's earlier accesses, and a SIGNAL's channel, let it perform. -/
def farReady (s : State) (o : Op) (f : FarOp) : Bool :=
  (!f.rel || releaseReady s o.core f.scope o.stamp o.id) &&
    match f.kind with
    | .atom _ _ _ _ _ _ _ => true
    | .signal _ _ ch => s.ops.all fun p => !(p.core == o.core && decide (p.id < o.id) &&
        match p.kind with
        | .copy d => d.ch == ch
        | .cgld n _ _ _ _ => n == ch
        | _ => false)

/-- The space of a far operation's target. -/
def farSpace (f : FarOp) : Space := if tagOf f.addr.toNat = 0xA then .ring else .global

/-- A far operation ends: S falls with a mark, or ATOM's old value goes to private space (R256). -/
def endFar (o : Op) (f : FarOp) (old : Word) (sat : Bool) (err : Option FaultCode) (s : State) : State :=
  let s := s.endOp o .s (err.map fun c => (c, BitVec.ofNat 64 o.bundle))
  match err, f.kind with
  | none, .atom _ wide _ nores _ _ off =>
    let s := if nores then s
      else s.putBytes (privKey o.task o.member off) (leBytes (if wide then 8 else 4) old.toNat)
    s.modOwner o.task o.member fun c => c.setSatf s.cyc (flagIf sat satRed)
  | _, _ => s

/-- A far operation reads its target. -/
def farReads (k : FarKind) : Bool :=
  match k with
  | .signal false _ _ => false
  | .signal true _ _ | .atom _ _ _ _ _ _ _ => true

/-- The die and ring offset that a far operation on this package's ring reaches, by either tag. -/
def farStop (f : FarOp) : Option (Nat × Nat) :=
  let a := f.addr.toNat
  match tagOf a, peerTarget a with
  | 0xA, _ => some (ringDie a, ringOff a)
  | 0xC, .peerRing d off => some (d, off)
  | _, _ => none

/-- The elements of a tile that a far operation wrote through a peer form of this package, noted at its owner
(01_engines R21).
DEDUCED (notes/assumptions/18). -/
def noteFar (f : FarOp) (s : State) : State :=
  if tagOf f.addr.toNat ≠ 0xC then s
  else
    match peerTileOf s (peerTarget f.addr.toNat) with
    | some (c, i, off) =>
      match (s.coreAt c).tiles.get? i with
      | some e => noteTileWrite s c i false (touchedElems e off (farBytes f.kind))
      | none => s
    | none => s

/-- Why a far operation on a place of this package fails, if it does (17_system R399, R402). -/
def farFault (s : State) (o : Op) (f : FarOp) (k : Nat) : Option FaultCode :=
  let n := farBytes f.kind
  if (farStop f).any (fun x => !ringAllowed s o.core x.1 x.2 n (farReads f.kind) true) then some .accessTable
  else if !coreAllowed s o.core k n (farReads f.kind) true then some .accessTable
  else if farReads f.kind then s.viewFault o.view k n
  else none

/-- Performs a far operation at a home in this package, in one step (04_memory_model R96); a write for whose copies the
pool has no room fails (14_revisions R339). -/
def performFar (o : Op) (f : FarOp) (k : Nat) (s : State) : State :=
  let n := farBytes f.kind
  let old := BitVec.ofNat 64 (leNat (s.viewBytes o.view k n))
  let done (sat : Bool) (s : State) := s.modOp o.id fun x =>
    { x with due := max x.due (s.cyc + 2), kind := .far { f with performed := true, old := old, sat := sat } }
  match farFault s o f k with
  | some code => endFar o f 0 false (some code) (s.viewAfterRead o.view k n)
  | none =>
    let s := if farReads f.kind then s.viewAfterRead o.view k n else s
    match farNew f.kind old with
    | (none, sat) => done sat s
    | (some v, sat) =>
      match copiesFail s o.view (granules4k k n) with
      | some code => endFar o f 0 false (some code) s
      | none => done sat (noteFar f (s.viewPut o.view k (leBytes n v.toNat)))

/-- A far operation goes to its home as a request. -/
def sendFar (o : Op) (f : FarOp) (p : Place) (s : State) : State :=
  sendRequest o.id
    (s.modOp o.id fun x => { x with issuedU := s.timeU, kind := .far { f with place := p, performed := true } })

/-- A far operation acts on its target where it is now: here, or as a request to a frozen or moved frame's controller
or to another package (12_migration R297, R299). -/
def actFar (o : Op) (f : FarOp) (s : State) : State :=
  match reachRun true s ⟨f.place, farBytes f.kind⟩ with
  | some ⟨.here k, n⟩ =>
    if arrivesLater s o true k n || granBusy s k n || requestsBefore s o.id k n then s else performFar o { f with place := .here k } k s
  | some ⟨.far acc size t, _⟩ => sendFar o f (.far acc size t) s
  | some ⟨.zero, _⟩ => s
  | none => endFar o f 0 false (some .remoteError) s

/-- A far operation whose turn has come: one that waited begins its access, which takes its space's time (R258); one that
has begun acts. -/
def startPerform (o : Op) (f : FarOp) (s : State) : State :=
  if f.performed then s
  else if f.begun then actFar o f s
  else if !farReady s o f then s
  else
    match f.place with
    | .here _ =>
      s.modOp o.id fun x => { x with due := s.cyc + (farSpace f).delay, queuedAt := s.nextOp, kind := .far { f with begun := true } }
    | .far _ _ _ | .zero => actFar o { f with begun := true } s

/-- An ATOM. -/
def isAtom (f : FarOp) : Bool :=
  match f.kind with
  | .atom _ _ _ _ _ _ _ => true
  | .signal _ _ _ => false

/-- ATOM_PERFORM (R256). -/
def execAtomPerform (op : Nat) (s : State) : Out :=
  match s.op? op with
  | some o =>
    match o.kind with
    | .far f => .next (if isAtom f then startPerform o f s else s)
    | _ => .next s
  | none => .next s

/-- SIGNAL_PERFORM (R257). -/
def execSignalPerform (op : Nat) (s : State) : Out :=
  match s.op? op with
  | some o =>
    match o.kind with
    | .far f => .next (if isAtom f then s else startPerform o f s)
    | _ => .next s
  | none => .next s

/-- The old value and the flag with which a far operation ends: its own where it performed here. -/
def farAnswer (f : FarOp) (old : Word) (sat : Bool) : Word × Bool :=
  match f.place with
  | .here _ => (f.old, f.sat)
  | .far _ _ _ | .zero => (old, sat)

/-- FAR_OPERATION_ACKNOWLEDGE (R258). -/
def execFarOperationAcknowledge (op : Nat) (old : Word) (sat : Bool) (err : Option FaultCode) (s : State) : Out :=
  let t := dropSent op s
  match s.op? op with
  | some o =>
    match o.kind with
    | .far f =>
      if f.performed then
        let r := farAnswer f old sat
        .next (endFar o f r.1 r.2 err t)
      else .next s
    | .part p =>
      .next (answerPart op p (match err with
        | some code => .error code
        | none => .data [] []) t)
    | _ => .next s
  | none => .next t

/-! ### PGREQ (11_translation R276) -/

/-- A residency request has an answer: a mark, or none. -/
def pgreqAnswer (s : State) (o : Op) (va len : Nat) (w refused : Bool) : Option (Option FaultCode) :=
  let ps := requestPages s o.asid va len w
  if refused || ps.any fun p => p.2.2 == .invalid then some (some .translation)
  else if ps.any fun p => p.2.2 == .missing then none
  else some none

/-- PGREQ_COMPLETE (R276). -/
def execPgreqComplete (op : Nat) (s : State) : Out :=
  match s.op? op with
  | some o =>
    match o.kind with
    | .pgreq va len w _ refused =>
      match pgreqAnswer s o va len w refused with
      | some err => .next (s.endOp o .s (err.map fun c => (c, BitVec.ofNat 64 o.bundle)))
      | none => .next s
    | _ => .next s
  | none => .next s

end Sys2Proof.Machine
end

