-- ==== Sys2Proof/Machine/Collective.lean ====
section
/-! DEFINITION. Collective graphs, work rings and chunk operations (15_fabric R354, R362–R374). -/

namespace Sys2Proof.Machine

open Sys2Proof

/-! ### The torus (R354) -/

/-- The length of a dimension. -/
def dimLen (s : State) (dim : Nat) : Nat :=
  match dim with
  | 0 => s.cfg.lx
  | 1 => s.cfg.ly
  | _ => s.cfg.lz

/-- The package's coordinate along a dimension. -/
def dimPos (s : State) (dim : Nat) : Nat :=
  match dim with
  | 0 => s.accid % s.cfg.lx
  | 1 => s.accid / s.cfg.lx % s.cfg.ly
  | _ => s.accid / (s.cfg.lx * s.cfg.ly)

/-- The + (0) or − (1) neighbour along a dimension. -/
def neighbour (s : State) (dim dir : Nat) : Nat :=
  let n := dimLen s dim
  let p := if dir = 0 then (dimPos s dim + 1) % n else (dimPos s dim + n - 1) % n
  let at_ (d : Nat) : Nat := if d = dim then p else dimPos s d
  at_ 0 + s.cfg.lx * (at_ 1 + s.cfg.ly * at_ 2)

/-! ### Graph images (R363–R367) -/

/-- The op of 32 bytes (Table 15-2). -/
def chunkOpOf (b : List Byte) : ChunkOp :=
  let w := fieldAt b 0 8
  let x := fieldAt b 8 8
  { op := abits w 60 4, fn := abits w 58 2, ty := abits w 56 2, dim := abits w 54 2, dir := abits w 53 1
    rel := abits w 52 1 == 1, rot := abits w 48 4, base := abits w 46 2, station := abits w 40 6, tag := abits w 32 8
    waits := abits w 24 8, succ0 := abits w 12 12, succ1 := abits w 0 12, moff := abits x 32 32, soff := abits x 0 21
    len := abits (fieldAt b 16 8) 0 21 }

/-- The bits of an op's words that are zero. -/
def zeroBitsOk (b : List Byte) : Bool :=
  abits (fieldAt b 8 8) 21 11 == 0 && fieldAt b 16 8 / 2 ^ 21 == 0 && fieldAt b 24 8 == 0

/-- LOAD and STORE, which access memory. -/
def ChunkOp.isMem (o : ChunkOp) : Bool := o.op == 0 || o.op == 5
/-- RECV, ADDS and FWD, which take a chunk. -/
def ChunkOp.takes (o : ChunkOp) : Bool := o.op == 2 || o.op == 3 || o.op == 4
/-- The bytes of an ADDS element. -/
def ChunkOp.elem (o : ChunkOp) : Nat := 2 ^ o.ty

/-- The reserved codes and zero fields of an op (R366). -/
def codesOk (o : ChunkOp) : Bool :=
  decide (o.op ≤ 5) && (if o.op = 3 then o.ty != 3 else o.fn == 0 && o.ty == 0) && o.dim != 3 &&
    (if o.isMem then o.dir == 0 else o.base == 0)

/-- The largest index by which an op's offsets are rotated. -/
def maxIdx (s : State) (o : ChunkOp) : Nat := if o.rel then dimLen s o.dim - 1 else 0

/-- The staging bytes up to which an op reaches (R367). -/
def stageEnd (s : State) (o : ChunkOp) : Nat := o.soff + maxIdx s o * o.len + o.len

/-- The successor fields, over all ops, that name an op. -/
def namedBy (ops : List ChunkOp) (i : Nat) : Nat :=
  ops.countP (fun o => o.succ0 == i) + ops.countP fun o => o.succ1 == i

/-- One op of an image is valid among the others (R366). -/
def chunkOpOk (s : State) (ops : List ChunkOp) (i : Nat) (o : ChunkOp) : Bool :=
  let succOk (k : Nat) : Bool := k == 0xFFF || decide (k < ops.length)
  codesOk o && succOk o.succ0 && succOk o.succ1 && o.waits == namedBy ops i && (o.op != 0 || o.waits == 0) &&
    (o.op != 5 || (o.succ0 == 0xFFF && o.succ1 == 0xFFF)) && (o.isMem || decide (2 ≤ dimLen s o.dim)) &&
    decide (o.rot < dimLen s o.dim) && decide (stageEnd s o ≤ 2 ^ 21) && decide (1 ≤ o.len) &&
    (o.op != 3 || o.len % o.elem == 0)

/-- The staging that a graph reserves at each station that its ops name (R367). -/
def stageOf (s : State) (ops : List ChunkOp) : List (Nat × Nat) :=
  ((ops.map ChunkOp.station).eraseDups).map fun n =>
    (n, ((ops.filter fun o => o.station == n).map (stageEnd s)).foldl max 0)

/-- The staging reserved at a station for slots other than one (R367). -/
def stagedAt (s : State) (asid slot station : Nat) : Nat :=
  (s.ctxs.map fun (a, c) => (c.slots.map fun (k, g) =>
    if a = asid ∧ k = slot then 0 else ((g.stage.filter fun x => x.1 == station).map Prod.snd).sum).sum).sum

/-- The graph of an image's bytes, none when it is not valid or its staging does not fit. -/
def parseGraph (s : State) (asid slot : Nat) (header body : List Byte) : Option GraphSlot :=
  let n := fieldAt header 6 2
  let raw := (List.range n).map fun k => entryAt body 0 32 k
  let ops := raw.map chunkOpOf
  let stage := stageOf s ops
  if fieldAt header 0 4 = 0x43475246 ∧ fieldAt header 4 2 = 1 ∧ 1 ≤ n ∧ n ≤ 1024 ∧
      (header.drop 8).all (· == 0) = true ∧ raw.all zeroBitsOk = true ∧
      (ops.zipIdx).all (fun (o, i) => chunkOpOk s ops i o) = true ∧
      stage.all (fun (k, m) => decide (stagedAt s asid slot k + m ≤ 2 ^ 21)) = true then
    some ⟨ops, stage, 0⟩
  else none

/-! ### CGLD (R368) -/

/-- Some work ring of a context has a current entry that names a slot. -/
def slotInUse (s : State) (asid slot : Nat) : Bool :=
  match s.context? asid with
  | some c => c.rings.vals.any fun r => (r.current.map RingEntry.slot) == some slot
  | none => false

/-- Changes the slots of a context. -/
def modSlots (asid : Nat) (f : FMap GraphSlot → FMap GraphSlot) (s : State) : State :=
  s.modContext asid fun c => { c with slots := f c.slots }

/-- The runs of the part of an image after its header, for the issuing core. -/
def bodyRuns (s : State) (o : Op) (va n : Nat) : Except FaultCode (List Run) :=
  masterRuns s o.core o.asid (va + 64) (32 * n) true false

/-- What reading a part of an image comes to: packets to ask or await, a failure with its PAGE, or the bytes with the
first non-resident page read (10_copy Table 10-1). -/
inductive GraphRead
  | asks (row : Nat) (ps : List (Place × RemoteAct))
  | failed (code : FaultCode) (page : Nat)
  | bytes (data : List Byte) (res : Option Nat)

/-- The first run of some that satisfies a test, with its VA. -/
def firstRun (f : Run → Bool) : Nat → List Run → Option Nat
  | _, [] => none
  | va, r :: rs => if f r then some va else firstRun f (va + r.len) rs

/-- Reads a part of an image for a CGLD: an error is the failing page's, a remote home's has none. -/
def readGraph (s : State) (o : Op) (row va : Nat) (rs : List Run) : GraphRead :=
  match reach false s rs with
  | none => .failed .remoteError 0
  | some rs =>
    let bad (r : Run) : Option FaultCode := if runsAllowed s o.core true false [r] then runsFault s o.view [r] else some .accessTable
    match firstRun (fun r => (bad r).isSome) va rs, rs.findSome? bad with
    | some v, some code => .failed code (vpnOf s o.core o.asid v)
    | _, _ =>
      let f := fetchRuns s o.view (.op o.id) row rs
      if (hereRuns rs).any (fun (k, n) => granBusy s k n || requestsBefore s o.id k n) then .asks row []
      else if f.waits then .asks row f.asks
      else
        match f.fail with
        | some code => .failed code 0
        | none =>
          if poisoned f.data then .failed .poison (vpnOf s o.core o.asid (va + (f.data.findIdx? Prod.snd).getD 0))
          else .bytes (f.data.map Prod.fst) ((firstRun (fun r => r.place == .zero) va rs).map (vpnOf s o.core o.asid))

/-- The page of a body that the issuing core may not read. -/
def bodyPage (s : State) (o : Op) (va n : Nat) : Nat :=
  match masterRuns s o.core o.asid (va + 64) 1 true false with
  | .error _ => vpnOf s o.core o.asid (va + 64)
  | .ok _ => vpnOf s o.core o.asid (va + 63 + 32 * n)

/-- How a load of a graph slot goes on: it waits for bytes, or it ends with a mark, or with a graph; and what the first
non-resident page was. -/
inductive CgldStep
  | asks (row : Nat) (ps : List (Place × RemoteAct))
  | ends (res : Option Nat) (r : Except (FaultCode × Nat) GraphSlot)

/-- The body of an image after its header. -/
def loadBody (s : State) (o : Op) (slot va : Nat) (h : List Byte) (res : Option Nat) : CgldStep :=
  let n := min 1024 (fieldAt h 6 2)
  match bodyRuns s o va n with
  | .error code => .ends res (.error (code, bodyPage s o va n))
  | .ok rs =>
    match readGraph s o 1 (va + 64) rs with
    | .asks k ps => .asks k ps
    | .failed code page => .ends res (.error (code, page))
    | .bytes b r =>
      match parseGraph s o.asid slot h b with
      | some g => .ends (res.or r) (.ok g)
      | none => .ends (res.or r) (.error (.illegalOperand, 0))

/-- What a load of a graph slot reads. -/
def loadGraph (s : State) (o : Op) (slot va : Nat) (header : List Run) : CgldStep :=
  match readGraph s o 0 va header with
  | .asks k ps => .asks k ps
  | .failed code page => .ends none (.error (code, page))
  | .bytes h res => loadBody s o slot va h res

/-- A CGLD reads its image, waits for the bytes of other packages, and completes. -/
def completeCgld (o : Op) (ch : Nat) (clr : Bool) (slot va : Nat) (places : List (Nat × Nat × Place)) (s : State) :
    State :=
  let s' := endParts (.op o.id) s
  if slotInUse s o.asid slot then endChan o ch false none (some (.illegalOperand, 0)) s'
  else if clr then endChan o ch false none none (modSlots o.asid (fun m => m.erase slot) s')
  else
    match loadGraph s o slot va (places.map fun (_, n, p) => ⟨p, n⟩) with
    | .asks k ps => startParts o (.op o.id) k ps s
    | .ends res (.error e) => endChan o ch false res (some e) s'
    | .ends res (.ok g) => endChan o ch false res none (modSlots o.asid (fun m => m.set slot g) s')

/-- An earlier store of the core has not performed (R81). -/
def storesBefore (s : State) (o : Op) : Bool :=
  s.ops.any fun p => p.core == o.core && decide (p.id < o.id) &&
    match p.kind with
    | .store _ => true
    | _ => false

/-- A CGLD may read: what it waits for has come, the earlier operations of its channel have begun (10_copy R242), the
core's earlier stores and the requests before it in the die's queues have performed (R81, R82), no granule of it is
being copied or merged (14_revisions R339, R343), and no earlier request for a page that has come here is unanswered
(12_migration R300). -/
def cgldReady (s : State) (o : Op) (ch : Nat) (clr : Bool) (rs : List Run) : Bool :=
  !clientWaits s (.op o.id) && !behindChannel s o ch &&
    (clr || !(storesBefore s o || engineBehind s o.core false (hereRuns rs) ||
      (hereRuns rs).any fun (k, n) => granBusy s k n || requestsBefore s o.id k n))

/-- CGLD_COMPLETE (R368).
DEDUCED (notes/assumptions/13). -/
def execCgldComplete (op : Nat) (_ : Unit) (s : State) : Out :=
  .next (match s.op? op with
    | some o =>
      match o.kind with
      | .cgld ch clr slot va places =>
        if cgldReady s o ch clr (places.map fun (_, n, p) => ⟨p, n⟩) then completeCgld o ch clr slot va places s else s
      | _ => s
    | none => s)

/-! ### Rings (R369, R370) -/

/-- A work ring of a context. -/
def ringOf (s : State) (asid ring : Nat) : Option WorkRing := (s.context? asid).bind fun c => c.rings.get? ring

/-- Changes a work ring. -/
def modRing (asid ring : Nat) (f : WorkRing → WorkRing) (s : State) : State :=
  s.modContext asid fun c =>
    match c.rings.get? ring with
    | some r => { c with rings := c.rings.set ring (f r) }
    | none => c

/-- The graph slot of a context. -/
def slotOf (s : State) (asid slot : Nat) : Option GraphSlot := (s.context? asid).bind fun c => c.slots.get? slot

/-- The device writes a word of a ring's control block. -/
def putControl (asid : Nat) (r : WorkRing) (off v : Nat) (s : State) : State :=
  (writeVa s pairMaster asid (r.control + off) (leBytes 8 v)).getD s

/-- A word of a ring's control block. -/
def controlWord (s : State) (asid : Nat) (r : WorkRing) (off : Nat) : Option Nat :=
  (readVa s pairMaster asid (r.control + off) 8).map leNat

/-- The ring whose run of a slot is in progress. -/
def runOf (s : State) (asid slot : Nat) : Option (Nat × RingEntry × RunState) :=
  (s.context? asid).bind fun c => c.rings.findSome? fun (k, r) =>
    match r.current with
    | some e =>
      match e.run with
      | some x => if e.slot = slot then some (k, e, x) else none
      | none => none
    | none => none

/-- Changes the run in progress of a ring. -/
def modRun (asid ring : Nat) (f : RunState → RunState) (s : State) : State :=
  modRing asid ring (fun r => { r with current := r.current.map fun e => { e with run := e.run.map f } }) s

/-! ### Early chunks and tokens (R357, R373) -/

/-- The chunk of a run that an op takes (R373): from its neighbour, sent the other way, with its tag. -/
def fitsOp (asid slot seq : Nat) (o : ChunkOp) (c : Chunk) : Bool :=
  c.asid == asid && c.slot == slot && c.seq == seq && c.station == o.station && c.tag == o.tag && c.dim == o.dim &&
    c.dir == 1 - o.dir

/-- A chunk of the run in progress whose op has a counter of zero is not early: it is consumed (R373). -/
def chunkIsReady (s : State) (c : Chunk) : Bool :=
  match slotOf s c.asid c.slot, runOf s c.asid c.slot with
  | some g, some (_, _, r) => (g.ops.zipIdx).any fun (o, i) =>
      o.takes && r.counters.getD i 0 == 0 && !decide (i ∈ r.doneOps) && fitsOp c.asid c.slot r.seq o c
  | _, _ => false

/-- The early bytes that a station holds from one neighbour direction. -/
def earlyBytes (s : State) (x : Station) (dim dir : Nat) : Nat :=
  ((x.early.filter fun e => e.chunk.dim == dim && e.chunk.dir == dir && !chunkIsReady s e.chunk).map fun e =>
    e.chunk.data.length).sum

/-- The early area of a neighbour is full: a chunk of sending direction d comes from the neighbour on the other
side. -/
def earlyFull (s : State) (station src : Nat) : Bool :=
  [0, 1, 2].any fun dim => [0, 1].any fun dir =>
    neighbour s dim (1 - dir) == src && decide (65536 ≤ earlyBytes s (s.stationAt station) dim dir)

/-- Returns the tokens of CHK flits that a station need no longer withhold. -/
def returnTokens (station : Nat) (s : State) : State :=
  let go := (s.stationAt station).owed.filter fun x => x.2.1 == .chk && !earlyFull s station x.1
  go.foldl (fun s x => s.send x.1 (.creditToken station s.accid x.2.1 x.2.2))
    (s.modStation station fun x => { x with owed := x.owed.filter fun y => !decide (y ∈ go) })

/-- Drops the early chunks that satisfy a test, at every station. -/
def dropEarly (f : Chunk → Bool) (s : State) : State :=
  let hit := (s.stations.filter fun (_, x) => x.early.any fun e => f e.chunk).map Prod.fst
  hit.foldl (fun s n =>
    returnTokens n (s.modStation n fun x => { x with early := x.early.filter fun e => !f e.chunk })) s

/-- The early chunk that an op takes. -/
def chunkFor (s : State) (asid slot seq : Nat) (o : ChunkOp) : Option EarlyChunk :=
  (s.stationAt o.station).early.find? fun e => fitsOp asid slot seq o e.chunk

/-- An op of a run may run (R364). -/
def opReady (s : State) (asid slot : Nat) (r : RunState) (i : Nat) (o : ChunkOp) : Bool :=
  !decide (i ∈ r.doneOps) && !decide (i ∈ r.running) && r.counters.getD i 0 == 0 &&
    (!o.takes || (chunkFor s asid slot r.seq o).isSome)

/-- Notes the ops of a run that have become runnable, at their stations, in order of their index (R362). -/
def enlist (asid slot : Nat) (s : State) : State :=
  match slotOf s asid slot, runOf s asid slot with
  | some g, some (_, _, r) =>
    (g.ops.zipIdx).foldl (fun s (o, i) =>
      if opReady s asid slot r i o && !decide ((asid, slot, i) ∈ (s.stationAt o.station).queue) then
        s.modStation o.station fun x => { x with queue := x.queue ++ [(asid, slot, i)] }
      else s) s
  | _, _ => s

/-! ### Halts (R374) -/

/-- The operations and places in a station's order of a slot's run. -/
def dropRun (asid slot : Nat) (s : State) : State :=
  { s with
    ops := s.ops.filter fun o =>
      match o.kind with
      | .chunk a k _ => !(a == asid && k == slot)
      | _ => true
    stations := s.stations.map fun (n, x) =>
      (n, { x with queue := x.queue.filter fun (a, k, _) => !(a == asid && k == slot) }) }

/-- STATUS of a halt: the code and HALT; SAT stays as it stands (R369, R371). -/
def haltStatus (old code : Nat) : Nat := code + 2 ^ 8 + 2 ^ 9 * abits old 9 1

/-- The run of a ring's current entry is abandoned, with the early chunks of its SEQ. -/
def abandonRun (asid ring : Nat) (s : State) : State :=
  match ringOf s asid ring with
  | none => s
  | some r =>
    match r.current with
    | none => s
    | some e =>
      match e.run with
      | none => s
      | some x =>
        dropEarly (fun c => c.asid == asid && c.slot == e.slot && c.seq == x.seq)
          (modRing asid ring (fun r => { r with current := r.current.map fun e => { e with run := none } })
            (dropRun asid e.slot s))

/-- A ring halts with a code: firmware reports it (16_front_end R388). -/
def haltRing (asid ring : Nat) (code : FaultCode) (s : State) : State :=
  match ringOf s asid ring with
  | none => s
  | some r =>
    let status := haltStatus ((controlWord s asid r 0x18).getD 0) (faultNumber code)
    let s := putControl asid r 0x18 status (abandonRun asid ring (s.noteErr (some code)))
    postService { kind := 4, code := faultNumber code, asid := asid, task := (r.current.map RingEntry.task).getD 0
                  address := BitVec.ofNat 64 r.control, length := ring, parent := 0, flags := 0, bundle := 0 }
      (modRing asid ring (fun r => { r with halted := true }) s)

/-! ### WORK_RING_POLL (R370) -/

/-- The entry of 64 bytes (Table 15-5), none for a reserved field or REPEAT 0. -/
def parseRingEntry (b : List Byte) : Option RingEntry :=
  if fieldAt b 0 1 / 32 = 0 ∧ fieldAt b 1 1 = 0 ∧ 1 ≤ fieldAt b 2 2 then
    some { slot := fieldAt b 0 1, runs := fieldAt b 2 2, j := 0, task := fieldAt b 4 4
           bases := (List.range 4).map fun k => fieldAt b (8 + 8 * k) 8
           stride := fieldAt b 0x28 8, trigAddr := fieldAt b 0x30 8, trigVal := fieldAt b 0x38 8, run := none }
  else none

/-- An entry without meaning, current when it halts its ring. -/
def badEntry (b : List Byte) : RingEntry :=
  { slot := fieldAt b 0 1 % 32, runs := fieldAt b 2 2, j := 0, task := fieldAt b 4 4, bases := [], stride := 0
    trigAddr := 0, trigVal := 0, run := none }

/-- Makes the entry at TAIL current, or halts on it. -/
def takeEntry (asid ring : Nat) (r : WorkRing) (s : State) : State :=
  match readVa s pairMaster asid (r.base + 64 * (r.tail % r.size)) 64 with
  | none => s
  | some b =>
    match parseRingEntry b with
    | some e =>
      let t := modRing asid ring (fun r => { r with current := some e }) s
      if (slotOf s asid e.slot).isSome then t else haltRing asid ring .illegalOperand t
    | none => haltRing asid ring .illegalOperand (modRing asid ring (fun r => { r with current := some (badEntry b) }) s)

/-- The period of a work ring's poll: 256 ns (R370). -/
def pollU : Nat := 256 * (microU / 1000)

/-- WORK_RING_POLL (R370). -/
def execWorkRingPoll (asid ring : Nat) (s : State) : Out :=
  .next (match ringOf s asid ring with
    | none => s
    | some r =>
      if r.halted then s
      else
        let s := modRing asid ring (fun r => { r with lastPollU := r.lastPollU + (s.timeU - r.lastPollU) / pollU * pollU }) s
        match controlWord s asid r 0 with
        | none => s
        | some head =>
          if head < r.tail ∨ r.size < head - r.tail then haltRing asid ring .illegalOperand s
          else if r.tail < head ∧ r.current.isNone = true then takeEntry asid ring r s
          else s)

/-! ### RUN_ARM (R370, R372) -/

/-- The trigger word, none where the device cannot read it. -/
def triggerWord (s : State) (asid addr : Nat) : Option Nat :=
  if addr % 8 ≠ 0 ∨ !spaceOk addr 8 then none
  else
    match tagOf addr with
    | 0x0 => (readVa s pairMaster asid (vaOf addr) 8).map leNat
    | 0xA =>
      if ringAllowed s pairMaster (ringDie addr) (ringOff addr) 8 true false then
        some (leNat (s.bytes (ringKey (ringDie addr) (ringOff addr)) 8))
      else none
    | _ => none

/-- The entry's trigger has been reached for its next run. -/
def triggered (s : State) (asid : Nat) (e : RingEntry) : Bool :=
  e.trigAddr == 0 || ((triggerWord s asid e.trigAddr).map fun v => decide (e.trigVal + e.j ≤ v)).getD false

/-- The index by which an op's offsets are rotated here (R364). -/
def opIdx (s : State) (o : ChunkOp) : Nat := if o.rel then (dimPos s o.dim + o.rot) % dimLen s o.dim else 0

/-- The address that a LOAD or STORE accesses. -/
def opAddr (s : State) (e : RingEntry) (o : ChunkOp) : Nat := (e.bases.getD o.base 0 + o.moff + opIdx s o * o.len) % 2 ^ 64

/-- The master identifier of a station's ring sequencer (17_system Table 17-4).
DEDUCED (notes/assumptions/40). -/
def stationMaster (n : Nat) : Nat := 0x100 + n

/-- The bytes that a LOAD or STORE accesses, or why it may not (R372). -/
def opRuns (s : State) (asid : Nat) (e : RingEntry) (o : ChunkOp) : Except FaultCode (List Run) :=
  let a := opAddr s e o
  let rd := o.op == 0
  if !spaceOk a o.len then .error .space
  else
    match tagOf a with
    | 0x0 =>
      match masterRuns s (stationMaster o.station) asid (vaOf a) o.len rd (!rd) with
      | .ok rs => if allHere rs then .ok rs else .error .translation
      | .error .nonresWrite => .error .translation
      | .error code => .error code
    | 0xA =>
      if ringAllowed s (stationMaster o.station) (ringDie a) (ringOff a) o.len rd (!rd) then
        .ok [⟨.here (ringKey (ringDie a) (ringOff a)), o.len⟩]
      else .error .accessTable
    | _ => .error .space

/-- The translations of a run, or the first reason against it. -/
def runBases (s : State) (asid : Nat) (e : RingEntry) : List (ChunkOp × Nat) → Except FaultCode (List (Nat × List Run))
  | [] => .ok []
  | (o, i) :: os =>
    if !o.isMem then runBases s asid e os
    else
      match opRuns s asid e o with
      | .error code => .error code
      | .ok rs => (runBases s asid e os).map fun m => (i, rs) :: m

/-- The VA ranges whose translations a run holds (R372). -/
def runSpans (s : State) (e : RingEntry) (ops : List ChunkOp) : List (Nat × Nat) :=
  ops.filterMap fun o =>
    let a := opAddr s e o
    if o.isMem && tagOf a == 0x0 then some (vaOf a, o.len) else none

/-- A run of a slot is armed (R370). -/
def armRun (asid ring : Nat) (e : RingEntry) (g : GraphSlot) (s : State) : State :=
  let seq := (g.seq + 1) % 2 ^ 16
  let s := modSlots asid (fun m => m.set e.slot { g with seq := seq }) s
  match runBases s asid e g.ops.zipIdx with
  | .error code =>
    dropEarly (fun c => c.asid == asid && c.slot == e.slot && c.seq == seq) (haltRing asid ring code s)
  | .ok bases =>
    let x : RunState :=
      { bases := bases, counters := g.ops.map ChunkOp.waits, doneOps := [], running := [], sat := false
        armedU := s.timeU, seq := seq, spans := runSpans s e g.ops, armedAt := s.nextOp }
    enlist asid e.slot
      (modRing asid ring (fun r => { r with current := r.current.map fun e => { e with run := some x } }) s)

/-- The entry and graph of a ring whose next run may be armed. -/
def armable (s : State) (asid ring : Nat) : Option (RingEntry × GraphSlot) :=
  match ringOf s asid ring with
  | none => none
  | some r =>
    match r.current with
    | none => none
    | some e =>
      if !r.halted && e.run.isNone && decide (e.j < e.runs) && (runOf s asid e.slot).isNone && triggered s asid e then
        (slotOf s asid e.slot).map fun g => (e, g)
      else none

/-- RUN_ARM (R370). -/
def execRunArm (asid ring : Nat) (s : State) : Out :=
  .next (match armable s asid ring with
    | some (e, g) => armRun asid ring e g s
    | none => s)

/-! ### Chunk operations (R364) -/

/-- An op of a run in progress: its ring, entry, run and operation. -/
def runOp (s : State) (asid slot i : Nat) : Option (Nat × RunState × ChunkOp) :=
  match runOf s asid slot, slotOf s asid slot with
  | some (k, _, r), some g => (g.ops[i]?).map fun o => (k, r, o)
  | _, _ => none

/-- A station's sequencer runs an op. -/
def sequencerBusy (s : State) (station : Nat) : Bool :=
  s.ops.any fun o =>
    match o.kind with
    | .chunk a k i => ((runOp s a k i).map fun x => x.2.2.station == station).getD false
    | _ => false

/-- A listed op may still run: the chunk that it takes may have gone to another. -/
def isRunnable (s : State) (k : Nat × Nat × Nat) : Bool :=
  match runOp s k.1 k.2.1 k.2.2 with
  | some (_, r, o) => opReady s k.1 k.2.1 r k.2.2 o
  | none => false

/-- The op that a station's sequencer runs next (R362). -/
def nextOpAt (s : State) (station : Nat) : Option (Nat × Nat × Nat) := (s.stationAt station).queue.find? (isRunnable s)

/-- The nominal cycles of an op: the link's rate of 25 GB/s, and 100 ns for a memory access (R362, R411). -/
def opCycles (s : State) (o : ChunkOp) : Nat := o.len * s.sys.clock / 250 + if o.isMem then 10 * s.sys.clock else 0

/-- The staging address of an op's bytes. -/
def opStage (s : State) (asid slot : Nat) (o : ChunkOp) : Nat := seqKey asid slot o.station (o.soff + opIdx s o * o.len)

/-- Sends a chunk toward a neighbour from an op. -/
def sendChunk (id asid slot : Nat) (r : RunState) (o : ChunkOp) (dir tag : Nat) (data : List Byte) (bad : List Nat)
    (s : State) : State :=
  s.sendOn o.station .chk (flitsOf data.length) (some id) (neighbour s o.dim dir)
    (.chunkReceive { station := o.station, asid := asid, slot := slot, seq := r.seq, tag := tag, dim := o.dim, dir := dir
                     data := data, bad := bad })

/-- What an op sends when it starts: an error in the staging that it reads leaves the station as poison (17_system R402). -/
def startSend (id asid slot : Nat) (r : RunState) (o : ChunkOp) (s : State) : State :=
  match o.op with
  | 1 =>
    let key := opStage s asid slot o
    { sendChunk id asid slot r o o.dir o.tag (s.bytes key o.len) (badOffsets s key o.len) s with
      sys := afterRead s.sys key o.len }
  | 4 =>
    match chunkFor s asid slot r.seq o with
    | some e => sendChunk id asid slot r o (1 - o.dir) ((o.tag + 1) % 256) e.chunk.data e.chunk.bad s
    | none => s
  | _ => s

/-- Starts an op, or halts on a chunk of the wrong length. -/
def startChunk (asid slot i ring : Nat) (r : RunState) (o : ChunkOp) (s : State) : State :=
  let wrong := o.takes && ((chunkFor s asid slot r.seq o).map fun e => e.chunk.data.length != o.len).getD false
  if wrong then haltRing asid ring .remoteError s
  else
    let id := s.nextOp
    let s := s.startDieOp (o.station / 16) asid (opCycles s o) (.chunk asid slot i)
    let s := modRun asid ring (fun r => { r with running := i :: r.running })
      (s.modStation o.station fun x => { x with queue := x.queue.filter fun k => isRunnable s k && k != (asid, slot, i) })
    startSend id asid slot r o s

/-- CHUNK_OP_RUN (R364): the first runnable op in a station's order, when its sequencer is free. -/
def execChunkOpRun (asid slot i : Nat) (s : State) : Out :=
  .next (match runOp s asid slot i with
    | some (ring, r, o) =>
      if nextOpAt s o.station = some (asid, slot, i) ∧ sequencerBusy s o.station = false then
        startChunk asid slot i ring r o s
      else s
    | none => s)

/-- One element of an ADDS, and whether it saturated. -/
def addsElem (o : ChunkOp) (x y : Nat) : Nat × Bool :=
  let w := 8 * o.elem
  let a := signedOf w x
  let b := signedOf w y
  match o.fn with
  | 0 =>
    let c := clamp (-(2 ^ (w - 1))) (2 ^ (w - 1) - 1) (a + b)
    (codeOf w c.1, c.2)
  | 1 => (codeOf w (a + b), false)
  | 2 => (codeOf w (max a b), false)
  | _ => (codeOf w (min a b), false)

/-- The elements of an ADDS. -/
def addsAll (o : ChunkOp) : Nat → List Byte → List Byte → List (Nat × Bool)
  | 0, _, _ => []
  | n + 1, x, y =>
    addsElem o (leNat (x.take o.elem)) (leNat (y.take o.elem)) :: addsAll o n (x.drop o.elem) (y.drop o.elem)

/-- Writes staging bytes, with the poison that travels with them. -/
def putStage (key : Nat) (d : RowData) (s : State) : State := spreadPoison 0 key d (s.putBytes key (d.map Prod.fst))

/-- The end of an op: its successors' counters fall. -/
def endChunk (id asid slot i ring : Nat) (o : ChunkOp) (sat : Bool) (s : State) : State :=
  let fall (n : Nat) : Nat := (if o.succ0 = n then 1 else 0) + if o.succ1 = n then 1 else 0
  enlist asid slot (modRun asid ring (fun r =>
    { r with
      doneOps := i :: r.doneOps, running := r.running.filter (· != i), sat := r.sat || sat
      counters := (r.counters.zipIdx).map fun (c, n) => c - fall n }) (s.dropOp id))

/-- Consumes the chunk that an op took. -/
def eatChunk (asid slot : Nat) (r : RunState) (o : ChunkOp) (s : State) : State :=
  match chunkFor s asid slot r.seq o with
  | some e => returnTokens o.station (s.modStation o.station fun x => { x with early := x.early.erase e })
  | none => s

/-- Why a sequencer cannot read or write its memory, if it cannot: a denial by now (17_system R399, R400), or an error of
the storage or code that its reading finds, or its writing in the bytes of a granule that it keeps (R374; 17_system R401,
R402). -/
def chunkFault (s : State) (station : Nat) (rd : Bool) (rs : List Run) : Option FaultCode :=
  if !((hereRuns rs).all fun (k, n) => keyAllowed s (stationMaster station) k n rd (!rd)) then some .accessTable
  else if rd then hardFault s 0 rs
  else
    (hereRuns rs).findSome? fun (k, n) => (granules64 k n).findSome? fun g =>
      if k ≤ g * 64 ∧ g * 64 + 64 ≤ k + n then none
      else
        match granuleFault s.sys g with
        | some .eccUe => some .eccUe
        | _ => none

/-- A LOAD reads its memory, waits for what a page in transit still owes it (12_migration R306), and completes. -/
def completeLoad (p : Op) (asid slot i ring : Nat) (r : RunState) (o : ChunkOp) (s : State) : State :=
  let rs := (reach false s (FMap.getD r.bases i [])).getD []
  match chunkFault s o.station true rs with
  | some code => haltRing asid ring code (readRuns s 0 rs)
  | none =>
    let f := fetchRuns s 0 (.op p.id) 0 rs
    if f.waits then startParts p (.op p.id) 0 f.asks s
    else
      match f.fail with
      | some code => haltRing asid ring code s
      | none => endChunk p.id asid slot i ring o false (putStage (opStage s asid slot o) f.data (endParts (.op p.id) (readRuns s 0 rs)))

/-- A STORE's writes have been made: it completes when those that a page in transit took are acknowledged. -/
def awaitStore (p : Op) (asid slot i ring : Nat) (o : ChunkOp) (s : State) : State :=
  match stepAnswers s (.op p.id) 1 with
  | (true, _) => s
  | (false, some code) => haltRing asid ring code s
  | (false, none) => endChunk p.id asid slot i ring o false (endParts (.op p.id) s)

/-- A STORE writes its memory and completes (12_migration R306). -/
def completeStore (p : Op) (asid slot i ring : Nat) (r : RunState) (o : ChunkOp) (s : State) : State :=
  let rs := (reach true s (FMap.getD r.bases i [])).getD []
  let key := opStage s asid slot o
  let src : List Run := [⟨.here key, o.len⟩]
  if s.ops.any (isPartOf (.op p.id) 1) then awaitStore p asid slot i ring o s
  else
    match (hardFault s 0 src).or (chunkFault s o.station false rs), copiesFail s 0 (storeGranules rs) with
    | some code, _ => haltRing asid ring code (readRuns s 0 (src ++ rs))
    | none, some code => haltRing asid ring code s
    | none, none => awaitStore p asid slot i ring o
        (storeRuns p (.op p.id) 1 rs ((s.bytes key o.len).zip (runPoison s 0 src)) s)

/-- An ADDS completes: poison or an error in either operand halts its ring, since it takes their values (17_system R402).
DESIGN CHOICE (notes/assumptions/82). -/
def completeAdds (p : Op) (asid slot i ring : Nat) (r : RunState) (o : ChunkOp) (s : State) : State :=
  match chunkFor s asid slot r.seq o with
  | none => s
  | some e =>
    let key := opStage s asid slot o
    let xs := addsAll o (o.len / o.elem) (s.bytes key o.len) e.chunk.data
    match (readFault s.sys key o.len).or (if e.chunk.bad = [] then none else some .poison) with
    | some code => haltRing asid ring code { s with sys := afterRead s.sys key o.len }
    | none => endChunk p.id asid slot i ring o (xs.any Prod.snd)
      (eatChunk asid slot r o (s.putBytes key ((xs.map fun x => leBytes o.elem x.1).flatten)))

/-- A RECV or FWD completes. -/
def completeRecv (p : Op) (asid slot i ring : Nat) (r : RunState) (o : ChunkOp) (s : State) : State :=
  match chunkFor s asid slot r.seq o with
  | none => s
  | some e => endChunk p.id asid slot i ring o false
      (eatChunk asid slot r o (putStage (opStage s asid slot o) (withPoison e.chunk.data e.chunk.bad) s))

/-- Flits of an op wait for credit, or for a link that has failed (R361): it completes when the last has left. -/
def flitsHeld (s : State) (id station : Nat) : Bool := (s.stationAt station).held.any fun h => h.op == some id

/-- A store of the context made before a run was armed has not performed to some bytes: the run's accesses to the named
buffers, and its completion, come after it (04_memory_model R100). -/
def participantBefore (s : State) (asid bound : Nat) (rs : List Run) : Bool :=
  s.ops.any fun p => p.asid == asid && decide (p.id < bound) &&
    match p.kind with
    | .store w =>
      match w.place with
      | .here k => runsMeet rs k w.len
      | .far _ _ _ | .zero => false
    | _ => false

/-- A LOAD or STORE waits for copies of its granules that are under way, for answers, for the requests before it in its
die's queues (04_memory_model R82) and for earlier stores of its context to its bytes (R100). -/
def memBusy (s : State) (p : Op) (r : RunState) (i : Nat) (o : ChunkOp) : Bool :=
  let rs := FMap.getD r.bases i []
  clientWaits s (.op p.id) ||
    (o.isMem && (((hereRuns rs).any fun (k, n) => granBusy s k n || requestsBefore s p.id k n) ||
      engineBehind s p.core (o.op == 5) (hereRuns rs) || participantBefore s p.asid r.armedAt rs))

/-- A chunk op completes. -/
def completeChunk (p : Op) (asid slot i ring : Nat) (r : RunState) (o : ChunkOp) (s : State) : State :=
  match o.op with
  | 0 => completeLoad p asid slot i ring r o s
  | 1 => endChunk p.id asid slot i ring o false s
  | 3 => completeAdds p asid slot i ring r o s
  | 5 => completeStore p asid slot i ring r o s
  | _ => completeRecv p asid slot i ring r o s

/-- CHUNK_OP_COMPLETE (R364). -/
def execChunkOpComplete (op : Nat) (_ : Unit) (s : State) : Out :=
  .next (match s.op? op with
    | some p =>
      match p.kind with
      | .chunk asid slot i =>
        match runOp s asid slot i with
        | some (ring, r, o) =>
          if flitsHeld s op o.station || memBusy s p r i o then s else completeChunk p asid slot i ring r o s
        | none => s.dropOp op
      | _ => s
    | none => s)

/-! ### CHUNK_RECEIVE, RUN_COMPLETE and the timeouts (R371, R373, R374) -/

/-- A chunk's run has completed or halted here (R373): its SEQ is the slot's or an earlier one, and that run is not
in progress.
DEDUCED (notes/assumptions/40). -/
def staleChunk (s : State) (c : Chunk) : Bool :=
  match s.context? c.asid with
  | none => true
  | some x =>
    match x.slots.get? c.slot with
    | none => false
    | some g =>
      let ahead := (c.seq + 2 ^ 16 - g.seq) % 2 ^ 16
      if ahead = 0 then ((runOf s c.asid c.slot).map fun y => y.2.2.seq != c.seq).getD true
      else decide (2 ^ 15 ≤ ahead)

/-- CHUNK_RECEIVE (R373). -/
def execChunkReceive (c : Chunk) (s : State) : Out :=
  .next (if staleChunk s c then s
    else
      enlist c.asid c.slot (s.modStation c.station fun x => { x with early := x.early ++ [⟨c, s.timeU⟩] }))

/-- A run completes (R371): STATUS.SAT and SATF.RED, what is left of its chunks is stale (R373), RUNS, and the bases step; the last run of an entry moves TAIL. -/
def completeRun (asid ring : Nat) (w : WorkRing) (e : RingEntry) (r : RunState) (s : State) : State :=
  let old := (controlWord s asid w 0x18).getD 0
  let s := if r.sat then putControl asid w 0x18 (old + (if abits old 9 1 = 1 then 0 else 2 ^ 9)) s else s
  let s := if r.sat ∧ e.task ≠ 0 then s.modOwner e.task 0 fun c => c.setSatf s.cyc satRed else s
  let s := dropEarly (fun c => c.asid == asid && c.slot == e.slot && c.seq == r.seq) s
  let s := putControl asid w 0x10 (w.runs + 1) s
  let e' : RingEntry :=
    { e with j := e.j + 1, bases := e.bases.map fun b => (b + e.stride) % 2 ^ 64, run := none }
  if e'.j = e.runs then
    putControl asid w 8 (w.tail + 1)
      (modRing asid ring (fun w => { w with runs := w.runs + 1, tail := w.tail + 1, current := none }) s)
  else modRing asid ring (fun w => { w with runs := w.runs + 1, current := some e' }) s

/-- RUN_COMPLETE (R371): every op of the run is done, and no earlier store of the context to the named buffers is
unperformed (04_memory_model R100). -/
def execRunComplete (asid ring : Nat) (s : State) : Out :=
  .next (match ringOf s asid ring with
    | none => s
    | some w =>
      match w.current with
      | none => s
      | some e =>
        match e.run, slotOf s asid e.slot with
        | some r, some g =>
          if r.doneOps.length = g.ops.length ∧ participantBefore s asid r.armedAt (r.bases.map Prod.snd).flatten = false then
            completeRun asid ring w e r s
          else s
        | _, _ => s)

/-- The collective timeout of a context, in the units of the reference clock. -/
def collTimeout (s : State) (asid : Nat) : Nat := (((s.context? asid).map Context.ctimeout).getD 1000) * microU

/-- COLLECTIVE_TIMEOUT (R374). -/
def execCollectiveTimeout (asid ring : Nat) (s : State) : Out :=
  .next (match ((ringOf s asid ring).bind WorkRing.current).bind RingEntry.run with
    | some r => if r.armedU + collTimeout s asid ≤ s.timeU then haltRing asid ring .collTimeout s else s
    | none => s)

/-- The ring whose current entry names a slot. -/
def ringNaming (s : State) (asid slot : Nat) : Option Nat :=
  (s.context? asid).bind fun c =>
    (c.rings.find? fun (_, r) => !r.halted && (r.current.map RingEntry.slot) == some slot).map Prod.fst

/-- EARLY_CHUNK_TIMEOUT (R374): the ring of the chunk's slot halts, and the early chunks of its SEQ go; without such
a ring the chunk alone goes. -/
def execEarlyChunkTimeout (station i : Nat) (s : State) : Out :=
  .next (match (s.stationAt station).early[i]? with
    | none => s
    | some e =>
      let c := e.chunk
      if s.timeU < e.sinceU + collTimeout s c.asid ∨ chunkIsReady s c = true then s
      else
        match ringNaming s c.asid c.slot with
        | some ring =>
          dropEarly (fun x => x.asid == c.asid && x.slot == c.slot && x.seq == c.seq)
            (haltRing c.asid ring .collTimeout s)
        | none => returnTokens station (s.modStation station fun x => { x with early := x.early.eraseIdx i }))

end Sys2Proof.Machine
end

