-- ==== Sys2Proof/Machine/Drops.lean ====
section
/-! DEFINITION. The drop of cached translations (11_translation R277), and the events of walks, XLT results
and fills of absent granules. -/

namespace Sys2Proof.Machine

open Sys2Proof

/-! ### The drop (R277) -/

/-- A cached translation overlaps a range of a context. -/
def TlbEntry.within (e : TlbEntry) (asid va len : Nat) : Bool :=
  e.asid == asid && overlaps (e.vpn * 2 ^ 16) (pageBytes e.size) va len

/-- A tx register with V cleared where its page overlaps a range. -/
def dropTx (va len : Nat) (v : Word) : Word :=
  if bits v 63 1 = 1 ∧ overlaps (bits v 24 32 * 2 ^ 16) (pageBytes (bits v 61 2)) va len = true then
    v &&& 0x7FFFFFFFFFFFFFFF#64
  else v

/-- The tx registers of a task's member after a drop. -/
def dropCtx (va len : Nat) (c : Ctx) : Ctx := { c with tx := c.tx.map fun (n, v) => (n, dropTx va len v) }

/-- A task of a context. -/
def ofContext (s : State) (asid task : Nat) : Bool := ((s.task? task).map fun t => t.asid == asid).getD false

/-- The drop of a range of a context: TLB entries of every core and die, and tx registers of running and saved
tasks. -/
def dropTranslations (asid va len : Nat) (s : State) : State :=
  { s with
    cores := s.cores.map fun (n, c) =>
      (n, { c with
        l1 := c.l1.filter fun e => !e.within asid va len
        walkRes := c.walkRes.filter fun r => !(r.asid == asid && overlaps r.extent.1 r.extent.2 va len)
        ctx := if c.mode != .idle && ofContext s asid c.task then dropCtx va len c.ctx else c.ctx })
    dies := s.dies.map fun (n, d) => (n, { d with l2 := d.l2.filter fun e => !e.within asid va len })
    tasks := s.tasks.map fun t =>
      if t.asid = asid then
        { t with saved := t.saved.map fun (v : Saved) => { v with ctx := dropCtx va len v.ctx } }
      else t }

/-- The drop and drain of a range (R277): the drain waits for every access made before it. -/
def dropAndDrain (asid va len : Nat) (admin : Option Nat) (page : Option PageKey) (s : State) : State :=
  let s := dropTranslations asid va len s
  s.startEngineOp asid 0 (.invalidate asid va len (some s.nextOp) admin page)

/-- An operation that may hold an old translation of a context (R277).
DESIGN CHOICE (notes/assumptions/29). -/
def holdsTranslation (asid : Nat) (o : Op) : Bool :=
  o.asid == asid &&
    match o.kind with
    | .load _ | .store _ | .copy _ | .cgld _ _ _ _ _ | .far _ | .vfnld _ _ _ | .record _ _ _ | .desc _ _
    | .chunk _ _ _ | .part _ => true
    | .packet p =>
      match p.kind with
      | .signal _ _ _ _ | .copy _ _ _ _ => !p.finished
      | .launch _ | .wait | .publish => false
    | _ => false

/-- A page overlaps a range of a context. -/
def pageWithin (p : PageKey) (asid va len : Nat) : Bool :=
  p.asid == asid && overlaps (p.vpn * 2 ^ 16) (pageBytes p.size) va len

/-- A move of a page of a range is in progress here: an invalidation of the range waits for its commit or abort
(12_migration R307). -/
def moveWithin (s : State) (asid va len : Nat) : Bool :=
  (s.mig.moves.any fun m => pageWithin m.req.page asid va len) ||
    s.mig.incoming.any fun p => pageWithin p.page asid va len

/-- An invalidation that system software asks for: it waits while a move of a page of its range is in progress
(12_migration R307). -/
def askInvalidation (asid va len command : Nat) (s : State) : State :=
  if moveWithin s asid va len then s.startEngineOp asid 0 (.invalidate asid va len none (some command) none)
  else dropAndDrain asid va len (some command) none s

/-- A run in progress holds translations of a range that it made before an operation (15_fabric R372). -/
def runHolds (s : State) (asid va len bound : Nat) : Bool :=
  ((s.context? asid).map fun c => c.rings.vals.any fun r =>
    match r.current.bind RingEntry.run with
    | some x => decide (x.armedAt ≤ bound) && x.spans.any fun p => overlaps p.1 p.2 va len
    | none => false).getD false

/-- The drain has ended.
DESIGN CHOICE (notes/assumptions/29). -/
def drained (s : State) (asid va len bound : Nat) : Bool :=
  !(s.ops.any fun o => decide (o.id < bound) && holdsTranslation asid o) && !runHolds s asid va len bound

/-! ### PAGE_WALK_COMPLETE (R265, R269) -/

/-- The end of a walk for a core's stalled bundle: a leaf fills both TLBs, any end serves the bundle when it is
checked again. -/
def endWalk (o : Op) (asid va : Nat) (s : State) : State :=
  let r := engineWalk s o.core asid va
  let s := match r with
    | .leaf e =>
      (s.modDie (dieOf o.core) fun d => { d with l2 := tlbFill 32768 e d.l2 }).modCore o.core fun c =>
        { c with l1 := tlbFill 256 e c.l1 }
    | .nonResident _ _ _ _ | .failed _ => s
  (s.modCore o.core fun c => { c with walkRes := ⟨asid, va / 2 ^ 16, r⟩ :: c.walkRes }).dropOp o.id

/-- PAGE_WALK_COMPLETE (R265). -/
def execPageWalkComplete (op : Nat) (s : State) : Out :=
  match s.op? op with
  | some o =>
    match o.kind with
    | .walk asid va _ => .next (endWalk o asid va s)
    | _ => .next s
  | none => .next s

/-! ### XLT_RESULT (R272) -/

/-- The word of a translation that failed. -/
def txFault (code : FaultCode) (addr : Word) : Word :=
  BitVec.ofNat 64 (3 * 2 ^ 59 + abits addr.toNat 16 32 * 2 ^ 24 + faultNumber code)

/-- The word of a translated page (Table 11-4). -/
def txWord (size kind : Nat) (w rd : Bool) (vpn frame : Nat) : Word :=
  BitVec.ofNat 64 (2 ^ 63 + size * 2 ^ 61 + kind * 2 ^ 59 + (if w then 2 ^ 58 else 0) + (if rd then 2 ^ 57 else 0) +
    vpn * 2 ^ 24 + frame)

/-- The word of a walk's end, translated for a read, and for a write when asked. -/
def txOf (w : Bool) (addr : Word) (r : WalkEnd) : Word :=
  match r with
  | .failed code => txFault code addr
  | .nonResident vpn size rd wr =>
    if !rd || (w && !wr) then txFault .permission addr
    else if w then txFault .nonresWrite addr
    else txWord size 2 wr rd vpn 0
  | .leaf e =>
    match pageCheck true w addr r with
    | .fault code _ _ _ _ => txFault code addr
    | _ =>
      match e.remote with
      | some o => txWord e.size 1 e.w e.rd e.vpn o
      | none => txWord e.size 0 (e.w && e.vw) (e.rd && e.vrd) e.vpn e.frame

/-- The result of an XLT.
DEDUCED (notes/assumptions/34). -/
def xltWord (s : State) (core asid : Nat) (addr : Word) (w : Bool) : Word :=
  let a := addr.toNat
  if !spaceOk a 1 || tagOf a != 0 then txFault .space addr
  else
    match s.context? asid with
    | none => txFault .translation addr
    | some c =>
      if inHeap c (vaOf a) 1 then
        txWord 0 0 true true (vaOf a / 2 ^ 16) (heapPa c (vaOf a) / 2 ^ 16)
      else txOf w addr (engineWalk s core asid (vaOf a))

/-- XLT_RESULT (R272).
DEDUCED (notes/assumptions/34). -/
def execXltResult (op : Nat) (s : State) : Out :=
  match s.op? op with
  | some o =>
    match o.kind with
    | .xlt n addr w =>
      let v := xltWord s o.core o.asid addr w
      let s := if xltPaged s o.asid addr = true then fillL2 o.core o.asid (vaOf addr.toNat) s else s
      .next ((s.dropOp op).modOwner o.task o.member fun c => { c with tx := c.tx.set n v })
    | _ => .next s
  | none => .next s

/-! ### LAZY_RESTORE_FILL (06_sequencer R171) -/

/-- LAZY_RESTORE_FILL (R171). -/
def execLazyRestoreFill (op : Nat) (s : State) : Out :=
  match s.op? op with
  | some o =>
    match o.kind with
    | .fill vec g =>
      .next ((s.dropOp op).modOwner o.task o.member fun c =>
        if vec then { c with vAbsent := c.vAbsent.filter (· != g) } else { c with gAbsent := c.gAbsent.filter (· != g) })
    | _ => .next s
  | none => .next s

end Sys2Proof.Machine
end

