-- ==== Sys2Proof/Machine/Control.lean ====
section
/-! DEFINITION. The control slots (06_sequencer R140–R158), the fences (04_memory_model R88–R92) and the
prefixes (02_bundles R42, R43). -/

namespace Sys2Proof.Machine

open Sys2Proof

/-! ### Prepared branches (R140–R145) -/

/-- The target that PREP writes: the bundle's address plus the offset (R141). -/
def prepTarget (s : State) (off : BitVec 19) : Int := (s.ctx.pc : Int) + off.toInt

/-- PREP (R141). -/
def execPrep (b : Fin 8) (off : BitVec 19) (s : State) : Out :=
  slot {} (fun s => require (decide (0 ≤ prepTarget s off ∧ prepTarget s off < 65536)) .illegalOperand 0)
    (fun s => s.defer (.bt b.val (prepTarget s off).toNat)) s

/-- PREPR (R141). -/
def execPrepr (b : Fin 8) (a : SSrc) (s : State) : Out :=
  slot {} (fun s => (needS s a).seq (require (decide ((s.rs a).toNat < 65536)) .illegalOperand 0))
    (fun s => s.defer (.bt b.val (s.rs a).toNat)) s

/-- The stall of a transfer whose target was written at an issue cycle: 3 − d cycles (R142).
DESIGN CHOICE (notes/assumptions/65). -/
def transferStall (now written : Nat) : Nat := 3 - (now - written)

/-- A transfer's stall at the boundary after the bundle. -/
def stallAfter (written : Option Nat) (s : State) : State :=
  match written with
  | some c => s.modCore s.cur fun k => { k with bubble := transferStall k.ctx.icyc c }
  | none => s

/-- A taken transfer through a branch-target buffer, as it stood before the bundle (R142, R143). -/
def goTo (b : Fin 8) (s : State) : State :=
  (stallAfter (s.ctx.btAt.get? b.val) s).defer (.goto (s.ctx.bt.getD b.val 0))

/-- BR (R143). -/
def execBr (b : Fin 8) (p : Fin 16) (neg always : Bool) (s : State) : Out :=
  slot {} (fun _ => .ok) (fun s => if always || (s.ctx.pread p ^^ neg) then goTo b s else s) s

/-- BRU (R144). -/
def execBru (b : Fin 8) (s : State) : Out :=
  slot {} (fun _ => .ok) (fun s => if s.ctx.maskTop = 0 then goTo b s else s) s

/-- CALL (R145). -/
def execCall (b : Fin 8) (s : State) : Out :=
  slot {} (fun s => require (decide (s.ctx.ret.length < 16)) .stackDepth 0)
    (fun s => (stallAfter (s.ctx.btAt.get? b.val) s).defer
      (.callTo (s.ctx.bt.getD b.val 0) (s.ctx.pc + s.iss.words))) s

/-- RET (R145). -/
def execRet (s : State) : Out :=
  slot {} (fun s => require (!s.ctx.ret.isEmpty) .stackDepth 0)
    (fun s => (stallAfter (s.ctx.ret.head?.map Prod.snd) s).defer .retTo) s

/-- NOP (R146). -/
def execNop (s : State) : Out := slot {} (fun _ => .ok) id s

/-! ### Hardware loops (R147–R151) -/

/-- The iterations that a loop counter holds at first (R148). -/
def loopTotal (count : Word) (stages : Nat) : Nat := count.toNat + stages - 1

/-- The checks of LOOP and LOOPS (R148). -/
def checkLoop (count : Word) (stages : Nat) (s : State) : Verdict :=
  if 0xFFFFFFFF < loopTotal count stages then faultV .loopCount 0
  else if count = 0 then .ok
  else require (decide (s.ctx.loops.length < 4)) .stackDepth 0

/-- The effect of LOOP and LOOPS, of `len` bundles (R147, R148).
DESIGN CHOICE (notes/assumptions/62). -/
def doLoop (l : Fin 4) (count : Word) (len stages : Nat) (loops : Bool) (s : State) : State :=
  let first := s.ctx.pc + s.iss.words
  if count = 0 then s.defer (.loop l.val 0 none ((skipBundles s.core len first).getD 65536))
  else
    let e : LoopEntry := ⟨l.val, first, (skipBundles s.core (len - 1) first).getD 65536, loops, stages,
      s.ctx.ret.length⟩
    s.defer (.loop l.val (BitVec.ofNat 32 (loopTotal count stages)) (some e) first)

/-- The number of bundles that a len6 field names. -/
def loopLen (len : Fin 64) : Nat := if len = 0 then 64 else len.val

/-- LOOP (R148). -/
def execLoop (l : Fin 4) (a : SSrc) (len : Fin 64) (s : State) : Out :=
  slot {} (fun s => (needS s a).seq (checkLoop (s.rs a) 1 s))
    (fun s => doLoop l (s.rs a) (loopLen len) 1 false s) s

/-- LOOPS (R148): the st3 field holds the stage count minus 1. -/
def execLoops (l : Fin 4) (a : SSrc) (len : Fin 64) (stages : Fin 8) (s : State) : Out :=
  slot {} (fun s => (needS s a).seq (checkLoop (s.rs a) (stages.val + 1) s))
    (fun s => doLoop l (s.rs a) (loopLen len) (stages.val + 1) true s) s

/-! ### Waiting (R152–R154) -/

/-- The limit that a WAIT's fields give a class, none where it ignores the class. -/
def waitLimit (w x y z : Fin 16) (k : Cls) : Option Nat :=
  let v : Fin 16 := match k with
    | .c0 => w
    | .c1 => x
    | .t => y
    | .s => z
  if v = 15 then none else some v.val

/-- The oldest mark of some classes, as the fault it raises (R153, R174). -/
def markFault (c : Ctx) (on : Cls → Bool) : Verdict :=
  match firstMark c.marks on with
  | some (k, m) => .fault m.code m.faddr m.lost true (some k)
  | none => .ok

/-- A counter is above its limit. -/
def waitsFor (c : Ctx) (lim : Cls → Option Nat) : Bool :=
  [Cls.c0, .c1, .t, .s].any fun k =>
    match lim k with
    | some v => decide (v < c.cnt.get k)
    | none => false

/-- The checks of WAIT (R153). -/
def checkWait (lim : Cls → Option Nat) (s : State) : Verdict :=
  (holdIf (waitsFor s.ctx lim)).seq (markFault s.ctx fun k => (lim k).isSome)

/-- WAIT (R153). -/
def execWait (w x y z : Fin 16) (s : State) : Out := slot {} (checkWait (waitLimit w x y z)) id s

/-- The checks of SYNC (R154): in a width-1 task it issues six cycles after it arrived; in a gang when the
line releases it. -/
def checkSync (line : Nat) (s : State) : Verdict :=
  if s.widthAt s.cur = 1 then
    match s.core.waitSince with
    | some t => holdIf (decide (s.cyc < t + 6))
    | none => .hold .none
  else if (((s.taskAt s.cur).map Task.lineMap).getD []).get? line = none then faultV .illegalOperand 0
  else if s.core.released then .ok
  else .hold (.sync line)

/-- SYNC (R154). -/
def execSync (l : Fin 4) (s : State) : Out := slot {} (checkSync l.val) id s

/-! ### Fences (04_memory_model R88–R92) -/

/-- The checks of FENCE at a scope (R88), which at CORE never stalls: the die's ordering queues are those of its first evaluation. -/
def checkFence (o : Scope) (s : State) : Verdict :=
  if o == .core || releaseReady s s.cur o s.nextBundle (s.core.waitStamp.getD s.nextOp) then .ok else .hold .stamp

/-- FENCE (R88). -/
def execFence (o : Scope) (s : State) : Out := slot {} (checkFence o) id s

/-- FENCE_LITE (R89). -/
def execFenceLite (s : State) : Out := slot {} (fun _ => .ok) id s

/-- A heavy fence of the core awaits its acknowledgements. -/
def heavyAsked (s : State) : Bool :=
  s.ops.any fun o => o.core == s.cur &&
    match o.kind with
    | .fenceHeavy _ _ none => true
    | _ => false

/-- What FENCE_HEAVY does once its own accesses are performed (R90, R92). -/
def checkHeavy (o : Scope) (s : State) : Verdict :=
  match s.core.pubDone with
  | some (some code) => faultV code 0
  | _ =>
    if s.core.released then .ok
    else if heavyAsked s then .hold .none
    else if heavyRecipients s o = [] then .ok
    else .hold (.heavy o)

/-- FENCE_HEAVY (R90). -/
def execFenceHeavy (o : Scope) (s : State) : Out :=
  slot {} (fun s => (checkFence o s).seq (checkHeavy o s)) id s

/-! ### Stops of the task's own (R155–R157) -/

/-- The record of BRK and TRAP. -/
def breakInfo (code : FaultCode) (aux : Nat) (s : State) : FaultInfo := faultInfo s code s.iss.slot 0 aux false

/-- BRK (R155). -/
def execBrk (c : BitVec 16) (s : State) : Out :=
  slot {} (fun _ => .ok) (fun s => s.defer (.stop (.faulted (breakInfo .brk c.toNat s)))) s

/-- TRAP (R156). -/
def execTrap (c : BitVec 17) (s : State) : Out :=
  slot {} (fun _ => .ok) (fun s => s.defer (.stop (.faulted (breakInfo .trap c.toNat s)))) s

/-- YIELD (R157). -/
def execYield (s : State) : Out := slot {} (fun _ => .ok) (fun s => s.defer (.stop .yielded)) s

/-! ### Prefixes (02_bundles R42, R43) -/

/-- LIMM (R42): the upper bits of the following slot's immediate. -/
def execLimm (p : BitVec 22) (s : State) : Out := .next { s with iss := { s.iss with limm := some p } }

/-- REPEAT (R43): its bundle issues `c` times (0 is 4,096) with the selectors of the offsets; the
repetitions follow 09_matrix R236. -/
def execRept (c : BitVec 12) (e0 e1 e2 e3 : RepSel) (s : State) : Out :=
  .next { s with iss := { s.iss with rep := some (c, [e0, e1, e2, e3]) } }

end Sys2Proof.Machine
end

