-- ==== Sys2Proof/Machine/Tiles.lean ====
section
/-! DEFINITION. The tile table's instructions (05_scalar R133–R138). -/

namespace Sys2Proof.Machine

open Sys2Proof

/-! ### TALLOC (R133) -/

/-- The rows and columns that TALLOC's shape word names, none where TILE_SHAPE is raised. -/
def tallocShape (l : Level) (t : ElemTy) (x y : Word) : Option (Nat × Nat) :=
  let rows := bits x 0 13
  let cols := bits x 16 13
  if bits x 13 3 = 0 ∧ bits x 29 35 = 0 ∧ 1 ≤ rows ∧ rows ≤ 4096 ∧ 1 ≤ cols ∧ cols ≤ 4096 ∧ bits y 15 49 = 0 ∧
      shapeBytes rows cols t ≤ (match l with | .tile => 3 * 2 ^ 20 | .ring => ringBytes) then
    some (rows, cols)
  else none

/-- A fresh entry of a core (R133). -/
def freshEntry (core h rows cols : Nat) (t : ElemTy) (l : Level) (exp : Int) (base : Nat) : TileEntry :=
  { owner := core, comp := h, ver := 0, rows := rows, cols := cols, ty := t, level := l, exp := exp,
    census := clsMax t, dirty := false, inuse := true, prev := none, base := base }

/-- The allocation that a core can make of a tile under a handle: its physical entry and the entry, none
when there is no free entry or run of granules.
DESIGN CHOICE (notes/assumptions/63). -/
def planTile (s : State) (core h rows cols : Nat) (t : ElemTy) (l : Level) (exp : Int) :
    Option (Nat × TileEntry) :=
  match freeEntry (s.coreAt core),
    firstFit (granuleTotal l) (granuleCount l (shapeBytes rows cols t)) (usedRuns s core l) with
  | some i, some base => some (i, freshEntry core h rows cols t l exp base)
  | _, _ => none

/-- Makes the bytes of a new tile zero, as a whole write; no access made before reaches them. -/
def zeroTile (core : Nat) (e : TileEntry) (s : State) : State :=
  let key := tileByteKey core e 0
  let n := tileBytes e
  let s := detachAccesses key n s
  let keep (g : Nat) : Bool := !(decide (key ≤ g * 64) && decide (g * 64 < key + n))
  { s with
    mem := Memory.clear s.mem key n
    sys := { s.sys with
      poison := s.sys.poison.filter keep
      badEcc := s.sys.badEcc.filter keep
      softEcc := s.sys.softEcc.filter keep
      badCode := s.sys.badCode.filter keep } }

/-- Gives a new tile its bytes; no access made before reaches them. -/
def fillTile (core : Nat) (e : TileEntry) (bs : List Byte) (s : State) : State :=
  let key := tileByteKey core e 0
  (detachAccesses key (tileBytes e) s).putBytes key bs

/-- What TALLOC allocates, none when it pushes all ones.
DEDUCED (notes/assumptions/20). -/
def tallocPlan (s : State) (l : Level) (t : ElemTy) (x y : Word) : Option (Nat × Nat × TileEntry) :=
  match tallocShape l t x y with
  | none => none
  | some (rows, cols) =>
    let h := bits y 0 8
    if handleTaken s s.cur h then none
    else (planTile s s.cur h rows cols t l (signedOf 7 (bits y 8 7))).map fun p => (h, p)

/-- The effect of TALLOC: it takes effect at issue, and pushes the handle or all ones. -/
def doTalloc (d : Fin 32) (l : Level) (t : ElemTy) (x y : Word) (s : State) : State :=
  match tallocPlan s l t x y with
  | none => pushS d 6 (BitVec.allOnes 64) s
  | some (h, i, e) => pushS d 6 (BitVec.ofNat 64 h) ((zeroTile s.cur e s).defer (.newTile h i e))

/-- TALLOC (R133); FADDR of its TILE_SHAPE is 0.
DESIGN CHOICE (notes/assumptions/77). -/
def execTalloc (d : Fin 32) (a b : SSrc) (l : Level) (t : ElemTy) (s : State) : Out :=
  slot Need.push
    (fun s => (needSS s a b).seq (require (tallocShape l t (s.rs a) (s.rs b)).isSome .tileShape 0))
    (fun s => doTalloc d l t (s.rs a) (s.rs b) s) s

/-! ### TFREE, TLINK (R134, R135) -/

/-- A handle operand in a register names a tile of the task (R130). FADDR of the handle, shape and scale faults of TFREE,
TLINK, TINFO and TSETS is 0.
DESIGN CHOICE (notes/assumptions/77). -/
def checkHandle (s : State) (v : Word) : Verdict := require (s.tileOfReg v).isSome .tileHandle 0

/-- An instruction that waits until no operation on the tile is in flight (R134, R137). -/
def holdBusy (s : State) (v : Word) : Verdict :=
  match s.tileOfReg v with
  | some (i, _) => holdIf (tileBusy s s.cur i)
  | none => .ok

/-- TFREE (R134). -/
def execTfree (a : SSrc) (s : State) : Out :=
  slot {} (fun s => ((needS s a).seq (checkHandle s (s.rs a))).seq (holdBusy s (s.rs a)))
    (fun s => s.defer (.freeTile (s.rs a).toNat)) s

/-- Two tiles of equal rows and columns. -/
def sameShape (s : State) (x y : Word) : Bool :=
  match s.tileOfReg x, s.tileOfReg y with
  | some (_, e), some (_, f) => e.rows == f.rows && e.cols == f.cols
  | _, _ => false

/-- The effect of TLINK. -/
def doTlink (x y : Word) (s : State) : State :=
  match s.tileOfReg x with
  | some (i, _) => s.defer (.tileComp i y.toNat)
  | none => s

/-- TLINK (R135). -/
def execTlink (a b : SSrc) (s : State) : Out :=
  slot {}
    (fun s => (((needSS s a b).seq (checkHandle s (s.rs a))).seq (checkHandle s (s.rs b))).seq
      (require (sameShape s (s.rs a) (s.rs b)) .tileShape 0))
    (fun s => doTlink (s.rs a) (s.rs b) s) s

/-! ### TINFO, TSETS (R136, R137) -/

/-- A field of a tile's entry (R136 Table 5-7). -/
def tinfoField (f : TinfoSel) (e : TileEntry) : Word :=
  match f with
  | .shape => BitVec.ofNat 64 (e.rows + e.cols * 2 ^ 16 + e.ty.code * 2 ^ 32 +
      (match e.level with | .tile => 0 | .ring => 2 ^ 36))
  | .exp => BitVec.ofInt 64 e.exp
  | .census => BitVec.ofNat 64 e.census
  | .flags => BitVec.ofNat 64 ((if e.dirty then 1 else 0) + (if e.inuse then 2 else 0) +
      (if e.prev.isSome then 4 else 0))
  | .comp => BitVec.ofNat 64 e.comp
  | .ver => BitVec.ofNat 64 e.ver
  | .bytes => BitVec.ofNat 64 (tileBytes e)
  | .owner => BitVec.ofNat 64 e.owner

/-- The value that TINFO pushes. -/
def tinfoValue (s : State) (f : TinfoSel) (v : Word) : Word :=
  match s.tileOfReg v with
  | some (_, e) => tinfoField f e
  | none => 0

/-- TINFO (R136). -/
def execTinfo (d : Fin 32) (a : SSrc) (f : TinfoSel) (s : State) : Out :=
  slot Need.push (fun s => (needS s a).seq (checkHandle s (s.rs a)))
    (fun s => pushS d 4 (tinfoValue s f (s.rs a)) s) s

/-- The effect of TSETS. -/
def doTsets (x y : Word) (s : State) : State :=
  match s.tileOfReg x with
  | some (i, _) => s.defer (.tileExp i y.toInt)
  | none => s

/-- TSETS (R137). -/
def execTsets (a b : SSrc) (s : State) : Out :=
  slot {}
    (fun s => (((needSS s a b).seq (checkHandle s (s.rs a))).seq
      (require (decide (-64 ≤ (s.rs b).toInt ∧ (s.rs b).toInt ≤ 63)) .scaleMismatch 0)).seq
      (holdBusy s (s.rs a)))
    (fun s => doTsets (s.rs a) (s.rs b) s) s

/-! ### TID (R138) -/

/-- The free records of a die's pending-launch pool (13_tasks R314). -/
def poolFree (s : State) (die : Nat) : Nat := 4096 - s.tasks.countP fun t => inFlight t && t.homeDie == die

/-- The value of TID. -/
def tidValue (s : State) (f : TidSel) : Nat :=
  match f with
  | .id => s.core.task % 2 ^ 32
  | .member => s.core.member
  | .width => s.widthAt s.cur
  | .depth => ((s.taskAt s.cur).map Task.depth).getD 0
  | .pool => poolFree s (dieOf s.cur)
  | .mode => ((s.context? (s.asidAt s.cur)).map Context.mode).getD 0

/-- TID (R138). -/
def execTid (d : Fin 32) (f : TidSel) (s : State) : Out :=
  slot Need.push (fun _ => .ok) (fun s => pushS d 1 (BitVec.ofNat 64 (tidValue s f)) s) s

end Sys2Proof.Machine
end

