-- ==== Sys2Proof/Machine/Tasks.lean ====
section
/-! DEFINITION. Tasks from creation to completion (13_tasks R310–R322, R410): ids, admission, readiness, run
queues, launch, and the end of a task. -/

namespace Sys2Proof.Machine

open Sys2Proof

/-! ### Ids and records (R312–R314, R328) -/

/-- The number n that a die assigns next: the one after the last, skipping those of its live tasks, wherever they run
(R312). -/
def nextNumber (s : State) (die : Nat) : Nat :=
  (((List.range (s.tasks.length + s.away.length + 1)).map fun k => ((s.dieAt die).lastId + k) % (2 ^ 30 - 1) + 1).find? fun n =>
    (s.task? (die * 2 ^ 30 + n)).isNone && !(s.away.any fun x => x.id == die * 2 ^ 30 + n)).getD 1

/-- Assigns an id of a die.
DESIGN CHOICE (notes/assumptions/21). -/
def takeId (die : Nat) (s : State) : Nat × State :=
  let n := nextNumber s die
  (die * 2 ^ 30 + n, s.modDie die fun d => { d with lastId := n })

/-- The record goes to another package (R328). -/
def isAway (s : State) (r : TaskRec) : Bool := r.remote && r.acc != s.accid

/-- The task is here only as the local pool record of a record that goes to another package. -/
def sentAway (s : State) (t : Task) : Bool :=
  match t.origin with
  | .remote _ _ => false
  | .packet _ _ | .spawn _ | .fork _ | .handler _ => isAway s t.spec

/-- Places a task in its die's pool, last in order (R314). -/
def addTask (t : Task) (s : State) : State :=
  { s with tasks := s.tasks ++ [{ t with order := s.poolOrder }], poolOrder := s.poolOrder + 1 }

/-! ### The dies and cores of tasks (R319) -/

/-- The first of some numbers at which a measure is least. -/
def argMin (f : Nat → Nat) : List Nat → Option Nat
  | [] => none
  | n :: ns =>
    match argMin f ns with
    | some m => some (if f m < f n then m else n)
    | none => some n

/-- A core's load (R319). -/
def coreLoad (s : State) (n : Nat) : Nat :=
  (s.coreAt n).runq.length + if (s.coreAt n).mode = .idle then 0 else 1

/-- The cores of a die. -/
def coresOf (die : Nat) : List Nat := (List.range 64).map (· + 64 * die)

/-- The die whose cores hold the fewest running and queued tasks. -/
def leastDie (s : State) : Nat := (argMin (fun d => ((coresOf d).map (coreLoad s)).sum) [0, 1, 2, 3]).getD 0

/-- The die on which a task runs (R319).
DEDUCED (notes/assumptions/25). -/
def chooseDie (s : State) (t : Task) : Nat :=
  match boundCore t with
  | some c => dieOf c
  | none =>
    if t.spec.die < 4 then t.spec.die
    else
      match t.origin with
      | .packet _ _ => leastDie s
      | .spawn _ | .fork _ | .handler _ | .remote _ _ => t.homeDie

/-- A core's run queue takes a task: it has a free entry and is neither reserved nor offline (R319, R322;
17_system R405). -/
def takesTasks (s : State) (n : Nat) : Bool :=
  let c := s.coreAt n
  decide (c.runq.length < 64) && !c.reserved && !c.offline

/-- The core on which a ready task is queued, none while no queue takes it (R319). -/
def chooseCore (s : State) (t : Task) : Option Nat :=
  match boundCore t with
  | some c => if takesTasks s c then some c else none
  | none => argMin (coreLoad s) ((coresOf t.runDie).filter (takesTasks s))

/-- Puts a task in the run queue of a core. -/
def enqueue (task core : Nat) (s : State) : State :=
  (s.modCore core fun c => { c with runq := c.runq ++ [⟨task, s.cyc⟩] }).modTask task fun t =>
    { t with state := .queued core }

/-- The ready tasks of width 1 that stand in no queue, in READY order. -/
def unqueued (s : State) : List Task :=
  (s.tasks.filter fun t => t.state == .ready && t.width == 1).mergeSort fun a b => decide (a.readyNo ≤ b.readyNo)

/-- Queues the ready tasks that some queue takes (R319). -/
def queueReady (s : State) : State :=
  (unqueued s).foldl (fun s t =>
    match chooseCore s t with
    | some n => enqueue t.id n s
    | none => s) s

/-! ### Dependences and renaming (R315–R317) -/

/-- Two set entries overlap outside tiles (R316). -/
def spansOverlap : SetEntry → SetEntry → Bool
  | .ring d a n, .ring e b m => d == e && overlaps a n b m
  | .global a n, .global b m => overlaps a n b m
  | _, _ => false

/-- Two TILE entries name a common handle of one core (R316). -/
def tilesOverlap : SetEntry → SetEntry → Bool
  | .tile c f l, .tile d g m => c == d && decide (f ≤ m) && decide (g ≤ l)
  | _, _ => false

/-- Some entry of one set overlaps some entry of another. -/
def anyPair (f : SetEntry → SetEntry → Bool) (xs ys : List SetEntry) : Bool := xs.any fun x => ys.any (f x)

/-- The new task waits for an earlier one whatever renaming does (R316). -/
def mustWait (n e : TaskRec) : Bool :=
  anyPair spansOverlap n.reads e.writes || anyPair spansOverlap n.writes e.writes ||
    anyPair spansOverlap n.writes e.reads || anyPair tilesOverlap n.reads e.writes

/-- The handles that some TILE entries name. -/
def handlesOf (es : List SetEntry) : List Nat :=
  (List.range 256).filter fun h => es.any fun e =>
    match e with
    | .tile _ f l => decide (f ≤ h) && decide (h ≤ l)
    | .unused | .ring _ _ _ | .global _ _ => false

/-- The earlier tasks that name a handle of a core and have not completed. -/
def namers (s : State) (task core h : Nat) : List Nat :=
  (s.tasks.filter fun e => e.id != task && e.admitted.isSome && inFlight e && namesHandle e core h).map Task.id

/-- A fresh version of a tile under the same handle (R317): none when the core has no free entry or
granules. -/
def freshVersion (s : State) (core h old : Nat) : Option (Nat × TileEntry) :=
  match (s.coreAt core).tiles.get? old with
  | none => none
  | some e =>
    (planTile s core h e.rows e.cols e.ty e.level e.exp).map fun (i, f) =>
      (i, { f with ver := (e.ver + 1) % 2 ^ 16, prev := some old })

/-- Renames one handle of a task's write set, or orders the task after the others that name it (R317). -/
def renameHandle (core h : Nat) (reads : Bool) (es : List Nat) (p : State × Task) : State × Task :=
  let (s, t) := p
  let wait : State × Task := (s, { t with waits := (t.waits ++ es).eraseDups })
  match (s.coreAt core).handles.get? h with
  | none => wait
  | some old =>
    match freshVersion s core h old with
    | none => wait
    | some (i, e) =>
      ((zeroTile core e s).modCore core fun c => { c with tiles := c.tiles.set i e, handles := c.handles.set h i },
       if reads then { t with fills := t.fills ++ [(i, old)] } else t)

/-- Renames the overlapping handles of a task's write set (R316, R317). -/
def renameAll (t : Task) (s : State) : State × Task :=
  match boundCore t with
  | none => (s, t)
  | some core =>
    let rs := handlesOf t.spec.reads
    (handlesOf t.spec.writes).foldl (fun p h =>
      match namers p.1 t.id core h with
      | [] => p
      | es => renameHandle core h (decide (h ∈ rs)) es p) (s, t)

/-- Binds the handles that a task names and that are not bound yet to their newest versions (R317). -/
def bindHandles (s : State) (t : Task) : Task :=
  match boundCore t with
  | none => t
  | some core =>
    (handlesOf (t.spec.reads ++ t.spec.writes)).foldl (fun t h =>
      match t.binds.get? h, (s.coreAt core).handles.get? h with
      | none, some i => { t with binds := t.binds.set h i }
      | _, _ => t) t

/-! ### Readiness (R316, R317, R319) -/

/-- Copies a tile's bytes, exponent and census to another (R317). -/
def copyTile (core dst src : Nat) (s : State) : State :=
  match (s.coreAt core).tiles.get? dst, (s.coreAt core).tiles.get? src with
  | some d, some e =>
    let bs := s.bytes (tileByteKey core e 0) (tileBytes e)
    (s.putBytes (tileByteKey core d 0) bs).modTile core dst fun x => { x with exp := e.exp, census := e.census }
  | _, _ => s

/-- Fills the fresh versions of the handles that a task also reads. -/
def fillVersions (t : Task) (s : State) : State :=
  match boundCore t with
  | none => s
  | some core => t.fills.foldl (fun s p => copyTile core p.1 p.2 s) s

/-- The priority that a record and its image give. -/
def prioOf (r : TaskRec) (im : Image) : Nat := if r.useImg then im.prio else r.prio

/-- The bytes of an image's generic address.
DEDUCED (notes/assumptions/24). -/
def imageOfTask (s : State) (t : Task) : Got Image := imageAt s t.id t.asid t.spec.image

/-- A task becomes READY: its fresh versions are filled, and its image gives its width and priority. -/
def makeReady (t : Task) (s : State) : State :=
  let s := fillVersions t s
  let t := { bindHandles s t with fills := [], waits := [], state := .ready, readyNo := s.admitOrder,
                                  runDie := chooseDie s t }
  let t := match (imageOfTask s t).toOption with
    | some im =>
      { t with width := if (boundCore t).isSome then 1 else im.width
               spec := { t.spec with prio := prioOf t.spec im, useImg := false } }
    | none => t
  { s.modTask t.id fun _ => t with admitOrder := s.admitOrder + 1 }

/-- A task that waits for nothing more. -/
def readyNow (t : Task) : Bool := t.state == .waiting && t.waits == [] && t.tilesDue == 0

/-- A task becomes READY once firmware has its image's header; a part in another package is asked for. -/
def readyTask (t : Task) (s : State) : State :=
  match imageOfTask s t with
  | .asks row ps => startParts (engineOp s t.asid) (.image t.id) row ps s
  | .refused | .got _ => makeReady t s

/-- Makes ready, in admission order, every task that waits for nothing more, and queues it. -/
def wakeTasks (s : State) : State :=
  let ts := (s.tasks.filter readyNow).mergeSort fun a b => decide (a.admitted.getD 0 ≤ b.admitted.getD 0)
  queueReady (ts.foldl (fun s t => readyTask t s) s)

/-! ### Launch (R322) -/

/-- What a launch finds: the state in which the storage of its tiles stands, a reason to wait, or the
refusal of its task with the record's FADDR. -/
inductive Launch
  | ok (s : State) (hm : FMap Nat)
  | wait
  | refuse (code : FaultCode) (faddr : Nat)

/-- A handle of a core is allocated to a task still in flight, other than a given one; of the tasks whose sets name it
only some count.
DEDUCED (notes/assumptions/20). -/
def handleInUse (s : State) (counts : Task → Bool) (task core h : Nat) : Bool :=
  (s.tasks.any fun t => inFlight t && t.id != task &&
    ((namesHandle t core h && counts t) || slotHandle t core h ||
      t.saved.any fun (v : Saved) => v.core == core && (v.ctx.hmap.get? h).isSome)) ||
    ((s.coreAt core).mode != .idle && (s.coreAt core).task != task && ((s.coreAt core).ctx.hmap.get? h).isSome)

/-- Allocates one `.tile` of an image on a member's core (R322 step 4). A handle that the record names and
that has a version keeps it; of two entries of an image with one handle the first is allocated (02_bundles R54).
DESIGN CHOICE (notes/assumptions/78). -/
def launchTile (task core : Nat) (x : ImageTile) : Launch → Launch
  | .ok s hm =>
    if (hm.get? x.handle).isSome then .ok s hm
    else if handleInUse s (fun _ => true) task core x.handle then .wait
    else if ((s.coreAt core).handles.get? x.handle).isSome then .refuse .tileHandle x.handle
    else
      let l : Level := if x.level = 0 then .tile else .ring
      match planTile s core x.handle x.rows x.cols (ElemTy.ofCode x.ty) l x.exp with
      | none => .wait
      | some (i, e) =>
        .ok ((zeroTile core e s).modCore core fun c =>
          { c with tiles := c.tiles.set i e, handles := c.handles.set x.handle i }) (hm.set x.handle i)
  | r => r

/-- The granules of a member's private space on its core (01_engines R20). -/
def placePriv (task member core bytes : Nat) : Launch → Launch
  | .ok s hm =>
    let n := granuleCount .tile bytes
    match firstFit (granuleTotal .tile) n (usedRuns s core .tile) with
    | none => .wait
    | some b => .ok (s.modCore core fun c => { c with privs := c.privs ++ [⟨task, member, b, n⟩] }) hm
  | r => r

/-- The private space of a member at launch: the arguments, the data section, and zeros (02_bundles R56;
13_tasks R322).
DEDUCED (notes/assumptions/26). -/
def launchPrivate (t : Task) (im : Image) (member : Nat) (data : List Byte) (s : State) : State :=
  let k := privKey t.id member 0
  let s := { s with mem := Memory.clear s.mem k (2 ^ 22) }
  let s := s.putBytes k (leBytes 8 t.spec.arg0.toNat ++ leBytes 8 t.spec.arg1.toNat)
  s.putBytes (k + 0x40) (fixData im data)

/-- The state of a member's registers at its start (13_tasks R322; 06_sequencer R163).
DEDUCED (notes/assumptions/60). -/
def startCtx (t : Task) (im : Image) (member : Nat) (hm : FMap Nat) : Ctx :=
  { pc := entryOfMember im member, rseed := t.spec.rseed, rstep := t.spec.rstep, priv := im.priv, hmap := hm
    g := match t.origin with
      | .handler _ => [(1, t.recAddr)]
      | .packet _ _ | .spawn _ | .fork _ | .remote _ _ => [] }

/-- The code of an image as instruction memory.
DESIGN CHOICE (notes/assumptions/61). -/
def codeWords (n : Nat) (bs : List Byte) : FMap SlotWord :=
  (List.range n).map fun i => (i, BitVec.ofNat 32 (fieldAt bs (4 * i) 4))

/-- Loads a member's image and starts it on a core.
DESIGN CHOICE (notes/assumptions/61). -/
def startMember (t : Task) (im : Image) (code data : List Byte) (member core : Nat) (hm : FMap Nat) (s : State) :
    State :=
  (launchPrivate t im member data s).modCore core fun c =>
    { c with
      mode := .running, task := t.id, member := member, ctx := startCtx t im member hm
      imem := codeWords im.code code, image := some (t.asid, t.spec.image), win := [], bubble := 0
      waitStamp := none, waitSince := none, stopReq := none, fences := [], pubDone := none, released := false
      stalled := false
      walkRes := [], sliceAt := s.cyc, reserved := false }

/-- The storage of a member's tiles and private space on its core. -/
def launchStorage (t : Task) (im : Image) (member core : Nat) (s : State) : Launch :=
  placePriv t.id member core im.priv (im.tiles.foldl (fun r x => launchTile t.id core x r) (.ok s t.binds))

/-- The storage of every member of a task, in order: the handle map of each. -/
def launchAll (t : Task) (im : Image) : Nat → List Nat → State → Except (Option (FaultCode × Nat)) (State × List (FMap Nat))
  | _, [], s => .ok (s, [])
  | m, c :: cs, s =>
    match launchStorage t im m c s with
    | .wait => .error none
    | .refuse code a => .error (some (code, a))
    | .ok s hm =>
      match launchAll t im (m + 1) cs s with
      | .ok (s, hms) => .ok (s, hm :: hms)
      | .error e => .error e

/-- Starts every member of a task on its core. -/
def startAll (t : Task) (im : Image) (code data : List Byte) : Nat → List Nat → List (FMap Nat) → State → State
  | m, c :: cs, hm :: hms, s => startAll t im code data (m + 1) cs hms (startMember t im code data m c hm s)
  | _, _, _, s => s

/-- Why firmware refuses an image for a task, if it does (02_bundles R57; 13_tasks Table 13-1, R327). -/
def refusesImage (t : Task) (im : Image) : Bool :=
  im.width != t.width || (im.width == 1 && t.spec.lines != 0) || (im.width != 1 && (boundCore t).isSome)

/-- The code of a task's image. -/
def imageCode (s : State) (t : Task) (im : Image) : Got (List Byte) :=
  readPart s t.id 2 t.asid (t.spec.image + im.codeAt) (4 * im.code)

/-- The image of a task's launch, with its code and its data section. -/
def launchImage (s : State) (t : Task) : Got (Image × List Byte × List Byte) :=
  (imageOfTask s t).bind fun im =>
    if refusesImage t im then .refused
    else
      (imageCode s t im).bind fun code =>
        (readPart s t.id 3 t.asid (t.spec.image + im.dataAt) im.data).bind fun data => .got (im, code, data)

/-- A task's launch on some cores, by member: what it waits for or is refused for, or the state in which it
runs.
DEDUCED (notes/assumptions/24). -/
def launchTask (t : Task) (cores : List Nat) (s : State) : Except (Option (FaultCode × Nat)) State :=
  match launchImage s t with
  | .asks _ _ => .error none
  | .refused => .error (some (.illegalOperand, 0))
  | .got (im, code, data) =>
    let s := (endParts (.image t.id) s).modTask t.id fun t => { t with pipes := presetPipes im, cores := cores }
    match launchAll t im 0 cores s with
    | .error e => .error e
    | .ok (s, hms) =>
      .ok ((startAll t im code data 0 cores hms s).modTask t.id fun t =>
        { t with state := .running, ran := true, ended := [] })

/-- The packets that a task's launch still has to send for its image. -/
def askLaunch (t : Task) (s : State) : State :=
  match launchImage s t with
  | .asks row ps => startParts (engineOp s t.asid) (.image t.id) row ps s
  | .refused | .got _ => s

/-! ### The end of a task (R318, R410; 14_revisions R341, R348) -/

/-- The members of a task wherever they are: core, member and state. -/
def membersOf (s : State) (t : Task) : List (Nat × Nat × Ctx) :=
  ((s.cores.filter fun (_, c) => c.mode != .idle && c.task == t.id).map fun (n, c) => (n, c.member, c.ctx)) ++
    t.saved.map fun (v : Saved) => (v.core, v.member, v.ctx)

/-- Frees the handles of a member that its task's sets do not name, as TFREE does (R318; 05_scalar R134). -/
def dropHandles (t : Task) (core : Nat) (x : Ctx) (s : State) : State :=
  let freed := x.hmap.filterMap fun (h, _) => if namesHandle t core h then none else some h
  s.modCore core fun c =>
    { c with
      handles := c.handles.filter fun (h, i) => namesHandle t core h || x.hmap.get? h != some i
      tiles := unlinkAll freed x.hmap c.tiles }

/-- A core that leaves its task acknowledges the heavy fences that wait for it: the task's accesses are all
performed (04_memory_model R90, R105).
DEDUCED (notes/assumptions/33). -/
def ackFences (n : Nat) (s : State) : State :=
  (s.coreAt n).fences.foldl (fun s f =>
    s.send f.ask.src.acc (.fenceHeavyAcknowledge f.ask.src.op s.accid n)) s

/-- A core without its task. -/
def idleCore (n : Nat) (s : State) : State :=
  (ackFences n s).modCore n fun c =>
    { c with mode := .idle, task := 0, member := 0, ctx := {}, win := [], bubble := 0, waitStamp := none,
             waitSince := none, stopReq := none, fences := [], pubDone := none, released := false, walkRes := [], stalled := false, fenced := false }

/-- Releases the private space and the clamp lines of a task.
DEDUCED (notes/assumptions/26). -/
def dropPrivate (t : Task) (s : State) : State :=
  { s with
    mem := Memory.clear s.mem (privKey t.id 0 0) (2 ^ 28)
    cores := s.cores.map fun (n, c) => (n, { c with privs := c.privs.filter fun p => p.task != t.id })
    dies := s.dies.map fun (n, d) => (n, { d with clamps := d.clamps.filter fun (_, k) => k.task != t.id }) }

/-- Discards a revision: the tasks that work in it are terminated (14_revisions R348). -/
def discardRev (v : Nat) (s : State) : State :=
  { s with
    revs := s.revs.map fun (n, r) => if n = v then (n, { r with state := .discarded, todo := none }) else (n, r)
    tasks := s.tasks.map fun t => if t.view = v then { t with doomed := true } else t }

/-- The live revisions that a task forked. -/
def liveForks (s : State) (task : Nat) : List Nat :=
  (s.revs.filter fun (_, r) => r.forker == task && revLive r).map Prod.fst

/-- The revision that a task owns, while it is live. -/
def ownRev (s : State) (t : Task) : Option Nat :=
  (s.revs.find? fun (_, r) => r.owner == t.id && r.asid == t.asid && revLive r).map Prod.fst

/-- The revisions after a task has ended (R344, R348): those it forked are joined, or discarded with its own
when it is terminated; a discarded one frees its copies with its last task. -/
def endRevisions (t : Task) (s : State) : State :=
  let s := if t.doomed then (liveForks s t.id ++ (ownRev s t).toList).foldl (fun s v => discardRev v s) s else s
  let s : State :=
    { s with revs := s.revs.filter fun (_, r) => !(r.forker == t.id && !revLive r && r.state != .discarded) }
  (s.revs.filter fun (v, r) => r.state == .discarded && !(s.tasks.any fun u => u.view == v)).foldl
    (fun s (v, r) =>
      let s := freeRevision s v
      if (s.task? r.forker).isNone then { s with revs := s.revs.erase v } else s) s

/-- The packet operation of a queue's packet. -/
def packetOp (s : State) (qid index : Nat) : Option Op :=
  s.ops.find? fun o =>
    match o.kind with
    | .packet p => p.qid == qid && p.index == index
    | _ => false

/-- A packet ends, with its status (16_front_end R386). -/
def endPacket (qid index : Nat) (status : Option FaultCode) (rec : Word) (s : State) : State :=
  match packetOp s qid index with
  | some o =>
    match o.kind with
    | .packet p => s.modOp o.id fun x =>
        { x with kind := .packet { p with finished := true, status := p.status.or status
                                          faultRec := if p.faultRec = 0 then rec else p.faultRec } }
    | _ => s
  | none => s

/-- Firmware reports a fault of a task that it terminates (06_sequencer R163): in the completion record of a LAUNCH's
root, also of one that runs on another package, else in a service record that names its parent. -/
def reportFault (t : Task) (code : FaultCode) (rec : Word) (bundle : Nat) (s : State) : State :=
  let record (parent : Nat) : ServiceRec :=
    { kind := 2, code := faultNumber code, asid := t.asid, task := t.id, address := rec, length := 0,
      parent := parent % 2 ^ 32, flags := 1, bundle := bundle }
  match t.origin with
  | .packet q i => endPacket q i (some code) rec s
  | .spawn p | .fork p | .handler p => postService (record p) s
  | .remote _ p =>
    let u := s.modTask t.id fun t => { t with recAddr := rec, endCode := some code }
    match p with
    | some p => postService (record p) u
    | none => u

/-- A task returns to the run queues, or a gang to its binder, to be restored (R163, R321). -/
def requeue (task : Nat) (s : State) : State :=
  queueReady { s.modTask task (fun t => { t with state := .ready, readyNo := s.admitOrder, blockedOn := none }) with
    admitOrder := s.admitOrder + 1 }

/-- A task that yielded returns to the run queue of its core, or where another goes while that queue takes none
(R157). -/
def requeueOn (core task : Nat) (s : State) : State :=
  if takesTasks s core then
    enqueue task core { s.modTask task (fun t => { t with readyNo := s.admitOrder, blockedOn := none }) with
      admitOrder := s.admitOrder + 1 }
  else requeue task s

/-- The tasks blocked in JOIN whose children are merged or discarded, or whose merge has stopped, are queued again (R321;
14_revisions R343). -/
def wakeBlocked (s : State) : State :=
  (s.tasks.filter fun t => t.state == .stopped &&
    match t.blockedOn with
    | some n => (s.revs.any fun (_, r) => r.forker == t.id && revLive r && r.stuck.isSome) ||
        !(s.revs.any fun (_, r) => r.forker == t.id && decide (r.number ≤ n) && revLive r)
    | none => false).foldl (fun s t => requeue t.id s) s

/-- Where firmware writes or reads a fault record of a task, none where it is denied it (06_sequencer R162). -/
def recordRuns (s : State) (t : Task) (addr : Word) (wr : Bool) : Option (List Run) :=
  let a := addr.toNat
  if !spaceOk a 64 then none
  else
    match tagOf a with
    | 0x0 =>
      match masterRuns s pairMaster t.asid (vaOf a) 64 (!wr) wr with
      | .ok rs => some rs
      | .error _ => none
    | 0xB | 0xC => some [⟨.far (peerAcc a) 0 (peerTarget a), 64⟩]
    | 0x8 =>
      if offOf a + 64 ≤ (((t.saved.find? fun (v : Saved) => v.member == t.faultMember).map fun v => v.ctx.priv).getD 0) then
        some [⟨.here (privKey t.id t.faultMember (offOf a)), 64⟩]
      else none
    | 0x9 =>
      ((s.coreAt (tileCore a)).handles.get? (tileHandle a)).bind fun i =>
        ((s.coreAt (tileCore a)).tiles.get? i).bind fun e =>
          if offOf a + 64 ≤ tileBytes e then some [⟨.here (tileByteKey (tileCore a) e (offOf a)), 64⟩] else none
    | 0xA =>
      if ringAllowed s pairMaster (ringDie a) (ringOff a) 64 (!wr) wr then
        some [⟨.here (ringKey (ringDie a) (ringOff a)), 64⟩]
      else none
    | _ => none

/-- A faulted task is terminated after its handler (06_sequencer R163). Where the handler itself faulted, its own report
stands; a LAUNCH's completion names the fault of its root in either case. -/
def endFaulted (byHandler : Bool) (u : Task) (s : State) : State :=
  let s := match u.fault, u.origin with
    | some f, .packet q i => endPacket q i (some f.code) u.recAddr s
    | some f, .remote _ none => reportFault u f.code u.recAddr f.bundle s
    | some f, _ => if byHandler then reportFault u f.code u.recAddr f.bundle s else s
    | none, _ => s
  s.modTask u.id fun u => { u with doomed := true }

/-- Firmware reads ACTION, byte 2 of a task's record: 1 resumes the task, anything else, or an error, ends it (R163). -/
def readAction (u : Task) (s : State) : State :=
  let c := Client.faultRec u.id
  let done (s : State) := endParts c s
  match if u.recAddr = 0 then none else (recordRuns s u u.recAddr false).bind (reach false s) with
  | none => endFaulted true u s
  | some rs =>
    withFetched (fetchRuns s 0 c 2 rs) (engineOp s u.asid) c 2 (fun _ s => endFaulted true u (done s))
      (fun d s => if (d[2]?.map Prod.fst) = some 1#8 then requeue u.id (done s) else endFaulted true u (done s)) s

/-- The task whose handler has ended goes on, or is terminated (06_sequencer R163). -/
def afterHandler (t : Task) (faulted : Nat) (s : State) : State :=
  match s.task? faulted with
  | none => s
  | some u => if t.doomed then endFaulted false u s else readAction u s

/-- The id of a task on the package that created it.
DESIGN CHOICE (notes/assumptions/21). -/
def homeId (src id : Nat) : Nat := id - (src + 1) * 2 ^ 32

/-- The effect of a task's end on what created it: another package learns that its task is DONE or terminated
(16_front_end R380).
DESIGN CHOICE (notes/assumptions/21). -/
def notifyOrigin (t : Task) (s : State) : State :=
  match t.origin with
  | .packet q i => endPacket q i none 0 s
  | .handler f => afterHandler t f s
  | .remote src _ =>
    let rec_ := if t.endCode.isSome then t.recAddr else 0
    s.send src (.taskRecordBatch s.accid [⟨homeId src t.id, t.asid, t.depth, 0, 0, [], some (t.endCode, rec_), none⟩])
  | .spawn _ | .fork _ => s

/-- A task ends, by its END or terminated, once none of its members runs (R318, R410). -/
def finishOne (t : Task) (s : State) : State :=
  let ms := membersOf s t
  let cores := (ms.map (·.1) ++ t.cores).eraseDups
  let s := ms.foldl (fun s m => dropHandles t m.1 m.2.2 s) s
  let s := (s.cores.filter fun (_, c) => c.task == t.id && c.mode != .idle).foldl (fun s p => idleCore p.1 s) s
  let s : State := { s with
    cores := s.cores.map fun (n, c) => (n, { c with runq := c.runq.filter fun q => q.task != t.id })
    ops := s.ops.filter fun o => o.task != t.id
    tasks := (s.tasks.filter fun u => u.id != t.id).map fun u =>
      { u with waits := u.waits.filter (· != t.id) }
    batches := (s.batches.map fun b => { b with tasks := b.tasks.filter fun x => x.id != t.id }).filter fun b =>
      b.tasks != [] }
  let s := notifyOrigin t (endRevisions t (dropPrivate t (endParts (.image t.id) s)))
  cores.foldl (fun s n => collectTiles n s) (wakeTasks s)

/-- A terminated task that can end now: no core holds a member of it that runs or has operations at work, and its record
is not on its way to another package (13_tasks R328). -/
def reapable (s : State) (t : Task) : Bool :=
  t.doomed && !(s.batches.any fun b => b.sent && b.tasks.any fun x => x.id == t.id) && !(s.cores.any fun (_, c) => c.task == t.id &&
    match c.mode with
    | .running | .restoring | .stopped _ => true
    | .idle | .ended => false)

/-- Ends every terminated task that can end. Each end may terminate others. -/
def reap : Nat → State → State
  | 0, s => s
  | n + 1, s =>
    match s.tasks.find? (reapable s) with
    | some t => reap n (finishOne t s)
    | none => s

/-- Asks the cores of terminated tasks to stop (R410). -/
def stopDoomed (s : State) : State :=
  { s with cores := s.cores.map fun (n, c) =>
    if c.mode = .running ∧ ((s.task? c.task).map Task.doomed).getD false then (n, { c with stopReq := some .killed })
    else (n, c) }

/-- Every terminated task that can end has ended, and the others are asked to stop (R410). -/
def settleTasks (s : State) : State := stopDoomed (wakeBlocked (reap s.tasks.length s))

/-- A task ends, and every terminated task that can end with it. -/
def finishTask (task : Nat) (s : State) : State :=
  match s.task? task with
  | some t => settleTasks (finishOne t s)
  | none => s

/-- Firmware terminates some tasks (R410). -/
def terminate (ids : List Nat) (s : State) : State :=
  settleTasks { s with tasks := s.tasks.map fun t => if t.id ∈ ids then { t with doomed := true } else t }

/-- Firmware refuses a task before its first bundle and reports why (02_bundles R57; 13_tasks R322, R327). -/
def refuseTask (t : Task) (code : FaultCode) (rec : Word) (s : State) : State :=
  terminate [t.id] (reportFault t code rec 0 s)

end Sys2Proof.Machine
end

