-- ==== Sys2Proof/Machine/TaskOps.lean ====
section
/-! DEFINITION. The instructions that create, join and end tasks, move tiles through pipes, publish and
define revisable regions (13_tasks R324–R328; 06_sequencer R158; 14_revisions R334, R336, R347). -/

namespace Sys2Proof.Machine

open Sys2Proof

/-! ### SPAWN and FORK (13_tasks R327; 14_revisions R336) -/

/-- Who creates a task: the core, the task with its context, depth and view, and the point in its accesses
that the new task's first bundle waits for (04_memory_model R97). -/
structure Creator where
  core : Nat
  task : Nat
  asid : Nat
  view : Nat
  stamp : Nat
  bound : Nat

/-- The depth of the creating task. -/
def Creator.depth (k : Creator) (s : State) : Nat := ((s.task? k.task).map Task.depth).getD 0

/-- The placement mode of the creator's context. -/
def Creator.mode (k : Creator) (s : State) : Nat := ((s.context? k.asid).map Context.mode).getD 0

/-- The live revisions of the package (R336). -/
def liveRevs (s : State) : Nat := s.revs.countP fun (_, r) => revLive r

/-- The reason for which a well-formed record's SPAWN or FORK fails, if any.
DEDUCED (notes/assumptions/23). -/
def recordFault (k : Creator) (r : TaskRec) (s : State) : Option Nat :=
  if isAway s r && k.mode s == 0 && tileCores (r.reads ++ r.writes) != [] then some 5
  else none

/-- The revision that a FORK makes for its child (R336). -/
def newRev (k : Creator) (child : Nat) (s : State) : State :=
  let number := ((s.task? k.task).map Task.forkNo).getD 0 + 1
  { s.modTask k.task fun t => { t with forkNo := number } with
    revs := s.revs.set s.nextRev
      { asid := k.asid, parent := k.view, owner := child, forker := k.task, number := number, state := .forking,
        todo := none, conflicts := 0 }
    nextRev := s.nextRev + 1 }

/-- The place of the last batch for a package. -/
def lastBatch (acc : Nat) (bs : List Batch) : Option Nat :=
  ((bs.zipIdx.filter fun b => b.1.acc == acc).getLast?).map Prod.snd

/-- Adds a record to the forwarding engine's last batch for a package, behind the earlier ones (R315, R328). A job card
stands alone. -/
def addSent (acc mode : Nat) (x : SentTask) (s : State) : State :=
  let fits (b : Batch) : Bool :=
    mode == 0 && !b.sent && decide (b.tasks.length < 16) && b.tasks.all fun y => y.mode == 0
  match (lastBatch acc s.batches).filter fun i => (s.batches[i]?.map fits).getD false with
  | some i => { s with batches := s.batches.modify i fun b => { b with tasks := b.tasks ++ [x] } }
  | none => { s with batches := s.batches ++ [⟨acc, [x], s.timeU, false⟩] }

/-- Creates the task of a record, with the value that its creator pushes: zero when it creates none. -/
def createTask (k : Creator) (fork : Bool) (r : TaskRec) (bs : List Byte) (s : State) : State × Word :=
  let die := dieOf k.core
  if fork = true ∧ 4096 ≤ liveRevs s then (s, 0)
  else
    let (id, s) := takeId die s
    let t : Task :=
      { id := id, asid := k.asid, depth := k.depth s + 1, view := if fork then s.nextRev else k.view
        origin := if fork then .fork k.task else .spawn k.task, homeDie := die, spec := r, order := 0
        state := .pooled, token := some (k.core, k.stamp, k.bound) }
    let s := addTask t (if fork then newRev k id s else s)
    let s := if isAway s r then
        addSent r.acc (k.mode s)
          ⟨id, k.asid, t.depth, k.mode s,
            if k.mode s = 0 then 0 else (handlesOf (r.reads ++ r.writes)).length, bs, none, some k.task⟩ s
      else s
    (s, BitVec.ofNat 64 id)

/-- What a SPAWN or FORK does once its record is read: the state, and the push's value or its failure. -/
def spawnRecord (k : Creator) (fork : Bool) (bs : List Byte) (s : State) : State × PushState × Word :=
  match parseRecord bs with
  | .error aux => (s, .failed .illegalOperand aux, 0)
  | .ok r =>
    match recordFault k r s with
    | some aux => (s, .failed .illegalOperand aux, 0)
    | none =>
      if 8 ≤ k.depth s ∨ poolFree s (dieOf k.core) = 0 then (s, .ready, 0)
      else if fork && r.remote then (s, .failed .illegalOperand 6, 0)
      else
        let x := createTask k fork r bs s
        (x.1, .ready, x.2)

/-- The checks of a 64-byte aligned record or a descriptor read by R119 from tags 0x0, 0x8 and 0x9. -/
def checkRecord (s : State) (al : Nat) (addr : Word) (len : Nat) : Verdict :=
  (require (decide (tagOf addr.toNat ∈ [0x0, 0x8, 0x9])) .space addr).seq (checkLoad s al addr len)

/-- The creator of a task by a bundle of the executing core. -/
def creatorNow (s : State) : Creator :=
  ⟨s.cur, s.core.task, s.asidAt s.cur, s.viewAt s.cur, s.nextBundle, s.nextOp⟩

/-- A record of the same task's earlier SPAWN or FORK is still being read (13_tasks R315). -/
def recordBefore (s : State) (task id : Nat) : Bool :=
  s.ops.any fun o => o.task == task && decide (o.id < id) &&
    match o.kind with
    | .record _ _ _ => true
    | _ => false

/-- The effect of SPAWN and FORK at issue: a record in tile memory is read at once, any other through an
operation that the push awaits. Tasks are created in the order of issue (13_tasks R315). -/
def doSpawn (fork : Bool) (lat : Nat) (d : Fin 32) (addr : Word) (s : State) : State :=
  let runs := accessRuns s addr 256
  let p : Push := { scalarPush d lat 0 0 with addr := addr }
  if spaceOf s addr = .tile then
    let t := takeRuns s s.cur s.nextOp 0 runs
    let s := readRuns s (s.viewAt s.cur) runs
    match t.2 with
    | some code => s.addPush (failedPush code p)
    | none =>
      if recordBefore s s.core.task s.nextOp then
        let l : LoadOp := { runs := runs, nbytes := 256, sgn := false, vec := false, mask := 0, acq := none, got := t.1
                            next := runs.length, taken := true }
        (s.startOp 0 [] (.record fork addr l)).addPush { p with state := .awaiting s.nextOp }
      else
        let r := spawnRecord (creatorNow s) fork (gotBytes 256 t.1) s
        r.1.addPush { p with state := r.2.1, sval := r.2.2 }
  else
    let far := nextFar runs 0
    let l : LoadOp := { runs := runs, nbytes := 256, sgn := false, vec := false, mask := 0, acq := none, got := []
                        next := far.getD runs.length, taken := (hereRuns runs).isEmpty }
    let id := s.nextOp
    askFar id l ((s.startOp (spaceOf s addr).delay [] (.record fork addr l)).addPush { p with state := .awaiting id })

/-- A record's operation has all its bytes: the task is created, and the push is supplied. -/
def endRecord (o : Op) (fork : Bool) (l : LoadOp) (s : State) : State :=
  let k : Creator := ⟨o.core, o.task, o.asid, o.view, o.stamp, o.id⟩
  let r := spawnRecord k fork (gotBytes l.nbytes l.got) s
  (supplyPush o (fun p => { p with state := r.2.1, sval := r.2.2 }) r.1).dropOp o.id

/-- SPAWN (R327). -/
def execSpawn (d : Fin 32) (a : SSrc) (s : State) : Out :=
  slot Need.push (fun s => (needS s a).seq (checkRecord s 64 (s.rs a) 256))
    (fun s => doSpawn false 16 d (s.rs a) s) s

/-- FORK (14_revisions R336). -/
def execFork (d : Fin 32) (a : SSrc) (s : State) : Out :=
  slot Need.push (fun s => (needS s a).seq (checkRecord s 64 (s.rs a) 256))
    (fun s => doSpawn true 24 d (s.rs a) s) s

/-! ### JOIN and END (14_revisions R345, R347; 06_sequencer R158) -/

/-- Why the merge of a child of a forker has stopped, if one has (14_revisions R343). -/
def mergeStuck (s : State) (forker : Nat) : Option FaultCode :=
  s.revs.findSome? fun (_, r) => if r.forker = forker ∧ revLive r = true then r.stuck else none

/-- The revision of a child that the executing task forked and has not joined. -/
def childRev (s : State) (i : Nat) : Option (Nat × Rev) :=
  if i ∈ ((s.taskAt s.cur).map Task.joined).getD [] then none
  else s.revs.find? fun (_, r) => r.owner == i && r.forker == s.core.task && r.asid == s.asidAt s.cur

/-- Waits for the merges up to a fork number, or raises why one has stopped. -/
def awaitMerges (s : State) (n : Nat) : Verdict :=
  match mergeStuck s s.core.task with
  | some code => faultV code 0
  | none => .hold (.join n)

/-- The checks of JOIN. -/
def checkJoin (v : Word) (s : State) : Verdict :=
  if v = 0 then .ok
  else
    match childRev s v.toNat with
    | none => faultV .illegalOperand 0
    | some (_, r) => if revLive r then awaitMerges s r.number else .ok

/-- The value that JOIN pushes. -/
def joinValue (v : Word) (s : State) : Word :=
  match childRev s v.toNat with
  | some (_, r) =>
    match r.state with
    | .merged n => BitVec.ofNat 64 n
    | .discarded => BitVec.allOnes 64
    | .live | .forking => 0
  | none => 0

/-- The effect of JOIN. -/
def doJoin (d : Fin 32) (v : Word) (s : State) : State :=
  if v = 0 then pushS d 1 0 s
  else
    pushS d 1 (joinValue v s)
      (s.modTask s.core.task fun t => { t with joined := v.toNat :: t.joined })

/-- JOIN (14_revisions R347). -/
def execJoin (d : Fin 32) (a : SSrc) (s : State) : Out :=
  slot Need.push (fun s => (needS s a).seq (checkJoin (s.rs a) s)) (fun s => doJoin d (s.rs a) s) s

/-- A child of the executing task is neither merged nor discarded (R345). -/
def unmergedChild (s : State) : Bool := (liveForks s s.core.task) != []

/-- A store or a record read of the core is still at work: END's token covers it (04_memory_model R97).
DEDUCED (notes/assumptions/22). -/
def storesPending (s : State) : Bool :=
  s.ops.any fun o => o.core == s.cur &&
    match o.kind with
    | .store _ | .record _ _ _ => true
    | _ => false

/-- The checks of END (R158): its tokens are releases at the widest scope that tasks of a package have between them
(04_memory_model R97).
DEDUCED (notes/assumptions/22). -/
def checkEnd (s : State) : Verdict :=
  (checkWait (fun _ => some 0) s).seq
    ((if unmergedChild s then awaitMerges s (((s.taskAt s.cur).map Task.forkNo).getD 0) else .ok).seq
      ((holdIf (storesPending s)).seq (checkFence .pkg s)))

/-- The effect of END at issue: pending pushes and their replies are discarded, and the member ends. -/
def doEnd (s : State) : State :=
  let mine (o : Op) : Bool := o.core == s.cur && o.task == s.core.task &&
    match o.kind with
    | .load _ => true
    | _ => false
  let t : State := { s.modCtx fun c => { c with pushes := [] } with ops := s.ops.filter fun o => !mine o }
  ((s.ops.filter mine).foldl (fun t o => endParts (.op o.id) t) t).defer .endTask

/-- A gang's clamp lines after a member has ended: it counts as arrived on each (R154). -/
def releaseLines (task : Nat) (s : State) : State :=
  match s.task? task with
  | none => s
  | some t =>
    { s with dies := s.dies.map fun (d, x) => (d, { x with clamps := x.clamps.map fun (n, k) =>
      if k.task = task ∧ k.releaseAt.isNone ∧ k.arrived ≠ [] ∧ gangArrived t k = true then
        (n, { k with releaseAt := some (s.cyc + 6) })
      else (n, k) }) }

/-- The task after a member's END has issued: it completes with its last member (R158). -/
def completeEnd (core : Nat) (s : State) : State :=
  let c := s.coreAt core
  if c.mode = .ended then
    let s := s.modTask c.task fun t => { t with ended := if c.member ∈ t.ended then t.ended else t.ended ++ [c.member] }
    match s.task? c.task with
    | some t => if t.width ≤ t.ended.length then finishTask t.id s else releaseLines t.id s
    | none => s
  else s

/-- END (R158): it stands alone in its bundle. -/
def execEndTask (s : State) : Out :=
  match slot {} checkEnd doEnd s with
  | .next t => .next (completeEnd s.cur t)
  | o => o

/-! ### Pipes (13_tasks R323–R325) -/

/-- A pipe of the executing task's gang. -/
def pipeAt (s : State) (p : Nat) : Option Pipe := (s.taskAt s.cur).bind fun t => t.pipes.get? p

/-- The EMPTY slot of a pipe with the highest handle. -/
def emptyPipeSlot (p : Pipe) : Option Nat := ((p.slots.filter fun x => x.state == .empty).map PipeSlot.handle).max?

/-- Changes a pipe's slot of a handle. -/
def Pipe.modSlot (p : Pipe) (h : Nat) (f : PipeSlot → PipeSlot) : Pipe :=
  { p with slots := p.slots.map fun x => if x.handle = h then f x else x }

/-- Changes a pipe of a task. -/
def modPipe (task n : Nat) (f : Pipe → Pipe) (s : State) : State :=
  s.modTask task fun t =>
    match t.pipes.get? n with
    | some p => { t with pipes := t.pipes.set n (f p) }
    | none => t

/-- The checks of PIPEW (R324). -/
def checkPipew (n : Nat) (v : Word) (s : State) : Verdict :=
  match pipeAt s n with
  | none => faultV .illegalOperand 0
  | some p =>
    if p.src ≠ s.core.member then faultV .illegalOperand 0
    else
      match s.tileOfReg v with
      | none => faultV .tileHandle 0
      | some (_, e) =>
        (require (decide (tileBytes e ≤ 3 * 2 ^ 20)) .tileShape 0).seq
          (holdIf (acqPending s || e.expPending.isSome || (emptyPipeSlot p).isNone ||
            heldRange s s.cur false (tileByteKey s.cur e 0) (tileBytes e)))

/-- The effect of PIPEW: a slot is claimed, and the copy is under way. -/
def doPipew (n : Nat) (v : Word) (s : State) : State :=
  match (pipeAt s n).bind emptyPipeSlot, s.tileOfReg v with
  | some h, some (i, e) =>
    let bytes := tileBytes e
    let s := modPipe s.core.task n
      (fun p => { p.modSlot h (fun x => { x with state := .claimed }) with order := p.order ++ [h] }) s
    (s.startOp (16 + (bytes + 63) / 64) [tileRange s.cur e false] (.pipew n i h bytes)).modCtx fun c => c.raise .t
  | _, _ => s

/-- PIPEW (R324). -/
def execPipew (a : SSrc) (p : Fin 16) (s : State) : Out :=
  slot { t := 1, ranges := 1 } (fun s => (needS s a).seq (checkPipew p.val (s.rs a) s))
    (fun s => doPipew p.val (s.rs a) s) s

/-- The oldest claimed or filled slot of a pipe, when it is FILLED: its handle and its entry. -/
def filledSlot (p : Pipe) : Option (Nat × Nat) :=
  match p.order with
  | h :: _ => (p.slots.find? fun x => x.handle == h && x.state == .filled).bind fun x => x.entry.map fun e => (h, e)
  | [] => none

/-- The checks of PIPER (R325). -/
def checkPiper (n : Nat) (s : State) : Verdict :=
  match pipeAt s n with
  | none => faultV .illegalOperand 0
  | some p => if p.dst ≠ s.core.member then faultV .illegalOperand 0 else holdIf (filledSlot p).isNone

/-- The effect of PIPER. -/
def doPiper (n : Nat) (d : Fin 32) (s : State) : State :=
  match (pipeAt s n).bind filledSlot with
  | some (h, e) =>
    let s := modPipe s.core.task n
      (fun p => { p.modSlot h (fun x => { x with state := .held }) with order := p.order.tail }) s
    pushS d 1 (BitVec.ofNat 64 h) (s.defer (.holdSlot h e))
  | none => s

/-- PIPER (R325). -/
def execPiper (d : Fin 32) (p : Fin 16) (s : State) : Out :=
  slot Need.push (checkPiper p.val) (fun s => doPiper p.val d s) s

/-! ### PUBLISH (13_tasks R326) -/

/-- The publication-counter address of the executing task's context. -/
def pubcntNow (s : State) : Word := ((s.context? (s.asidAt s.cur)).map Context.pubcnt).getD 0

/-- The core's PUBLISH has sent its add. -/
def publishAsked (s : State) : Bool :=
  s.ops.any fun o => o.core == s.cur &&
    match o.kind with
    | .publish _ => true
    | _ => false

/-- What PUBLISH does after its writes are performed at SYS. -/
def checkAdd (s : State) : Verdict :=
  if pubcntNow s = 0 then .ok
  else
    match s.core.pubDone with
    | some none => .ok
    | some (some code) => faultV code 0
    | none => if publishAsked s then .hold .none else .hold .publish

/-- PUBLISH (R326). -/
def execPublish (s : State) : Out := slot {} (fun s => (checkFence .sys s).seq (checkAdd s)) id s

/-! ### RVSET (14_revisions R333, R334) -/

/-- A region descriptor's fields. -/
structure Descriptor where
  base : Nat
  len : Nat
  zeros : Nat
  widthCode : Nat
  signed : Bool
  widthZeros : Nat
  merge : Nat
  mergeZeros : Nat

/-- The descriptor of 16 bytes (Table 14-1). -/
def descriptorOf (b : List Byte) : Descriptor :=
  { base := fieldAt b 0 4 * 2 ^ 16, len := fieldAt b 4 4 * 2 ^ 16, zeros := fieldAt b 8 6
    widthCode := fieldAt b 14 1 % 4, signed := decide (128 ≤ fieldAt b 14 1), widthZeros := abits (fieldAt b 14 1) 2 5
    merge := fieldAt b 15 1 % 16, mergeZeros := fieldAt b 15 1 / 16 }

/-- The element width of a descriptor in bits. -/
def Descriptor.width (x : Descriptor) : Nat := 8 * 2 ^ x.widthCode

/-- The bytes of a region's conflict map: one bit for each element. -/
def mapBytes (len width : Nat) : Nat := len / width

/-- The bytes of a region's map, none without one. -/
def Region.mapLen (r : Region) : Nat := if r.cmap = 0 then 0 else mapBytes r.len r.width

/-- The regions of the executing task's context other than one. -/
def otherRegions (s : State) (k : Nat) : List Region :=
  (((s.context? (s.asidAt s.cur)).map Context.regions).getD []).filterMap fun (n, r) => if n = k then none else some r

/-- A range that a definition may not overlap (REGION_OVERLAP). -/
def regionClash (s : State) (k cmap : Nat) (x : Descriptor) : Bool :=
  let rs := otherRegions s k
  let all := otherRegions s 64
  let m := if cmap = 0 then 0 else mapBytes x.len x.width
  (rs.any fun r => overlaps x.base x.len r.base r.len) ||
    (((s.context? (s.asidAt s.cur)).map fun c => touchesHeap c x.base x.len).getD false) ||
    (all.any fun r => overlaps cmap m r.base r.len) || overlaps cmap m x.base x.len

/-- The pages of a range translated for a write, where each must be LOCAL (R334). -/
def checkRegionPages (s : State) (asid : Nat) : Nat → Nat → Nat → Verdict
  | 0, _, _ => .ok
  | f + 1, va, stop =>
    if stop ≤ va then .ok
    else
      let r := engineWalk s s.cur asid va
      let far := match r with
        | .leaf e => e.remote.isSome
        | .nonResident _ _ _ _ | .failed _ => false
      ((pageCheck false true (BitVec.ofNat 64 va) r).seq (require (!far) .migration (BitVec.ofNat 64 va))).seq
        (checkRegionPages s asid f (pageEnd va r) stop)

/-- The local pieces of a range that its pages hold: VA, physical address, bytes. -/
def regionFrames (s : State) (asid : Nat) : Nat → Nat → Nat → List (Nat × Nat × Nat)
  | 0, _, _ => []
  | f + 1, va, stop =>
    if stop ≤ va then []
    else
      let r := engineWalk s s.cur asid va
      let stop' := min stop (pageEnd va r)
      (match pagePlace asid va r with
        | .here k => [(va, k, stop' - va)]
        | .far _ _ _ | .zero => []) ++ regionFrames s asid f (pageEnd va r) stop

/-- The pages of a range and of a map in ascending VA.
DEDUCED (notes/assumptions/27). -/
def regionSpans (x : Descriptor) (cmap : Nat) : List (Nat × Nat) :=
  let m := if cmap = 0 then 0 else mapBytes x.len x.width
  if m = 0 then [(x.base, x.len)]
  else if cmap < x.base then [(cmap, m), (x.base, x.len)] else [(x.base, x.len), (cmap, m)]

/-- A page of some spans is in transit (12_migration R305). -/
def spansMoving (s : State) (asid : Nat) (xs : List (Nat × Nat)) : Bool :=
  (s.mig.moves.map (fun m => m.req.page) ++ s.mig.incoming.map Incoming.page).any fun p =>
    p.asid == asid && xs.any fun (a, n) => overlaps a n (p.vpn * 2 ^ 16) (pageBytes p.size)

/-- The number of pages of some spans. -/
def spanPages (s : State) (asid : Nat) (xs : List (Nat × Nat)) : Nat :=
  (xs.map fun (a, n) => (rangePages s asid (n / 2 ^ 16 + 2) a (a + n)).length).sum

/-- The stall of a RVSET's page checks: nominally 200 clock cycles and 20 for each page. -/
def regionStall (s : State) (asid : Nat) (xs : List (Nat × Nat)) : Verdict :=
  match s.core.waitSince with
  | some t => holdIf (decide (s.cyc < t + 200 + 20 * spanPages s asid xs))
  | none => .hold .none

/-- The checks of a descriptor. -/
def checkDescriptor (k cmap : Nat) (x : Descriptor) (s : State) : Verdict :=
  let asid := s.asidAt s.cur
  let xs := regionSpans x cmap
  firstV [
    require (x.zeros == 0 && x.widthZeros == 0 && x.mergeZeros == 0 && x.len != 0 &&
      decide (x.base + x.len ≤ 2 ^ 48)) .illegalOperand 0,
    require (decide (x.merge < 8)) .mergeType 0,
    require ((x.merge == 7) == (cmap != 0)) .illegalOperand 0,
    require (!regionClash s k cmap x) .regionOverlap 0,
    holdIf (spansMoving s asid xs),
    firstV (xs.map fun (a, n) => checkRegionPages s asid (n / 2 ^ 16 + 2) a (a + n)),
    regionStall s asid xs]

/-- A descriptor read from a remote home for the core, with its error. -/
def descRead (s : State) (runs : List Run) : Option (LoadOp × Option FaultCode) :=
  s.ops.findSome? fun o =>
    match o.kind with
    | .desc l err => if o.core = s.cur ∧ l.runs = runs then some (l, err) else none
    | _ => none

/-- The bytes of a RVSET's descriptor, or what it waits for or raises. -/
def readDescriptor (s : State) (addr : Word) : Except Verdict (List Byte) :=
  let runs := (reach false s (accessRuns s addr 16)).getD []
  if (nextFar runs 0).isSome then
    match descRead s runs with
    | none => .error (.hold (.desc runs))
    | some (_, some code) => .error (faultV code addr)
    | some (l, none) => if l.runs.length ≤ l.next then .ok (gotBytes 16 l.got) else .error (.hold .none)
  else
    match (takeRuns s s.cur s.nextOp 0 runs).2 with
    | some code => .error (faultV code addr)
    | none => .ok (gotBytes 16 (takeRuns s s.cur s.nextOp 0 runs).1)

/-- RVSET's region number and conflict map. -/
def regionArgs (v : Word) : Nat × Nat := (bits v 0 6, bits v 6 42 * 64)

/-- A revision of the executing task's context is live (R334). -/
def revisionLive (s : State) : Bool := s.revs.any fun (_, r) => r.asid == s.asidAt s.cur && revLive r

/-- A FORK of the executing task's context has issued, and its record is still being read: what it makes is live from
its FORK (R331). -/
def forkReading (s : State) : Bool :=
  s.ops.any fun o => o.asid == s.asidAt s.cur &&
    match o.kind with
    | .record fork _ _ => fork
    | _ => false

/-- The checks of RVSET (R334). -/
def checkRvset (clr : Bool) (addr v : Word) (s : State) : Verdict :=
  let (k, cmap) := regionArgs v
  ((require (bits v 48 16 == 0 && s.viewAt s.cur == 0 && !revisionLive s) .illegalOperand 0).seq
    (holdIf (forkReading s))).seq
    (if clr then require (cmap == 0) .illegalOperand 0
     else
      (checkRecord s 16 addr 16).seq
        (match readDescriptor s addr with
          | .error w => w
          | .ok bs => checkDescriptor k cmap (descriptorOf bs) s))

/-- Another region of the context covers a page. -/
def otherCovers (s : State) (asid k va n : Nat) : Bool :=
  (((s.context? asid).map Context.regions).getD []).any fun (j, r) =>
    j != k && (overlaps va n r.base r.len || overlaps va n r.cmap r.mapLen)

/-- System software has pinned a page (12_migration R305). -/
def systemPin (s : State) (asid va n : Nat) : Bool :=
  (((s.context? asid).map Context.pins).getD []).any fun x => overlaps x.1 x.2 va n

/-- Unpins the pages of a region and of its map, but those that another region covers (R334, R335) or that system
software has pinned (12_migration R305).
DEDUCED (notes/assumptions/27). -/
def unpinRegion (asid k : Nat) (s : State) : State :=
  match ((s.context? asid).map Context.regions).bind fun rs => rs.get? k with
  | none => s
  | some r =>
    let pages (a n : Nat) := if n = 0 then [] else rangePages s asid (n / 2 ^ 16 + 2) a (a + n)
    (pages r.base r.len ++ pages r.cmap r.mapLen).foldl (fun s (va, n) =>
      if otherCovers s asid k va n || systemPin s asid va n then s else pinPage asid va false s) s

/-- A region undefined. -/
def clearRegion (asid k : Nat) (s : State) : State :=
  (unpinRegion asid k s).modContext asid fun c => { c with regions := c.regions.erase k }

/-- The region of a descriptor. -/
def regionFor (s : State) (asid cmap : Nat) (x : Descriptor) : Region :=
  { base := x.base, len := x.len, width := x.width, signed := x.signed, merge := x.merge, cmap := cmap
    frames := regionFrames s asid (x.len / 2 ^ 16 + 2) x.base (x.base + x.len) }

/-- The effect of RVSET. -/
def doRvset (clr : Bool) (addr v : Word) (s : State) : State :=
  let (k, cmap) := regionArgs v
  let asid := s.asidAt s.cur
  if clr then clearRegion asid k s
  else
    match readDescriptor s addr with
    | .error _ => s
    | .ok bs =>
      let x := descriptorOf bs
      let r := regionFor s asid cmap x
      let s := clearRegion asid k s
      let s := (regionSpans x cmap).foldl (fun s (a, n) => pinRange asid a n true s) s
      let s : State := { s with ops := s.ops.filter fun o => !(o.core == s.cur &&
        match o.kind with
        | .desc _ _ => true
        | _ => false) }
      s.modContext asid fun c => { c with regions := c.regions.set k r }

/-- RVSET (R334). -/
def execRvset (a b : SSrc) (clr : Bool) (s : State) : Out :=
  slot {} (fun s => (needSS s a b).seq (checkRvset clr (s.rs a) (s.rs b) s))
    (fun s => doRvset clr (s.rs a) (s.rs b) s) s

end Sys2Proof.Machine
end

