-- ==== Sys2Proof/Machine/FrontEnd.lean ====
section
/-! DEFINITION. The packets of host queues (16_front_end R380–R386; 13_tasks R326). -/

namespace Sys2Proof.Machine

open Sys2Proof

/-! ### Addresses (R381) -/

/-- Where the bytes of an address in a packet are for a master, or the code with which it fails its checks. -/
def pktSideOf (m : Nat) (s : State) (asid : Nat) (addr : Word) (len al : Nat) (rd wr : Bool) : Except FaultCode PktSide :=
  let a := addr.toNat
  if abits a 63 1 = 1 then
    if abits a 52 11 ≠ 0 ∨ 2 ^ 52 < abits a 0 52 + len then .error .illegalOperand
    else if a % al ≠ 0 then .error .align
    else if wr && !allowed s .hostPort m (abits a 0 52) (abits a 0 52 + len - 1) false true then
      .error .accessTable
    else .ok (.host (abits a 0 52))
  else if !spaceOk a len || (tagOf a != 0x0 && tagOf a != 0xA) then .error .space
  else if a % al ≠ 0 then .error .align
  else
    match tagOf a with
    | 0x0 => (masterRuns s m asid (vaOf a) len rd wr).map .dev
    | 0xA =>
      if ringAllowed s m (ringDie a) (ringOff a) len rd wr then
        .ok (.dev [⟨.here (ringKey (ringDie a) (ringOff a)), len⟩])
      else .error .accessTable
    | _ => .error .space

/-- Where the bytes of an address in a packet are for the lock-step pair. -/
def pktSide (s : State) (asid : Nat) (addr : Word) (len al : Nat) (rd wr : Bool) : Except FaultCode PktSide :=
  pktSideOf pairMaster s asid addr len al rd wr

/-- The bytes of a side with their poison, as far as they have come, or the error that its read meets. -/
def fetchSide (s : State) (c : Client) (row : Nat) (x : PktSide) (len : Nat) : Fetched :=
  match x with
  | .host a => { data := (Memory.getN s.host a len).map fun b => (b, false) }
  | .dev rs => fetchFirm s c row rs

/-- Reads bytes at an address of a packet for a master, as far as they have come. -/
def fetchAddr (s : State) (m : Nat) (c : Client) (row asid : Nat) (addr : Word) (len al : Nat) : Fetched :=
  match pktSideOf m s asid addr len al true false with
  | .error code => { fail := some code }
  | .ok x => soundBytes (fetchSide s c row x len)

/-- The runs of a side's write, where they are now reached. -/
def writeRunsOf (s : State) (x : PktSide) : List Run :=
  match x with
  | .host _ => []
  | .dev rs => (reach true s rs).getD []

/-- Why the copies of granules that a write of a side needs in the base revision cannot be made, if they cannot
(14_revisions R339). -/
def sideFail (s : State) (x : PktSide) : Option FaultCode := copiesFail s 0 (storeGranules (writeRunsOf s x))

/-- Writes bytes to a side for an operation: at once, or by packets to other packages. -/
def writePkt (o : Op) (c : Client) (row : Nat) (x : PktSide) (d : RowData) (s : State) : State :=
  match x with
  | .host a => { s with host := Memory.setN s.host a (d.map Prod.fst) }
  | .dev _ => storeRuns o c row (writeRunsOf s x) d s

/-! ### Packets (R380, R382) -/

/-- The fields of a packet's header, and the bytes of its body beyond some number, are as they must be. -/
def packetOk (p : Packet) (used : Nat) : Bool :=
  decide (p.flags < 4) && p.zero == 0 && (p.body.drop used).all (· == 0)

/-- A 64-bit field of a packet's body. -/
def Packet.word (p : Packet) (off : Nat) : Word := BitVec.ofNat 64 (fieldAt p.body off 8)

/-- A WAIT of a queue has started and is not satisfied. -/
def waitingPacket (s : State) (qid : Nat) : Bool :=
  s.ops.any fun o =>
    match o.kind with
    | .packet p => p.qid == qid && p.kind == .wait
    | _ => false

/-- The worker that reads packets, none when every worker is retired (R376, R389).
DESIGN CHOICE (notes/assumptions/73). -/
def workerOf (s : State) : Option Nat := (List.range 8).find? (· ∉ s.sys.workersOut)

/-- A queue may start its next packet (R378, R379). -/
def mayStartPacket (s : State) (qid : Nat) (q : Queue) : Bool :=
  (workerOf s).isSome && q.state == .mapped && q.removing.isNone && decide (q.started < q.head) && decide (q.inflight.length < 1024) &&
    !waitingPacket s qid

/-- The bytes of a queue's next packet, which a worker reads (17_system Table 17-4). -/
def nextBytes (s : State) (qid : Nat) (q : Queue) : Fetched :=
  fetchAddr s (workerMaster + (workerOf s).getD 0) (.start qid) 0 q.asid (q.ring + BitVec.ofNat 64 (64 * (q.started % 2 ^ q.logSize))) 64 1

/-- A packet's turn has come: a barrier and a WAIT wait for every packet before them (R382). -/
def packetTurn (q : Queue) (p : Packet) : Bool := !(p.barrier || p.kind == 2) || q.inflight == []

/-- A packet starts. -/
def startPacket (qid : Nat) (q : Queue) (p : Packet) (lat : Nat) (k : PktKind) (taskId : Nat) (finished : Bool)
    (status : Option FaultCode) (s : State) : State :=
  modQueue qid (fun q => { q with started := q.started + 1, inflight := q.inflight ++ [q.started] })
    ((endParts (.start qid) s).startEngineOp q.asid lat (.packet
      { qid := qid, index := q.started, tag := p.tag, irq := p.irq, kindCode := p.kind, kind := k
        status := status, faultRec := 0, taskId := taskId, finished := finished }))

/-- A queue halts at its next packet, whose reads are over (R381). -/
def haltStart (qid : Nat) (code : FaultCode) (s : State) : State := haltQueue qid code (endParts (.start qid) s)

/-- What a row does with the next packet of a queue when it is of the row's kind and its turn: a packet that cannot be
read or is malformed halts the queue (R381). -/
def startOf (kind used qid : Nat) (f : Queue → Packet → State → State) (q : Queue) (d : RowData) (s : State) : State :=
  let p := packetOf (d.map Prod.fst)
  if !packetTurn q p then s
  else if p.kind ≠ kind then (if kind = 1 ∧ (p.kind = 0 ∨ 5 < p.kind) then haltStart qid .illegalOperand s else s)
  else if !packetOk p used then haltStart qid .illegalOperand s
  else f q p s

/-- Reads the next packet of a queue, and starts it when it is of a row's kind. -/
def withPacket (kind used qid : Nat) (f : Queue → Packet → State → State) (s : State) : State :=
  match s.queues.get? qid with
  | none => s
  | some q =>
    if !mayStartPacket s qid q then s
    else
      withFetched (nextBytes s qid q) (engineOp s q.asid) (.start qid) 0 (haltStart qid)
        (startOf kind used qid f q) s

/-- Reads bytes that a packet names before it starts. -/
def withRead (qid : Nat) (q : Queue) (addr : Word) (len al : Nat) (k : List Byte → State → State) (s : State) : State :=
  withFetched (fetchAddr s pairMaster (.start qid) 1 q.asid addr len al) (engineOp s q.asid) (.start qid) 1 (haltStart qid)
    (fun d s => k (d.map Prod.fst) s) s

/-! ### LAUNCH -/

/-- A record that a LAUNCH reads is well formed: placed by proxy queues it names no tile (13_tasks R311, R327). -/
def launchRecord (s : State) (asid : Nat) (b : List Byte) : Option TaskRec :=
  match parseRecord b with
  | .error _ => none
  | .ok r =>
    if isAway s r && ((s.context? asid).map Context.mode).getD 0 == 0 && tileCores (r.reads ++ r.writes) != [] then none
    else some r

/-- The root task of a LAUNCH. -/
def launchRoot (qid : Nat) (q : Queue) (p : Packet) (r : TaskRec) (bs : List Byte) (s : State) : State :=
  let (id, s) := takeId 0 s
  let mode := ((s.context? q.asid).map Context.mode).getD 0
  let t : Task :=
    { id := id, asid := q.asid, depth := 0, view := 0, origin := .packet qid q.started, homeDie := 0, spec := r, order := 0
      state := .pooled }
  let s := addTask t (startPacket qid q p 0 (.launch id) id false none s)
  if isAway s r then
    addSent r.acc mode
      ⟨id, q.asid, 0, mode, if mode = 0 then 0 else (handlesOf (r.reads ++ r.writes)).length, bs, none, none⟩ s
  else s

/-- A LAUNCH whose turn it is: the record is read, and its task created while die 0's pool has room. -/
def launchPacket (qid : Nat) (q : Queue) (p : Packet) (s : State) : State :=
  withRead qid q (p.word 0) 256 64 (fun bs s =>
    match launchRecord s q.asid bs with
    | none => startPacket qid q p 0 (.launch 0) 0 true (some .illegalOperand) s
    | some r => if poolFree s 0 = 0 then s else launchRoot qid q p r bs s) s

/-- LAUNCH (R380). -/
def execLaunch (qid : Nat) (_ : Unit) (s : State) : Out := .next (withPacket 1 8 qid (launchPacket qid) s)

/-! ### WAIT and the signal unit (R384) -/

/-- The awaited word has reached a value. -/
def waitTrue (bs : List Byte) (v : Word) : Bool := decide (v.toNat ≤ leNat bs)

/-- A WAIT whose turn it is: it completes at once, or its queue is parked. -/
def waitPacket (qid : Nat) (q : Queue) (p : Packet) (s : State) : State :=
  withRead qid q (p.word 0) 8 8 (fun bs s =>
    if waitTrue bs (p.word 8) then startPacket qid q p 0 .wait 0 true none s
    else
      modQueue qid (fun q => { q with state := .parked, waddr := p.word 0, wval := p.word 8 })
        (startPacket qid q p 0 .wait 0 false none s)) s

/-- WAIT_PACKET (R384). -/
def execWaitPacket (qid : Nat) (_ : Unit) (s : State) : Out := .next (withPacket 2 16 qid (waitPacket qid) s)

/-- The WAIT of a parked queue is satisfied: the queue is WAITING from now. -/
def endWait (qid : Nat) (s : State) : State :=
  let s : State := { s with ops := s.ops.map fun o =>
    match o.kind with
    | .packet p =>
      if p.qid = qid ∧ p.kind = .wait then { o with kind := .packet { p with finished := true } } else o
    | _ => o }
  modQueue qid (fun q => { q with state := .waiting, since := nowNs s }) s

/-- What the signal unit does with the word of a parked queue. -/
def polled (qid : Nat) (q : Queue) (d : RowData) (s : State) : State :=
  let s' := endParts (.parked qid) s
  if waitTrue (d.map Prod.fst) q.wval then endWait qid s' else s'

/-- SIGNAL_UNIT_POLL (R384). -/
def execSignalUnitPoll (qid : Nat) (_ : Unit) (s : State) : Out :=
  .next (match s.queues.get? qid with
    | some q =>
      if q.state = .parked then
        withFetched (fetchAddr s signalMaster (.parked qid) 0 q.asid q.waddr 8 8) (engineOp s q.asid) (.parked qid) 0
          (fun code s => haltQueue qid code (endParts (.parked qid) s)) (polled qid q) s
      else s
    | none => s)

/-! ### SIGNAL, COPY, PUBLISH -/

/-- A SIGNAL whose turn it is: its write is issued. -/
def signalPacket (qid : Nat) (q : Queue) (p : Packet) (s : State) : State :=
  let add := fieldAt p.body 16 1 == 1
  if (p.word 0).toNat % 8 ≠ 0 ∨ 1 < fieldAt p.body 16 1 then haltStart qid .illegalOperand s
  else
    match pktSide s q.asid (p.word 0) 8 8 add true with
    | .error code => haltStart qid code s
    | .ok x => startPacket qid q p 0 (.signal x add false (p.word 8)) 0 false none s

/-- SIGNAL_PACKET (R380, R382). -/
def execSignalPacket (qid : Nat) (_ : Unit) (s : State) : Out :=
  .next (withPacket 3 17 qid (signalPacket qid) s)

/-- A COPY whose turn it is: the host port begins. -/
def copyPacket (qid : Nat) (q : Queue) (p : Packet) (s : State) : State :=
  let n := (p.word 16).toNat
  if n = 0 ∨ 2 ^ 32 < n then haltStart qid .illegalOperand s
  else
    match pktSide s q.asid (p.word 0) n 1 false true, pktSide s q.asid (p.word 8) n 1 true false with
    | .error code, _ => haltStart qid code s
    | .ok _, .error code => haltStart qid code s
    | .ok dst, .ok src => startPacket qid q p 0 (.copy dst src n false) 0 false none s

/-- COPY_PACKET (R380). -/
def execCopyPacket (qid : Nat) (_ : Unit) (s : State) : Out :=
  .next (withPacket 4 24 qid (copyPacket qid) s)

/-- A PUBLISH whose turn it is: the add is sent, unless the context has no counter. -/
def publishPacket (qid : Nat) (q : Queue) (p : Packet) (s : State) : State :=
  let none_ := ((s.context? q.asid).map Context.pubcnt).getD 0 == 0
  startPacket qid q p 0 .publish 0 none_ none s

/-- PUBLISH_PACKET (R380). -/
def execPublishPacket (qid : Nat) (_ : Unit) (s : State) : Out :=
  .next (withPacket 5 0 qid (publishPacket qid) s)

/-- Adds to a word of 64 bits. -/
def addWord (d : RowData) (v : Nat) : List Byte := leBytes 8 ((leNat (d.map Prod.fst) + v) % 2 ^ 64)

/-- A granule of a side's bytes is being copied (14_revisions R339), or an earlier request of this package for its page,
which has come here since, is unanswered (12_migration R300). -/
def sideBusy (s : State) (o : Op) (wr : Bool) (x : PktSide) : Bool :=
  match x with
  | .host _ => false
  | .dev rs => (hereRuns ((reach wr s rs).getD [])).any fun (k, n) => granBusy s k n || requestsBefore s o.id k n

/-- A step of an operation has packets. -/
def hasStep (s : State) (c : Client) (row : Nat) : Bool := s.ops.any (isPartOf c row)

/-- The publication counter of a context has one added (13_tasks R326): at once in host memory or in this package's, where
another package owns the word by a packet. What comes after is told the error, if any. -/
def countPublish (o : Op) (done : Option FaultCode → State → State) (s : State) : State :=
  let addr := ((s.context? o.asid).map Context.pubcnt).getD 0
  match pktSide s o.asid addr 8 8 true true with
  | .error code => done (some code) s
  | .ok x =>
    if hasStep s (.op o.id) 0 then
      match stepAnswers s (.op o.id) 0 with
      | (true, _) => s
      | (false, err) => done err (endParts (.op o.id) s)
    else if sideBusy s o true x then s
    else
      match x, reach true s (writeRunsOf s x) with
      | .dev _, some [⟨.far acc size t, _⟩] => startPart o (.op o.id) 0 (.far acc size t) (.add 1) s
      | _, _ =>
        let f := soundBytes (fetchSide s .posted 0 x 8)
        match f.fail.or (sideFail s x) with
        | some code => done (some code) s
        | none => done none (writePkt o .posted 0 x ((addWord f.data 1).map (·, false)) s)

/-- The add of a core's PUBLISH: its bundle issues, or raises the error. -/
def countCore (o : Op) (s : State) : State :=
  countPublish o (fun err s => (s.modCore o.core fun c => { c with pubDone := some err }).dropOp o.id)
    (s.modOp o.id fun x => { x with kind := .publish true })

/-- The add of a PUBLISH packet. -/
def countPacket (o : Op) (p : PktOp) (s : State) : State :=
  countPublish o (fun err s => answerPacket o { p with noted := false } err s)
    (s.modOp o.id fun x => { x with kind := .packet { p with noted := true } })

/-- PUBLISH_ACKNOWLEDGE (R326): the host port has performed the add. -/
def execPublishAcknowledge (op : Nat) (s : State) : Out :=
  .next (match s.op? op with
    | some o =>
      match o.kind with
      | .publish _ => countCore o s
      | .packet p => if p.kind = .publish ∧ p.finished = false then countPacket o p s else s
      | _ => s
    | none => s)

/-! ### Completion (R386) -/

/-- The record of a completion (Table 16-4).
DEDUCED (notes/assumptions/41). -/
def completionBytes (p : PktOp) : List Byte := completionRecord p.tag p.kindCode p.status p.index p.faultRec p.taskId

/-- Arms the coalescing timer of a queue; a window of 0 sends the message at once. -/
def armTimer (qid : Nat) (q : Queue) (s : State) : State :=
  if q.coal = 0 then { s with msix := s.msix ++ [q.vector] }
  else modQueue qid (fun q => { q with armed := some (q.armed.getD (s.timeU + q.coal * microU)) }) s

/-- A completion's record is written, or cannot be: DONE advances, and the timer is armed or the queue halts (R381). -/
def endRecordOf (o : Op) (p : PktOp) (q : Queue) (err : Option FaultCode) (s : State) : State :=
  let s := modQueue p.qid (fun q => { q with done := q.done + 1, inflight := q.inflight.filter (· != p.index) })
    (endParts (.op o.id) (s.dropOp o.id))
  match err with
  | some code => haltQueue p.qid code s
  | none => if p.irq then armTimer p.qid q s else s

/-- Another completion of a queue has its record on its way to another package. -/
def recordOnWay (s : State) (id qid : Nat) : Bool :=
  s.ops.any fun o => o.id != id &&
    match o.kind with
    | .packet p => p.qid == qid && p.noted
    | _ => false

/-- A packet completes: its record, DONE, and the timer. A record that goes to another package is awaited, as are those
before it. -/
def recordPacket (o : Op) (p : PktOp) (s : State) : State :=
  match s.queues.get? p.qid with
  | none => s.dropOp o.id
  | some q =>
    if p.index ∉ q.inflight then s.dropOp o.id
    else if recordOnWay s o.id p.qid then s
    else if p.noted then
      match stepAnswers s (.op o.id) 2 with
      | (true, _) => s
      | (false, err) => endRecordOf o p q err s
    else
      match pktSide s q.asid (q.cring + BitVec.ofNat 64 (32 * (q.done % 2 ^ q.logSize))) 32 1 false true with
      | .error code => endRecordOf o p q (some code) s
      | .ok x =>
        if sideBusy s o true x then s
        else
          match sideFail s x with
          | some code => endRecordOf o p q (some code) s
          | none =>
            let t := writePkt o (.op o.id) 2 x ((completionBytes p).map fun b => (b, false)) s
            if hasStep t (.op o.id) 2 then t.modOp o.id fun o => { o with kind := .packet { p with noted := true } }
            else endRecordOf o p q none t

/-- A packet's writes are made or sent. -/
def markSent (o : Op) (p : PktOp) (s : State) : State :=
  let k := match p.kind with
    | .signal dst add _ v => PktKind.signal dst add true v
    | .copy dst src n _ => .copy dst src n true
    | .launch _ | .wait | .publish => p.kind
  s.modOp o.id fun x => { x with kind := .packet { p with kind := k } }

/-- A packet's work is over, with an error or none. -/
def endWork (o : Op) (p : PktOp) (err : Option FaultCode) (s : State) : State :=
  answerPacket o p err (endParts (.op o.id) s)

/-- A SIGNAL's write: performed here, or asked of the package that owns the word.
DEDUCED (notes/assumptions/41). -/
def doSignal (o : Op) (p : PktOp) (dst : PktSide) (add : Bool) (v : Word) (s : State) : State :=
  match writeRunsOf s dst with
  | ⟨.far acc size t, _⟩ :: _ =>
    let act : RemoteAct := if add then .add v else writeAct ((leBytes 8 v.toNat).map (·, false))
    startPart o (.op o.id) 0 (.far acc size t) act (markSent o p s)
  | rs =>
    match if add then rs.findSome? fun r => (hereRuns [r]).findSome? fun (k, n) => readFault s.sys k n else none with
    | some code => endWork o p (some code) (readRuns s 0 rs)
    | none =>
      let new := if add then addWord (fetchSide s (.op o.id) 0 dst 8).data v.toNat else leBytes 8 v.toNat
      match sideFail s dst with
      | some code => endWork o p (some code) s
      | none => endWork o p none (writePkt o (.op o.id) 0 dst (new.map (·, false)) s)

/-- A COPY's bytes: read, then written (R380). -/
def doCopyPacket (o : Op) (p : PktOp) (dst src : PktSide) (len : Nat) (s : State) : State :=
  withFetched (fetchSide s (.op o.id) 0 src len) o (.op o.id) 0 (fun code s => endWork o p (some code) s)
    (fun d s =>
      match sideFail s dst with
      | some code => endWork o p (some code) s
      | none => writePkt o (.op o.id) 1 dst d (markSent o p s)) s

/-- A packet's writes are performed at their homes once every answer has come. -/
def awaitPacket (o : Op) (p : PktOp) (row : Nat) (s : State) : State :=
  match stepAnswers s (.op o.id) row with
  | (true, _) => s
  | (false, err) => endWork o p err s

/-- PACKET_COMPLETE (R386): a packet's work is done, then its completion is recorded. A PUBLISH whose add another package
performs goes on with it. -/
def execPacketComplete (op : Nat) (_ : Unit) (s : State) : Out :=
  .next (match s.op? op with
    | some o =>
      match o.kind with
      | .packet p =>
        if p.finished then recordPacket o p s
        else
          match p.kind with
          | .signal dst add sent v =>
            if sent then awaitPacket o p 0 s else if sideBusy s o true dst then s else doSignal o p dst add v s
          | .copy dst src n sent =>
            if sent then awaitPacket o p 1 s
            else if sideBusy s o true dst || sideBusy s o false src then s
            else doCopyPacket o p dst src n s
          | .publish => if p.noted then countPacket o p s else s
          | .launch _ | .wait => s
      | .publish begun => if begun then countCore o s else s
      | _ => s
    | none => s)

end Sys2Proof.Machine
end

