-- ==== Sys2Proof/Machine/Tables.lean ====
section
/-! DEFINITION. The built-in function tables (08_function R204 Table 8-4): for each, the values of the exact
function at the ends of its segments, scaled by 2^15 and rounded to the nearest integer. Coefficient c0 of
segment i is point i, and c1 is point i + 1 minus point i. -/

namespace Sys2Proof.Machine

/-- The points of `exp2`: 2^f at f = i/16. -/
def pointsExp2 : List Int :=
  [32768, 34219, 35734, 37316, 38968, 40693, 42495, 44376, 46341, 48393, 50535, 52773] ++
  [55109, 57549, 60097, 62757, 65536]

/-- The points of `recip`: 1/m at m = 1 + i/16. -/
def pointsRecip : List Int :=
  [32768, 30840, 29127, 27594, 26214, 24966, 23831, 22795, 21845, 20972, 20165, 19418] ++
  [18725, 18079, 17476, 16913, 16384]

/-- The points of `rsqrt`: 1/sqrt(m) at m = 1 + i/8 to 2, then 2 + i/4 to 4. -/
def pointsRsqrt : List Int :=
  [32768, 30894, 29309, 27945, 26755, 25705, 24770, 23930, 23170, 21845, 20724, 19760] ++
  [18919, 18176, 17515, 16921, 16384]

/-- The points of `log2`: log2(m) at m = 1 + i/16. -/
def pointsLog2 : List Int :=
  [0, 2866, 5568, 8124, 10549, 12855, 15055, 17156, 19168, 21098, 22952, 24736] ++
  [26455, 28114, 29717, 31267, 32768]

/-- The points of `sigm`: 1/(1 + e^(−x)) at x = i/4. -/
def pointsSigm : List Int :=
  [16384, 18421, 20397, 22255, 23955, 25471, 26790, 27917, 28862, 29644, 30282, 30799] ++
  [31214, 31545, 31807, 32015, 32179, 32307, 32408, 32487, 32549, 32597, 32635, 32664] ++
  [32687, 32705, 32719, 32730, 32738, 32745, 32750, 32754, 32757, 32759, 32761, 32763] ++
  [32764, 32765, 32766, 32766, 32767, 32767, 32767, 32767, 32767, 32768, 32768, 32768] ++
  [32768, 32768, 32768, 32768, 32768, 32768, 32768, 32768, 32768, 32768, 32768, 32768] ++
  [32768, 32768, 32768, 32768, 32768]

/-- The points of `tanh`: tanh(x) at x = i/16. -/
def pointsTanh : List Int :=
  [0, 2045, 4075, 6073, 8025, 9919, 11743, 13486, 15143, 16706, 18173, 19542] ++
  [20813, 21986, 23066, 24054, 24956, 25776, 26519, 27191, 27797, 28341, 28830, 29268] ++
  [29660, 30010, 30322, 30600, 30847, 31067, 31262, 31435, 31589, 31726, 31846, 31953] ++
  [32048, 32132, 32206, 32271, 32329, 32381, 32426, 32466, 32501, 32532, 32560, 32584] ++
  [32606, 32625, 32642, 32657, 32670, 32681, 32691, 32700, 32708, 32715, 32721, 32727] ++
  [32732, 32736, 32740, 32743, 32746]

/-- The points of `phi`: the standard normal distribution function at x = i/16. -/
def pointsPhi : List Int :=
  [16384, 17201, 18014, 18821, 19618, 20404, 21174, 21926, 22658, 23367, 24052, 24711] ++
  [25342, 25944, 26516, 27058, 27569, 28049, 28499, 28917, 29306, 29666, 29997, 30301] ++
  [30579, 30832, 31061, 31269, 31455, 31623, 31772, 31905, 32023, 32126, 32218, 32298] ++
  [32367, 32428, 32480, 32526, 32565, 32598, 32626, 32650, 32670, 32687, 32702, 32714] ++
  [32724, 32732, 32739, 32744, 32749, 32753, 32756, 32758, 32760, 32762, 32763, 32764] ++
  [32765, 32766, 32766, 32767, 32767]

/-- The points of `expn`: e^(−x) at x = i/4. -/
def pointsExpn : List Int :=
  [32768, 25520, 19875, 15479, 12055, 9388, 7312, 5694, 4435, 3454, 2690, 2095] ++
  [1631, 1271, 990, 771, 600, 467, 364, 283, 221, 172, 134, 104] ++
  [81, 63, 49, 38, 30, 23, 18, 14, 11, 9, 7, 5] ++
  [4, 3, 2, 2, 1, 1, 1, 1, 1, 0, 0, 0] ++
  [0, 0, 0, 0, 0, 0, 0, 0, 0, 0, 0, 0] ++
  [0, 0, 0, 0, 0]

end Sys2Proof.Machine
end

