-- ==== Sys2Proof/Machine/Vector.lean ====
section
/-! DEFINITION. The vector unit's register instructions (07_vector R178–R192, R198, R199). -/

namespace Sys2Proof.Machine

open Sys2Proof

/-! ### Lanes (R178–R180) -/

/-- A lane takes part (R178, R179). -/
def activeLane (m : MaskMode) (top : MaskWord) (w l : Nat) : Bool := m == .all || top.getLsbD (w / 4 * l)

/-- A vector computed lane by lane with the flags of its active lanes (R179). -/
def vecMap (w : Nat) (m : MaskMode) (top : MaskWord) (a : VWord) (f : Nat → Nat × BitVec 6) :
    VWord × BitVec 6 :=
  let rs := (List.range (laneCount w)).map fun l =>
    if activeLane m top w l then f l else (if m = .keepA then laneOf w a l else 0, 0)
  (BitVec.ofNat 2048 (packLanes w (rs.map Prod.fst)), rs.foldl (fun g r => g ||| r.2) 0)

/-- `rd` of R179: a lane read as an arithmetic operand. -/
def rdLane (vf : Word) (t : ElemTy) (v : VWord) (l : Nat) : Int × Bool :=
  readElem (fmtSym vf) (fmtSubst vf) t (laneOf t.width v l)

/-- A saturated result (R180). -/
def satV (vf : Word) (t : ElemTy) (x : Int) : Int × Bool := sat (fmtSym vf) t x

/-- A wrapped result (R180). -/
def wrapV (vf : Word) (t : ElemTy) (x : Int) : Int × Bool := satV vf t (elemVal t (codeOf t.width x))

/-- A lane's code and flags from its result and its reads. -/
def laneResult (t : ElemTy) (r : Int × Bool) (sub : Bool) : Nat × BitVec 6 :=
  (codeOf t.width r.1, flagIf r.2 satVec ||| flagIf sub satRsub)

/-- A function of one lane read arithmetically, given the lane's index. -/
def arith1 (vf : Word) (t : ElemTy) (f : Nat → Int → Int × Bool) (a : VWord) (l : Nat) : Nat × BitVec 6 :=
  let x := rdLane vf t a l
  laneResult t (f l x.1) x.2

/-- A function of two lanes read arithmetically. -/
def arith2 (vf : Word) (t : ElemTy) (f : Nat → Int → Int → Int × Bool) (a b : VWord) (l : Nat) :
    Nat × BitVec 6 :=
  let x := rdLane vf t a l
  let y := rdLane vf t b l
  laneResult t (f l x.1 y.1) (x.2 || y.2)

/-- Some active lane of a source is a reserved code, and SUBST is FAULT (R61, R179). -/
def reservedIn (vf : Word) (t : ElemTy) (act : Nat → Bool) (v : VWord) : Bool :=
  fmtSubst vf == .fault && fmtSym vf && tySigned t &&
    (List.range (laneCount t.width)).any fun l => act l && laneOf t.width v l == 2 ^ (t.width - 1)

/-- The check of the arithmetic sources of a vector instruction (R179). -/
def checkReserved (s : State) (t : ElemTy) (m : MaskMode) (vs : List VSrc) : Verdict :=
  require (!(vs.any fun a => reservedIn s.ctx.vf t (activeLane m s.ctx.maskTop t.width) (s.rv a)))
    .reservedCode 0

/-- Two vector sources. -/
def needVV (s : State) (a b : VSrc) : Verdict := (needV s a).seq (needV s b)

/-- A function of one vector read arithmetically. -/
def vecArith1 (lat : Nat) (f : State → Nat → Int → Int × Bool) (d : Fin 32) (a : VSrc) (t : ElemTy)
    (m : MaskMode) (s : State) : Out :=
  slot Need.push (fun s => (needV s a).seq (checkReserved s t m [a]))
    (fun s =>
      let r := vecMap t.width m s.ctx.maskTop (s.rv a) (arith1 s.ctx.vf t (f s) (s.rv a))
      pushV d lat r.1 r.2 s) s

/-- A function of two vectors read arithmetically. -/
def vecArith2 (lat : Nat) (f : State → Nat → Int → Int → Int × Bool) (d : Fin 32) (a b : VSrc) (t : ElemTy)
    (m : MaskMode) (s : State) : Out :=
  slot Need.push (fun s => (needVV s a b).seq (checkReserved s t m [a, b]))
    (fun s =>
      let r := vecMap t.width m s.ctx.maskTop (s.rv a) (arith2 s.ctx.vf t (f s) (s.rv a) (s.rv b))
      pushV d lat r.1 r.2 s) s

/-- A function of the codes of two vectors, of latency 2. -/
def vecCodes2 (f : Nat → Nat → Nat) (d : Fin 32) (a b : VSrc) (t : ElemTy) (m : MaskMode) (s : State) : Out :=
  slot Need.push (fun s => needVV s a b)
    (fun s =>
      let w := t.width
      pushV d 2 (vecMap w m s.ctx.maskTop (s.rv a) fun l => (f (laneOf w (s.rv a) l) (laneOf w (s.rv b) l), 0)).1
        0 s) s

/-! ### Elementwise operations (R183) -/

/-- The absolute value of an I lane; an N lane is itself. -/
def absV (vf : Word) (t : ElemTy) (x : Int) : Int × Bool :=
  if tySigned t then satV vf t (if x < 0 then -x else x) else (x, false)

/-- VADD (R183). -/
def execVadd (d : Fin 32) (a b : VSrc) (t : ElemTy) (m : MaskMode) (s : State) : Out :=
  vecArith2 2 (fun s _ x y => wrapV s.ctx.vf t (x + y)) d a b t m s
/-- VSUB (R183). -/
def execVsub (d : Fin 32) (a b : VSrc) (t : ElemTy) (m : MaskMode) (s : State) : Out :=
  vecArith2 2 (fun s _ x y => wrapV s.ctx.vf t (x - y)) d a b t m s
/-- VADDS (R183). -/
def execVadds (d : Fin 32) (a b : VSrc) (t : ElemTy) (m : MaskMode) (s : State) : Out :=
  vecArith2 2 (fun s _ x y => satV s.ctx.vf t (x + y)) d a b t m s
/-- VSUBS (R183). -/
def execVsubs (d : Fin 32) (a b : VSrc) (t : ElemTy) (m : MaskMode) (s : State) : Out :=
  vecArith2 2 (fun s _ x y => satV s.ctx.vf t (x - y)) d a b t m s
/-- VMUL (R183). -/
def execVmul (d : Fin 32) (a b : VSrc) (t : ElemTy) (m : MaskMode) (s : State) : Out :=
  vecArith2 4 (fun s _ x y => wrapV s.ctx.vf t (x * y)) d a b t m s
/-- VMIN (R183). -/
def execVmin (d : Fin 32) (a b : VSrc) (t : ElemTy) (m : MaskMode) (s : State) : Out :=
  vecArith2 2 (fun _ _ x y => (min x y, false)) d a b t m s
/-- VMAX (R183). -/
def execVmax (d : Fin 32) (a b : VSrc) (t : ElemTy) (m : MaskMode) (s : State) : Out :=
  vecArith2 2 (fun _ _ x y => (max x y, false)) d a b t m s
/-- VABS (R183). -/
def execVabs (d : Fin 32) (a : VSrc) (t : ElemTy) (m : MaskMode) (s : State) : Out :=
  vecArith1 2 (fun s _ x => absV s.ctx.vf t x) d a t m s
/-- VNEG (R183). -/
def execVneg (d : Fin 32) (a : VSrc) (t : ElemTy) (m : MaskMode) (s : State) : Out :=
  vecArith1 2 (fun s _ x => satV s.ctx.vf t (-x)) d a t m s
/-- VAND (R183). -/
def execVand (d : Fin 32) (a b : VSrc) (t : ElemTy) (m : MaskMode) (s : State) : Out :=
  vecCodes2 Nat.land d a b t m s
/-- VOR (R183). -/
def execVor (d : Fin 32) (a b : VSrc) (t : ElemTy) (m : MaskMode) (s : State) : Out :=
  vecCodes2 Nat.lor d a b t m s
/-- VXOR (R183). -/
def execVxor (d : Fin 32) (a b : VSrc) (t : ElemTy) (m : MaskMode) (s : State) : Out :=
  vecCodes2 Nat.xor d a b t m s
/-- VSHL (R183). -/
def execVshl (d : Fin 32) (a b : VSrc) (t : ElemTy) (m : MaskMode) (s : State) : Out :=
  vecCodes2 (fun x y => if t.width ≤ y then 0 else x * 2 ^ y % 2 ^ t.width) d a b t m s
/-- VSHR (R183). -/
def execVshr (d : Fin 32) (a b : VSrc) (t : ElemTy) (m : MaskMode) (s : State) : Out :=
  vecCodes2 (fun x y => if t.width ≤ y then 0 else x / 2 ^ y) d a b t m s

/-- An arithmetic right shift of a lane by a count; a count of the width or more gives 0 or −1. -/
def sarLane (w : Nat) (x : Int) (y : Nat) : Int := x / 2 ^ min y w

/-- VSAR (R183): the source is read arithmetically, the count as a code. -/
def execVsar (d : Fin 32) (a b : VSrc) (t : ElemTy) (m : MaskMode) (s : State) : Out :=
  slot Need.push (fun s => (needVV s a b).seq (checkReserved s t m [a]))
    (fun s =>
      let r := vecMap t.width m s.ctx.maskTop (s.rv a)
        fun l => arith1 s.ctx.vf t (fun _ x => (sarLane t.width x (laneOf t.width (s.rv b) l), false)) (s.rv a) l
      pushV d 2 r.1 r.2 s) s

/-- VCLS (R183). -/
def execVcls (d : Fin 32) (a : VSrc) (t : ElemTy) (m : MaskMode) (s : State) : Out :=
  slot Need.push (fun s => needV s a)
    (fun s =>
      pushV d 2 (vecMap t.width m s.ctx.maskTop (s.rv a)
        fun l => (clsElem t (elemVal t (laneOf t.width (s.rv a) l)), 0)).1 0 s) s

/-! ### Shifts and rounding (R184, R185) -/

/-- VSHLI (R184): the count is in 0…w by the decode. -/
def execVshli (d : Fin 32) (a : VSrc) (imm : BitVec 6) (t : ElemTy) (m : MaskMode) (s : State) : Out :=
  vecArith1 2 (fun s' _ x => satV s'.ctx.vf t (x * 2 ^ (immVI s.iss.limm imm).toNat)) d a t m s

/-- VSARI (R184). -/
def execVsari (d : Fin 32) (a : VSrc) (imm : BitVec 6) (t : ElemTy) (m : MaskMode) (s : State) : Out :=
  vecArith1 2 (fun _ _ x => (x / 2 ^ (immVI s.iss.limm imm).toNat, false)) d a t m s

/-- `rnd` with the mode of VF and the random word of a vector register's element (R71, R185). -/
def rndV (s : State) (x : Int) (sh : Nat) (i : Nat) : Int :=
  rnd (fmtRnd s.ctx.vf) (randomWord s.ctx.rseed s.ctx.rstep 0 (BitVec.ofNat 64 i)) x sh

/-- VMULHR (R185). -/
def execVmulhr (d : Fin 32) (a b : VSrc) (t : ElemTy) (m : MaskMode) (s : State) : Out :=
  vecArith2 4
    (fun s l x y => satV s.ctx.vf t (rndV s (x * y) (if tySigned t then t.width - 1 else t.width) l)) d a b t m s

/-- VRSHR (R185). -/
def execVrshr (d : Fin 32) (a : VSrc) (b : SSrc) (t : ElemTy) (m : MaskMode) (s : State) : Out :=
  slot Need.push
    (fun s => (((needV s a).seq (needS s b)).seq
      (require (decide (bits (s.rs b) 0 6 ≤ t.width)) .illegalOperand 0)).seq (checkReserved s t m [a]))
    (fun s =>
      let g := s.rs b
      let r := vecMap t.width m s.ctx.maskTop (s.rv a) (arith1 s.ctx.vf t
        (fun l x => satV s.ctx.vf t (rndV s x (bits g 0 6) (bits g 9 55 + l))) (s.rv a))
      pushV d 2 r.1 r.2 s) s

/-! ### VCVT (R186) -/

/-- The lanes a conversion reads: how many, and the first. -/
def cvtLanes (ts td : ElemTy) (p : Nat) : Nat × Nat :=
  let n := 2048 / max ts.width td.width
  (n, if ts.width < td.width then p * n else 0)

/-- A destination lane of VCVT takes part: the source lane that feeds it is active at the source's width. -/
def cvtActive (m : MaskMode) (top : MaskWord) (ts : ElemTy) (j0 l : Nat) : Bool :=
  activeLane m top ts.width (j0 + l)

/-- The shift of VCVT: explicit, or the automatic one from the least census of the lanes converted. -/
def cvtShift (vf g : Word) (ts td : ElemTy) (a : VWord) (act : Nat → Bool) (n j0 : Nat) : Nat :=
  if fmtAuto vf then
    let xs := ((List.range n).filter act).map fun l => elemVal ts (laneOf ts.width a (j0 + l))
    autoShift ts.width (minCensus ts xs (clsMax ts)) td.width
  else bits g 0 6

/-- The result of VCVT. -/
def cvtResult (s : State) (m : MaskMode) (td : ElemTy) (a : VWord) (g : Word) : VWord × BitVec 6 :=
  let vf := s.ctx.vf
  let ts := vfCvt vf
  let (n, j0) := cvtLanes ts td (bits g 6 3)
  let act := cvtActive m s.ctx.maskTop ts j0
  let sh := cvtShift vf g ts td a act n j0
  let rs := (List.range (laneCount td.width)).map fun l =>
    if n ≤ l then (0, (0 : BitVec 6))
    else if !act l then (if m = .keepA then laneOf td.width a l else 0, 0)
    else
      let x := rdLane vf ts a (j0 + l)
      laneResult td (satV vf td (rndV s x.1 sh (bits g 9 55 + l))) x.2
  (BitVec.ofNat 2048 (packLanes td.width (rs.map Prod.fst)), rs.foldl (fun f r => f ||| r.2) 0)

/-- The checks of VCVT. -/
def checkCvt (s : State) (m : MaskMode) (td : ElemTy) (a : VWord) (g : Word) : Verdict :=
  let vf := s.ctx.vf
  let ts := vfCvt vf
  let (n, j0) := cvtLanes ts td (bits g 6 3)
  let act := cvtActive m s.ctx.maskTop ts j0
  (require (!(decide (ts.width < td.width) && decide (td.width / ts.width ≤ bits g 6 3))) .illegalOperand 0).seq
    ((require (fmtAuto vf || decide (bits g 0 6 ≤ ts.width)) .illegalOperand 0).seq
      (require (!(reservedIn vf ts (fun j => decide (j0 ≤ j) && decide (j < j0 + n) && act (j - j0)) a))
        .reservedCode 0))

/-- VCVT (R186). -/
def execVcvt (d : Fin 32) (a : VSrc) (b : SSrc) (t : ElemTy) (m : MaskMode) (s : State) : Out :=
  slot Need.push (fun s => ((needV s a).seq (needS s b)).seq (checkCvt s m t (s.rv a) (s.rs b)))
    (fun s =>
      let r := cvtResult s m t (s.rv a) (s.rs b)
      pushV d 2 r.1 r.2 s) s

/-! ### Compare, select and moves (R187–R189) -/

/-- The outcome of a lane condition. -/
def holdsV (c : VCond) (x y : Int) : Bool :=
  match c with
  | .eq => x == y
  | .ne => x != y
  | .lt => decide (x < y)
  | .ge => decide (y ≤ x)

/-- VCMP (R187): each lane is all ones or zero. -/
def execVcmp (d : Fin 32) (a b : VSrc) (t : ElemTy) (c : VCond) (s : State) : Out :=
  slot Need.push (fun s => (needVV s a b).seq (checkReserved s t .all [a, b]))
    (fun s =>
      let r := vecMap t.width .all 0 (s.rv a) fun l =>
        let x := rdLane s.ctx.vf t (s.rv a) l
        let y := rdLane s.ctx.vf t (s.rv b) l
        (if holdsV c x.1 y.1 then 2 ^ t.width - 1 else 0, flagIf (x.2 || y.2) satRsub)
      pushV d 2 r.1 r.2 s) s

/-- VSEL (R188). -/
def execVsel (d : Fin 32) (a b : VSrc) (t : ElemTy) (s : State) : Out :=
  slot Need.push (fun s => needVV s a b)
    (fun s => pushV d 2 (vecOf t.width fun l =>
      laneOf t.width (if activeLane .zero s.ctx.maskTop t.width l then s.rv a else s.rv b) l) 0 s) s

/-- VBCAST (R189). -/
def execVbcast (d : Fin 32) (a : SSrc) (t : ElemTy) (m : MaskMode) (s : State) : Out :=
  slot Need.push (fun s => needS s a)
    (fun s => pushV d 2 (vecMap t.width m s.ctx.maskTop 0 fun _ => ((s.rs a).toNat % 2 ^ t.width, 0)).1 0 s) s

/-- VEXTR (R189): a lane, sign-extended for I types. -/
def execVextr (d : Fin 32) (a : VSrc) (b : SSrc) (t : ElemTy) (s : State) : Out :=
  slot Need.push
    (fun s => ((needV s a).seq (needS s b)).seq
      (require (decide ((s.rs b).toNat < laneCount t.width)) .illegalOperand 0))
    (fun s => pushS d 2 (BitVec.ofInt 64 (elemVal t (laneOf t.width (s.rv a) (s.rs b).toNat))) s) s

/-- VPERM (R189). -/
def execVperm (d : Fin 32) (a b : VSrc) (t : ElemTy) (m : MaskMode) (s : State) : Out :=
  slot Need.push (fun s => needVV s a b)
    (fun s =>
      let w := t.width
      pushV d 2 (vecMap w m s.ctx.maskTop (s.rv a) fun l =>
        (laneOf w (s.rv a) (laneOf w (s.rv b) l % laneCount w), 0)).1 0 s) s

/-- A lane at a signed distance; 0 outside the vector. -/
def slideLane (w : Nat) (v : VWord) (i : Int) : Nat :=
  if 0 ≤ i ∧ i < laneCount w then laneOf w v i.toNat else 0

/-- VSLIDE (R189). -/
def execVslide (d : Fin 32) (a : VSrc) (b : SSrc) (t : ElemTy) (m : MaskMode) (s : State) : Out :=
  slot Need.push (fun s => (needV s a).seq (needS s b))
    (fun s => pushV d 2 (vecMap t.width m s.ctx.maskTop (s.rv a) fun l =>
      (slideLane t.width (s.rv a) (l + (s.rs b).toInt), 0)).1 0 s) s

/-! ### Reductions, scan and dot product (R190–R192) -/

/-- The active lanes of a vector. -/
def activeLanes (m : MaskMode) (top : MaskWord) (w : Nat) : List Nat :=
  (List.range (laneCount w)).filter fun l => activeLane m top w l

/-- A reduction of the active lanes, read arithmetically. -/
def vecReduce (f : Word → List Int → Int) (d : Fin 32) (a : VSrc) (t : ElemTy) (m : MaskMode) (s : State) :
    Out :=
  slot Need.push (fun s => (needV s a).seq (checkReserved s t m [a]))
    (fun s =>
      let xs := (activeLanes m s.ctx.maskTop t.width).map (rdLane s.ctx.vf t (s.rv a))
      pushSF d 6 (BitVec.ofInt 64 (f s.ctx.vf (xs.map Prod.fst))) (flagIf (xs.any Prod.snd) satRsub) s) s

/-- The largest value, or the least of the type when there is none. -/
def maxOf (vf : Word) (t : ElemTy) (xs : List Int) : Int :=
  xs.foldl max (if tySigned t && fmtSym vf then -(maxv t) else minv t)

/-- The least value, or the largest of the type when there is none. -/
def minOf (t : ElemTy) (xs : List Int) : Int := xs.foldl min (maxv t)

/-- VRSUM (R190). -/
def execVrsum (d : Fin 32) (a : VSrc) (t : ElemTy) (m : MaskMode) (s : State) : Out :=
  vecReduce (fun _ xs => xs.sum) d a t m s
/-- VRMAX (R190). -/
def execVrmax (d : Fin 32) (a : VSrc) (t : ElemTy) (m : MaskMode) (s : State) : Out :=
  vecReduce (fun vf xs => maxOf vf t xs) d a t m s
/-- VRMIN (R190). -/
def execVrmin (d : Fin 32) (a : VSrc) (t : ElemTy) (m : MaskMode) (s : State) : Out :=
  vecReduce (fun _ xs => minOf t xs) d a t m s

/-- VCENSUS (R190): reads codes. -/
def execVcensus (d : Fin 32) (a : VSrc) (t : ElemTy) (m : MaskMode) (s : State) : Out :=
  slot Need.push (fun s => needV s a)
    (fun s =>
      let xs := (activeLanes m s.ctx.maskTop t.width).map fun l => elemVal t (laneOf t.width (s.rv a) l)
      pushS d 6 (BitVec.ofNat 64 (minCensus t xs (clsMax t))) s) s

/-- The lanes of a scan from a lane on, with the running sum (R191). -/
def scanLanes (vf : Word) (t : ElemTy) (act : Nat → Bool) (keep : Nat → Nat) (a : VWord) :
    Nat → Nat → Int → List (Nat × BitVec 6)
  | 0, _, _ => []
  | n + 1, l, run =>
    if act l then
      let x := rdLane vf t a l
      let r := satV vf t (run + x.1)
      laneResult t r x.2 :: scanLanes vf t act keep a n (l + 1) r.1
    else (keep l, 0) :: scanLanes vf t act keep a n (l + 1) run

/-- VSCAN (R191). -/
def execVscan (d : Fin 32) (a : VSrc) (t : ElemTy) (m : MaskMode) (s : State) : Out :=
  slot Need.push (fun s => (needV s a).seq (checkReserved s t m [a]))
    (fun s =>
      let w := t.width
      let rs := scanLanes s.ctx.vf t (activeLane m s.ctx.maskTop w)
        (fun l => if m = .keepA then laneOf w (s.rv a) l else 0) (s.rv a) (laneCount w) 0 0
      pushV d 6 (BitVec.ofNat 2048 (packLanes w (rs.map Prod.fst))) (rs.foldl (fun f r => f ||| r.2) 0) s) s

/-- The 32-bit type of a dot product (R192). -/
def dotType (t : ElemTy) : ElemTy := if tySigned t then .i32 else .n32

/-- A group of lanes multiplied and summed, with whether a read was substituted. -/
def dotGroup (vf : Word) (t : ElemTy) (a b : VWord) (j : Nat) : Int × Bool :=
  let g := 32 / t.width
  (List.range g).foldl (fun r k =>
    let x := rdLane vf t a (g * j + k)
    let y := rdLane vf t b (g * j + k)
    (r.1 + x.1 * y.1, r.2 || x.2 || y.2)) (0, false)

/-- VDOT (R192): the mask is read at width 32. -/
def execVdot (d : Fin 32) (a b : VSrc) (t : ElemTy) (m : MaskMode) (s : State) : Out :=
  slot Need.push
    (fun s =>
      let act (l : Nat) : Bool := activeLane m s.ctx.maskTop 32 (l / (32 / t.width))
      (needVV s a b).seq
        (require (!(reservedIn s.ctx.vf t act (s.rv a) || reservedIn s.ctx.vf t act (s.rv b))) .reservedCode 0))
    (fun s =>
      let r := vecMap 32 m s.ctx.maskTop (s.rv a) fun j =>
        let x := dotGroup s.ctx.vf t (s.rv a) (s.rv b) j
        laneResult (dotType t) (satV s.ctx.vf (dotType t) x.1) x.2
      pushV d 4 r.1 r.2 s) s

/-! ### The mask stack (R182) -/

/-- The mask whose lanes of a width are chosen: all granules of a lane alike. -/
def maskOfLanes (w : Nat) (f : Nat → Bool) : MaskWord :=
  BitVec.ofNat 512 (packLanes (w / 4) ((List.range (laneCount w)).map fun l => if f l then 2 ^ (w / 4) - 1 else 0))

/-- MPUSH (R182). -/
def execMpush (a : VSrc) (t : ElemTy) (s : State) : Out :=
  slot {} (fun s => (needV s a).seq (require (decide (s.ctx.mask.length < 16)) .stackDepth 0))
    (fun s => s.defer (.maskPush (maskOfLanes t.width fun l =>
      laneOf t.width (s.rv a) l != 0 && s.ctx.maskTop.getLsbD (t.width / 4 * l)))) s

/-- MINV (R182). -/
def execMinv (s : State) : Out :=
  slot {} (fun s => require (!s.ctx.mask.isEmpty) .stackDepth 0) (fun s => s.defer .maskInv) s

/-- MPOP (R182). -/
def execMpop (s : State) : Out :=
  slot {} (fun s => require (!s.ctx.mask.isEmpty) .stackDepth 0) (fun s => s.defer .maskPop) s

/-- MGET (R182). -/
def execMget (d : Fin 32) (t : ElemTy) (s : State) : Out :=
  slot Need.push (fun _ => .ok)
    (fun s => pushV d 2 (vecOf t.width fun l =>
      if activeLane .zero s.ctx.maskTop t.width l then 2 ^ t.width - 1 else 0) 0 s) s

/-! ### RMASK and the shadow check (R198, R199) -/

/-- VRES (R198). -/
def execVres (d : Fin 32) (s : State) : Out :=
  slot Need.push (fun _ => .ok)
    (fun s => (pushV d 2 (s.ctx.rmask.setWidth 2048) 0 s).defer .clearRmask) s

/-- The XOR of the lowest 8-byte unit in which two vectors differ. -/
def firstDiff (x y : VWord) : Word :=
  BitVec.ofNat 64 (((List.range 32).findSome? fun k =>
    let d := Nat.xor (laneOf 64 x k) (laneOf 64 y k)
    if d = 0 then none else some d).getD 0)

/-- VCHK (R199). -/
def execVchk (a b : VSrc) (s : State) : Out :=
  slot {}
    (fun s => (needVV s a b).seq (require (s.rv a == s.rv b) .shadowMismatch (firstDiff (s.rv a) (s.rv b)))) id s

end Sys2Proof.Machine
end

