-- ==== Sys2Proof/Machine/VectorMem.lean ====
section
/-! DEFINITION. Vector loads and stores, and tile gather and scatter (07_vector R193–R197). -/

namespace Sys2Proof.Machine

open Sys2Proof

/-! ### Addresses (R193) -/

/-- The tile of a tile mode. -/
def vmTile (s : State) (h : BitVec 8) : Option (Nat × TileEntry) := s.tileAt s.cur h.toNat

/-- The mask of an access: the top of the stack, or every nibble. -/
def vmMask (s : State) (k : VAddr) : MaskWord :=
  match k with
  | .tile _ m | .generic m => if m then s.ctx.maskTop else BitVec.allOnes 512

/-- The bytes of a vector access. -/
def vmRuns (s : State) (k : VAddr) (x : Word) : List Run :=
  match k with
  | .tile h _ =>
    match vmTile s h with
    | some (_, e) => [⟨.here (tileByteKey s.cur e x.toNat), 256⟩]
    | none => []
  | .generic _ => accessRuns s x 256

/-- The space of a tile. -/
def tileSpace (e : TileEntry) : Space :=
  match e.level with
  | .tile => .tile
  | .ring => .ring

/-- The space of a vector access. -/
def vmSpace (s : State) (k : VAddr) (x : Word) : Space :=
  match k with
  | .tile h _ => ((vmTile s h).map fun p => tileSpace p.2).getD .tile
  | .generic _ => spaceOf s x

/-- The checks of a vector access's address (R193).
DEDUCED (notes/assumptions/11). -/
def vmCheck (s : State) (wr : Bool) (k : VAddr) (x : Word) : Verdict :=
  match k with
  | .tile h _ =>
    match vmTile s h with
    | none => faultV .tileHandle 0
    | some (_, e) =>
      (require (x.toNat % 8 == 0) .align 0).seq (require (decide (x.toNat + 256 ≤ tileBytes e)) .tileBounds 0)
  | .generic _ => checkAccess s (!wr) wr 8 x 256

/-! ### VLD (R194) -/

/-- The latency of a vector load by its space. -/
def vldLatency : Space → Nat
  | .tile => 6
  | .ring => 26
  | .global => 80

/-- A run of `n` bytes at a place as runs of the bytes that are read and of those that are not, from byte `off` of the
register on. -/
def splitRun (reads : Nat → Bool) (off : Nat) (p : Place) : Nat → List Run
  | 0 => []
  | n + 1 =>
    let rest := splitRun reads (off + 1) (p.shift 1) n
    let q := if reads off then p else .zero
    match rest with
    | r :: rs => if (r.place == .zero) == (q == .zero) then ⟨q, r.len + 1⟩ :: rs else ⟨q, 1⟩ :: rest
    | [] => [⟨q, 1⟩]

/-- A mask keeps a nibble of the aligned 8-byte unit of the register that holds a byte. -/
def unitKept (m : MaskWord) (n : Nat) : Bool := (List.range 16).any fun j => m.getLsbD (n / 8 * 16 + j)

/-- The runs of a load without the aligned 8-byte units of which a mask keeps no nibble: a unit of which it keeps one is
read at once (04_memory_model R80). -/
def maskRuns (m : MaskWord) (off : Nat) : List Run → List Run
  | [] => []
  | r :: rs => splitRun (unitKept m) off r.place r.len ++ maskRuns m (off + r.len) rs

/-- The bytes that a VLD reads: those of a unit whose nibbles are all masked off are not read (R194). -/
def vldRuns (s : State) (k : VAddr) (x : Word) : List Run :=
  let m := vmMask s k
  if m = BitVec.allOnes 512 then vmRuns s k x else maskRuns m 0 (vmRuns s k x)

/-- VLD (R194). A push that fails on bad data records the operand's value as FADDR, in tile mode the tile offset.
DESIGN CHOICE (notes/assumptions/77). -/
def execVld (x : Fin 32) (k : VAddr) (a : SSrc) (s : State) : Out :=
  slot Need.push
    (fun s => ((needS s a).seq (vmCheck s false k (s.rs a))).seq
      (holdIf (accessHeld s false (vmRuns s k (s.rs a)))))
    (fun s =>
      let sp := vmSpace s k (s.rs a)
      let m := vmMask s k
      startLoad { vectorPush x (vldLatency sp) 0 0 with
          addr := s.rs a, rmask := rmaskRuns 0 (vmRuns s k (s.rs a)) &&& m }
        sp (vldRuns s k (s.rs a)) 256 false m none s) s

/-! ### VST (R195) -/

/-- The bits of byte `n` that a mask lets a store write. -/
def nibbleBits (m : MaskWord) (n : Nat) : Byte :=
  (if m.getLsbD (2 * n) then 0x0F#8 else 0) ||| (if m.getLsbD (2 * n + 1) then 0xF0#8 else 0)

/-- The bytes of a vector that a store writes under a mask. -/
def maskedBytes (m : MaskWord) (v : VWord) : List WByte :=
  ((List.range 256).map fun n => (⟨n, BitVec.ofNat 8 (laneOf 8 v n), nibbleBits m n⟩ : WByte)).filter
    fun b => b.bits != 0

/-- The posted remote writes of a store: the far runs with a byte to write (R195). -/
def farWrites : Nat → List Run → List WByte → Nat
  | _, [], _ => 0
  | off, r :: rs, ws =>
    (match r.place with
      | .far _ _ _ => if ws.any fun b => decide (off ≤ b.off) && decide (b.off < off + r.len) then 1 else 0
      | .here _ | .zero => 0) + farWrites (off + r.len) rs ws

/-- The elements of a tile of which a store of 256 bytes at an offset writes a nibble (R195). -/
def nibbleElems (e : TileEntry) (off : Nat) (m : MaskWord) : List Nat :=
  let k := e.ty.width / 4
  (touchedElems e off 256).filter fun n => (List.range k).any fun i =>
    let g := n * k + i
    decide (off * 2 ≤ g) && decide (g - off * 2 < 512) && m.getLsbD (g - off * 2)

/-- A write of some elements of a tile that replaces the census when it covers them all (R195). -/
def noteElems (core i : Nat) (e : TileEntry) (ns : List Nat) (s : State) : State :=
  noteTileWrite s core i (ns.length == e.rows * e.cols) ns

/-- The tile that a vector store writes, with the byte offset. -/
def vmTarget (s : State) (k : VAddr) (x : Word) : Option (Nat × TileEntry × Nat) :=
  match k with
  | .tile h _ => (vmTile s h).map fun (i, e) => (i, e, x.toNat)
  | .generic _ => (tileOfAddr s x).map fun (i, e) => (i, e, offOf x.toNat)

/-- The effect of a vector store. -/
def doVst (k : VAddr) (x : Word) (v : VWord) (s : State) : State :=
  let m := vmMask s k
  let u := match k with
    | .tile _ _ => s
    | .generic _ => usePages x 256 s
  let t := startRuns (vmSpace s k x) x none 0 (vmRuns s k x) (maskedBytes m v) u
  match vmTarget s k x with
  | some (i, e, off) => noteElems s.cur i e (nibbleElems e off m) t
  | none => t

/-- What holds a vector store back: a copy of a granule, the scoreboard, the window allowance. -/
def holdStore (s : State) (k : VAddr) (x : Word) : Verdict :=
  let rs := vmRuns s k x
  (storeCopies s x rs).seq (holdIf (accessHeld s true rs || vfnldHolds s rs ||
    (match k with
      | .tile _ _ => false
      | .generic _ => windowFull s x)))

/-- VST (R195). -/
def execVst (x : Fin 32) (k : VAddr) (a : SSrc) (s : State) : Out :=
  slot (postedNeed s (s.rs a) (farWrites 0 (vmRuns s k (s.rs a)) (maskedBytes (vmMask s k) (s.rv (.v x)))))
    (fun s => (((needS s a).seq (needV s (.v x))).seq (vmCheck s true k (s.rs a))).seq (holdStore s k (s.rs a)))
    (fun s => doVst k (s.rs a) (s.rv (.v x)) s) s

/-! ### VLDX, VSTX (R197) -/

/-- The lanes of an indexed access that take part, ascending, with their byte offsets. -/
def indexLanes (s : State) (ix : VWord) (masked : Bool) : List (Nat × Nat) :=
  ((List.range 64).filter fun l => !masked || s.ctx.maskTop.getLsbD (8 * l)).map fun l => (l, laneOf 32 ix l)

/-- The checks of an indexed access, lane by lane (R197).
DEDUCED (notes/assumptions/11). -/
def checkIndexed (s : State) (h : BitVec 8) (ix : VWord) (masked : Bool) : Verdict :=
  match vmTile s h with
  | none => faultV .tileHandle 0
  | some (_, e) =>
    firstV ((indexLanes s ix masked).map fun (_, o) =>
      (require (o % 4 == 0) .align 0).seq (require (decide (o + 4 ≤ tileBytes e)) .tileBounds 0))

/-- The runs of a gather: the lanes that take no part read zero. -/
def gatherRuns (s : State) (e : TileEntry) (ix : VWord) (masked : Bool) : List Run :=
  (List.range 64).map fun l =>
    if !masked || s.ctx.maskTop.getLsbD (8 * l) then ⟨.here (tileByteKey s.cur e (laneOf 32 ix l)), 4⟩
    else ⟨.zero, 4⟩

/-- The runs of a scatter, of the lanes that take part. -/
def scatterRuns (s : State) (e : TileEntry) (ix : VWord) (masked : Bool) : List Run :=
  (indexLanes s ix masked).map fun (_, o) => ⟨.here (tileByteKey s.cur e o), 4⟩

/-- The bytes of a scatter, four for each lane that takes part. -/
def scatterBytes (s : State) (ix v : VWord) (masked : Bool) : List WByte :=
  wholeBytes 0 ((indexLanes s ix masked).map fun (l, _) => leBytes 4 (laneOf 32 v l)).flatten

/-- What holds an indexed access back. -/
def holdIndexed (s : State) (h : BitVec 8) (ix : VWord) (masked wr : Bool) : Verdict :=
  match vmTile s h with
  | some (_, e) => holdIf (accessHeld s wr (scatterRuns s e ix masked))
  | none => .ok

/-- The effect of VLDX. A push that fails on bad data records FADDR 0: its 64 offsets have no one address.
DESIGN CHOICE (notes/assumptions/77). -/
def doVldx (x : Fin 32) (h : BitVec 8) (ix : VWord) (masked : Bool) (s : State) : State :=
  match vmTile s h with
  | none => s
  | some (_, e) =>
    let sp := tileSpace e
    startLoad (vectorPush x (vldLatency sp) 0 0) sp (gatherRuns s e ix masked) 256 false
      (BitVec.allOnes 512) none s

/-- VLDX (R197). -/
def execVldx (x : Fin 32) (h : BitVec 8) (a : VSrc) (masked : Bool) (s : State) : Out :=
  slot Need.push
    (fun s => ((needV s a).seq (checkIndexed s h (s.rv a) masked)).seq (holdIndexed s h (s.rv a) masked false))
    (fun s => doVldx x h (s.rv a) masked s) s

/-- The effect of VSTX. -/
def doVstx (h : BitVec 8) (ix v : VWord) (masked : Bool) (s : State) : State :=
  match vmTile s h with
  | none => s
  | some (i, e) =>
    let t := startRuns (tileSpace e) 0 none 0 (scatterRuns s e ix masked) (scatterBytes s ix v masked) s
    noteElems s.cur i e (((indexLanes s ix masked).map fun (_, o) => touchedElems e o 4).flatten.eraseDups) t

/-- VSTX (R197). -/
def execVstx (x : Fin 32) (h : BitVec 8) (a : VSrc) (masked : Bool) (s : State) : Out :=
  slot {}
    (fun s => (((needV s a).seq (needV s (.v x))).seq (checkIndexed s h (s.rv a) masked)).seq
      (holdIndexed s h (s.rv a) masked true))
    (fun s => doVstx h (s.rv a) (s.rv (.v x)) masked s) s

end Sys2Proof.Machine
end

