-- ==== Sys2Proof/Machine/Function.lean ====
section
/-! DEFINITION. The function unit (08_function R201–R213): VFN, VFNLD, VDIV and VOPT, with what VFNLD and
VOPT do at their completion. -/

namespace Sys2Proof.Machine

open Sys2Proof

/-! ### Tables (R202–R204) -/

/-- A function table: its descriptor's fields and its coefficients, segment by segment. -/
structure FnTable where
  kind : Nat
  segb : Nat
  deg : Nat
  cf : Nat
  ofrac : Nat
  dlog : Int
  coef : List Int

/-- The coefficients of a table of degree 1 from its points (R204). -/
def pointCoefs : List Int → List Int
  | a :: b :: r => a :: (b - a) :: pointCoefs (b :: r)
  | _ => []

/-- A built-in table (Table 8-4). -/
def builtIn (kind segb : Nat) (dlog : Int) (ps : List Int) : FnTable :=
  ⟨kind, segb, 1, 15, 14, dlog, pointCoefs ps⟩

/-- The table of a descriptor word and coefficient words (Table 8-2). -/
def fnOf (d : Nat) (coef : List Int) : FnTable :=
  ⟨abits d 0 3, abits d 3 3, abits d 6 2, abits d 8 5, abits d 13 5, signedOf 4 (abits d 18 4), coef⟩

/-- The table of an image (Table 8-1). -/
def imageTable (bs : List Byte) : FnTable :=
  fnOf (leNat (bs.take 8)) ((List.range 192).map fun k => signedOf 32 (codeIn 32 (bs.drop 0x40) k))

/-- A valid image (R203). -/
def imageValid (bs : List Byte) : Bool :=
  let d := leNat (bs.take 8)
  let t := imageTable bs
  leNat ((bs.drop 8).take 2) == 0x4654 && ((bs.drop 0x0A).take 54).all (· == 0) &&
    abits d 22 42 == 0 && t.kind != 7 && t.segb != 7 && t.deg != 3 && t.cf != 31 &&
    (t.dlog == 0 || t.kind == 0 || t.kind == 5 || t.kind == 6) && (t.kind != 3 || decide (1 ≤ t.segb))

/-- The table of a number, none for an invalid loadable one. -/
def fnTable (c : Ctx) (n : Nat) : Option FnTable :=
  match n with
  | 0 => some (builtIn 1 4 0 pointsExp2)
  | 1 => some (builtIn 2 4 0 pointsRecip)
  | 2 => some (builtIn 3 4 0 pointsRsqrt)
  | 3 => some (builtIn 4 4 0 pointsLog2)
  | 4 => some (builtIn 6 6 4 pointsSigm)
  | 5 => some (builtIn 5 6 2 pointsTanh)
  | 6 => some (builtIn 6 6 2 pointsPhi)
  | 7 => some (builtIn 0 6 4 pointsExpn)
  | n => (c.ftab.get? n).map imageTable

/-! ### VFN (R205, R206) -/

/-- The reduction of an input (R205): sign, addend in units of 1, whether the result is complemented,
the reduced argument `u`, the scale `sc`, and the half of RSQRT's range. -/
structure FnArg where
  sgn : Int := 1
  add : Int := 0
  cmp : Bool := false
  u : Nat
  sc : Int := 0
  half : Nat := 0

/-- floor(A × 2^24 / 2^d). -/
def scaled24 (a : Nat) (d : Int) : Nat := if 0 ≤ d then a * 2 ^ 24 / 2 ^ d.toNat else a * 2 ^ 24 * 2 ^ (-d).toNat

/-- The reduction of a nonzero input of RECIP, RSQRT or LOG2 (R205). -/
def mantissaArg (d : FnTable) (f : Nat) (x : Int) : FnArg :=
  let a := x.natAbs
  let k := a.log2
  let u := (a - 2 ^ k) * 2 ^ 24 / 2 ^ k
  let e : Int := (k : Int) - f
  if d.kind = 2 then { sgn := if x < 0 then -1 else 1, u := u, sc := -e }
  else if d.kind = 3 then { u := u, sc := -(e / 2), half := (e % 2).toNat }
  else { u := u, add := e * 2 ^ d.cf }

/-- The reduction of an input of a domain kind (R205). -/
def domainArg (d : FnTable) (f : Nat) (x : Int) : FnArg :=
  let a := if d.kind = 0 then (max x 0).toNat else x.natAbs
  { u := min (scaled24 a (f + d.dlog)) (2 ^ 24 - 1)
    sgn := if d.kind = 5 ∧ x < 0 then -1 else 1
    cmp := d.kind == 6 && decide (x < 0) }

/-- The polynomial of a segment by Horner's rule with a floor at each step, from coefficient `j` down. -/
def horner (d : FnTable) (i : Nat) (z zb : Nat) : Nat → Int → Int
  | 0, p => p
  | j + 1, p => horner d i z zb j (d.coef.getD (i * (d.deg + 1) + j) 0 + p * z / 2 ^ zb)

/-- The value of a reduced input before its sign (R205). A shift beyond 128 bits either way gives what a
shift of 128 gives: the polynomial's value lies far within 2^100. -/
def fnValue (d : FnTable) (g : FnArg) (rndBy : Int → Nat → Int) : Int :=
  let zb := (if d.kind = 3 then 25 else 24) - d.segb
  let i := (if d.kind = 3 then g.half * 2 ^ (d.segb - 1) else 0) + g.u / 2 ^ zb
  let p := horner d i (g.u % 2 ^ zb) zb d.deg (d.coef.getD (i * (d.deg + 1) + d.deg) 0) + g.add
  let p := if g.cmp then 2 ^ d.cf - p else p
  let sh : Int := (d.cf : Int) - d.ofrac - g.sc
  if 0 ≤ sh then rndBy p (min sh.toNat 128) else p * 2 ^ min (-sh).toNat 128

/-- The least value that a saturated result of a type takes (R205, R208). -/
def leastV (vf : Word) (t : ElemTy) : Int := if tySigned t && fmtSym vf then -(maxv t) else minv t

/-- The result of one lane, with the flags it sets (R205). -/
def vfnLane (d : FnTable) (vf : Word) (t : ElemTy) (rndBy : Int → Nat → Int) (x : Int) : Int × BitVec 6 :=
  let f := vfFfrac vf
  let run (g : FnArg) : Int × BitVec 6 :=
    let r := satV vf t (g.sgn * fnValue d g rndBy)
    (r.1, flagIf r.2 satVec)
  match d.kind with
  | 1 =>
    let n := x / 2 ^ f
    run { u := scaled24 (x - n * 2 ^ f).toNat f, sc := n }
  | 2 => if x = 0 then (maxv t, satDiv) else run (mantissaArg d f x)
  | 3 => if x = 0 then (maxv t, satDiv) else if x < 0 then (0, satVec) else run (mantissaArg d f x)
  | 4 => if x ≤ 0 then (leastV vf t, satVec) else run (mantissaArg d f x)
  | _ => run (domainArg d f x)

/-- A VFNLD into a table is in flight. -/
def loadingTable (s : State) (n : Nat) : Bool :=
  s.ops.any fun o => o.core == s.cur &&
    match o.kind with
    | .vfnld k _ _ => k == n
    | _ => false

/-- A lane of VFN: its code and flags. -/
def vfnResult (s : State) (d : FnTable) (t : ElemTy) (v : VWord) (l : Nat) : Nat × BitVec 6 :=
  let x := rdLane s.ctx.vf t v l
  let r := vfnLane d s.ctx.vf t (fun y sh => rndV s y sh l) x.1
  (codeOf t.width r.1, r.2 ||| flagIf x.2 satRsub)

/-- The effect of VFN. -/
def doVfn (d : Fin 32) (a : VSrc) (b : Fin 16) (t : ElemTy) (m : MaskMode) (s : State) : State :=
  match fnTable s.ctx b.val with
  | none => s
  | some tab =>
    let r := vecMap t.width m s.ctx.maskTop (s.rv a) (vfnResult s tab t (s.rv a))
    pushV d 8 r.1 r.2 s

/-- VFN (R205, R206). -/
def execVfn (d : Fin 32) (a : VSrc) (b : Fin 16) (t : ElemTy) (m : MaskMode) (s : State) : Out :=
  slot Need.push
    (fun s => ((needV s a).seq (holdIf (loadingTable s b.val))).seq
      ((require (fnTable s.ctx b.val).isSome .illegalOperand 0).seq (checkReserved s t m [a])))
    (doVfn d a b t m) s

/-! ### VDIV (R208) -/

/-- A rounded quotient of a numerator and a positive denominator (R208). -/
def roundQuot (m : Round) (r : Word) (n y : Int) : Int :=
  let q := n / y
  let rem := n % y
  match m with
  | .rne => if y < 2 * rem ∨ (2 * rem = y ∧ q % 2 = 1) then q + 1 else q
  | .rtz => if n < 0 ∧ rem ≠ 0 then q + 1 else q
  | .rdn => q
  | .rna => if y < 2 * rem ∨ (2 * rem = y ∧ 0 ≤ n) then q + 1 else q
  | .stoch => (n + (r.toNat : Int) % y) / y

/-- The result of a lane of VDIV, with the flags it sets. -/
def vdivLane (s : State) (t : ElemTy) (l : Nat) (x y : Int) : Int × BitVec 6 :=
  let vf := s.ctx.vf
  if y = 0 then (if !tySigned t || decide (0 ≤ x) then maxv t else leastV vf t, satDiv)
  else
    let n := x * 2 ^ vfDsh vf * (if y < 0 then -1 else 1)
    let r := satV vf t (roundQuot (fmtRnd vf)
      (randomWord s.ctx.rseed s.ctx.rstep 0 (BitVec.ofNat 64 l)) n (if y < 0 then -y else y))
    (r.1, flagIf r.2 satVec)

/-- VDIV (R208). -/
def execVdiv (d : Fin 32) (a b : VSrc) (t : ElemTy) (m : MaskMode) (s : State) : Out :=
  slot Need.push (fun s => (needVV s a b).seq (checkReserved s t m [a, b]))
    (fun s =>
      let r := vecMap t.width m s.ctx.maskTop (s.rv a) fun l =>
        let x := rdLane s.ctx.vf t (s.rv a) l
        let y := rdLane s.ctx.vf t (s.rv b) l
        let q := vdivLane s t l x.1 y.1
        (codeOf t.width q.1, q.2 ||| flagIf (x.2 || y.2) satRsub)
      pushV d 24 r.1 r.2 s) s

/-! ### VFNLD (R207) -/

/-- A VFNLD or VOPT of the core is in flight (R201). -/
def functionBusy (s : State) : Bool :=
  s.ops.any fun o => o.core == s.cur &&
    match o.kind with
    | .vfnld _ _ _ => true
    | .vopt _ _ _ _ _ _ _ _ => true
    | _ => false

/-- The bytes of a table image as an access. -/
def vfRuns (s : State) (k : VfAddr) (x : Word) : List Run :=
  match k with
  | .tile h =>
    match vmTile s h with
    | some (_, e) => [⟨.here (tileByteKey s.cur e x.toNat), 832⟩]
    | none => []
  | .generic => accessRuns s x 832

/-- The side of a table image. -/
def vfSide (s : State) (k : VfAddr) (x : Word) : Side :=
  match k with
  | .tile h =>
    match vmTile s h with
    | some (i, _) => .tile i x.toNat
    | none => .none
  | .generic => sideOf s x (accessRuns s x 832)

/-- The space of a table image. -/
def vfSpace (s : State) (k : VfAddr) (x : Word) : Space :=
  match k with
  | .tile h => ((vmTile s h).map fun p => tileSpace p.2).getD .tile
  | .generic => spaceOf s x

/-- The checks of VFNLD's address: a VLD's, of 832 bytes. -/
def vfCheck (s : State) (k : VfAddr) (x : Word) : Verdict :=
  match k with
  | .tile h =>
    match vmTile s h with
    | none => faultV .tileHandle 0
    | some (_, e) =>
      (require (x.toNat % 8 == 0) .align 0).seq (require (decide (x.toNat + 832 ≤ tileBytes e)) .tileBounds 0)
  | .generic => checkAccess s true false 8 x 832

/-- The ranges that a VFNLD holds against writes until its reads are done. -/
def readRanges (s : State) (rs : List Run) : List Range :=
  (hereRuns (rs.map (ownRun s))).map fun (k, n) => ⟨k, n, false⟩

/-- The effect of VFNLD at issue. Its duration is its place's first data and 832 bytes at 64 a cycle. -/
def doVfnld (x : Fin 8) (k : VfAddr) (a : Word) (s : State) : State :=
  ((useSide (vfSide s k a) s).startOp ((vfSpace s k a).delay + 13) (readRanges s (vfRuns s k a))
    (.vfnld (x.val + 8) (vfSide s k a) a)).modCtx fun c => c.raise .t

/-- VFNLD (R207): its field x is 8 to 15. -/
def execVfnld (x : Fin 8) (k : VfAddr) (a : SSrc) (s : State) : Out :=
  slot { t := 1 }
    (fun s => ((needS s a).seq (vfCheck s k (s.rs a))).seq
      (holdIf (functionBusy s || accessHeld s false (vfRuns s k (s.rs a)))))
    (fun s => doVfnld x k (s.rs a) s) s

/-- The effect of a VFNLD's completion on its issuer's state. -/
def loadTable (o : Op) (n : Nat) (fail : Option FaultCode) (bs : List Byte) (c : Ctx) : Ctx :=
  let c := c.lower .t
  match fail with
  | some code => ({ c with ftab := c.ftab.erase n }).mark .t code o.bundle (BitVec.ofNat 64 o.bundle)
  | none => { c with ftab := c.ftab.set n bs }

/-- Why a load of a table fails, if it does (R207; 17_system R400, R402). -/
def tableFail (s : State) (o : Op) (side : Side) (rs : List Run) (f : Fetched) : Option FaultCode :=
  match f.fail.or (runsFault s o.view rs) with
  | some code => some code
  | none =>
    if !(stopAllows s o.core side 0 832 true false && runsAllowed s o.core true false rs) then some .accessTable
    else if poisoned f.data then some .poison
    else if (rs.any fun x => x.place == .zero) || !imageValid (f.data.map Prod.fst) then some .illegalOperand
    else none

/-- A VFNLD's reads may be made: the stores of earlier bundles to its bytes have performed (R207). -/
def vfnldReady (s : State) (o : Op) (rs : List Run) : Bool :=
  let hull := hereRuns rs
  let far := rs.any fun r => !(hereRuns [r] != [] || r.place == .zero)
  !(s.ops.any fun p => storeBefore o hull far p) && !clientWaits s (.op o.id) &&
    !(hull.any fun (k, n) => granBusy s k n || requestsBefore s o.id k n) && !engineBehind s o.core false hull

/-- A VFNLD reads its table, waits for the bytes of other packages, and completes. -/
def completeVfnld (o : Op) (n : Nat) (side : Side) (s : State) : State :=
  match reach false s (sideRuns s o side 0 832) with
  | none => (s.dropOp o.id).modOwner o.task o.member (loadTable o n (some .remoteError) [])
  | some rs =>
    if !vfnldReady s o rs then s
    else
      let f := fetchRuns s o.view (.op o.id) 0 rs
      if f.waits then startParts o (.op o.id) 0 f.asks s
      else ((readRuns (endParts (.op o.id) (s.dropOp o.id)) o.view rs).noteErr (tableFail s o side rs f)).modOwner o.task o.member
        (loadTable o n (tableFail s o side rs f) (f.data.map Prod.fst))

/-- VFNLD_COMPLETE (R207). -/
def execVfnldComplete (op : Nat) (_ : Unit) (s : State) : Out :=
  match s.op? op with
  | some o =>
    match o.kind with
    | .vfnld n side _ => .next (completeVfnld o n side s)
    | _ => .next s
  | none => .next s

/-! ### VOPT (R209–R212) -/

/-- The tiles of a VOPT: W, its companion M, and G. -/
def voptTiles (s : State) (h : BitVec 8) (g : Word) :
    Option (Nat × TileEntry) × Option (Nat × TileEntry) × Option (Nat × TileEntry) :=
  let w := vmTile s h
  (w, w.bind fun (_, e) => s.tileAt s.cur e.comp, s.tileOfReg g)

/-- The types of W and M (R210). -/
def weightType : ElemTy → Bool
  | .i8 | .i16 | .i32 => true
  | .i4 | .n8 | .n16 | .n32 | .n4 => false

/-- The checks of VOPT (R210, R212); a handle in COMP of W that names no tile of the task is ILLEGAL_OPERAND.
DESIGN CHOICE (notes/assumptions/76). -/
def checkVopt (s : State) (h : BitVec 8) (g : Word) : Verdict :=
  match voptTiles s h g with
  | (some (iw, ew), m, some (ig, eg)) =>
    match m with
    | none => faultV .illegalOperand 0
    | some (im, em) =>
      (require (im != iw && ig != iw && ig != im) .illegalOperand 0).seq
        ((require (weightType ew.ty && weightType em.ty && tySigned eg.ty) .illegalOperand 0).seq
          ((require (ew.rows == em.rows && ew.rows == eg.rows && ew.cols == em.cols && ew.cols == eg.cols)
            .tileShape 0).seq
            (holdIf (functionBusy s || acqPending s ||
              [(iw, ew), (im, em), (ig, eg)].any fun (i, e) => tileBusy s s.cur i ||
                storeWaits s (tileByteKey s.cur e 0) (tileBytes e) ||
                heldRange s s.cur true (tileByteKey s.cur e 0) (tileBytes e)))))
  | _ => faultV .tileHandle 0

/-- The optimiser parameters (R209). -/
def optcOf (c : Ctx) : List Word := (List.range 5).map fun n => c.optc.getD n 0

/-- The effect of VOPT at issue. -/
def doVopt (r : OptRule) (h : BitVec 8) (g : Word) (s : State) : State :=
  match voptTiles s h g with
  | (some (iw, ew), some (im, em), some (ig, eg)) =>
    (s.startOp (20 + (ew.rows * ew.cols + 127) / 128)
      [tileRange s.cur ew true, tileRange s.cur em true, tileRange s.cur eg true]
      (.vopt r iw im ig s.ctx.vf s.ctx.rseed s.ctx.rstep (optcOf s.ctx))).modCtx fun c => c.raise .t
  | _ => s

/-- VOPT (R210). -/
def execVopt (r : OptRule) (h : BitVec 8) (a : SSrc) (s : State) : Out :=
  slot { t := 1 } (fun s => (needS s a).seq (checkVopt s h (s.rs a))) (fun s => doVopt r h (s.rs a) s) s

/-- An integer times a power of two; a negative power is used only where the product is exact. -/
def shl2 (x : Int) (n : Int) : Int := if 0 ≤ n then x * 2 ^ n.toNat else x / 2 ^ (-n).toNat

/-- What an optimiser step needs beside its elements: the fields of OPTC, the exponents, the captured
formats and the keys. -/
structure OptEnv where
  lrs : Nat
  lrm : Int
  beta1 : Int
  beta2 : Int
  wd : Int
  clip : Int
  ew : Int
  em : Int
  eg : Int
  vf : Word
  seed : Word
  step : Word
  keyW : Word
  keyM : Word
  tyW : ElemTy
  tyM : ElemTy

/-- A rounded and saturated new element (R211). -/
def optRound (v : OptEnv) (t : ElemTy) (key : Word) (n : Nat) (x : Int) (sh : Nat) : Int × Bool :=
  satV v.vf t (rnd (fmtRnd v.vf) (randomWord v.seed v.step key (BitVec.ofNat 64 n)) x sh)

/-- The sign of an integer. -/
def signOf (x : Int) : Int := if x < 0 then -1 else if x = 0 then 0 else 1

/-- One element of an optimiser step (R211): the new weight and momentum, and whether one clamped. -/
def optElem (rule : OptRule) (v : OptEnv) (n : Nat) (w m g : Int) : Int × Int × Bool :=
  let g := if v.clip ≠ 0 then min (max g (-v.clip)) v.clip else g
  let a := max 0 (v.em - v.eg)
  let g2 := shl2 g (v.eg - v.em + a)
  match rule with
  | .sgdm =>
    let mn := optRound v v.tyM v.keyM n (shl2 (v.beta1 * m) a + 2 ^ 16 * g2) (16 + a).toNat
    let t : Int := v.lrs + 16 + max 0 (v.ew - v.em)
    let num := shl2 w t - shl2 (v.lrm * mn.1) (t - v.lrs + v.em - v.ew) - shl2 (v.lrm * v.wd * w) (t - v.lrs - 16)
    let wn := optRound v v.tyW v.keyW n num t.toNat
    (wn.1, mn.1, mn.2 || wn.2)
  | .lion =>
    let c := shl2 (v.beta1 * m) a + (2 ^ 16 - v.beta1) * g2
    let t : Int := v.lrs + 16 + max 0 v.ew
    let num := shl2 w t - shl2 (v.lrm * signOf c) (t - v.lrs - v.ew) - shl2 (v.lrm * v.wd * w) (t - v.lrs - 16)
    let mn := optRound v v.tyM v.keyM n (shl2 (v.beta2 * m) a + (2 ^ 16 - v.beta2) * g2) (16 + a).toNat
    let wn := optRound v v.tyW v.keyW n num t.toNat
    (wn.1, mn.1, mn.2 || wn.2)

/-- The values of a tile's elements as a VOPT reads them, with whether one was a reserved code. -/
def optRead (s : State) (core : Nat) (vf : Word) (e : TileEntry) : List (Int × Bool) :=
  (List.range (e.rows * e.cols)).map fun n => readElem (fmtSym vf) (fmtSubst vf) e.ty (memCode s core e n)

/-- The flags and the mark of a VOPT's reads and clamps (03_numbers R61). -/
def noteVopt (now : Nat) (o : Op) (vf : Word) (sub clamped : Bool) (c : Ctx) : Ctx :=
  let c := c.lower .t
  let c := c.setSatf now (flagIf sub satRsub ||| flagIf clamped satVec)
  if sub && fmtSubst vf == .fault then c.mark .t .reservedCode o.bundle (BitVec.ofNat 64 o.bundle) else c

/-- The environment of a VOPT. -/
def optEnv (c : Ctx) (vf rseed rstep : Word) (p : List Word) (iw im : Nat) (ew em eg : TileEntry) : OptEnv :=
  { lrs := bits (p.getD 0 0) 32 6, lrm := bits (p.getD 0 0) 0 32, beta1 := bits (p.getD 1 0) 0 16,
    beta2 := bits (p.getD 2 0) 0 16, wd := bits (p.getD 3 0) 0 16, clip := bits (p.getD 4 0) 0 32,
    ew := ew.exp, em := em.exp, eg := eg.exp, vf := vf, seed := rseed, step := rstep,
    keyW := tileTensor c iw ew, keyM := tileTensor c im em, tyW := ew.ty, tyM := em.ty }

/-- A VOPT completes: every element of W and M takes its new value (R211, R212). -/
def completeVopt (o : Op) (rule : OptRule) (iw im ig : Nat) (vf rseed rstep : Word) (p : List Word)
    (s : State) : State :=
  let ts := (s.coreAt o.core).tiles
  match ts.get? iw, ts.get? im, ts.get? ig with
  | some ew, some em, some eg =>
    let bad := ((tileFault s o.core ew).or (tileFault s o.core em)).or (tileFault s o.core eg)
    let v := optEnv (s.ownerCtx o.task o.member) vf rseed rstep p iw im ew em eg
    let ws := optRead s o.core vf ew
    let ms := optRead s o.core vf em
    let gs := optRead s o.core vf eg
    let rs := (List.range ws.length).map fun n =>
      optElem rule v n (ws.getD n (0, false)).1 (ms.getD n (0, false)).1 (gs.getD n (0, false)).1
    let nw := rs.map fun r => r.1
    let nm := rs.map fun r => r.2.1
    let s := writeElems o.core ew 0 (nw.map (codeOf ew.ty.width)) (s.dropOp o.id)
    let s := writeElems o.core em 0 (nm.map (codeOf em.ty.width)) s
    let s := noteEngineWrite o.core im true nm (noteEngineWrite o.core iw true nw s)
    s.modOwner o.task o.member fun c =>
      markT o bad (noteVopt s.cyc o vf ((ws ++ ms ++ gs).any Prod.snd) (rs.any fun r => r.2.2) c)
  | _, _, _ => s.dropOp o.id

/-- VOPT_COMPLETE (R212). -/
def execVoptComplete (op : Nat) (s : State) : Out :=
  match s.op? op with
  | some o =>
    match o.kind with
    | .vopt r w m g vf rseed rstep p => .next (completeVopt o r w m g vf rseed rstep p s)
    | _ => .next s
  | none => .next s

end Sys2Proof.Machine
end

