-- ==== Sys2Proof/Machine/Records.lean ====
section
/-! DEFINITION. The fault record that firmware writes, and what follows a fault (06_sequencer R162–R164;
13_tasks R322, R410). -/

namespace Sys2Proof.Machine

open Sys2Proof

/-! ### The record (R162) -/

/-- FLAGS of a record. -/
def recordFlags (t : Task) (f : FaultInfo) : Nat :=
  (if f.async then 1 else 0) + (if f.repcnt = 0 then 0 else 2) + (if 1 < t.width then 4 else 0)

/-- The 64 bytes of a fault record (Table 6-4). -/
def recordBytes (t : Task) (f : FaultInfo) (w : Culprit) : List Byte :=
  [leBytes 1 (faultNumber f.code), leBytes 1 (f.slot % 8), leBytes 1 0, leBytes 1 (recordFlags t f),
    leBytes 4 (t.id % 2 ^ 32), leBytes 2 t.asid, leBytes 1 w.core, leBytes 1 w.member, leBytes 2 f.bundle,
    leBytes 2 f.resume, leBytes 8 f.faddr.toNat, leBytes 8 f.aux, leBytes 8 w.nbun.toNat, leBytes 4 f.repcnt,
    leBytes 4 0, leBytes 8 (Config.saveArea t.id w.member % 2 ^ 40), leBytes 8 0].flatten

/-! ### What follows (R163) -/

/-- The handler of a task's faults: the record's, or the context's. A handler has none. -/
def handlerOf (s : State) (t : Task) : Option Nat :=
  match t.origin with
  | .handler _ => none
  | .packet _ _ | .spawn _ | .fork _ | .remote _ _ =>
    if t.spec.handler ≠ 0 then some t.spec.handler
    else
      match s.context? t.asid with
      | some c => if c.defHandler = 0 then none else some c.defHandler
      | none => none

/-- The record of a handler's task: its image, and everything else zero.
DESIGN CHOICE (notes/assumptions/67). -/
def handlerRec (image prio : Nat) : TaskRec :=
  { image := image, prio := prio, useImg := false, lines := 0, acc := 0, remote := false, die := 4, noSteal := true,
    arg0 := 0, arg1 := 0, rseed := 0, rstep := 0, faultRec := 0, handler := 0, reads := [], writes := [] }

/-- Firmware starts the handler of a stopped task as a width-1 task of the same context and view.
DEDUCED (notes/assumptions/25). -/
def startHandler (t : Task) (image : Nat) (rec : Word) (core : Nat) (s : State) : State :=
  let die := dieOf core
  let (id, s) := takeId die s
  let h : Task :=
    { id := id, asid := t.asid, depth := t.depth, view := t.view, origin := .handler t.id, homeDie := die,
      spec := handlerRec image t.spec.prio, order := 0, state := .waiting, admitted := some s.admitOrder, recAddr := rec }
  wakeTasks (addTask h { s with admitOrder := s.admitOrder + 1 })

/-- A revision-pool stop is reported whatever follows it (16_front_end R388). -/
def reportPool (t : Task) (f : FaultInfo) (rec : Word) (s : State) : State :=
  if f.code = .revisionPool then
    postService { kind := 3, code := faultNumber f.code, asid := t.asid, task := t.id, address := rec,
                  length := 0, parent := 0, flags := 0, bundle := 0 } s
  else s

/-- What follows a fault once its record is written, or cannot be: the task's handler, its end with a report, or the
refusal of its launch (R162–R164). -/
def followRecord (task : Nat) (s : State) : State :=
  match (s.task? task).bind fun t => t.recWait.map fun r => (t, r) with
  | none => s
  | some (t, r) =>
    let rec_ := t.recAddr
    let s := (endParts (.faultRec task) s).modTask task fun t =>
      { t with
        recWait := none
        saved := t.saved.map fun (v : Saved) => { v with ctx := { v.ctx with fltrec := rec_ } } }
    let s := reportPool t r.fault rec_ s
    if r.refused then refuseTask t r.fault.code rec_ s
    else
      match handlerOf s t with
      | some h => startHandler t h rec_ r.who.core s
      | none => terminate [t.id] (reportFault t r.fault.code rec_ r.fault.bundle s)

/-! ### Where the record goes (R162) -/

/-- The next slot of the context's default area: its VA, and where its bytes are. -/
def defaultSlot (s : State) (t : Task) : Option (Nat × List Run) :=
  (s.context? t.asid).bind fun c =>
    if c.frecn = 0 then none
    else
      let va := c.frec + 64 * (c.frecNext % c.frecn)
      match masterRuns s pairMaster t.asid va 64 false true with
      | .ok rs => (reach true s rs).map fun rs => (va, rs)
      | .error _ => none

/-- The next slot is used. -/
def nextSlot (asid : Nat) (s : State) : State :=
  s.modContext asid fun c => { c with frecNext := (c.frecNext % c.frecn + 1) % c.frecn }

/-- Sets the address of a task's record. -/
def setRecord (task : Nat) (a : Word) (s : State) : State := s.modTask task fun t => { t with recAddr := a }

/-- Writes a task's record to some runs, as the step of its writing. -/
def writeRecord (t : Task) (r : RecWait) (row : Nat) (rs : List Run) (s : State) : State :=
  storeRuns (engineOp s t.asid) (.faultRec t.id) row rs ((recordBytes t r.fault r.who).map (·, false)) s

/-- A record written in the default area stands there once every answer has come; after an error there is none. -/
def awaitDefault (task : Nat) (s : State) : State :=
  match stepAnswers s (.faultRec task) 1 with
  | (true, _) => s
  | (false, none) => followRecord task s
  | (false, some _) => followRecord task (setRecord task 0 s)

/-- Writes a record in the default area. -/
def recordDefault (t : Task) (r : RecWait) (s : State) : State :=
  match defaultSlot s t with
  | some (va, rs) =>
    awaitDefault t.id (nextSlot t.asid (setRecord t.id (BitVec.ofNat 64 va) (writeRecord t r 1 rs s)))
  | none => followRecord t.id (setRecord t.id 0 s)

/-- A record written at FAULTREC stands there once every answer has come; after an error it goes to the default area. -/
def awaitRecord (t : Task) (r : RecWait) (s : State) : State :=
  match stepAnswers s (.faultRec t.id) 0 with
  | (true, _) => s
  | (false, none) => followRecord t.id s
  | (false, some _) => recordDefault t r s

/-- Writes a record at FAULTREC, or else in the default area (R162). -/
def putRecord (t : Task) (r : RecWait) (s : State) : State :=
  let s := s.modTask t.id fun t => { t with recWait := some r }
  match if t.spec.faultRec = 0 then none
      else (recordRuns s { t with faultMember := r.who.member } t.spec.faultRec true).bind (reach true s) with
  | some rs => awaitRecord t r (setRecord t.id t.spec.faultRec (writeRecord t r 0 rs s))
  | none => recordDefault t r s

/-- A packet of a task's record has been answered: its writing goes on, or ACTION is read. -/
def recordAnswered (row task : Nat) (s : State) : State :=
  match s.task? task with
  | none => s
  | some t =>
    match t.recWait with
    | some r => if row = 0 then awaitRecord t r s else awaitDefault task s
    | none =>
      settleTasks (readAction t s)

/-- What follows the fault of a task that is saved (R162–R164). -/
def handleFault (t : Task) (f : FaultInfo) (w : Culprit) (s : State) : State :=
  putRecord t ⟨f, w, false⟩ (s.modTask t.id fun t => { t with state := .stopped, fault := some f, faultMember := w.member })

/-- Firmware refuses a task before its first bundle (02_bundles R57; 13_tasks R322): a record, and its end. -/
def refuseLaunch (t : Task) (core : Nat) (code : FaultCode) (faddr : Nat) (s : State) : State :=
  let f : FaultInfo :=
    { code := code, slot := 0, async := false, bundle := 0, resume := 0, faddr := BitVec.ofNat 64 faddr, aux := 0,
      repcnt := 0 }
  putRecord t ⟨f, ⟨core, 0, 0⟩, true⟩ (s.modTask t.id fun t => { t with state := .stopped })

end Sys2Proof.Machine
end

