-- ==== Sys2Proof/Machine/MemEvents.lean ====
section
/-! DEFINITION. The events of loads, stores, releases and heavy fences (04_memory_model R79–R92;
05_scalar R122; 15_fabric R359, R360). -/

namespace Sys2Proof.Machine

open Sys2Proof

/-! ### Loads (R79, R81) -/

/-- The offset of run `k` of some runs. -/
def runOffset (rs : List Run) (k : Nat) : Nat := ((rs.take k).map Run.len).sum

/-- What the packets of a load have brought: the bytes of their runs, and the first error. -/
def partBytes (s : State) (o : Op) (l : LoadOp) : List (Nat × Byte) × Option FaultCode :=
  s.ops.foldl (fun x q =>
    match q.kind with
    | .part p =>
      if p.client ≠ .op o.id then x
      else
        match p.ans with
        | .data bs bad =>
          let off := runOffset l.runs p.row
          (x.1 ++ ((List.range bs.length).map (· + off)).zip bs, x.2.or (if bad = [] then none else some .poison))
        | .error code => (x.1, x.2.or (some code))
        | .waits => x
    | _ => x) ([], none)

/-- What a load's operation does with the bytes it has got, or with a failure. A record's task is created once those of
its creator's earlier records are (13_tasks R315). -/
def settleWith (o : Op) (l : LoadOp) (err : Option FaultCode) (s : State) : State :=
  match o.kind with
  | .load _ => endLoad o l err s
  | .record fork addr _ =>
    match err with
    | some code => ((supplyPush o (failedPush code) s).dropOp o.id).noteErr err
    | none =>
      if loadDone s o l = true ∧ recordBefore s o.task o.id = false then endRecord o fork l s
      else s.modOp o.id fun x => { x with kind := .record fork addr l }
  | .desc _ e => s.modOp o.id fun x => { x with kind := .desc l (err.or e) }
  | _ => s

/-- What a load's operation does once something has come for it: the bytes of its packets join those it has. -/
def settleLoad (o : Op) (l : LoadOp) (err : Option FaultCode) (s : State) : State :=
  if l.runs.length ≤ 1 ∨ clientWaits s (.op o.id) = true then settleWith o l err s
  else
    let x := partBytes s o l
    settleWith o { l with got := l.got ++ x.1 } (err.or x.2) (endParts (.op o.id) s)

/-- An earlier load of a load's core to its local bytes has not taken its value (R81). -/
def loadAfter (o : Op) (rs : List Run) (p : Op) : Bool :=
  decide (p.id < o.id) && p.core == o.core &&
    match p.kind with
    | .load l | .record _ _ l => !l.taken && (hereRuns l.runs).any fun (k, n) => runsMeet rs k n
    | _ => false

/-- A load's local runs may take their bytes (R81, R82). -/
def loadReady (s : State) (o : Op) (rs : List Run) : Bool :=
  !(s.ops.any (loadAfter o rs)) &&
    !((hereRuns rs).any fun (k, n) => arrivesLater s o false k n || granBusy s k n || requestsBefore s o.id k n)

/-- A local run of a load where it is reached now (12_migration R297, R299). -/
def liveRun (s : State) (r : Run) : Run :=
  match r.place with
  | .here _ => (reachRun false s r).getD r
  | .far _ _ _ | .zero => r

/-- A run of a load that was local. -/
def wasHere (old : List Run) (k : Nat) : Bool :=
  match (old[k]?).map Run.place with
  | some (.here _) => true
  | some (.far _ _ _) | some .zero | none => false

/-- The local runs that have moved while the load's own request is out are asked by packets. -/
def askMoved (o : Op) (l : LoadOp) (old : List Run) (s : State) : State :=
  ((List.range l.runs.length).filter (wasHere old)).foldl (askRun o.id l) s

/-- A load takes the bytes of its local runs; runs whose pages moved are asked of their owner. A controller whose table
denies it by now fails it (17_system R399, R400). -/
def performLoad (o : Op) (l : LoadOp) (s : State) : State :=
  if l.taken then settleLoad o l none s
  else
    let rs := l.runs.map (liveRun s)
    if !loadReady s o rs then s
    else if !runsAllowed s o.core true false rs then settleLoad o l (some .accessTable) s
    else
      let t := takeRuns s o.core o.id 0 rs
      let waits := decide (l.next < l.runs.length)
      let next := if waits then l.next else (nextFar rs 0).getD rs.length
      let m := { l with runs := rs, got := l.got ++ t.1, taken := true, next := next }
      let u := settleLoad o m t.2 (readRuns s o.view rs)
      if waits then askMoved o m l.runs u else askFar o.id m u

/-- LOAD_PERFORM_AT_HOME (R79). -/
def execLoadPerformAtHome (op : Nat) (s : State) : Out :=
  match s.op? op with
  | some o =>
    match loadOf o with
    | some l => .next (performLoad o l s)
    | none => .next s
  | none => .next s

/-- An answer to a load from a remote home: its bytes; poison in them is the load's fault (17_system R402). -/
def answerLoad (o : Op) (l : LoadOp) (data : List Byte) (bad : List Nat) (err : Option FaultCode) (s : State) : State :=
  match l.runs[l.next]? with
  | none => s
  | some r =>
    match err.or (if bad = [] then none else some .poison) with
    | some code => settleLoad o l (some code) s
    | none =>
      let off := runOffset l.runs l.next
      settleLoad o
        { l with got := l.got ++ ((List.range r.len).map (· + off)).zip data, next := l.runs.length } none s

/-- What came back for a packet. -/
def partOf (data : List Byte) (bad : List Nat) (err : Option FaultCode) : PartAns :=
  match err with
  | some code => .error code
  | none => .data data bad

/-- The answer of a packet, after which a fault record's writing or reading goes on (06_sequencer R162). -/
def answerClient (id : Nat) (p : PartOp) (a : PartAns) (s : State) : State :=
  match p.client with
  | .faultRec task => recordAnswered p.row task (answerPart id p a s)
  | .op _ | .start _ | .parked _ | .image _ | .posted => answerPart id p a s

/-- REMOTE_LOAD_RESPONSE (15_fabric R359). -/
def execRemoteLoadResponse (op : Nat) (data : ReadData) (err : Option FaultCode) (s : State) : Out :=
  let t := dropSent op s
  match s.op? op with
  | some o =>
    match o.kind, loadOf o with
    | .part p, _ => .next (answerClient op p (partOf data.bytes data.bad err) t)
    | _, some l => .next (answerLoad o l data.bytes data.bad err t)
    | _, none => .next s
  | none => .next t

/-! ### Stores (R79, R81, R82, R84, R85) -/

/-- A store of a core to bytes of this package that meet a range. -/
def storesTo (core key len : Nat) (p : Op) : Bool :=
  p.core == core &&
    match p.kind with
    | .store x =>
      match x.place with
      | .here k => overlaps k x.len key len
      | .far _ _ _ | .zero => false
    | _ => false

/-- An earlier load or store of a store's core to its local bytes is unperformed (R81). -/
def storeAfter (o : Op) (w : StoreOp) (key : Nat) (p : Op) : Bool :=
  decide (p.id < o.id) &&
    (storesTo o.core key w.len p ||
      match p.kind with
      | .load l | .record _ _ l => p.core == o.core && !l.taken && runsMeet l.runs key w.len
      | _ => false)

/-- A store may be applied at its home (R81, R82). -/
def storeReady (s : State) (o : Op) (w : StoreOp) (key : Nat) : Bool :=
  !(s.ops.any (storeAfter o w key)) && !arrivesLater s o true key w.len && !granBusy s key w.len &&
    !requestsBefore s o.id key w.len

/-- A store becomes a request to the owner of its page. -/
def sendStore (o : Op) (w : StoreOp) (p : PageKey) (off : Nat) (s : State) : State :=
  sendRequest o.id (s.modOp o.id fun x => { x with issuedU := s.timeU, kind := .store { w with
    place := .far s.accid p.size (.page p.asid (pageVa p off)), sent := true, rel := none } })

/-- A store has ended, a remote one with its acknowledgement: class S and the window's count fall, or an error is marked
(R84; 15_fabric R356). -/
def endStore (o : Op) (w : StoreOp) (err : Option FaultCode) (s : State) : State :=
  let s := match w.window with
    | some k => s.modCore o.core fun c => { c with win := c.win.set k (c.win.getD k 0 - 1) }
    | none => s
  if w.posted then s.endOp o .s (err.map fun c => (c, w.faddr))
  else
    match err with
    | some code => ((s.dropOp o.id).noteErr err).modOwner o.task o.member fun c => c.mark .s code o.bundle w.faddr
    | none => s.dropOp o.id

/-- A store performs at its home in this package, in the view of its task; into a frozen or moved frame it goes
as a request (12_migration R297, R299). A controller whose table denies it by now leaves the error at its issuer
(17_system R399, R400). -/
def performStore (o : Op) (w : StoreOp) (key : Nat) (s : State) : State :=
  match movedAt s key, frozenAt s key with
  | some (p, off), _ => sendStore o w p off s
  | none, some (m, off) => sendStore o w m.req.page off s
  | none, none =>
    if coreAllowed s o.core key w.len false true then endStore o w none (s.viewWrite o.view key w.len w.data)
    else endStore o w (some .accessTable) s

/-- STORE_PERFORM_AT_HOME (R79): a plain store, or a release that has left the store buffer. -/
def execStorePerformAtHome (op : Nat) (s : State) : Out :=
  match s.op? op with
  | some o =>
    match o.kind with
    | .store w =>
      match w.place with
      | .here k => .next (if (w.rel.isNone || w.sent) && storeReady s o w k then performStore o w k s else s)
      | .far _ _ _ | .zero => .next s
    | _ => .next s
  | none => .next s

/-- A release leaves its core now, and the later stores of the core to its bytes come after it (R81). -/
def leaveCore (o : Op) (w : StoreOp) (key : Nat) (s : State) : State :=
  { s with ops := s.ops.map fun x =>
    if x.id = o.id then { x with queuedAt := s.nextOp, kind := .store { w with sent := true } }
    else if decide (o.id < x.id) && storesTo o.core key w.len x then { x with queuedAt := s.nextOp }
    else x }

/-- A release leaves the store buffer: into its die's ordering queue, to its remote home, with the accesses that
waited behind it, or into memory. -/
def performRelease (o : Op) (w : StoreOp) (s : State) : State :=
  match w.place with
  | .here k =>
    let s := leaveCore o w k s
    match s.op? o.id with
    | some p => if !w.queued && storeReady s p { w with sent := true } k then performStore p { w with sent := true } k s else s
    | none => s
  | .far _ _ _ =>
    sendBehind (sendRequest o.id
      (s.modOp o.id fun x => { x with issuedU := s.timeU, kind := .store { w with sent := true } }))
  | .zero => s

/-- RELEASE_STORE_PERFORM (R85). -/
def execReleaseStorePerform (op : Nat) (s : State) : Out :=
  match s.op? op with
  | some o =>
    match o.kind with
    | .store w =>
      match w.rel with
      | some scope =>
        .next (if !w.sent && releaseReady s o.core scope o.stamp o.id then performRelease o w s else s)
      | none => .next s
    | _ => .next s
  | none => .next s

/-- POSTED_WRITE_ACKNOWLEDGE (R84; 15_fabric R359: also that of a SIGNAL's store, and of a packet that writes). -/
def execPostedWriteAcknowledge (op : Nat) (err : Option FaultCode) (s : State) : Out :=
  let t := dropSent op s
  match s.op? op with
  | some o =>
    match o.kind with
    | .store w =>
      match w.place with
      | .far _ _ _ => .next (if w.sent then endStore o w err t else s)
      | .here _ | .zero => .next s
    | .far f => .next (if f.performed then endFar o f f.old f.sat err t else s)
    | .part p => .next (answerClient op p (partOf [] [] err) t)
    | _ => .next s
  | none => .next t

/-! ### Errors of remote accesses (05_scalar R122; 15_fabric R360; 12_migration R288) -/

/-- The fence or PUBLISH of a core fails: its bundle raises the code (R92; 13_tasks R326). -/
def failWait (o : Op) (code : FaultCode) (s : State) : State :=
  (s.modCore o.core fun c => { c with pubDone := some (some code) }).dropOp o.id

/-- A remote access completes with an error. -/
def failRemote (o : Op) (code : FaultCode) (s : State) : State :=
  let s := dropSent o.id s
  match o.kind with
  | .load l | .record _ _ l | .desc l _ => if l.next < l.runs.length then settleLoad o l (some code) s else s
  | .store w =>
    match w.place with
    | .far _ _ _ => if w.sent then endStore o w (some code) s else s
    | .here _ | .zero => s
  | .far f =>
    match f.place with
    | .far _ _ _ => if f.performed then endFar o f 0 false (some code) s else s
    | .here _ | .zero => s
  | .part p => answerClient o.id p (.error code) s
  | .migr _ _ _ _ => s.endOp o .s (some (code, BitVec.ofNat 64 o.bundle))
  | .publish _ => failWait o code s
  | .packet p => if p.kind = .publish ∧ p.finished = false then answerPacket o p (some code) s else s
  | .ownerCmd n _ => adminDone n (some code) (s.dropOp o.id)
  | .fenceHeavy _ waiting reply =>
    if reply.isNone && waiting.any fun w => w.1 != s.accid then failWait o code s else s
  | _ => s

/-- The fabric request timeout has passed since an operation's request was issued (15_fabric R360). -/
def fabricExpired (s : State) (o : Op) : Bool := decide (o.issuedU + s.cfg.ftimeout * microU ≤ s.timeU)

/-- A refused access that still waits for its home or to be sent again (12_migration R288). -/
def stillRefused (s : State) (id : Nat) : Bool := s.mig.holds.any fun h => decide (id ∈ h.refused ++ h.asked)

/-- The owner of the page that a MIGR moves is this package, and the move goes on: it has answered, unless the home leaves
its COMMIT unanswered for the timeout (12_migration R294). -/
def movesHere (s : State) (o : Op) : Bool :=
  s.mig.moves.any fun m => m.req.issuer == some ⟨s.accid, o.id⟩ &&
    !(m.stage == .committing && decide (m.sinceU + s.cfg.ftimeout * microU ≤ s.timeU))

/-- FABRIC_REQUEST_TIMEOUT (15_fabric R360; 12_migration R288). -/
def execFabricRequestTimeout (op : Nat) (s : State) : Out :=
  match s.op? op with
  | some o =>
    .next (if !fabricExpired s o || movesHere s o then s
      else failRemote o (if stillRefused s op then .migration else .fabricTimeout) s)
  | none => .next s

/-! ### Heavy fences (R90) -/

/-- A request for a core: it waits at the core's boundary, or is acknowledged at once by a core that no longer
runs the context. -/
def askCore (ask : FenceAsk) (n : Nat) (s : State) : State :=
  if n ∈ coresRunning s ask.asid then
    s.modCore n fun c => { c with fences := c.fences ++ [⟨ask, s.nextOp⟩] }
  else s.send ask.src.acc (.fenceHeavyAcknowledge ask.src.op s.accid n)

/-- A request that reaches another package of the pod: every core of it that runs the context is asked. -/
def askPackage (ask : FenceAsk) (s : State) : State :=
  let cs := coresRunning s ask.asid
  if cs = [] then s.send ask.src.acc (.fenceHeavyAcknowledge ask.src.op s.accid 256)
  else
    let own : FenceAsk := { ask with src := ⟨s.accid, s.nextOp⟩ }
    cs.foldl (fun s n => askCore own n s)
      (s.startEngineOp ask.asid 0 (.fenceHeavy ask.scope (cs.map fun n => (s.accid, n)) (some ask.src)))

/-- FENCE_HEAVY_SERIALISATION (R90): the request arrives; the core acknowledges at its boundary
(`serveFence`).
DEDUCED (notes/assumptions/33). -/
def execFenceHeavySerialisation (ask : FenceAsk) (core : Option Nat) (s : State) : Out :=
  match core with
  | some n => .next (askCore ask n s)
  | none => .next (askPackage ask s)

/-- The last acknowledgement of a heavy fence: the core's bundle issues, or the asking package is answered. -/
def endHeavy (o : Op) (reply : Option ReqId) (s : State) : State :=
  match reply with
  | none => (s.dropOp o.id).modCore o.core fun c => { c with released := true }
  | some r => (s.dropOp o.id).send r.acc (.fenceHeavyAcknowledge r.op s.accid 256)

/-- FENCE_HEAVY_ACKNOWLEDGE (R90). -/
def execFenceHeavyAcknowledge (op acc core : Nat) (s : State) : Out :=
  match s.op? op with
  | some o =>
    match o.kind with
    | .fenceHeavy scope waiting reply =>
      let rest := waiting.filter (· != (acc, core))
      .next (if rest = [] then endHeavy o reply s
        else s.modOp op fun x => { x with kind := .fenceHeavy scope rest reply })
    | _ => .next s
  | none => .next s

end Sys2Proof.Machine
end

