-- ==== Sys2Proof/Machine/Home.lean ====
section
/-! DEFINITION. Requests between packages (12_migration R282–R291; 15_fabric R352, R359): performing one at its
home, relaying or refusing it, and the requester's answers. -/

namespace Sys2Proof.Machine

open Sys2Proof

/-! ### A request at its home -/

/-- The bytes that a request touches. -/
def actLen : RemoteAct → Nat
  | .read n => n
  | .write _ n _ => n
  | .atom _ wide _ _ _ => if wide then 8 else 4
  | .add _ => 8

/-- A request reads its bytes. -/
def actReads : RemoteAct → Bool
  | .read _ | .atom _ _ _ _ _ | .add _ => true
  | .write _ _ _ => false

/-- A request writes its bytes. -/
def actWrites : RemoteAct → Bool
  | .read _ => false
  | .write _ _ _ | .atom _ _ _ _ _ | .add _ => true

/-- The master identifier of an operation of this package: its core's, or firmware's. -/
def opMaster (core : Option Nat) : Nat :=
  match core with
  | some n => if n < 256 then n else pairMaster
  | none => pairMaster

/-- The master identifier of a request (17_system Table 17-4): the issuing core's when it is this package's,
else the receiving station's. -/
def reqMaster (s : State) (r : RemoteReq) : Nat :=
  if r.src.acc = s.accid then opMaster ((s.op? r.src.op).map Op.core) else 0x100 + planeOf s.accid r.target

/-- The station that a request from the pod reaches allows it (17_system R398). -/
def stationAllows (s : State) (r : RemoteReq) : Bool :=
  let x := planeOffset r.target % 2 ^ 40
  r.src.acc == s.accid ||
    allowed s (.station (planeOf s.accid r.target)) (reqMaster s r) x (x + actLen r.act - 1) (actReads r.act)
      (actWrites r.act)

/-- Answers a request: its bytes with the offsets of the poisoned ones, or its old value, or an error (15_fabric R359). -/
def answer (r : RemoteReq) (err : Option FaultCode) (bytes : List Byte) (bad : List Nat) (old : Word) (sat : Bool)
    (s : State) : State :=
  s.sendOn (planeOf s.accid r.target) .rsp (flitsOf bytes.length) none r.src.acc
    (match r.act with
      | .read _ => .remoteLoadResponse r.src.op ⟨bytes, bad⟩ err
      | .write _ _ _ => .postedWriteAcknowledge r.src.op err
      | .atom _ _ _ _ _ | .add _ => .farOperationAcknowledge r.src.op old sat err)

/-- Answers a request with an error at the target. -/
def answerError (r : RemoteReq) (s : State) : State := answer r (some .remoteError) [] [] 0 false s

/-- Denies a request: the denial is counted here and is an error at the requester (17_system R399, R405). -/
def denyReq (r : RemoteReq) (s : State) : State := answerError r (s.noteErr (some .accessTable))

/-- Writes an atomic's new value, for which the pool may have to supply copies (14_revisions R339). -/
def writeAtom (r : RemoteReq) (key : Nat) (old : Word) (new : Option Word × Bool) (s : State) : State :=
  let n := actLen r.act
  match new.1 with
  | none => answer r none [] [] old new.2 s
  | some w =>
    if (copiesFail s 0 (granules4k key n)).isNone then
      answer r none [] [] old new.2 (s.viewPut 0 key (leBytes n w.toNat))
    else answerError r (s.noteErr (copiesFail s 0 (granules4k key n)))

/-- Performs a request on bytes of this package in the base revision (14_revisions R332). The error of a read goes back
as a poisoned response (17_system R402).
DEDUCED (notes/assumptions/69). -/
def performAct (r : RemoteReq) (key : Nat) (s : State) : State :=
  let n := actLen r.act
  let old := BitVec.ofNat 64 (leNat (s.viewBytes 0 key n))
  let after : State := { s with sys := afterRead s.sys key n }
  match r.act with
  | .read n => answer r none (s.viewBytes 0 key n) (badOffsets s key n) 0 false after
  | .write data n bad =>
    if (copiesFail s 0 (granules4k key n)).isNone then
      answer r none [] [] 0 false
        (spreadPoison 0 key ((List.range n).map fun i => (0, decide (i ∈ bad))) (s.viewWrite 0 key n data))
    else answerError r (s.noteErr (copiesFail s 0 (granules4k key n)))
  | .atom op wide uns v cmp =>
    if (readFault s.sys key n).isSome then answer r (some .poison) [] [] 0 false after
    else writeAtom r key old (atomNew op wide uns old v cmp) after
  | .add v =>
    if (readFault s.sys key n).isSome then answer r (some .poison) [] [] 0 false after
    else writeAtom r key old (some (old + v), false) after

/-- A request waits here behind an earlier one of its sender's plane that waits (15_fabric R353). -/
def behindStalled (s : State) (r : RemoteReq) : Bool :=
  s.mig.stalled.any fun q => q.src.acc == r.src.acc && planeOf s.accid q.target == planeOf s.accid r.target

/-- Performs a request unless a granule of it is being copied or merged: it then waits. -/
def performOr (r : RemoteReq) (key : Nat) (after : State → State) (s : State) : State :=
  if granBusy s key (actLen r.act) then { s with mig := { s.mig with stalled := s.mig.stalled ++ [r] } }
  else after (performAct r key s)

/-- The elements of a tile that a peer request wrote, noted at its owner (01_engines R21).
DEDUCED (notes/assumptions/18). -/
def notePeer (r : RemoteReq) (s : State) : State :=
  match peerTileOf s r.target with
  | some (c, i, off) =>
    match (s.coreAt c).tiles.get? i with
    | some e => if actWrites r.act then noteTileWrite s c i false (touchedElems e off (actLen r.act)) else s
    | none => s
  | none => s

/-- The ring stop of a peer ring request allows it. -/
def peerAllowed (s : State) (r : RemoteReq) : Bool :=
  match r.target with
  | .peerRing d off => ringAllowed s (reqMaster s r) d off (actLen r.act) (actReads r.act) (actWrites r.act)
  | .peerTile _ _ _ | .page _ _ => true

/-- A request to a peer form of this package (01_engines R21). -/
def servePeer (r : RemoteReq) (s : State) : State :=
  match peerKey s r.target (actLen r.act) with
  | some k => if peerAllowed s r then performOr r k (notePeer r) s else denyReq r s
  | none => answerError r s

/-! ### Pages (R287, R290, R297, R300) -/

/-- A VA lies in a page of a context. -/
def pageHolds (p : PageKey) (asid va : Nat) : Bool :=
  p.asid == asid && p.vpn * 2 ^ 16 == pageBase p.size va

/-- The frozen move of a VA's page. -/
def frozenMove (s : State) (asid va : Nat) : Option Move :=
  s.mig.moves.find? fun m => m.isFrozen && pageHolds m.req.page asid va

/-- Changes a move. -/
def modMove (p : PageKey) (f : Move → Move) (s : State) : State :=
  { s with mig := { s.mig with moves := s.mig.moves.map fun m => if m.req.page = p then f m else m } }

/-- Another request of the same requester for a page that came through a stub is incomplete here (R290). -/
def relayedWaits (s : State) (p : PageKey) (acc : Nat) : Bool :=
  let mine (q : RemoteReq) : Bool := decide (1 < q.hops) && q.src.acc == acc
  let here (q : RemoteReq) : Bool := mine q &&
    match q.target with
    | .page asid va => pageHolds p asid va
    | .peerTile _ _ _ | .peerRing _ _ => false
  (s.mig.moves.any fun m => m.req.page == p && (m.queue ++ m.overflow).any mine) ||
    (s.mig.incoming.any fun x => x.page == p && x.held.any mine) || (s.mig.stalled ++ s.mig.taken).any here

/-- The redirect after a request that reached its owner through a stub, behind the response (R290). -/
def redirectAfter (r : RemoteReq) (p : PageKey) (s : State) : State :=
  if 1 < r.hops ∧ relayedWaits s p r.src.acc = false then
    s.sendOn (planeOf s.accid r.target) .rsp 1 none r.src.acc
      (.redirect p s.accid (((s.mig.owned.find? fun e => e.page == p).map Owned.epoch).getD 0))
  else s

/-- A LOCAL leaf permits the access that a request makes (R287; 11_translation R268). -/
def leafPermits (r : RemoteReq) (e : Nat) : Bool := (!actReads r.act || pteBit e 42) && (!actWrites r.act || pteBit e 43)

/-- The memory controller allows the access that a request makes (17_system R398). -/
def homeAllows (s : State) (r : RemoteReq) (key : Nat) : Bool :=
  lpddrAllowed s (reqMaster s r) key (actLen r.act) (actReads r.act) (actWrites r.act)

/-- A request joins a page's freeze queue, or waits for space in it (R297). -/
def joinQueue (p : PageKey) (r : RemoteReq) (s : State) : State :=
  modMove p (fun m => if m.queue.length < 4096 then { m with queue := m.queue ++ [r] }
    else { m with overflow := m.overflow ++ [r] }) s

/-- A request at its page's owner: performed, or queued behind the freeze (R297). -/
def serveLocal (r : RemoteReq) (asid va level e : Nat) (s : State) : State :=
  let key := abits e 16 24 * 2 ^ 16 + (va - pageBase level va)
  if !leafPermits r e then answerError r s
  else if !homeAllows s r key then denyReq r s
  else
    match frozenMove s asid va with
    | some m =>
      if actWrites r.act || queuedOver m va (actLen r.act) then joinQueue m.req.page r s
      else performOr r key (redirectAfter r m.req.page) s
    | none => performOr r key (redirectAfter r (pageKey asid level va)) s

/-- A request refused: the access is not performed (R287). -/
def refuseReq (r : RemoteReq) (why : Refused) (s : State) : State :=
  s.sendOn (planeOf s.accid r.target) .rsp 1 none r.src.acc (.requestRefused r.src.op why)

/-- A stub relays a request, on the path of the page's migration messages (R287, R300, R303).
DEDUCED (notes/assumptions/70). -/
def relayReq (r : RemoteReq) (p : PageKey) (owner : Nat) (s : State) : State :=
  s.sendOn (pagePlane owner p) .req (flitsOf (actData r.act)) none owner
    (.remoteRequestReceive { r with hops := r.hops + 1 })

/-- What a package holds for a page that it is asked for (R287): its own page, a stub, its own page that it cannot
translate, or anything else. -/
inductive OwnerLeaf
  | owner (level e : Nat)
  | stub (level owner : Nat)
  | failed
  | other
  deriving DecidableEq, Repr

/-- The walk of an owner for a request (11_translation R265, R268): an error in a table, or a LOCAL entry that is not
well formed, is a failed translation. -/
def ownerWalk (s : State) (va : Nat) : Nat → Nat → OwnerLeaf
  | level, table =>
    let pa := table + 8 * levelIndex level va
    let e := pteAt s pa
    if readFault s.sys pa 8 = some .eccUe then .failed
    else
      match pteStep level e, level with
      | .table next, l + 1 => ownerWalk s va l next
      | .localPage _ _ _, _ => .owner level e
      | .remotePage o _ _, _ => if pteBit e stubBit then .stub level o else .other
      | .bad, _ => if isLocal e then .failed else .other
      | .table _, 0 | .nonResident _ _, _ => .other

/-- The leaf that a package holds for a VA of a context. -/
def ownerLeaf (s : State) (asid va : Nat) : OwnerLeaf :=
  match s.context? asid with
  | some c => ownerWalk s va 3 c.ptroot
  | none => .other

/-- A page request acts on the leaf held here (R287). -/
def servePage (r : RemoteReq) (asid va : Nat) (s : State) : State :=
  match s.mig.incoming.find? fun p => pageHolds p.page asid va with
  | some p =>
    { s with mig := { s.mig with incoming := s.mig.incoming.map fun x =>
      if x.page = p.page then { x with held := x.held ++ [r] } else x } }
  | none =>
    match ownerLeaf s asid va with
    | .owner level e => serveLocal r asid va level e s
    | .stub level owner =>
      if r.hops ≤ 2 then relayReq r (pageKey asid level va) owner s else refuseReq r .chain s
    | .failed => answerError r s
    | .other => refuseReq r .notOwner s

/-- A request at this package. -/
def serveReq (r : RemoteReq) (s : State) : State :=
  if behindStalled s r then { s with mig := { s.mig with stalled := s.mig.stalled ++ [r] } }
  else if !stationAllows s r then denyReq r s
  else
    match r.target with
    | .page asid va => servePage r asid va s
    | .peerTile _ _ _ | .peerRing _ _ => servePeer r s

/-- Serves some requests taken out of a queue, in order. -/
def serveAll (rs : List RemoteReq) (s : State) : State :=
  rs.foldl (fun s r => serveReq r { s with mig := { s.mig with taken := s.mig.taken.tail } })
    { s with mig := { s.mig with taken := rs } }

/-- The requests that waited for a granule are tried again in order, once a copying or a merge has ended. -/
def serveStalled (s : State) : State := serveAll s.mig.stalled { s with mig := { s.mig with stalled := [] } }

/-- REMOTE_REQUEST_RECEIVE (R287). -/
def execRemoteRequestReceive (req : RemoteReq) (s : State) : Out := .next (serveReq req s)

/-! ### The requester (R288, R289, R291, R285) -/

/-- An operation's page, as its request names it. -/
def opPage (s : State) (op : Nat) : Option PageKey :=
  ((s.op? op).bind (requestOf s)).bind fun (_, size, r) => reqPage size r

/-- A refused access waits for its home's answer (R288, R289). -/
def consultHome (op : Nat) (p : PageKey) (s : State) : State :=
  let s := makeHold p (dropSent op s)
  (modHold p (fun h => { h with asked := op :: h.asked, refused := insertId op h.refused }) s).send (homeOf s p) (.homeConsult ⟨s.accid, op⟩ p)

/-- Sends an operation's request again to where it went (15_fabric R350). -/
def resend (op : Nat) (s : State) : State :=
  match (s.op? op).bind (requestOf s) with
  | none => s
  | some (hint, _, r) =>
    s.send (((s.mig.sent.find? fun e => e.1 == op).map fun e => e.2.2).getD hint) (.remoteRequestReceive r)

/-- A packet of an operation's request or of its response has failed authentication: the eighth failure completes it
with an error (15_fabric R350). -/
def authFailed (op : Nat) (again : State → State) (s : State) : State :=
  match s.op? op with
  | none => s
  | some o =>
    let n := s.mig.fails.getD op 0 + 1
    if 8 ≤ n then failRemote o .remoteError s
    else again { s with mig := { s.mig with fails := s.mig.fails.set op n } }

/-- What a home directory answers for a page. -/
def homeAnswerOf (s : State) (p : PageKey) : HomeAns :=
  match s.mig.home.find? fun e => e.page == p with
  | none => .none
  | some e =>
    match e.state with
    | .lost => .lost
    | .stable | .moving => .owner e.owner e.epoch

/-- HOME_CONSULT (R288). -/
def execHomeConsult (src : ReqId) (page : PageKey) (s : State) : Out :=
  .next (if s.mig.rebuilding ≠ [] then s.retry (.homeConsult src page) else s.send src.acc (.homeAnswer src.op page (homeAnswerOf s page)))

/-- HOME_ANSWER (R288). -/
def execHomeAnswer (op : Nat) (page : PageKey) (ans : HomeAns) (s : State) : Out :=
  match s.op? op with
  | none => .next (dropSent op s)
  | some o =>
    .next (match ans with
      | .none => failRemote o .remoteError s
      | .lost => failRemote o .migration s
      | .owner acc epoch =>
        let s := fillOwner page acc epoch (modHold page (fun h => { h with asked := h.asked.filter (· != op) }) s)
        if fabricExpired s o then failRemote o .migration s else s)

/-- REQUESTER_HOLD_RELEASE (R289, R301): every request sent for the page is answered or refused, every consult is
answered, and no earlier access is on its way to the old frame; the refused accesses and then the held ones go out, each
in issue order. -/
def execRequesterHoldRelease (page : PageKey) (s : State) : Out :=
  match holdOf s page with
  | some h =>
    let ids := h.refused ++ h.held
    if h.asked = [] ∧ sentFor s page = [] ∧ (ids.any (localBefore s page)) = false then
      .next (ids.foldl (fun s id => sendRequest id s)
        { s with mig := { s.mig with holds := s.mig.holds.filter fun x => x.page != page } })
    else .next s
  | none => .next s

/-- A later epoch (R291). -/
def laterEpoch (new old : Nat) : Bool :=
  let d := (new + 2 ^ 16 - old % 2 ^ 16) % 2 ^ 16
  decide (1 ≤ d) && decide (d ≤ 32767)

/-- REDIRECT (R291). -/
def execRedirect (page : PageKey) (owner epoch : Nat) (s : State) : Out :=
  .next (match ownerEntry s page with
    | none => fillOwner page owner epoch s
    | some e => if laterEpoch epoch e.epoch then fillOwner page owner epoch s else touchOwner s page)

/-- OWNER_CACHE_EXPIRY (R285). -/
def execOwnerCacheExpiry (page : PageKey) (s : State) : Out :=
  .next { s with mig := { s.mig with
    cache := s.mig.cache.filter fun e => !(e.page == page && decide (e.last + 500000 ≤ nowNs s)) } }

end Sys2Proof.Machine
end

