-- ==== Sys2Proof/Machine/Migration.lean ====
section
/-! DEFINITION. Page moves (12_migration R293–R308): the home directory, the owner, the target, stubs and
resets of other packages. -/

namespace Sys2Proof.Machine

open Sys2Proof

/-! ### Status and the issuer (R293, R294) -/

/-- The number of a status (Table 12-3). -/
def statusNumber : MigrStatus → Nat
  | .done => 0
  | .already => 1
  | .busy => 2
  | .refused => 3
  | .inflight => 4
  | .notres => 5
  | .heap => 6
  | .aborted => 7
  | .large => 8

/-- A MIGR status word. -/
def statusWord (st : MigrStatus) (owner : Nat) : Nat := owner % 1024 * 2 ^ 16 + statusNumber st

/-- Tells the issuer of a move how it ended; a policy move has none (R295). -/
def tellIssuer (p : PageKey) (issuer : Option ReqId) (st : MigrStatus) (owner : Nat) (s : State) : State :=
  match issuer with
  | some i => s.sendOn (pagePlane i.acc p) .rsp 1 none i.acc (.migrComplete i.op st owner)
  | none => s

/-- MIGR_COMPLETE (R294): the status word is written wherever the task is. -/
def execMigrComplete (op : Nat) (status : MigrStatus) (owner : Nat) (s : State) : Out :=
  match s.op? op with
  | some o =>
    match o.kind with
    | .migr _ _ off result =>
      let x := result.getD (status, owner)
      .next ((s.putBytes (privKey o.task o.member off) (leBytes 8 (statusWord x.1 x.2))).endOp o .s none)
    | _ => .next s
  | none => .next s

/-! ### The home (R284, R294, R296, R298, R299) -/

/-- The home-directory entry of a page. -/
def homeEntry (s : State) (p : PageKey) : Option HomeEntry := s.mig.home.find? fun e => e.page == p

/-- Changes a home-directory entry. -/
def modHome (p : PageKey) (f : HomeEntry → HomeEntry) (s : State) : State :=
  { s with mig := { s.mig with home := s.mig.home.map fun e => if e.page = p then f e else e } }

/-- The entry that a move request finds: of the page it names, or, where the issuer had no leaf, of the page that
holds its VA (R294). -/
def requestedEntry (s : State) (p : PageKey) : Option HomeEntry :=
  if p.size = 3 then s.mig.home.find? fun e => pageHolds e.page p.asid (p.vpn * 2 ^ 16) else homeEntry s p

/-- MIGRATION_REQUEST_AT_HOME (R294). -/
def execMigrationRequestAtHome (m : MoveReq) (s : State) : Out :=
  .next (if s.mig.rebuilding ≠ [] then s.retry (.migrationRequestAtHome m)
    else
      match requestedEntry s m.page with
      | none => tellIssuer m.page m.issuer .notres s.accid s
      | some e =>
        match e.state with
        | .moving => tellIssuer m.page m.issuer .inflight e.owner s
        | .lost => tellIssuer m.page m.issuer .notres s.accid s
        | .stable =>
          (modHome e.page (fun e => { e with state := .moving, target := m.target, issuer := m.issuer }) s).send
            e.owner (.migrationForwardAtOwner { m with page := e.page } s.accid))

/-- COMMIT (R299). A message in which the owner names itself reports that the move has ended without a commit:
the entry returns to STABLE (R296, R298). -/
def execCommit (page : PageKey) (owner : Nat) (s : State) : Out :=
  .next (match homeEntry s page with
    | none => s
    | some e =>
      if e.state != .moving then s
      else if owner = e.owner then modHome page (fun e => { e with state := .stable, issuer := none }) s
      else
        let epoch := (e.epoch + 1) % 2 ^ 16
        (modHome page (fun e =>
          { e with state := .stable, owner := owner, epoch := epoch, issuer := none }) s).send
          e.owner (.commitAcknowledge page epoch))

/-! ### The owner (R296–R299, R301) -/

/-- The move of a page that this package owns. -/
def moveOf (s : State) (p : PageKey) : Option Move := s.mig.moves.find? fun m => m.req.page == p

/-- A freeze queue here is full: the stations withhold the tokens of requests (R297). -/
def queueFull (s : State) : Bool := s.mig.moves.any fun m => decide (4096 ≤ m.queue.length)

/-- A station returns the tokens of requests that it withheld. -/
def returnReq (n : Nat) (s : State) : State :=
  let go := (s.stationAt n).owed.filter fun y => y.2.1 == .req
  go.foldl (fun s y => s.send y.1 (.creditToken n s.accid .req y.2.2))
    (s.modStation n fun x => { x with owed := x.owed.filter fun y => y.2.1 != .req })

/-- Removes a move, with whose queue the tokens that its fullness withheld come free (R297). -/
def dropMove (p : PageKey) (s : State) : State :=
  let s : State := { s with mig := { s.mig with moves := s.mig.moves.filter fun m => m.req.page != p } }
  if queueFull s then s else s.stations.keys.foldl (fun s n => returnReq n s) s

/-- A move ends without a commit: the home entry returns to STABLE, and the issuer learns why (R296). -/
def endMove (m : MoveReq) (home : Nat) (st : MigrStatus) (owner : Nat) (s : State) : State :=
  tellIssuer m.page m.issuer st owner ((dropMove m.page s).send home (.commit m.page s.accid))

/-- The address of a LOCAL leaf's frame. -/
def frameOf (e : Nat) : Nat := abits e 16 24 * 2 ^ 16

/-- MIGRATION_FORWARD_AT_OWNER (R296). -/
def execMigrationForwardAtOwner (m : MoveReq) (home : Nat) (s : State) : Out :=
  let me := s.accid
  .next (match leafOf s m.page.asid (pageVa m.page 0) with
    | none => endMove m home .notres me s
    | some (_, level, e) =>
      if !isLocal e then endMove m home .notres me s
      else if m.target = me then endMove m home .already me s
      else if level = 2 then endMove m home .large me s
      else if pteBit e pinBit then endMove m home .busy me s
      else
        let mv : Move := ⟨m, frameOf e, home, .reserving, [], s.timeU, []⟩
        let s : State := { s with mig := { s.mig with moves := s.mig.moves ++ [mv] } }
        s.send m.target (.reserve m me home none))

/-- Sets or clears FRZ of a page's leaf. -/
def freezePage (p : PageKey) (b : Bool) (s : State) : State :=
  match leafOf s p.asid (pageVa p 0) with
  | some (pa, _, e) => putPte agentMaster pa (setPteBit e frzBit b) s
  | none => s

/-- The numbers, within a range, of the 64-byte granules of a list. -/
def granulesIn (key len : Nat) (gs : List Nat) : List Nat :=
  gs.filterMap fun g => if key / 64 ≤ g ∧ g < (key + len) / 64 then some (g - key / 64) else none

/-- The egress's check of a frame's storage: a granule that it finds uncorrectable is poisoned (17_system R402). -/
def checkFrame (frame len : Nat) (s : State) : State :=
  { s with sys := readGranules s.sys ((granules64 frame len).filter (· ∈ s.sys.badEcc)) }

/-- A frame's contents with the poison and the check codes that travel with them (R298). -/
def pageData (s : State) (frame len : Nat) : PageData :=
  ⟨s.bytes frame len, granulesIn frame len (s.sys.poison), granulesIn frame len (s.sys.badCode)⟩

/-- The contents that have come for a frame. -/
def putPage (frame : Nat) (d : PageData) (s : State) : State :=
  let s := s.putBytes frame d.bytes
  let at_ (gs : List Nat) := gs.map (· + frame / 64)
  { s with sys := { s.sys with poison := at_ d.poison ++ s.sys.poison, badCode := at_ d.badCode ++ s.sys.badCode } }

/-- TRANSFER_ACKNOWLEDGE (R298). -/
def execTransferAcknowledge (page : PageKey) (s : State) : Out :=
  .next (match moveOf s page with
    | none => s
    | some m =>
      if m.stage = .frozen then
        (modMove page (fun m => { m with stage := .committing, sinceU := s.timeU }) s).send m.home (.commit page m.req.target)
      else s)

/-- A move is aborted: FRZ is cleared, the queued requests are performed at the owner's frame, and the home is told
(R298); the target, which may hold the page INCOMING, is told too, DESIGN CHOICE (notes/assumptions/81).
DEDUCED (notes/assumptions/30). -/
def abortMove (m : Move) (s : State) : State :=
  let s := dropMove m.req.page (if m.isFrozen then freezePage m.req.page false s else s)
  endMove m.req m.home .aborted s.accid
    (s.sendOn (pagePlane m.req.target m.req.page) .req 1 none m.req.target (.reserveAccept m.req.page false)
      |> serveAll (m.queue ++ m.overflow))

/-- The record of a page INCOMING here. -/
def incomingOf (s : State) (p : PageKey) : Option Incoming := s.mig.incoming.find? fun x => x.page == p

/-- A page INCOMING here does not come: its frame is free, and what it held is served.
DESIGN CHOICE (notes/assumptions/81). -/
def endIncoming (p : PageKey) (s : State) : State :=
  match incomingOf s p with
  | some x => serveAll x.held { s with mig := { s.mig with incoming := s.mig.incoming.filter fun y => y.page != p } }
  | none => s

/-- RESERVE_ACCEPT (R296, R297): the page freezes and its frame goes to the target, or the move is refused; a frame whose
controllers deny it to the agent is not moved (17_system R398; notes/assumptions/73). Sent by the
owner, it says that the move it has aborted is over (R298). -/
def execReserveAccept (page : PageKey) (accept : Bool) (s : State) : Out :=
  .next (match moveOf s page with
    | none => if accept then s else endIncoming page s
    | some m =>
      if m.isFrozen then s
      else if !accept then endMove m.req m.home .refused s.accid s
      else if !lpddrAllowed s agentMaster m.frame (pageBytes page.size) true false then
        abortMove m (s.noteErr (some .accessTable))
      else
        let s := checkFrame m.frame (pageBytes page.size) s
        (modMove page (fun m => { m with stage := .frozen, sinceU := s.timeU }) (freezePage page true s)).send
          m.req.target (.reserve m.req s.accid m.home (some (pageData s m.frame (pageBytes page.size)))))

/-- MIGRATION_ABORT (R298): without the target's answer within the fabric request timeout.
DEDUCED (notes/assumptions/30). -/
def execMigrationAbort (page : PageKey) (s : State) : Out :=
  .next (match moveOf s page with
    | none => s
    | some m =>
      if m.stage ≠ .committing ∧ m.sinceU + s.cfg.ftimeout * microU ≤ s.timeU then abortMove m s else s)

/-- A REMOTE leaf (11_translation Table 11-2). -/
def remotePte (owner : Nat) (stub rd w : Bool) : Nat :=
  3 + owner % 1024 * 2 ^ 16 + (if rd then 2 ^ 42 else 0) + (if w then 2 ^ 43 else 0) + (if stub then 2 ^ 44 else 0)

/-- A LOCAL leaf. -/
def localPte (frame : Nat) (rd w : Bool) : Nat :=
  2 + frame / 2 ^ 16 * 2 ^ 16 + (if rd then 2 ^ 42 else 0) + (if w then 2 ^ 43 else 0)

/-- Writes a page's leaf and drops its cached translations (11_translation R266). -/
def putLeaf (p : PageKey) (pa e : Nat) (s : State) : State :=
  dropTranslations p.asid (pageVa p 0) (pageBytes p.size) (putPte agentMaster pa e s)

/-- The owner after the commit acknowledgement: stub, owner cache, END_FORWARD, drop and drain (R299). -/
def leavePage (m : Move) (pa e epoch : Nat) (s : State) : State :=
  let p := m.req.page
  let rd := pteBit e 42
  let w := pteBit e 43
  let s := fillOwner p m.req.target epoch (putLeaf p pa (remotePte m.req.target true rd w) s)
  let stub : Stub := ⟨p, some m.frame, m.req.target, s.timeU + s.cfg.stubLife * microU, false, false⟩
  let s : State := { dropMove p s with mig := { (dropMove p s).mig with
    stubs := (s.mig.stubs.filter fun x => x.page != p || x.gone) ++ [stub]
    owned := s.mig.owned.filter fun x => x.page != p
    registered := s.mig.registered.filter (· != p) } }
  let s := serveAll m.overflow (s.send m.req.target (.endForward p rd w epoch m.queue))
  tellIssuer m.req.page m.req.issuer .done m.req.target
    (dropAndDrain p.asid (pageVa p 0) (pageBytes p.size) none (some p) s)

/-- COMMIT_ACKNOWLEDGE (R299). -/
def execCommitAcknowledge (page : PageKey) (epoch : Nat) (s : State) : Out :=
  .next (match moveOf s page, leafOf s page.asid (pageVa page 0) with
    | some m, some (pa, _, e) => if m.stage = .committing then leavePage m pa e epoch s else s
    | _, _ => s)

/-! ### The target (R296, R298, R300) -/

/-- Firmware reserves a free frame of a page size, none when there is none (R296). -/
def reserveFrame (s : State) (size : Nat) : Option Nat :=
  (Config.freeFrame size s.freeCount).filter fun f => f * 2 ^ 16 % pageBytes size == 0 && decide (f * 2 ^ 16 < lpddrBytes)

/-- RESERVE at the target: it accepts with a frame, or declines. -/
def acceptMove (m : MoveReq) (owner home : Nat) (s : State) : State :=
  let busy := (s.context? m.page.asid).isNone || (incomingOf s m.page).isSome || (moveOf s m.page).isSome
  match (if busy then none else reserveFrame s m.page.size) with
  | none => s.tickFree.send owner (.reserveAccept m.page false)
  | some f =>
    let x : Incoming := ⟨m.page, owner, home, f * 2 ^ 16, []⟩
    let t : State := { s.tickFree with mig := { s.mig with incoming := s.mig.incoming ++ [x] } }
    t.send owner (.reserveAccept m.page true)

/-- RESERVE (R296), and the frame that follows it (R298), which a controller that denies it to the agent leaves
unacknowledged (17_system R398; notes/assumptions/73).
DESIGN CHOICE (notes/assumptions/54). -/
def execReserve (m : MoveReq) (owner home : Nat) (frame : Option PageData) (s : State) : Out :=
  .next (match frame with
    | none => acceptMove m owner home s
    | some d =>
      match incomingOf s m.page with
      | some x =>
        if lpddrAllowed s agentMaster x.frame d.bytes.length false true then
          (putPage x.frame d s).send owner (.transferAcknowledge m.page)
        else s.noteErr (some .accessTable)
      | none => s)

/-- The place of the entry of a page at its own level, whatever it holds. -/
def leafSlotFrom (s : State) (va size : Nat) : Nat → Nat → Option Nat
  | level, table =>
    let pa := table + 8 * levelIndex level va
    if level = size then some pa
    else
      match pteStep level (pteAt s pa), level with
      | .table next, l + 1 => leafSlotFrom s va size l next
      | _, _ => none

/-- The place of a page's leaf in this package's tables. -/
def leafSlot (s : State) (p : PageKey) : Option Nat :=
  (s.context? p.asid).bind fun c => leafSlotFrom s (pageVa p 0) p.size 3 c.ptroot

/-- A page's stub goes; its old frame is still relayed until its drain has ended (R299, R306). -/
def dropStub (p : PageKey) (ys : List Stub) : List Stub :=
  ys.filterMap fun y =>
    if y.page = p then (if y.frame.isSome then some { y with gone := true } else none) else some y

/-- END_FORWARD (R300): the leaf becomes LOCAL, then the forwarded and the held requests are performed. -/
def execEndForward (page : PageKey) (rd w : Bool) (epoch : Nat) (queue : List RemoteReq) (s : State) : Out :=
  .next (match incomingOf s page with
    | none => s
    | some x =>
      let s := match leafSlot s page with
        | some pa => putLeaf page pa (localPte x.frame rd w) s
        | none => s
      let s : State := { s with mig := { s.mig with
        incoming := s.mig.incoming.filter fun y => y.page != page
        stubs := dropStub page s.mig.stubs
        owned := ⟨page, epoch, x.frame⟩ :: s.mig.owned.filter fun y => y.page != page } }
      serveAll (queue ++ x.held) (fillOwner page s.accid epoch s))

/-! ### Policy moves (R295) -/

/-- POLICY_MOVE (R295): firmware's move under a context's policy has no status word. -/
def execPolicyMove (page : PageKey) (target : Nat) (s : State) : Out :=
  .next (if ((s.context? page.asid).map Context.policy).getD false then
      s.send (homeOf s page) (.migrationRequestAtHome ⟨page, target, none⟩)
    else s)

/-! ### Stubs (R302, R303) -/

/-- The stub of a page. -/
def stubOf (s : State) (p : PageKey) : Option Stub := s.mig.stubs.find? fun x => x.page == p && !x.gone

/-- STUB_LIFETIME_END (R303). -/
def execStubLifetimeEnd (page : PageKey) (s : State) : Out :=
  .next (match stubOf s page with
    | none => s
    | some x =>
      if x.retiring = false ∧ x.endU ≤ s.timeU then
        let ys := s.mig.stubs.map fun (y : Stub) =>
          if y.page = page ∧ y.gone = false then { y with retiring := true, endU := s.timeU } else y
        let t : State := { s with mig := { s.mig with stubs := ys } }
        t.send x.owner (.stubRetire page s.accid)
      else s)

/-- A request relayed here by a stub of a page is neither performed nor relayed onward (R303).
DESIGN CHOICE (notes/assumptions/58). -/
def relaysWait (s : State) (p : PageKey) : Bool :=
  let far (r : RemoteReq) : Bool := decide (1 < r.hops)
  (s.mig.moves.any fun m => m.req.page == p && (m.queue ++ m.overflow).any far) ||
    (s.mig.incoming.any fun x => x.page == p && x.held.any far) ||
    (s.mig.stalled ++ s.mig.taken).any fun r => far r &&
      match r.target with
      | .page asid va => pageHolds p asid va
      | .peerTile _ _ _ | .peerRing _ _ => false

/-- STUB_RETIRE (R303): acknowledged once every request relayed here is performed or relayed onward. -/
def execStubRetire (page : PageKey) (src : Nat) (s : State) : Out :=
  .next (if relaysWait s page then s.retry (.stubRetire page src) else s.send src (.stubRetireAcknowledge page))

/-- The stub's leaf becomes a plain REMOTE leaf. -/
def retireStub (x : Stub) (s : State) : State :=
  let s := match leafOf s x.page.asid (pageVa x.page 0) with
    | some (pa, _, e) => putLeaf x.page pa (setPteBit e stubBit false) s
    | none => s
  { s with mig := { s.mig with stubs := dropStub x.page s.mig.stubs } }

/-- STUB_RETIRE_ACKNOWLEDGE (R303). -/
def execStubRetireAcknowledge (page : PageKey) (s : State) : Out :=
  .next (match stubOf s page with
    | some x => if x.retiring then retireStub x s else s
    | none => s)

/-- STUB_RETIRE_TIMEOUT (R303). -/
def execStubRetireTimeout (page : PageKey) (s : State) : Out :=
  .next (match stubOf s page with
    | some x =>
      if x.retiring = true ∧ x.endU + s.cfg.ftimeout * microU ≤ s.timeU then (retireStub x s).ras 7 else s
    | none => s)

/-! ### Resets of other packages (R308) -/

/-- The home directory after a package's reset: a page it owned in an unfinished move is LOST, and the issuer
elsewhere learns that the move ended. -/
def homeAfterReset (acc : Nat) (s : State) : State :=
  s.mig.home.foldl (fun s e =>
    if e.state = .moving ∧ e.owner = acc then
      let s := modHome e.page (fun e => { e with state := .lost, issuer := none }) s
      if (e.issuer.map ReqId.acc).getD acc = acc then s else tellIssuer e.page e.issuer .aborted acc s
    else s) s

/-- The pages INCOMING from a package that is reset: the frame is freed, and the home learns that the page is lost if it
has committed it to this package. -/
def incomingAfterReset (acc : Nat) (s : State) : State :=
  let xs := s.mig.incoming.filter fun x => x.owner == acc
  let s : State := { s with mig := { s.mig with incoming := s.mig.incoming.filter fun x => x.owner != acc } }
  let s := xs.foldl (fun s x => s.send x.home (.owner (.lost x.page s.accid))) s
  serveAll (xs.flatMap Incoming.held) s

/-- This package's report to a home that was reset: the pages it owns, their epochs, and that there are no more. -/
def reportOwned (acc : Nat) (s : State) : State :=
  let moved := s.mig.owned.map fun x => (x.page, x.epoch)
  let kept := (s.mig.registered.filter fun p => !(moved.any fun x => x.1 == p)).map fun p => (p, 0)
  let s := ((moved ++ kept).filter fun x => homeOf s x.1 == acc).foldl
    (fun s x => s.send acc (.owner (.report x.1 s.accid x.2))) s
  s.send acc (.owner (.reported s.accid))

/-- The tasks of this package that run on a package that is reset are terminated: their ids are free, and their LAUNCHes
complete with an error.
DESIGN CHOICE (notes/assumptions/58). -/
def awayAfterReset (acc : Nat) (s : State) : State :=
  let gone := s.away.filter fun x => x.acc == acc
  gone.foldl (fun s x =>
    match x.origin with
    | .packet q i => endPacket q i (some .remoteError) 0 s
    | .spawn _ | .fork _ | .handler _ | .remote _ _ => s) { s with away := s.away.filter fun x => x.acc != acc }

/-- PEER_PACKAGE_RESET (R308 Table 12-4): moves to it, or whose home it is, are aborted; a package of the pod reports
the pages whose home it is, and awaits no report of it.
DESIGN CHOICE (notes/assumptions/58). -/
def execPeerPackageReset (acc : Nat) (s : State) : Out :=
  let ms := s.mig.moves.filter fun m =>
    (m.req.target == acc && m.stage != .committing) || m.home == acc
  let s := awayAfterReset acc (incomingAfterReset acc (homeAfterReset acc (ms.foldl (fun s m => abortMove m s) s)))
  let s : State := { s with mig := { s.mig with rebuilding := s.mig.rebuilding.filter (· != acc) } }
  .next (reportOwned acc s)

/-- A page is lost (R308): its home committed it to a package that never received the old owner's queued requests. -/
def loseAtHome (p : PageKey) (owner : Nat) (s : State) : State :=
  modHome p (fun e => if e.owner = owner ∧ e.state = .stable then { e with state := .lost } else e) s

/-- An owner's report to a home that was reset (R308). -/
def takeReport (p : PageKey) (owner epoch : Nat) (s : State) : State :=
  { s with mig := { s.mig with
    home := ⟨p, .stable, owner, 0, epoch, none⟩ :: s.mig.home.filter fun e => e.page != p } }

/-- Every page that a package owns with this home has been reported (R308). -/
def endReports (acc : Nat) (s : State) : State :=
  { s with mig := { s.mig with rebuilding := s.mig.rebuilding.filter (· != acc) } }

/-! ### The end of a drain (11_translation R277; 12_migration R299, R307) -/

/-- The frame of a page that has moved is freed. -/
def freeOldFrame (p : PageKey) (s : State) : State :=
  { s with mig := { s.mig with stubs := s.mig.stubs.filterMap fun x =>
    if x.page = p then (if x.gone then none else some { x with frame := none }) else some x } }

/-- A drain that has ended: an old frame is freed, or system software is told. -/
def endDrain (op : Nat) (admin : Option Nat) (page : Option PageKey) (s : State) : State :=
  let s := s.dropOp op
  let s := match page with
    | some p => freeOldFrame p s
    | none => s
  match admin with
  | some n => adminDone n none s
  | none => s

/-- INVALIDATION_DRAIN_COMPLETE (11_translation R277; 12_migration R307): one that waited for a move drops and begins its
drain when the move is over. -/
def execInvalidationDrainComplete (op : Nat) (s : State) : Out :=
  match s.op? op with
  | some o =>
    match o.kind with
    | .invalidate asid va len none admin page =>
      .next (if moveWithin s asid va len then s
        else (dropTranslations asid va len s).modOp op fun x =>
          { x with kind := .invalidate asid va len (some s.nextOp) admin page })
    | .invalidate asid va len (some bound) admin page =>
      .next (if drained s asid va len bound then endDrain op admin page s else s)
    | _ => .next s
  | none => .next s

end Sys2Proof.Machine
end

