-- ==== Sys2Proof/Machine/Admin.lean ====
section
/-! DEFINITION. The admin queue's commands (16_front_end R387, R412, R413), errors in the scheduler's memory
(R389), and the service rings (R388). -/

namespace Sys2Proof.Machine

open Sys2Proof

/-! ### Commands -/

/-- A command completes. -/
def adminOk (p : Packet) (s : State) : State := adminRecord p none s

/-- A command outside its stated range has no effect (R387). -/
def adminBad (p : Packet) (s : State) : State := adminRecord p (some .illegalOperand) s

/-- A command has its effect and completes later, by an event of its own. -/
def adminIssued (p : Packet) (s : State) : State := keepCommand p.index p.raw .issued s

/-- A command that has started is tried again. -/
def adminAgain (p : Packet) (row : Instr) (s : State) : State := (keepCommand p.index p.raw .running s).retry row

/-- A KIND of an admin packet that Table 16-5 does not list. -/
def reservedKind (k : Nat) : Bool := decide (k < 0x40) || decide (0x4B < k)

/-- What a row does with a command: nothing before the admin queue is registered (17_system R394) or with a packet
of another row's kind; one whose turn has not come waits (R382), and a malformed one, or one of a reserved KIND, completes
with ILLEGAL_OPERAND.
DEDUCED (notes/assumptions/42). -/
def withAdmin (kind used : Nat) (packet : BitVec 512) (f : Packet → State → State) (s : State) : State :=
  let p := packetOf (leBytes 64 packet.toNat)
  if s.sys.boot ≠ .ready ∨ (p.kind ≠ kind ∧ reservedKind p.kind = false) then s
  else
    let c := commandOf s packet
    let s := takeCommand packet s
    let p := { p with index := c.index, raw := packet }
    if !commandTurn s c then keepCommand c.index packet .waiting s
    else if packetOk p used && p.kind == kind then f p s
    else adminBad p s

/-- The kind and the packet of an admin row. -/
def adminRow : Instr → Option (Nat × BitVec 512)
  | .ctxSet b => some (0x40, b)
  | .ctxEnd b => some (0x41, b)
  | .queueSet b => some (0x42, b)
  | .queueReset b => some (0x43, b)
  | .invalidate b => some (0x44, b)
  | .pool b => some (0x45, b)
  | .wring b => some (0x46, b)
  | .pin (.command b) => some (0x47, b)
  | .pageReply b => some (0x48, b)
  | .migrPolicy b => some (0x49, b)
  | .timing b => some (0x4A, b)
  | .owner (.command b) => some (0x4B, b)
  | _ => none

/-- An admin command's turn has not come: it waits in the admin queue. -/
def adminWaits (s : State) (i : Instr) : Bool :=
  match adminRow i with
  | some (kind, b) =>
    let k := (packetOf (leBytes 64 b.toNat)).kind
    s.sys.boot == .ready && (k == kind || reservedKind k) && !commandTurn (takeCommand b s) (commandOf s b)
  | none => false

/-- A field of a command's body. -/
def Packet.field (p : Packet) (off n : Nat) : Nat := fieldAt p.body off n

/-- VA and LENGTH of a command: within the address space. -/
def vaOk (va len : Nat) : Bool := decide (va < 2 ^ 48) && decide (va + len ≤ 2 ^ 48)

/-! ### Contexts (R413 Table 16-9; 11_translation R261) -/

/-- An address in the form of R381. -/
def formOk (a : Nat) : Bool :=
  if abits a 63 1 = 1 then abits a 52 11 == 0 else (tagOf a == 0x0 || tagOf a == 0xA) && spaceOk a 1

/-- HB, HL and HO are as R261 says. -/
def heapOk (hb hl ho : Nat) : Bool :=
  hb % 2 ^ 16 == 0 && hl % 2 ^ 16 == 0 && decide (hb < 2 ^ 48) &&
    (hl == 0 || decide ((hb + ho) % 2 ^ 40 + hl ≤ lpddrBytes))

/-- The reserved bits of a peer window read as zero (15_fabric Table 15-1). -/
def storedWindow (v : Nat) : Word := BitVec.ofNat 64 (v - abits v 8 32 * 2 ^ 8)

/-- The fields of a descriptor lie in their ranges. -/
def contextOk (b : List Byte) : Bool :=
  let f (off n : Nat) := fieldAt b off n
  f 0 8 % 4096 == 0 && decide (f 0 8 < lpddrBytes) && heapOk (f 8 8) (f 0x10 8) (f 0x18 8) &&
    (f 0x20 8 == 0 || (formOk (f 0x20 8) && f 0x20 8 % 8 == 0)) && decide (f 0x28 8 < 2 ^ 48) && f 0x28 8 % 64 == 0 &&
    decide (1 ≤ f 0x30 4) && decide (f 0x30 4 ≤ 65536) && decide (1 ≤ f 0x34 2) && decide (f 0x34 2 ≤ 128) &&
    decide (f 0x36 1 ≤ 1) && f 0x37 1 == 0 &&
    (f 0x38 4 == 0 || (decide (100 ≤ f 0x38 4) && decide (f 0x38 4 ≤ 100000))) && f 0x3C 4 == 0 &&
    decide (f 0x40 8 < 2 ^ 48) && f 0x40 8 % 64 == 0 && f 0x48 56 == 0 &&
    (List.range 16).all fun k => f (0x80 + 8 * k) 1 != 0

/-- The context of a descriptor, over what an update keeps. Its default fault-record area begins at slot 0.
DESIGN CHOICE (notes/assumptions/57). -/
def contextFrom (b : List Byte) (c : Context) : Context :=
  { c with
    ptroot := fieldAt b 0 8, hb := fieldAt b 8 8, hl := fieldAt b 0x10 8, ho := fieldAt b 0x18 8
    pubcnt := BitVec.ofNat 64 (fieldAt b 0x20 8), frec := fieldAt b 0x28 8, frecn := fieldAt b 0x30 4, frecNext := 0
    quota := fieldAt b 0x34 2, mode := fieldAt b 0x36 1
    ctimeout := if fieldAt b 0x38 4 = 0 then 1000 else fieldAt b 0x38 4
    defHandler := fieldAt b 0x40 8
    wins := (List.range 16).map fun k => storedWindow (fieldAt b (0x80 + 8 * k) 8) }

/-- A context before its descriptor is read.
DESIGN CHOICE (notes/assumptions/57). -/
def newContext (asid : Nat) : Context :=
  { ptroot := 0, hb := 0, hl := 0, ho := 0, pubcnt := 0, frec := 0, frecn := 1, frecNext := 0, quota := 1, mode := 0
    ctimeout := 1000, defHandler := 0, wins := [], serviceFree := Config.serviceSlots asid }

/-- CTX_SET with a packet of good form: OP 0 makes a context that is not there, OP 1 changes one that is.
DEDUCED (notes/assumptions/42). -/
def ctxSetCmd (p : Packet) (s : State) : State :=
  let asid := p.field 0 2
  let op := p.field 2 1
  let desc := p.field 8 8
  let b := Memory.getN s.host (abits desc 0 52) 256
  if 1 < op ∨ p.field 3 5 ≠ 0 ∨ abits desc 52 12 ≠ 0x800 ∨ desc % 64 ≠ 0 ∨ contextOk b = false ∨
      (s.context? asid).isSome ≠ (op == 1) then
    adminBad p s
  else
    let c := (s.context? asid).getD (newContext asid)
    adminOk p { s with ctxs := s.ctxs.set asid (contextFrom b c) }

/-- CTX_SET (R413). -/
def execCtxSet (packet : BitVec 512) (s : State) : Out := .next (withAdmin 0x40 16 packet ctxSetCmd s)

/-- The tasks of a context. -/
def tasksOf (s : State) (asid : Nat) : List Nat := (s.tasks.filter fun t => t.asid == asid).map Task.id

/-- The packets of a context that will still complete. -/
def packetsDue (s : State) (asid : Nat) : Bool :=
  s.ops.any fun o => o.asid == asid &&
    match o.kind with
    | .packet p => p.finished || p.kind != .wait
    | _ => false

/-- No queue of a context is mapped any more, nor will be.
DEDUCED (notes/assumptions/43). -/
def quiesce (asid : Nat) (s : State) : State :=
  let s := s.modContext asid fun c => { c with quota := 0 }
  { s with queues := s.queues.map fun (n, q) =>
    (n, if q.asid = asid ∧ q.state = .mapped then { q with state := .idle } else q) }

/-- A context's state is freed. -/
def freeContext (asid : Nat) (s : State) : State :=
  let regions := ((s.context? asid).map Context.regions).getD []
  let s := regions.foldl (fun s x => clearRegion asid x.1 s) s
  let s := dropTranslations asid 0 (2 ^ 48) s
  let s := dropEarly (fun c => c.asid == asid) s
  let revs := (s.revs.filter fun (_, r) => r.asid == asid).map Prod.fst
  let s := revs.foldl freeRevision s
  let removed := s.queues.filterMap fun (_, q) => if q.asid = asid then q.removing else none
  let s := removed.foldl (fun s n => adminDone n none s) s
  { s with
    ctxs := s.ctxs.erase asid
    queues := s.queues.filter fun (_, q) => q.asid != asid
    revs := s.revs.filter fun (_, r) => r.asid != asid
    ops := s.ops.filter fun o => o.asid != asid ||
      match o.kind with
      | .invalidate _ _ _ _ _ _ | .ownerCmd _ _ => true
      | _ => false
    batches := s.batches.map fun x => { x with tasks := x.tasks.filter fun t => t.asid != asid }
    stations := s.stations.map fun (n, x) => (n, { x with queue := x.queue.filter fun y => y.1 != asid }) }

/-- CTX_END with a packet of good form: it waits for the context's tasks and packets to end.
DEDUCED (notes/assumptions/43). -/
def ctxEndCmd (p : Packet) (s : State) : State :=
  let asid := p.field 0 2
  if (s.context? asid).isNone then adminBad p s
  else
    let s := quiesce asid s
    let s := terminate (tasksOf s asid) s
    if tasksOf s asid != [] || packetsDue s asid then adminAgain p (.ctxEnd p.raw) s
    else adminOk p (freeContext asid s)

/-- CTX_END (R387). -/
def execCtxEnd (packet : BitVec 512) (s : State) : Out := .next (withAdmin 0x41 2 packet ctxEndCmd s)

/-! ### Queues (R377, R412) -/

/-- The fields of a QUEUE_SET are in range (R412). -/
def queueFieldsOk (p : Packet) : Bool :=
  decide (p.field 3 1 < 4) && p.field 7 1 == 0 && decide (4 ≤ p.field 6 1) && decide (p.field 6 1 ≤ 16) &&
    formOk (p.field 8 8) && formOk (p.field 0x10 8) && decide (p.field 0x18 2 < 2048) && decide (p.field 0x1A 2 ≤ 1000)

/-- The queue that a QUEUE_SET registers. -/
def newQueue (p : Packet) : Queue :=
  { asid := p.field 4 2, prio := p.field 3 1, logSize := p.field 6 1, ring := p.word 8, cring := p.word 0x10
    vector := p.field 0x18 2, coal := p.field 0x1A 2 }

/-- QUEUE_SET registers a free QID.
DEDUCED (notes/assumptions/42). -/
def registerQueue (p : Packet) (s : State) : State :=
  let qid := p.field 0 2
  if (s.queues.get? qid).isSome ∨ (s.context? (p.field 4 2)).isNone then adminBad p s
  else adminOk p { s with queues := s.queues.set qid (newQueue p) }

/-- QUEUE_SET changes PRIO, VECTOR and COAL of a queue. -/
def changeQueue (p : Packet) (q : Queue) (s : State) : State :=
  let n := newQueue p
  if n.asid ≠ q.asid ∨ n.logSize ≠ q.logSize ∨ n.ring ≠ q.ring ∨ n.cring ≠ q.cring then
    adminBad p s
  else adminOk p (modQueue (p.field 0 2) (fun q => { q with prio := n.prio, vector := n.vector, coal := n.coal }) s)

/-- QUEUE_SET with a packet of good form. -/
def queueSetCmd (p : Packet) (s : State) : State :=
  let qid := p.field 0 2
  let op := p.field 2 1
  if 1024 ≤ qid ∨ 2 < op ∨ queueFieldsOk p = false then adminBad p s
  else if op = 0 then registerQueue p s
  else
    match s.queues.get? qid with
    | none => adminBad p s
    | some q =>
      if q.removing.isSome then adminBad p s
      else if op = 1 then changeQueue p q s
      else adminIssued p (modQueue qid (fun q => { q with removing := some p.index }) s)

/-- QUEUE_SET (R412). -/
def execQueueSet (packet : BitVec 512) (s : State) : Out := .next (withAdmin 0x42 28 packet queueSetCmd s)

/-- The reads of a queue that is removed or reset are over. -/
def endReads (qid : Nat) (s : State) : State := endParts (.start qid) (endParts (.parked qid) s)

/-- QUEUE_REMOVE_COMPLETE (R412): the QID is free. -/
def execQueueRemoveComplete (qid : Nat) (s : State) : Out :=
  .next (match s.queues.get? qid with
    | some q =>
      match q.removing with
      | some n =>
        if q.inflight = [] then adminDone n none { endReads qid s with queues := s.queues.erase qid } else s
      | none => s
    | none => s)

/-- What a reset does to a queue's control block: a queue that was halted or parked is idle. -/
def resetQueue (q : Queue) : Queue :=
  let stops := q.state == .halted || q.state == .parked
  { q with
    state := if stops then .idle else q.state
    pending := q.pending && !stops, started := q.head, done := q.head, status := none, inflight := [] }

/-- The WAIT of a queue that is reset goes with its packets. -/
def dropWaits (qid : Nat) (s : State) : State :=
  let s := endReads qid s
  { s with ops := s.ops.filter fun o =>
    match o.kind with
    | .packet p => !(p.qid == qid && p.kind == .wait)
    | _ => true }

/-- QUEUE_RESET with a packet of good form. -/
def queueResetCmd (p : Packet) (s : State) : State :=
  match s.queues.get? (p.field 0 2) with
  | some _ => adminOk p (dropWaits (p.field 0 2) (modQueue (p.field 0 2) resetQueue s))
  | none => adminBad p s

/-- QUEUE_RESET (R387). -/
def execQueueReset (packet : BitVec 512) (s : State) : Out := .next (withAdmin 0x43 2 packet queueResetCmd s)

/-! ### INVALIDATE (11_translation R277, R335) -/

/-- A page of a range is pinned. -/
def pinnedWithin (s : State) (asid va len : Nat) : Bool :=
  (rangePages s asid (len / 2 ^ 16 + 2) va (va + len)).any fun x =>
    ((leafOf s asid x.1).map fun l => isLocal l.2.2 && pteBit l.2.2 pinBit).getD false

/-- INVALIDATE with a packet of good form: firmware refuses one that covers a pinned page, and reports that. -/
def invalidateCmd (p : Packet) (s : State) : State :=
  let asid := p.field 0 2
  let va := p.field 8 8
  let len := p.field 16 8
  if p.field 2 6 ≠ 0 ∨ va % 2 ^ 16 ≠ 0 ∨ len = 0 ∨ len % 2 ^ 16 ≠ 0 ∨ vaOk va len = false then adminBad p s
  else if pinnedWithin s asid va len then
    adminBad p (postService
      { kind := 6, code := faultNumber .illegalOperand, asid := asid, task := 0, address := BitVec.ofNat 64 va
        length := len, parent := 0, flags := 0, bundle := 0 } s)
  else adminIssued p (askInvalidation asid va len p.index s)

/-- INVALIDATE (R277). -/
def execInvalidate (packet : BitVec 512) (s : State) : Out := .next (withAdmin 0x44 24 packet invalidateCmd s)

/-! ### POOL, TIMING, MIGR_POLICY -/

/-- POOL with a packet of good form. -/
def poolCmd (p : Packet) (s : State) : State :=
  if 64 < p.field 0 1 then adminBad p s else adminOk p { s with cfg := { s.cfg with poolGib := p.field 0 1 } }

/-- POOL (14_revisions R340). -/
def execPool (packet : BitVec 512) (s : State) : Out := .next (withAdmin 0x45 1 packet poolCmd s)

/-- A setting of TIMING is 0 or within its range. -/
def timingOk (v lo hi : Nat) : Bool := v == 0 || (decide (lo ≤ v) && decide (v ≤ hi))

/-- A setting of TIMING takes a value other than 0. -/
def retime (v old : Nat) : Nat := if v = 0 then old else v

/-- TIMING with a packet of good form. -/
def timingCmd (p : Packet) (s : State) : State :=
  if timingOk (p.field 0 4) 100 10000 && timingOk (p.field 4 4) 65536 16777216 && timingOk (p.field 8 4) 10 499 &&
      timingOk (p.field 12 4) 600 100000 then
    adminOk p { s with cfg := { s.cfg with
      qslice := retime (p.field 0 4) s.cfg.qslice, tslice := retime (p.field 4 4) s.cfg.tslice
      ftimeout := retime (p.field 8 4) s.cfg.ftimeout, stubLife := retime (p.field 12 4) s.cfg.stubLife } }
  else adminBad p s

/-- TIMING (R412). -/
def execTiming (packet : BitVec 512) (s : State) : Out := .next (withAdmin 0x4A 16 packet timingCmd s)

/-- MIGR_POLICY with a packet of good form. -/
def migrPolicyCmd (p : Packet) (s : State) : State :=
  if 1 < p.field 2 1 ∨ (s.context? (p.field 0 2)).isNone then adminBad p s
  else adminOk p (s.modContext (p.field 0 2) fun c => { c with policy := p.field 2 1 == 1 })

/-- MIGR_POLICY (12_migration R295). -/
def execMigrPolicy (packet : BitVec 512) (s : State) : Out := .next (withAdmin 0x49 3 packet migrPolicyCmd s)

/-! ### WRING (15_fabric R369, R370) -/

/-- The ring and its control block lie in the heap or on LOCAL pages. -/
def ringHere (s : State) (asid va len : Nat) (wr : Bool) : Bool :=
  match masterRuns s pairMaster asid va len true wr with
  | .ok rs => allHere rs
  | .error _ => false

/-- WRING registers a ring: TAIL, RUNS and STATUS are written. -/
def registerRing (p : Packet) (s : State) : State :=
  let asid := p.field 0 2
  let ring := p.field 2 1
  let n := p.field 4 4
  let base := p.field 8 8
  let control := p.field 16 8
  if (ringOf s asid ring).isSome ∨ (s.context? asid).isNone ∨ n ∉ [16, 32, 64, 128, 256, 512, 1024, 2048, 4096] ∨
      base % 64 ≠ 0 ∨ vaOk base (64 * n) = false ∨ vaOk control 64 = false ∨ ringHere s asid base (64 * n) false = false ∨
      ringHere s asid control 64 true = false then
    adminBad p s
  else
    let r : WorkRing :=
      { base := base, size := n, control := control, tail := 0, runs := 0, halted := false, current := none
        lastPollU := s.timeU }
    let s := s.modContext asid fun c => { c with rings := c.rings.set ring r }
    adminOk p (putControl asid r 0x18 0 (putControl asid r 0x10 0 (putControl asid r 8 0 s)))

/-- A reset of a halted ring: a current entry is abandoned. -/
def resetRing (asid ring : Nat) (s : State) : State :=
  let s := abandonRun asid ring s
  match ringOf s asid ring with
  | none => s
  | some r =>
    let tail := if r.current.isSome then r.tail + 1 else r.tail
    let s := if r.current.isSome then putControl asid r 8 (tail % 2 ^ 64) s else s
    modRing asid ring (fun r => { r with tail := tail, current := none, halted := false }) (putControl asid r 0x18 0 s)

/-- WRING removes or resets a ring.
DEDUCED (notes/assumptions/42). -/
def changeRing (p : Packet) (r : WorkRing) (s : State) : State :=
  let asid := p.field 0 2
  let ring := p.field 2 1
  if p.field 4 4 ≠ 0 ∨ p.field 16 8 ≠ 0 ∨ vaOk (p.field 8 8) 1 = false then adminBad p s
  else if p.field 3 1 = 1 then
    let s := if r.current.isSome then resetRing asid ring s else s
    adminOk p (s.modContext asid fun c => { c with rings := c.rings.erase ring })
  else adminOk p (if r.halted then resetRing asid ring s else s)

/-- WRING with a packet of good form. -/
def wringCmd (p : Packet) (s : State) : State :=
  if 64 ≤ p.field 2 1 ∨ 2 < p.field 3 1 then adminBad p s
  else if p.field 3 1 = 0 then registerRing p s
  else
    match ringOf s (p.field 0 2) (p.field 2 1) with
    | some r => changeRing p r s
    | none => adminBad p s

/-- WRING (15_fabric R369). -/
def execWring (packet : BitVec 512) (s : State) : Out := .next (withAdmin 0x46 24 packet wringCmd s)

/-! ### PIN (12_migration R305) -/

/-- A page of a range is in transit. -/
def frozenWithin (s : State) (asid : Nat) (pages : List (Nat × Nat)) : Bool :=
  pages.any fun x => ((leafOf s asid x.1).map fun l => isLocal l.2.2 && pteBit l.2.2 frzBit).getD false

/-- Pins or unpins a page for system software, which is noted as its pin (R305): unpinning leaves a page pinned that a
region of its context covers (14_revisions R335). -/
def pinOne (asid va n : Nat) (set : Bool) (s : State) : State :=
  let s := s.modContext asid fun c =>
    { c with pins := (if set then [(va, n)] else []) ++ c.pins.filter fun x => !overlaps x.1 x.2 va n }
  if !set && otherCovers s asid 256 va n then s else pinPage asid va set s

/-- Pins or unpins a page here, or asks the package that owns it. -/
def pinOrAsk (asid : Nat) (set : Bool) (s : State) (x : Nat × Nat) : State :=
  match (walk s asid x.1 pairMaster).1 with
  | .leaf e =>
    match e.remote with
    | some o => s.send (destOf s (pageKey asid e.size x.1) o) (.pin (.apply asid x.1 set))
    | none => pinOne asid x.1 x.2 set s
  | .nonResident _ _ _ _ | .failed _ => s

/-- The pages of a range each begin and end within it. -/
def pagesWithin (pages : List (Nat × Nat)) (va len : Nat) : Bool :=
  pages.all fun x => decide (va ≤ x.1) && decide (x.1 + x.2 ≤ va + len)

/-- Every page of a range is mapped LOCAL or REMOTE. -/
def pagesMapped (s : State) (asid : Nat) (pages : List (Nat × Nat)) : Bool :=
  pages.all fun x =>
    match (walk s asid x.1 pairMaster).1 with
    | .leaf _ => true
    | .nonResident _ _ _ _ | .failed _ => false

/-- PIN with a packet of good form. -/
def pinCmd (p : Packet) (s : State) : State :=
  let asid := p.field 0 2
  let va := p.field 8 8
  let len := p.field 16 8
  let pages := rangePages s asid (len / 2 ^ 16 + 2) va (va + len)
  if 1 < p.field 2 1 ∨ p.field 3 5 ≠ 0 ∨ vaOk va len = false ∨ pagesWithin pages va len = false ∨
      pagesMapped s asid pages = false then
    adminBad p s
  else if frozenWithin s asid pages then adminAgain p (.pin (.command p.raw)) s
  else adminOk p (pages.foldl (pinOrAsk asid (p.field 2 1 == 0)) s)

/-- A pin of a page that another package asked for: a page that has moved is pinned where it went. -/
def pinHere (msg : PinMsg) (asid va : Nat) (set : Bool) (s : State) : State :=
  let pages := rangePages s asid 1 va (va + 1)
  if frozenWithin s asid pages then s.retry (.pin msg) else pages.foldl (pinOrAsk asid set) s

/-- PIN (R305). -/
def execPin (msg : PinMsg) (s : State) : Out :=
  .next (match msg with
    | .command packet => withAdmin 0x47 24 packet pinCmd s
    | .apply asid va set => pinHere msg asid va set s)

/-! ### PAGE_REPLY (11_translation R276) -/

/-- PAGE_REPLY with a packet of good form: a refusal ends the requests whose range it meets. -/
def pageReplyCmd (p : Packet) (s : State) : State :=
  let asid := p.field 0 2
  let va := p.field 8 8
  let len := p.field 16 8
  if 1 < p.field 2 1 ∨ p.field 3 5 ≠ 0 ∨ va % 2 ^ 16 ≠ 0 ∨ len % 2 ^ 16 ≠ 0 ∨ vaOk va len = false ∨
      (s.context? asid).isNone then
    adminBad p s
  else
    let refused := p.field 2 1 == 1
    adminOk p { s with ops := s.ops.map fun o =>
      match o.kind with
      | .pgreq a n w asked r =>
        if refused && o.asid == asid && overlaps a n va len then { o with kind := .pgreq a n w asked (r || refused) } else o
      | _ => o }

/-- PAGE_REPLY (R276). -/
def execPageReply (packet : BitVec 512) (s : State) : Out := .next (withAdmin 0x48 24 packet pageReplyCmd s)

/-! ### OWNER (12_migration R282) -/

/-- Every page of a range is LOCAL here. -/
def pagesLocal (s : State) (asid : Nat) (pages : List (Nat × Nat)) : Bool :=
  pages.all fun x => ((leafOf s asid x.1).map fun l => isLocal l.2.2).getD false

/-- The size code of a page of some bytes. -/
def pageCode (bytes : Nat) : Nat := if bytes = 2 ^ 16 then 0 else if bytes = 2 ^ 21 then 1 else 2

/-- OWNER with a packet of good form: each page's home is told. -/
def ownerCmd (p : Packet) (s : State) : State :=
  let asid := p.field 0 2
  let va := p.field 8 8
  let len := p.field 16 8
  let pages := rangePages s asid (len / 2 ^ 16 + 2) va (va + len)
  let add := p.field 2 1 == 0
  if 1 < p.field 2 1 ∨ p.field 3 5 ≠ 0 ∨ vaOk va len = false ∨ va % 2 ^ 16 ≠ 0 ∨ len % 2 ^ 16 ≠ 0 ∨
      pagesWithin pages va len = false ∨ (s.context? asid).isNone ∨ (add && !pagesLocal s asid pages) = true then
    adminBad p s
  else if pages = [] then adminOk p s
  else
    let id := s.nextOp
    let keys := pages.map fun x => pageKey asid (pageCode x.2) x.1
    let rest := s.mig.registered.filter (· ∉ keys)
    let s : State := { s with mig := { s.mig with registered := if add then keys ++ rest else rest } }
    pages.foldl (fun s x =>
      let k := pageKey asid (pageCode x.2) x.1
      s.send (homeOf s k) (.owner (.record ⟨s.accid, id⟩ k (if add then some s.accid else none))))
      (adminIssued p (s.startEngineOp asid 0 (.ownerCmd p.index pages.length)))

/-- The entry of a page at its home is registered, or those of pages that overlap it are removed. -/
def recordOwner (page : PageKey) (owner : Option Nat) (s : State) : State :=
  let old := homeEntry s page
  let away := s.mig.home.filter fun e =>
    match owner with
    | some _ => e.page != page
    | none => !pageWithin e.page page.asid (page.vpn * 2 ^ 16) (pageBytes page.size)
  let new : List HomeEntry := match owner with
    | some a => [{ page := page, state := .stable, owner := a, target := 0
                   epoch := (old.map HomeEntry.epoch).getD 0, issuer := none }]
    | none => []
  { s with mig := { s.mig with home := away ++ new } }

/-- A home directory has recorded a page of an OWNER command. -/
def ownerRecorded (op : Nat) (s : State) : State :=
  match s.op? op with
  | some o =>
    match o.kind with
    | .ownerCmd command n =>
      if n ≤ 1 then adminDone command none (s.dropOp op)
      else s.modOp op fun o => { o with kind := .ownerCmd command (n - 1) }
    | _ => s
  | none => s

/-- OWNER (R282). -/
def execOwner (msg : OwnerMsg) (s : State) : Out :=
  .next (match msg with
    | .command packet => withAdmin 0x4B 24 packet ownerCmd s
    | .record src page owner =>
      if s.mig.rebuilding ≠ [] then s.retry (.owner msg)
      else (recordOwner page owner s).sendOn (pagePlane s.accid page) .rsp 1 none src.acc (.owner (.recorded src.op))
    | .recorded op => ownerRecorded op s
    | .lost page owner => loseAtHome page owner s
    | .report page owner epoch => takeReport page owner epoch s
    | .reported acc => endReports acc s)

/-! ### The scheduler's memory (R389) and the service rings (R388) -/

/-- The lock-step pair runs firmware (17_system R394). -/
def pairRuns (s : State) : Bool := s.sys.boot == .running || s.sys.boot == .ready

/-- FW_FATAL: every core and engine stops, and vector 0 is sent (17_system R397). -/
def raiseFatal (s : State) : State :=
  if pairRuns s then { s with sys := { s.sys with boot := .fatal }, msix := s.msix ++ [0] } else s

/-- A queue whose tables are lost is halted and reported. -/
def loseQueue (s : State) (qid : Nat) : State := haltQueue qid .eccUe s

/-- SCHEDULER_MEMORY_ERROR (R389). -/
def execSchedulerMemoryError (e : FwError) (s : State) : Out :=
  .next (match e with
    | .correctable => s.ras 0
    | .instruction => raiseFatal (s.ras 1)
    | .queueTable qids => qids.foldl loseQueue (s.ras 1))

/-- WORKER_FAILURE (R389): parsing has no side effects, so no packet is affected. -/
def execWorkerFailure (worker : Fin 8) (s : State) : Out :=
  .next (if worker.val ∈ s.sys.workersOut then s
    else ({ s with sys := { s.sys with workersOut := s.sys.workersOut ++ [worker.val] } }).ras 8)

/-- SERVICE_RING_FREED (R388): system software has taken some records; those held are posted. -/
def execServiceRingFreed (asid n : Nat) (s : State) : Out :=
  let posts := ((s.context? asid).map fun c => 0 < c.serviceFree + n && c.serviceHeld != []).getD false
  let t := match s.context? asid with
    | some c =>
      let room := c.serviceFree + n
      enterService asid (c.serviceHeld.take room) (s.modContext asid fun c =>
        { c with serviceFree := room, serviceHeld := c.serviceHeld.drop room })
    | none => s
  .next (if posts then serviceMessage asid t else t)

end Sys2Proof.Machine
end

