-- ==== Sys2Proof/Machine/Fabric.lean ====
section
/-! DEFINITION. The stations' receive buffers and links (15_fabric R357, R358, R361). -/

namespace Sys2Proof.Machine

open Sys2Proof

/-- A packet has failed authentication (R350): its sender tries again, or completes the request with an error. A failed
request is told to its sender; a failed response counts here. -/
def discardPacket (station src : Nat) (req : ReqId) (s : State) : State :=
  if req.acc = s.accid then authFailed req.op id s
  else s.sendOn station .rsp 1 none src (.requestRefused req.op .auth)

/-- What has been completed with an error after the eighth failure of a message of its (R350): the request's operation, or
the ring of a chunk. What answers a request has none here: its requester counts its failures.
DESIGN CHOICE (notes/assumptions/75). -/
def messageFails (i : Instr) (s : State) : State :=
  let fail (r : ReqId) : State := ((s.op? r.op).map fun o => failRemote o .remoteError s).getD s
  match i with
  | .remoteRequestReceive r => fail r.src
  | .homeConsult src _ | .owner (.record src _ _) => fail src
  | .migrationRequestAtHome m => (m.issuer.map fail).getD s
  | .fenceHeavySerialisation ask _ => fail ask.src
  | .chunkReceive c =>
    match runOf s c.asid c.slot with
    | some (ring, _, x) => if x.seq = c.seq then haltRing c.asid ring .remoteError s else s
    | none => s
  | _ => s

/-- A message's flits: an answer's are those of its data. -/
def flitsAgain (self dest : Nat) (i : Instr) : Nat :=
  match routeOf self dest i, i with
  | some (_, _, n), _ => n
  | none, .remoteLoadResponse _ d _ => flitsOf d.bytes.length
  | none, _ => 1

/-- A packet of a message that this package sent has failed authentication: it is sent again, and the eighth failure
completes its request with an error (R350).
DESIGN CHOICE (notes/assumptions/75). -/
def packetLost (n station : Nat) (ch : Channel) (s : State) : State :=
  match s.outbox[n]? with
  | none => s
  | some m =>
    let k := ((s.mig.lost.find? fun e => e.1 == m).map Prod.snd).getD 0 + 1
    let rest := s.mig.lost.filter fun e => e.1 != m
    if 8 ≤ k then messageFails m.2 { s with mig := { s.mig with lost := rest } }
    else { s with mig := { s.mig with lost := rest ++ [(m, k)] } }.sendOn station ch (flitsAgain s.accid m.1 m.2) none m.1 m.2

/-- REQUEST_REFUSED (R288; 15_fabric R350). -/
def execRequestRefused (op : Nat) (why : Refused) (s : State) : Out :=
  match why with
  | .auth => .next (authFailed op (resend op) s)
  | .packet station ch => .next (packetLost op station ch s)
  | .notOwner | .chain =>
    match s.op? op, opPage s op with
    | some o, some p => .next (if fabricExpired s o then failRemote o .migration s else consultHome op p s)
    | _, _ => .next (dropSent op s)

/-- FLIT_RECEIVE (R350, R357, R358, R373): REQ and RSP flits are consumed at once, and their token returned; the token of
a CHK flit is withheld while the early area of its sender is full, that of a REQ flit while a freeze queue is. The link's
retries are counted (17_system R405). -/
def execFlitReceive (station src : Nat) (ch : Channel) (mark : FlitMark) (s : State) : Out :=
  let t := if (ch = .chk ∧ earlyFull s station src = true) ∨ (ch = .req ∧ queueFull s = true) then
      s.modStation station fun x => { x with owed := x.owed ++ [(src, ch, mark.reserved)] }
    else s.send src (.creditToken station s.accid ch mark.reserved)
  let u := if mark.retries = 0 then t else { t with sys := t.sys.count 5 mark.retries }
  let v := match mark.failed with
    | some r => discardPacket station src r u
    | none => u
  .next (match mark.lost with
    | some n => v.sendOn station .rsp 1 none src (.requestRefused n (.packet station ch))
    | none => v)

/-- A sender's credits for a peer with a token back. -/
def putToken (ch : Channel) (reserved : Bool) (c : Credit) : Credit :=
  if reserved then
    match ch with
    | .req => { c with req := min 4 (c.req + 1) }
    | .rsp => { c with rsp := min 4 (c.rsp + 1) }
    | .chk => { c with chk := min 4 (c.chk + 1) }
  else
    { c with shared := min 512 (c.shared + 1), chkShared := if ch = .chk then c.chkShared - 1 else c.chkShared }

/-- Sends again what a station holds, in order. -/
def flushHeld (station : Nat) (s : State) : State :=
  if (s.stationAt station).down then s
  else (s.stationAt station).held.foldl (fun s m => sendFlits station m s)
    (s.modStation station fun x => { x with held := [] })

/-- CREDIT_TOKEN (R358). -/
def execCreditToken (station peer : Nat) (ch : Channel) (reserved : Bool) (s : State) : Out :=
  .next (flushHeld station (s.modStation station fun x =>
    { x with credit := x.credit.set peer (putToken ch reserved (x.credit.getD peer {})) }))

/-- STATION_LINK_FAILURE (R361): the plane is down, nothing that it holds leaves, and a RAS event is reported. What chunk
operations hold stands, so that they never complete. -/
def execStationLinkFailure (station : Nat) (s : State) : Out :=
  .next ((s.modStation station fun x => { x with down := true, held := x.held.filter fun h => h.op.isSome }).ras 6)

end Sys2Proof.Machine
end

