-- ==== Sys2Proof/Machine/Matrix.lean ====
section
/-! DEFINITION. The matrix engine (09_matrix R216–R240): the checks of a matrix slot, what it leaves at
issue, its start and its completion, and the repetitions of a REPEAT run. -/

namespace Sys2Proof.Machine

open Sys2Proof

/-! ### Operands (R219–R221) -/

/-- The accumulator used: x + mo0.ACC. -/
def accOf (s : State) (x : Fin 64) : Nat := x.val + bits (s.ctx.mo.getD 0 0) 0 16

/-- ROWA. -/
def rowA (s : State) : Nat := bits (s.ctx.mo.getD 1 0) 0 16
/-- COLA. -/
def colA (s : State) : Nat := bits (s.ctx.mo.getD 1 0) 16 16
/-- ROWB. -/
def rowB (s : State) : Nat := bits (s.ctx.mo.getD 2 0) 0 16
/-- COLB. -/
def colB (s : State) : Nat := bits (s.ctx.mo.getD 2 0) 16 16
/-- KLEN. -/
def kLen (s : State) : Nat := bits (s.ctx.mo.getD 3 0) 0 16

/-- An accumulator tile of the task. -/
def Ctx.accAt (c : Ctx) (n : Nat) : AccTile := c.acc.getD n {}

/-- The accumulator's word as issued instructions leave it (R225). -/
def issuedWord (s : State) (n : Nat) : AccWord := (s.ctx.accAt n).issued

/-- A tile named by a handle field. -/
def mtxTile (s : State) (h : BitVec 8) : Option (Nat × TileEntry) := s.tileAt s.cur h.toNat

/-- A window of a tile (R221). -/
structure Window where
  entry : Nat
  tile : TileEntry
  row : Nat
  col : Nat
  rows : Nat
  cols : Nat
  wr : Bool

/-- Every element of a window lies in its tile, and the window has elements. -/
def Window.inside (w : Window) : Bool :=
  decide (1 ≤ w.rows) && decide (1 ≤ w.cols) && decide (w.row + w.rows ≤ w.tile.rows) &&
    decide (w.col + w.cols ≤ w.tile.cols)

/-- The bytes from the first to the last element of a window, as the scoreboard holds them (R234). -/
def Window.range (w : Window) (core : Nat) : Range :=
  let b := w.tile.ty.width
  let first := (w.row * w.tile.cols + w.col) * b / 8
  let last := (((w.row + w.rows - 1) * w.tile.cols + w.col + w.cols) * b + 7) / 8
  ⟨tileByteKey core w.tile first, last - first, w.wr⟩

/-! ### Issue checks (R216, R224, R225, R234) -/

/-- Step 1 of R224. -/
def checkAcc (s : State) (x : Fin 64) : Verdict := require (decide (accOf s x < 64)) .illegalOperand 0

/-- Step 3 of R224: a tile of tile memory, and for a multiplicand a type of at most 16 bits (R219, R222). -/
def checkLevel (multiplicand : Bool) (e : TileEntry) : Verdict :=
  require (e.level == .tile && (!multiplicand || decide (e.ty.width < 32))) .tileShape 0

/-- Step 4 of R224. -/
def checkWindows (ws : List Window) : Verdict := firstV (ws.map fun w => require w.inside .tileBounds 0)

/-- The exponent rule of an accumulating instruction (R226): adopt within range, or require equality. -/
def checkExp (w : AccWord) (ep : Int) : Verdict :=
  require (if w.free then decide (-64 ≤ ep ∧ ep ≤ 63) else w.exp == ep) .scaleMismatch 0

/-- The exponent of a tile is pending (R225). -/
def holdPending (es : List TileEntry) : Verdict := holdIf (es.any fun e => e.expPending.isSome)

/-- The matrix instructions of a core that have not started. -/
def queuedMatrix (s : State) (core : Nat) : Nat :=
  s.ops.countP fun o => o.core == core &&
    match o.kind with
    | .matrix m => m.started.isNone
    | _ => false

/-- A copy, SAE operation, VOPT or PIPEW in flight overlaps a window; any other operation that writes it or, for a
window that is written, reads it (R234); or a store of the core to it has not performed. -/
def windowHeld (s : State) (w : Window) : Bool :=
  let r := w.range s.cur
  let meets (o : Op) (any : Bool) : Bool := o.ranges.any fun x => (any || w.wr || x.excl) && overlaps x.key x.len r.key r.len
  s.ops.any fun o => o.core == s.cur &&
    match o.kind with
    | .matrix _ => false
    | .copy _ | .vopt _ _ _ _ _ _ _ _ | .pipew _ _ _ _ => meets o true
    | .store x =>
      match x.place with
      | .here k => overlaps k x.len r.key r.len
      | .far _ _ _ | .zero => false
    | _ => meets o false

/-- What holds a matrix slot that passed its checks (R216, R234; 04_memory_model R86). -/
def holdMatrix (s : State) (ws : List Window) : Verdict :=
  holdIf (decide (8 ≤ queuedMatrix s s.cur) || acqPending s || ws.any (windowHeld s))

/-! ### Issue (R225, R233, R236) -/

/-- The bundle's REPEAT run ends with the repetition now issuing, or the bundle has none. -/
def lastRepetition (s : State) : Bool :=
  match s.ctx.rep with
  | some r => r.left == 1
  | none =>
    match s.iss.rep with
    | some (c, _) => c == 1
    | none => true

/-- The bundle is no repetition of a run that has begun: no repetition of a run has issued yet, also where a fault of
the first has opened it (06_sequencer R175). -/
def startsRun (c : Ctx) : Bool := ((c.rep.map RepState.issued).getD 0) == 0

/-- What a matrix slot counts in class T: a REPEAT run once (R236; 06_sequencer Table 6-3). -/
def matrixNeed (s : State) : Need := { t := if startsRun s.ctx then 1 else 0 }

/-- A matrix instruction with what it captures at issue (R235); `a` and `b` are physical entries, 512 for
none. -/
def captureMtx (s : State) (i : Instr) (acc : Nat) : MtxOp :=
  { instr := i, word := (s.core.imem.getD (s.ctx.pc + s.iss.slot) 0).toNat, acc := acc, klen := 0, m := 0, n := 0, a := 512, b := 512, ay := 64, ra := rowA s, ca := colA s,
    rb := rowB s, cb := colB s, shift := 0, exp := 0, whole := false, mf := s.ctx.mf, rseed := s.ctx.rseed,
    rstep := s.ctx.rstep, started := none, census := 0, lastRep := lastRepetition s, steps := 0 }

/-- Puts an instruction in the queue: it may start in the next cycle. -/
def queueMtx (m : MtxOp) (ws : List Window) (s : State) : State :=
  (s.startOp 1 (ws.map fun w => w.range s.cur) (.matrix m)).modCtx fun c =>
    if startsRun c then c.raise .t else c

/-- The accumulator's word as the issued instruction will leave it. -/
def noteIssued (n : Nat) (f : AccWord → AccWord) (s : State) : State :=
  s.modCtx fun c =>
    let a := c.accAt n
    { c with acc := c.acc.set n { a with issued := f a.issued } }

/-! ### Products (R226, R227) -/

/-- The windows of a product: of A and of B, with M, N and K. `tA` and `tB` say which is stored
transposed. -/
structure ProdShape where
  m : Nat
  n : Nat
  k : Nat
  wa : Window
  wb : Window

/-- The shape of a product instruction (R226). -/
def prodShape (s : State) (zero tA tB : Bool) (w : AccWord) (ia : Nat) (ea : TileEntry) (ib : Nat)
    (eb : TileEntry) : ProdShape :=
  let k := if kLen s ≠ 0 then kLen s else if tA then ea.rows - rowA s else ea.cols - colA s
  let m := if zero then min 128 (ea.rows - rowA s) else w.rows
  let n := if zero then min 128 (eb.cols - colB s) else w.cols
  { m := m, n := n, k := k
    wa := if tA then ⟨ia, ea, rowA s, colA s, k, m, false⟩ else ⟨ia, ea, rowA s, colA s, m, k, false⟩
    wb := if tB then ⟨ib, eb, rowB s, colB s, n, k, false⟩ else ⟨ib, eb, rowB s, colB s, k, n, false⟩ }

/-- The checks of a product instruction (R224, R226). -/
def checkProduct (zero tA tB : Bool) (x : Fin 64) (h k : BitVec 8) (s : State) : Verdict :=
  (checkAcc s x).seq
    (match mtxTile s h, mtxTile s k with
    | some (ia, ea), some (ib, eb) =>
      let w := issuedWord s (accOf s x)
      let p := prodShape s zero tA tB w ia ea ib eb
      ((checkLevel true ea).seq (checkLevel true eb)).seq
        ((checkWindows [p.wa, p.wb]).seq
          ((holdPending [ea, eb]).seq
            ((checkExp (if zero then { w with free := true } else w) (ea.exp + eb.exp)).seq
              (holdMatrix s [p.wa, p.wb]))))
    | _, _ => faultV .tileHandle 0)

/-- The effect of a product instruction at issue. -/
def issueProduct (i : Instr) (zero tA tB : Bool) (x : Fin 64) (h k : BitVec 8) (s : State) : State :=
  match mtxTile s h, mtxTile s k with
  | some (ia, ea), some (ib, eb) =>
    let n := accOf s x
    let p := prodShape s zero tA tB (issuedWord s n) ia ea ib eb
    let ep := ea.exp + eb.exp
    let op := { captureMtx s i n with klen := p.k, m := p.m, n := p.n, a := ia, b := ib, exp := ep }
    noteIssued n (fun w => if zero then { w with rows := p.m, cols := p.n, exp := ep, free := false }
      else { w with exp := ep, free := false }) (queueMtx op [p.wa, p.wb] s)
  | _, _ => s

/-- A product instruction. -/
def product (i : Instr) (zero tA tB : Bool) (x : Fin 64) (h k : BitVec 8) (s : State) : Out :=
  slot (matrixNeed s) (checkProduct zero tA tB x h k) (issueProduct i zero tA tB x h k) s

/-- MMA (R226). -/
def execMma (x : Fin 64) (h k : BitVec 8) (s : State) : Out := product (.mma x h k) false false false x h k s
/-- MMAZ (R226). -/
def execMmaz (x : Fin 64) (h k : BitVec 8) (s : State) : Out := product (.mmaz x h k) true false false x h k s
/-- MMAT (R226). -/
def execMmat (x : Fin 64) (h k : BitVec 8) (s : State) : Out := product (.mmat x h k) false true false x h k s
/-- MMBT (R226). -/
def execMmbt (x : Fin 64) (h k : BitVec 8) (s : State) : Out := product (.mmbt x h k) false false true x h k s

/-- The exponent of a chained accumulator: 0 while it is FREE (R227). -/
def chainExp (w : AccWord) : Int := if w.free then 0 else w.exp

/-- The window of MMAC's tile: rows of the chained accumulator's columns (R227). -/
def chainWindow (s : State) (w wy : AccWord) (ib : Nat) (eb : TileEntry) : Window :=
  ⟨ib, eb, rowA s, colA s, wy.cols, w.cols, false⟩

/-- The checks of MMAC (R224, R227). -/
def checkMmac (x : Fin 64) (h : BitVec 8) (y : Fin 64) (s : State) : Verdict :=
  ((checkAcc s x).seq (require (accOf s x != y.val) .illegalOperand 0)).seq
    (match mtxTile s h with
    | some (ib, eb) =>
      let w := issuedWord s (accOf s x)
      let wy := issuedWord s y.val
      let win := chainWindow s w wy ib eb
      ((checkLevel true eb).seq (require (decide ((mfCht s.ctx.mf).width < 32)) .illegalOperand 0)).seq
        (((require (wy.rows == w.rows) .tileShape 0).seq (checkWindows [win])).seq
          ((holdPending [eb]).seq
            ((checkExp w (chainExp wy + mfChsh s.ctx.mf + eb.exp)).seq (holdMatrix s [win]))))
    | none => faultV .tileHandle 0)

/-- The effect of MMAC at issue. -/
def issueMmac (x : Fin 64) (h : BitVec 8) (y : Fin 64) (s : State) : State :=
  match mtxTile s h with
  | some (ib, eb) =>
    let n := accOf s x
    let w := issuedWord s n
    let wy := issuedWord s y.val
    let ep := chainExp wy + mfChsh s.ctx.mf + eb.exp
    let op := { captureMtx s (.mmac x h y) n with
      klen := wy.cols, m := w.rows, n := w.cols, b := ib, ay := y.val, exp := ep }
    noteIssued n (fun w => { w with exp := ep, free := false }) (queueMtx op [chainWindow s w wy ib eb] s)
  | none => s

/-- MMAC (R227). -/
def execMmac (x : Fin 64) (h : BitVec 8) (y : Fin 64) (s : State) : Out :=
  slot (matrixNeed s) (checkMmac x h y) (issueMmac x h y) s

/-! ### MOUT (R228) -/

/-- The window that MOUT writes. -/
def outWindow (s : State) (w : AccWord) (i : Nat) (e : TileEntry) : Window :=
  ⟨i, e, rowA s, colA s, w.rows, w.cols, true⟩

/-- MOUT writes the whole of its tile: decided at issue. -/
def outWhole (s : State) (w : AccWord) (e : TileEntry) : Bool :=
  rowA s == 0 && colA s == 0 && w.rows == e.rows && w.cols == e.cols

/-- The checks of MOUT. -/
def checkMout (x : Fin 64) (h : BitVec 8) (s : State) : Verdict :=
  (checkAcc s x).seq
    (match mtxTile s h with
    | some (i, e) =>
      let w := issuedWord s (accOf s x)
      let win := outWindow s w i e
      (checkLevel false e).seq ((checkWindows [win]).seq
        ((if w.free || outWhole s w e then .ok
          else (holdPending [e]).seq
            (require (decide (0 ≤ e.exp - w.exp ∧ e.exp - w.exp ≤ 40)) .scaleMismatch 0)).seq
          (holdMatrix s [win])))
    | none => faultV .tileHandle 0)

/-- The effect of MOUT at issue: its tile's exponent is pending until it completes (R225). -/
def issueMout (x : Fin 64) (h : BitVec 8) (sh : Fin 41) (s : State) : State :=
  match mtxTile s h with
  | some (i, e) =>
    let n := accOf s x
    let w := issuedWord s n
    let whole := outWhole s w e
    let op := { captureMtx s (.mout x h sh) n with
      m := w.rows, n := w.cols, a := i, whole := whole, exp := w.exp
      shift := if w.free then 0 else if whole then (sh.val : Int) else e.exp - w.exp }
    (queueMtx op [outWindow s w i e] s).modTile s.cur i fun e => { e with expPending := some s.nextOp }
  | none => s

/-- MOUT (R228). -/
def execMout (x : Fin 64) (h : BitVec 8) (sh : Fin 41) (s : State) : Out :=
  slot (matrixNeed s) (checkMout x h) (issueMout x h sh) s

/-! ### MLOAD, MADD, MBIAS (R229, R230) -/

/-- The window of an instruction that adds or loads a tile into an accumulator, with the shape of the
accumulator afterwards. `bias` is none for MLOAD and MADD, else whether the bias is a column. -/
def loadWindow (s : State) (zero : Bool) (bias : Option Bool) (w : AccWord) (i : Nat) (e : TileEntry) :
    Nat × Nat × Window :=
  let m := if zero then min 128 (e.rows - rowA s) else w.rows
  let n := if zero then min 128 (e.cols - colA s) else w.cols
  (m, n, match bias with
    | none => ⟨i, e, rowA s, colA s, m, n, false⟩
    | some false => ⟨i, e, rowA s, colA s, 1, n, false⟩
    | some true => ⟨i, e, rowA s, colA s, m, 1, false⟩)

/-- The checks of MLOAD, MADD and MBIAS. -/
def checkLoadAcc (zero : Bool) (bias : Option Bool) (x : Fin 64) (h : BitVec 8) (sh : Int) (s : State) :
    Verdict :=
  (checkAcc s x).seq
    (match mtxTile s h with
    | some (i, e) =>
      let w := issuedWord s (accOf s x)
      let win := (loadWindow s zero bias w i e).2.2
      (checkLevel false e).seq ((checkWindows [win]).seq ((holdPending [e]).seq
        ((checkExp (if zero then { w with free := true } else w) (e.exp + sh)).seq (holdMatrix s [win]))))
    | none => faultV .tileHandle 0)

/-- Their effect at issue. -/
def issueLoadAcc (j : Instr) (zero : Bool) (bias : Option Bool) (x : Fin 64) (h : BitVec 8) (sh : Int)
    (s : State) : State :=
  match mtxTile s h with
  | some (i, e) =>
    let k := accOf s x
    let (m, n, win) := loadWindow s zero bias (issuedWord s k) i e
    let ep := e.exp + sh
    let op := { captureMtx s j k with m := m, n := n, a := i, shift := sh, exp := ep }
    noteIssued k (fun w => if zero then { w with rows := m, cols := n, exp := ep, free := false }
      else { w with exp := ep, free := false }) (queueMtx op [win] s)
  | none => s

/-- MLOAD (R229). -/
def execMload (x : Fin 64) (h sh : BitVec 8) (s : State) : Out :=
  slot (matrixNeed s) (checkLoadAcc true none x h sh.toInt) (issueLoadAcc (.mload x h sh) true none x h sh.toInt) s
/-- MADD (R229). -/
def execMadd (x : Fin 64) (h sh : BitVec 8) (s : State) : Out :=
  slot (matrixNeed s) (checkLoadAcc false none x h sh.toInt) (issueLoadAcc (.madd x h sh) false none x h sh.toInt) s
/-- MBIAS (R230). -/
def execMbias (x : Fin 64) (h : BitVec 8) (col : Bool) (s : State) : Out :=
  slot (matrixNeed s) (checkLoadAcc false (some col) x h 0)
    (issueLoadAcc (.mbias x h col) false (some col) x h 0) s

/-! ### MZERO, MCENS (R231, R232) -/

/-- The effect of MZERO at issue. -/
def issueMzero (x : Fin 64) (r c : Fin 128) (s : State) : State :=
  let k := accOf s x
  noteIssued k (fun w => { w with rows := r.val + 1, cols := c.val + 1, exp := 0, free := true })
    (queueMtx { captureMtx s (.mzero x r c) k with m := r.val + 1, n := c.val + 1 } [] s)

/-- MZERO (R231). -/
def execMzero (x : Fin 64) (r c : Fin 128) (s : State) : Out :=
  slot (matrixNeed s) (fun s => (checkAcc s x).seq (holdMatrix s [])) (issueMzero x r c) s

/-- The word that MCENS pushes (R232 Table 9-5). -/
def mcensWord (w : AccWord) : Word :=
  BitVec.ofNat 64 (w.census + (if w.sat then 2 ^ 6 else 0) + (if w.free then 2 ^ 7 else 0) +
    (if w.free then 0 else codeOf 7 w.exp) * 2 ^ 8 + (w.rows - 1) * 2 ^ 16 + (w.cols - 1) * 2 ^ 24)

/-- MCENS (R232). -/
def execMcens (x : Fin 64) (s : State) : Out :=
  slot Need.push (fun s => checkAcc s x)
    (fun s => pushS 0 12 (mcensWord (s.ctx.accAt (accOf s x)).done) s) s

/-! ### Occupancy and start (R233) -/

/-- The array steps of a product (Table 9-4). -/
def stepsOf (wa wb k : Nat) : Nat :=
  if wa = 4 ∧ wb = 4 then (k + 1) / 2
  else if wa = 16 ∧ wb = 16 then 4 * k
  else if wa = 16 ∨ wb = 16 then 2 * k
  else k

/-- The width of an operand tile. -/
def entryWidth (s : State) (core i : Nat) : Nat :=
  (((s.coreAt core).tiles.get? i).map fun e => e.ty.width).getD 8

/-- An instruction is a product. -/
def isProduct (m : MtxOp) : Bool :=
  match m.instr with
  | .mma _ _ _ | .mmaz _ _ _ | .mmat _ _ _ | .mmbt _ _ _ | .mmac _ _ _ => true
  | _ => false

/-- The cycles an instruction still occupies the engine (Table 9-4). -/
def occupancy (s : State) (o : Op) (m : MtxOp) : Nat :=
  match m.instr with
  | .mmac _ _ _ => stepsOf (mfCht m.mf).width (entryWidth s o.core m.b) m.klen - m.steps
  | .mma _ _ _ | .mmaz _ _ _ | .mmat _ _ _ | .mmbt _ _ _ =>
    stepsOf (entryWidth s o.core m.a) (entryWidth s o.core m.b) m.klen - m.steps
  | .mzero _ _ _ => 1
  | _ => m.m

/-- An instruction writes a tile or reads an accumulator or a tile that another writes (R233). -/
def mustFollow (later earlier : MtxOp) : Bool :=
  let out (m : MtxOp) : Bool := match m.instr with
    | .mout _ _ _ => true
    | _ => false
  let readsAcc (n : Nat) : Bool := (out later && later.acc == n) || later.ay == n
  if out earlier then !out later && (earlier.a == later.a || earlier.a == later.b) else readsAcc earlier.acc

/-- The matrix operations of a core in issue order. -/
def matrixOps (s : State) (core : Nat) : List (Op × MtxOp) :=
  s.ops.filterMap fun o =>
    if o.core = core then
      match o.kind with
      | .matrix m => some (o, m)
      | _ => none
    else none

/-- The core of an operation runs its task: a stopped task's instructions wait for its restore (R239). -/
def coreRuns (s : State) (o : Op) : Bool :=
  let c := s.coreAt o.core
  c.mode == .running && c.task == o.task && c.member == o.member

/-- An instruction may start now (R233). -/
def mayStart (s : State) (o : Op) (m : MtxOp) : Bool :=
  m.started.isNone && decide (o.due ≤ s.cyc) && coreRuns s o &&
    (matrixOps s o.core).all fun (p, n) =>
      !decide (p.id < o.id) ||
        (match n.started with
          | none => false
          | some t => decide (t + occupancy s p n ≤ s.cyc) && !mustFollow m n)

/-- An instruction starts: it completes 8 cycles after the last cycle it occupies, and MOUT takes the
accumulator's census as it stands now (R228, R233). -/
def startMatrix (o : Op) (m : MtxOp) (s : State) : State :=
  let census := ((s.ownerCtx o.task o.member).accAt m.acc).done.census
  s.modOp o.id fun x =>
    { x with due := s.cyc + occupancy s o m + 7, kind := .matrix { m with started := some s.cyc, census := census } }

/-- MATRIX_INSTRUCTION_START (R233). -/
def execMatrixInstructionStart (op : Nat) (s : State) : Out :=
  match s.op? op with
  | some o =>
    match o.kind with
    | .matrix m => .next (if mayStart s o m then startMatrix o m s else s)
    | _ => .next s
  | none => .next s

/-! ### Completion (R226–R232, R235) -/

/-- The part of the reduction that some steps of a product make (Table 9-4). -/
def slicesOf (wa wb steps : Nat) : Nat :=
  if wa = 4 ∧ wb = 4 then 2 * steps
  else if wa = 16 ∧ wb = 16 then steps / 4
  else if wa = 16 ∨ wb = 16 then steps / 2
  else steps

/-- What an instruction computes: the elements with their linear index, and what happened. -/
structure MtxRes where
  vals : List (Nat × Int)
  sat : Bool
  sub : Bool

/-- `rdm` of R223: an element of a tile, with whether a reserved code was replaced. -/
def rdm (s : State) (core : Nat) (mf : Word) (e : TileEntry) (r c : Nat) : Int × Bool :=
  readElem (fmtSym mf) (fmtSubst mf) e.ty (memCode s core e (r * e.cols + c))

/-- The bytes of each row of a window. -/
def rowBytes (core : Nat) (e : TileEntry) (r c rows cols : Nat) : List (Nat × Nat) :=
  let b := e.ty.width
  (List.range rows).map fun i =>
    let n := (r + i) * e.cols + c
    (tileByteKey core e (n * b / 8), ((n + cols) * b + 7) / 8 - n * b / 8)

/-- The first error among some ranges (17_system R402). -/
def rangesFault (s : State) (rs : List (Nat × Nat)) : Option FaultCode :=
  rs.findSome? fun (k, n) => readFault s.sys k n

/-- What reading leaves of the granules of some ranges. -/
def readRanged (rs : List (Nat × Nat)) (s : State) : State :=
  { s with sys := rs.foldl (fun y (k, n) => afterRead y k n) s.sys }

/-- The elements of a window read, row by row. -/
def readWindow (s : State) (core : Nat) (mf : Word) (e : TileEntry) (r c rows cols : Nat) :
    List (List (Int × Bool)) :=
  (List.range rows).map fun i => (List.range cols).map fun j => rdm s core mf e (r + i) (c + j)

/-- The accumulation of one element, in ascending k, saturating at each step (03_numbers R74). -/
def dotA40 (acc : Int) : List (Int × Int) → Int × Bool
  | [] => (acc, false)
  | (x, y) :: r =>
    let p := satA40 (acc + x * y)
    let q := dotA40 p.1 r
    (q.1, p.2 || q.2)

/-- Element (i, j) of an accumulator. -/
def AccTile.elem (a : AccTile) (i j : Nat) : Int := a.elems.getD (i * 128 + j) 0

/-- A list of rows with row and column exchanged, `n` columns. -/
def transpose (rows : List (List (Int × Bool))) (n : Nat) : List (List (Int × Bool)) :=
  (List.range n).map fun j => rows.map fun r => r.getD j (0, false)

/-- Entries `k0 … k1 − 1` of each of some rows. -/
def sliced (k0 k1 : Nat) (rows : List (List (Int × Bool))) : List (List (Int × Bool)) :=
  rows.map fun r => (r.take k1).drop k0

/-- A product into an accumulator: the rows of A, the columns of B (R226). -/
def productRes (zero : Bool) (acc : AccTile) (rows cols : List (List (Int × Bool))) : MtxRes :=
  let cells := ((List.range rows.length).map fun i => (List.range cols.length).map fun j =>
    let r := dotA40 (if zero then 0 else acc.elem i j)
      (((rows.getD i []).map Prod.fst).zip ((cols.getD j []).map Prod.fst))
    ((i * 128 + j, r.1), r.2)).flatten
  { vals := cells.map Prod.fst, sat := cells.any Prod.snd
    sub := rows.any (fun r => r.any Prod.snd) || cols.any fun c => c.any Prod.snd }

/-- The tensor key of an accumulator (R71). -/
def accTensor (n : Nat) : Word := BitVec.ofNat 64 ((256 + n) * 2 ^ 32)

/-- A shift-down with the captured mode, seed and step (R71, R235). -/
def rndM (m : MtxOp) (key : Word) (i : Nat) (x : Int) (s : Int) : Int :=
  shiftBy (fmtRnd m.mf) (randomWord m.rseed m.rstep key (BitVec.ofNat 64 i)) x s

/-- The rows of a chained accumulator narrowed to MF.CHT, and whether one clamped (R227). -/
def chainRows (m : MtxOp) (y : AccTile) : List (List (Int × Bool)) × Bool :=
  let t := mfCht m.mf
  let rows := (List.range m.m).map fun i => (List.range m.klen).map fun k =>
    sat (fmtSym m.mf) t (rndM m (accTensor m.ay) (i * m.klen + k) (y.elem i k) (mfChsh m.mf))
  (rows.map fun r => r.map fun x => (x.1, false), rows.any fun r => r.any Prod.snd)

/-- An instruction that adds a value to each element of the accumulator, or replaces it (R229, R230). -/
def addRes (zero : Bool) (acc : AccTile) (m n : Nat) (f : Nat → Nat → Int × Bool) : MtxRes :=
  let cells := ((List.range m).map fun i => (List.range n).map fun j =>
    let v := f i j
    let r := satA40 ((if zero then 0 else acc.elem i j) + v.1)
    ((i * 128 + j, r.1), r.2, v.2)).flatten
  { vals := cells.map Prod.fst, sat := cells.any fun c => c.2.1, sub := cells.any fun c => c.2.2 }

/-- The accumulator after an instruction that writes it (R218). -/
def writeAcc (zero : Bool) (m : MtxOp) (r : MtxRes) (a : AccTile) : AccTile :=
  { a with
    elems := r.vals.filter fun e => e.2 != 0
    done := { rows := m.m, cols := m.n, exp := m.exp, free := false
              census := r.vals.foldl (fun h e => min h (cls true 40 e.2)) 39
              sat := r.sat || (!zero && a.done.sat), dirty := true, inuse := true } }

/-- The flags and marks that a completed instruction leaves (R223, R235), and T lowered by the last
repetition of its run (R236). -/
def noteMatrix (now : Nat) (o : Op) (m : MtxOp) (f : BitVec 6) (sub : Bool) (bad : Option FaultCode) (c : Ctx) : Ctx :=
  let c := if m.lastRep then c.lower .t else c
  let c := c.setSatf now (f ||| flagIf sub satRsub)
  let c := if sub && fmtSubst m.mf == .fault then markT o (some .reservedCode) c else c
  markT o bad c

/-- The end of an instruction that writes an accumulator. -/
def endAcc (o : Op) (m : MtxOp) (zero : Bool) (r : MtxRes) (f : BitVec 6) (bad : Option FaultCode)
    (s : State) : State :=
  s.modOwner o.task o.member fun c =>
    noteMatrix s.cyc o m (f ||| flagIf r.sat satAcc) r.sub bad { c with acc := c.acc.set m.acc (writeAcc zero m r (c.accAt m.acc)) }

/-- The shift of a MOUT: explicit or automatic for a whole write, what the exponents differ by for a part,
0 from a FREE accumulator (R228). -/
def outShift (m : MtxOp) (w : AccWord) (e : TileEntry) : Int :=
  if w.free then 0
  else if m.whole && fmtAuto m.mf then (autoShift 40 m.census e.ty.width : Nat)
  else m.shift

/-- The rows that a MOUT writes, with whether an element clamped (R228). -/
def outRows (m : MtxOp) (a : AccTile) (e : TileEntry) (key : Word) : List (List Int) × Bool :=
  let sh := outShift m a.done e
  let rows := (List.range m.m).map fun i => (List.range m.n).map fun j =>
    if a.done.free then (0, false)
    else sat (fmtSym m.mf) e.ty
      (rndM m key ((m.ra + i) * e.cols + m.ca + j) (a.elem i j) sh)
  (rows.map fun r => r.map Prod.fst, rows.any fun r => r.any Prod.snd)

/-- The exponent is no longer pending on a MOUT. -/
def clearPending (id : Nat) (e : TileEntry) : TileEntry :=
  if e.expPending = some id then { e with expPending := none } else e

/-- A MOUT completes (R228). -/
def completeMout (o : Op) (m : MtxOp) (s : State) : State :=
  match (s.coreAt o.core).tiles.get? m.a with
  | none => s.modOwner o.task o.member (noteMatrix s.cyc o m 0 false none)
  | some e =>
    let c := s.ownerCtx o.task o.member
    let a := c.accAt m.acc
    let ex := a.done.exp + outShift m a.done e
    let s := s.modTile o.core m.a (clearPending o.id)
    if m.whole && !a.done.free && !decide (-64 ≤ ex ∧ ex ≤ 63) then
      s.modOwner o.task o.member (noteMatrix s.cyc o m 0 false (some .scaleMismatch))
    else
      let r := outRows m a e (tileTensor c m.a e)
      let s := (List.range m.m).foldl (fun s i =>
        writeElems o.core e ((m.ra + i) * e.cols + m.ca) ((r.1.getD i []).map (codeOf e.ty.width)) s) s
      let s := noteEngineWrite o.core m.a m.whole r.1.flatten s
      let s := if m.whole && !a.done.free then s.modTile o.core m.a fun e => { e with exp := ex } else s
      s.modOwner o.task o.member (noteMatrix s.cyc o m (flagIf r.2 satOut) false none)

/-- MZERO completes (R231); it leaves EXP 0.
DESIGN CHOICE (notes/assumptions/76). -/
def completeMzero (o : Op) (m : MtxOp) (s : State) : State :=
  s.modOwner o.task o.member fun c =>
    noteMatrix s.cyc o m 0 false none { c with
      acc := c.acc.set m.acc { c.accAt m.acc with
        elems := [], done := { rows := m.m, cols := m.n, exp := 0, free := true, census := 39 } } }

/-- The operands of a product: the rows of A and the columns of B, whether an element of A clamped, the ranges read,
and the widths of their elements. -/
structure Factors where
  rows : List (List (Int × Bool))
  cols : List (List (Int × Bool))
  clamped : Bool
  reads : List (Nat × Nat)
  wa : Nat
  wb : Nat

/-- The operands of MMA, MMAZ, MMAT and MMBT (R226). -/
def tileFactors (s : State) (o : Op) (m : MtxOp) (tA tB : Bool) : Option Factors :=
  match (s.coreAt o.core).tiles.get? m.a, (s.coreAt o.core).tiles.get? m.b with
  | some ea, some eb => some
    { rows := if tA then transpose (readWindow s o.core m.mf ea m.ra m.ca m.klen m.m) m.m
        else readWindow s o.core m.mf ea m.ra m.ca m.m m.klen
      cols := if tB then readWindow s o.core m.mf eb m.rb m.cb m.n m.klen
        else transpose (readWindow s o.core m.mf eb m.rb m.cb m.klen m.n) m.n
      clamped := false
      reads := (if tA then rowBytes o.core ea m.ra m.ca m.klen m.m else rowBytes o.core ea m.ra m.ca m.m m.klen) ++
        (if tB then rowBytes o.core eb m.rb m.cb m.n m.klen else rowBytes o.core eb m.rb m.cb m.klen m.n)
      wa := ea.ty.width, wb := eb.ty.width }
  | _, _ => none

/-- The operands of MMAC (R227). -/
def chainFactors (s : State) (o : Op) (m : MtxOp) : Option Factors :=
  ((s.coreAt o.core).tiles.get? m.b).map fun eb =>
    let r := chainRows m ((s.ownerCtx o.task o.member).accAt m.ay)
    { rows := r.1, cols := transpose (readWindow s o.core m.mf eb m.ra m.ca m.klen m.n) m.n, clamped := r.2
      reads := rowBytes o.core eb m.ra m.ca m.klen m.n, wa := (mfCht m.mf).width, wb := eb.ty.width }

/-- The operands of a product instruction. -/
def factorsOf (s : State) (o : Op) (m : MtxOp) : Option Factors :=
  match m.instr with
  | .mmat _ _ _ => tileFactors s o m true false
  | .mmbt _ _ _ => tileFactors s o m false true
  | .mmac _ _ _ => chainFactors s o m
  | _ => tileFactors s o m false false

/-- The sums of a product's steps from those its accumulator holds to `steps`, or to the end. -/
def partRes (zero : Bool) (m : MtxOp) (f : Factors) (steps : Option Nat) (a : AccTile) : MtxRes :=
  let k0 := slicesOf f.wa f.wb m.summed
  let k1 := (steps.map (slicesOf f.wa f.wb)).getD m.klen
  productRes (zero && m.summed == 0) a (sliced k0 k1 f.rows) (sliced k0 k1 f.cols)

/-- A product completes (R226, R227): the sums of the steps left, with what happened in all. -/
def completeProduct (o : Op) (m : MtxOp) (zero : Bool) (s : State) : State :=
  match factorsOf s o m with
  | some f =>
    let r := partRes zero m f none ((s.ownerCtx o.task o.member).accAt m.acc)
    endAcc o m zero { r with sat := r.sat || m.sat, sub := r.sub || m.sub } (flagIf f.clamped satOut)
      (m.bad.or (rangesFault s f.reads)) (readRanged f.reads s)
  | none => s.modOwner o.task o.member (noteMatrix s.cyc o m 0 false none)

/-- MLOAD, MADD or MBIAS completes (R229, R230). -/
def completeAdd (o : Op) (m : MtxOp) (zero : Bool) (bias : Option Bool) (s : State) : State :=
  match (s.coreAt o.core).tiles.get? m.a with
  | some e =>
    let a := (s.ownerCtx o.task o.member).accAt m.acc
    let at_ (i j : Nat) : Int × Bool := match bias with
      | none => rdm s o.core m.mf e (m.ra + i) (m.ca + j)
      | some false => rdm s o.core m.mf e m.ra (m.ca + j)
      | some true => rdm s o.core m.mf e (m.ra + i) m.ca
    let r := addRes zero a m.m m.n fun i j =>
      let v := at_ i j
      (rndM m (accTensor m.acc) (i * m.n + j) v.1 m.shift, v.2)
    let rs := match bias with
      | none => rowBytes o.core e m.ra m.ca m.m m.n
      | some false => rowBytes o.core e m.ra m.ca 1 m.n
      | some true => rowBytes o.core e m.ra m.ca m.m 1
    endAcc o m zero r 0 (rangesFault s rs) (readRanged rs s)
  | none => s.modOwner o.task o.member (noteMatrix s.cyc o m 0 false none)

/-- Later instructions that waited for a completed one start in the next cycle at the earliest (R233). -/
def delayFollowers (o : Op) (m : MtxOp) (s : State) : State :=
  { s with ops := s.ops.map fun p =>
    if p.core = o.core then
      match p.kind with
      | .matrix n => if n.started.isNone && mustFollow n m then { p with due := max p.due (s.cyc + 1) } else p
      | _ => p
    else p }

/-- A matrix instruction completes. -/
def completeMatrix (o : Op) (m : MtxOp) (s : State) : State :=
  let s := delayFollowers o m (s.dropOp o.id)
  match m.instr with
  | .mmaz _ _ _ => completeProduct o m true s
  | .mma _ _ _ | .mmat _ _ _ | .mmbt _ _ _ | .mmac _ _ _ => completeProduct o m false s
  | .mout _ _ _ => completeMout o m s
  | .mload _ _ _ => completeAdd o m true none s
  | .madd _ _ _ => completeAdd o m false none s
  | .mbias _ _ col => completeAdd o m false (some col) s
  | .mzero _ _ _ => completeMzero o m s
  | _ => s

/-- MATRIX_INSTRUCTION_COMPLETE (R233): instructions complete in issue order. -/
def execMatrixInstructionComplete (op : Nat) (s : State) : Out :=
  match s.op? op with
  | some o =>
    match o.kind with
    | .matrix m =>
      .next (if m.started.isSome && (matrixOps s o.core).all (fun (p, _) => decide (o.id ≤ p.id)) then
        completeMatrix o m s else s)
    | _ => .next s
  | none => .next s

/-! ### REPEAT (R236) -/

/-- A 16-bit lane advanced by its selector. -/
def advanceLane (e : RepSel) (x d : Nat) : Nat :=
  match e with
  | .hold => x
  | .add => (x + d) % 2 ^ 16
  | .sub => (x + 2 ^ 16 - d) % 2 ^ 16

/-- An offset register advanced lane by lane. -/
def advanceOffset (e : RepSel) (mo mi : Word) : Word :=
  BitVec.ofNat 64 (packLanes 16 ((List.range 4).map fun k => advanceLane e (bits mo (16 * k) 16) (bits mi (16 * k) 16)))

/-- The advance after a repetition; after the last, the run ends (R236). -/
def afterRepetition (r : RepState) (c : Ctx) : Ctx :=
  let mo := (List.range 4).foldl (fun m n =>
    m.set n (advanceOffset (r.sel.getD n .hold) (c.mo.getD n 0) (c.mi.getD n 0))) c.mo
  let c := { c with mo := mo }
  if r.left ≤ 1 then { c with rep := none }
  else { c with rep := some { r with left := r.left - 1, issued := r.issued + 1, adv := false } }

/-- REPEAT_REPETITION (R236). -/
def execRepeatRepetition (core : Nat) (s : State) : Out :=
  match (s.coreAt core).ctx.rep with
  | some r => .next (if r.adv then s.modCtxAt core (afterRepetition r) else s)
  | none => .next s

end Sys2Proof.Machine
end

