-- ==== Sys2Proof/Machine/Revisions.lean ====
section
/-! DEFINITION. The events of revisions (14_revisions R337–R347): snapshots, background copies and merges. -/

namespace Sys2Proof.Machine

open Sys2Proof

/-! ### Snapshots and copies (R337, R339, R341) -/

/-- The release that a new task's first bundle waits for has completed (04_memory_model R97).
DEDUCED (notes/assumptions/35). -/
def tokenReady (s : State) (scope : Scope) (t : Task) : Bool :=
  match t.token with
  | some (core, stamp, bound) => releaseReady s core scope stamp bound
  | none => true

/-- The ancestor copies that stand for a view's present state serve a new child of it too (R341). -/
def shareAncestors (parent child : Nat) (s : State) : State :=
  { s with copies := s.copies.map fun (c : GranCopy) =>
    match c.kind with
    | .ancestor v vs true => if v = parent then { c with kind := .ancestor v (vs ++ [child]) true } else c
    | .ancestor _ _ false | .private_ _ => c }

/-- SNAPSHOT_ESTABLISH (R337). -/
def execSnapshotEstablish (rev : Nat) (s : State) : Out :=
  .next (match s.revs.get? rev with
    | none => s
    | some r =>
      if r.state = .forking ∧ ((s.task? r.owner).map (tokenReady s .pkg)).getD true = true then
        shareAncestors r.parent rev { s with revs := s.revs.set rev { r with state := .live } }
      else s)

/-- COW_COPY_COMPLETE (R339): the accesses that waited for the granule go on. -/
def execCowCopyComplete (op : Nat) (s : State) : Out :=
  match s.op? op with
  | some o =>
    match o.kind with
    | .cow _ => .next (serveStalled (s.dropOp op))
    | _ => .next s
  | none => .next s

/-! ### Merging one element (R342 Table 14-2) -/

/-- An element's value under a region's signedness. -/
def regionVal (r : Region) (x : Nat) : Int := if r.signed then signedOf r.width x else (x : Int)

/-- The range of a region's element type. -/
def regionRange' (r : Region) : Int × Int :=
  if r.signed then (-(2 ^ (r.width - 1)), 2 ^ (r.width - 1) - 1) else (0, 2 ^ r.width - 1)

/-- The result of an element: its code, whether a SADD clamped, and whether a FLAG conflict arose. -/
def mergeElem (r : Region) (p c a : Nat) : Nat × Bool × Bool :=
  let w := r.width
  match r.merge with
  | 0 => (if c ≠ a then c else p, false, false)
  | 1 => (if p ≠ a then p else c, false, false)
  | 2 => ((p + c + (2 ^ w - a)) % 2 ^ w, false, false)
  | 3 =>
    let x := clamp (regionRange' r).1 (regionRange' r).2 (regionVal r p + (regionVal r c - regionVal r a))
    (codeOf w x.1, x.2, false)
  | 4 => (if regionVal r p < regionVal r c then c else p, false, false)
  | 5 => (if regionVal r c < regionVal r p then c else p, false, false)
  | 6 =>
    let d := Nat.xor c a
    (Nat.xor (Nat.xor (Nat.land p d) p) (Nat.land c d), false, false)
  | _ =>
    if p ≠ a ∧ c ≠ a ∧ p ≠ c then (p, false, true)
    else (if c ≠ a then c else p, false, false)

/-- The elements of a granule after its merge, from the bytes of parent, child and ancestor. -/
def mergeBytes (r : Region) : Nat → List Byte → List Byte → List Byte → List (Nat × Bool × Bool)
  | 0, _, _, _ => []
  | n + 1, p, c, a =>
    let e := r.width / 8
    mergeElem r (leNat (p.take e)) (leNat (c.take e)) (leNat (a.take e)) ::
      mergeBytes r n (p.drop e) (c.drop e) (a.drop e)

/-- The VA of a granule of a region. -/
def granuleVa (r : Region) (gran : Nat) : Nat :=
  (r.frames.findSome? fun (va, pa, n) =>
    if pa ≤ gran * 4096 ∧ gran * 4096 < pa + n then some (va + (gran * 4096 - pa)) else none).getD 0

/-! ### Merging a child (R343–R346) -/

/-- The copy of a granule says that a side of a revision has written it since the fork: the revision's own copy, or an
ancestor copy that no longer stands for the parent side's state (R339, R341). -/
def marksWritten (rev : Nat) (c : GranCopy) : Bool :=
  match c.kind with
  | .private_ v => v == rev
  | .ancestor _ vs current => decide (rev ∈ vs) && !current

/-- The granules that either side wrote since a fork (R343). -/
def writtenGranules (s : State) (rev : Nat) : List Nat :=
  (((s.copies.filter (marksWritten rev)).map GranCopy.gran).eraseDups).mergeSort

/-- The task whose JOIN or END asks for a child's merge. -/
def mergeAsked (s : State) (r : Rev) : Bool := ((s.task? r.forker).map fun t => decide (r.number ≤ t.mergeTo)).getD false

/-- A child is merge-ready (R344), its lower siblings are merged or discarded (R345), and its merge is asked. -/
def mergeReady (s : State) (rev : Nat) (r : Rev) : Bool :=
  r.state == .live && (s.task? r.owner).isNone && !(s.tasks.any fun t => t.view == rev) &&
    !(s.revs.any fun (_, x) => x.forker == r.owner && x.parent == rev && revLive x) &&
    !(s.revs.any fun (_, x) => x.forker == r.forker && decide (x.number < r.number) && revLive x) &&
    mergeAsked s r

/-- A merge of a revision's granule is under way. -/
def mergingRev (s : State) (rev : Nat) : Bool :=
  s.ops.any fun o =>
    match o.kind with
    | .merge m => m.rev == rev
    | _ => false

/-- A child whose granules are all merged is merged: its copies are freed (R341), and a forker blocked in JOIN is
queued again (13_tasks R321). -/
def endMerge (rev : Nat) (s : State) : State :=
  match s.revs.get? rev with
  | none => s
  | some r =>
    if r.todo = some [] ∧ mergingRev s rev = false then
      wakeBlocked (freeRevision { s with revs := s.revs.set rev { r with state := .merged r.conflicts, todo := none } } rev)
    else s

/-- Why the merge of a granule cannot start, if it cannot: its copies (R343), or a denial of the merge engine
(17_system R398).
DESIGN CHOICE (notes/assumptions/73). -/
def mergeFail (s : State) (r : Rev) (g : Nat) : Option FaultCode :=
  (copiesFail s r.parent [g]).or (if unitAllowed s g true then none else some .accessTable)

/-- Starts the merges of some granules, up to the first that cannot start (R343): the state, the granules left, and why it
stopped. -/
def startGranules (rev : Nat) (r : Rev) (s : State) : List Nat → State × List Nat × Option FaultCode
  | [] => (s, [], none)
  | g :: gs =>
    match mergeFail s r g with
    | some code => (s, g :: gs, some code)
    | none =>
      if granBusy s (g * 4096) 4096 then
        let x := startGranules rev r s gs
        (x.1, g :: x.2.1, x.2.2)
      else startGranules rev r ((makeCopies s r.parent g).startEngineOp r.asid 96 (.merge ⟨rev, g⟩)) gs

/-- CHILD_MERGE (R345). A merge that has stopped goes on only once its JOIN or END has raised why (R343). -/
def execChildMerge (rev : Nat) (s : State) : Out :=
  .next (match s.revs.get? rev with
    | none => s
    | some r =>
      if mergeReady s rev r && r.stuck.isNone then
        let x := startGranules rev r s (r.todo.getD (writtenGranules s rev))
        wakeBlocked (endMerge rev { x.1 with revs := x.1.revs.set rev { r with todo := some x.2.1, stuck := x.2.2 } })
      else s)

/-- Sets the conflict bits of a granule's elements, counting those that were 0 (R342, R347): the merge engine of the
granule's controller does (17_system Table 17-4).
DEDUCED (notes/assumptions/31). -/
def setConflicts (master asid : Nat) (r : Region) : Nat → List (Nat × Bool × Bool) → State × Nat → State × Nat
  | _, [], p => p
  | n, (_, _, f) :: es, (s, k) =>
    if f then
      let at_ := r.cmap + n / 8
      match readVa s master asid at_ 1 with
      | some [b] =>
        let bit := b.getLsbD (n % 8)
        setConflicts master asid r (n + 1) es
          ((writeVa s master asid at_ [b ||| (1#8 <<< (n % 8))]).getD s, if bit then k else k + 1)
      | _ => setConflicts master asid r (n + 1) es (s, k)
    else setConflicts master asid r (n + 1) es (s, k)

/-- The 64-byte granules of a merged granule that come out poisoned: those of which a copy that the merge reads has an
error (17_system R401, R402). -/
def mergePoison (s : State) (rev g : Nat) (r : Rev) : RowData :=
  let a := match ancestorCopy s rev g with
    | some k => (List.range 64).map (· + poolKey k.id 0 / 64)
    | none => []
  let gs := viewGranules s r.parent (g * 4096) 4096
  let cs := viewGranules s rev (g * 4096) 4096
  (List.range 4096).map fun i =>
    let j := i / 64
    (0, [gs.getD j 0, cs.getD j 0, a.getD j (gs.getD j 0)].any fun x => (granuleFault s.sys x).isSome)

/-- The merge of one granule; an error in what it reads leaves the merged bytes poisoned.
DEDUCED (notes/assumptions/31). -/
def mergeGranule (rev g : Nat) (r : Rev) (s : State) : State :=
  match regionOf s g with
  | none => s
  | some (asid, x) =>
    let p := s.viewBytes r.parent (g * 4096) 4096
    let c := s.viewBytes rev (g * 4096) 4096
    let a := match ancestorCopy s rev g with
      | some k => s.bytes (poolKey k.id 0) 4096
      | none => p
    let es := mergeBytes x (4096 * 8 / x.width) p c a
    let first := (granuleVa x g - x.base) * 8 / x.width
    let bad := mergePoison s rev g r
    let s := (s.viewAfterRead r.parent (g * 4096) 4096).viewAfterRead rev (g * 4096) 4096
    let s := s.viewPut r.parent (g * 4096) ((es.map fun e => leBytes (x.width / 8) e.1).flatten)
    let s := spreadPoison r.parent (g * 4096) bad s
    let y := setConflicts (dieMaster (g % 96 / 24)) asid x first es (s, 0)
    let by_ := ((s.task? r.forker).map Task.mergeBy).getD 0
    let s := y.1.modOwner r.forker by_ fun c => c.setSatf s.cyc (flagIf (es.any fun e => e.2.1) satRed)
    { s with revs := s.revs.set rev { r with conflicts := r.conflicts + y.2 } }

/-- GRANULE_MERGE_COMPLETE (R343): the accesses that waited for the granule go on. -/
def execGranuleMergeComplete (op : Nat) (s : State) : Out :=
  match s.op? op with
  | some o =>
    match o.kind with
    | .merge m =>
      match s.revs.get? m.rev with
      | some r => .next (serveStalled (endMerge m.rev (mergeGranule m.rev m.gran r (s.dropOp op))))
      | none => .next (serveStalled (s.dropOp op))
    | _ => .next s
  | none => .next s

end Sys2Proof.Machine
end

