-- ==== Sys2Proof/Machine/Rows.lean ====
section
/-! DEFINITION. The events of a core's boundary (06_sequencer R139, R154, R160): pushes, format writes, decode
faults and the release of a clamp line. -/

namespace Sys2Proof.Machine

open Sys2Proof

/-! ### RESULT_PUSH (02_bundles R46, R48; 05_scalar R122; 06_sequencer R160, R171) -/

/-- The first push due at this boundary in some state, with the others. -/
def takeWhere (f : PushState → Bool) : List Push → Option (Push × List Push)
  | [] => none
  | p :: ps =>
    if p.count = 0 ∧ f p.state then some (p, ps)
    else (takeWhere f ps).map fun (d, r) => (d, p :: r)

/-- A push that has its value. -/
def isReady : PushState → Bool
  | .ready => true
  | .awaiting _ | .failed _ _ => false

/-- A push that failed. -/
def isFailed : PushState → Bool
  | .failed _ _ => true
  | .ready | .awaiting _ => false

/-- The absent granule that a push writes. -/
def pushGranule (c : Ctx) (p : Push) : Option (Bool × Nat) :=
  if p.dest = 0 then none
  else if p.vec then (if c.vMissing p.dest then some (true, p.dest / 4) else none)
  else if c.gMissing p.dest then some (false, p.dest / 8) else none

/-- The push that failed, with the value zero that it has when its task resumes (R160). -/
def zeroPush (p : Push) : Push := { p with state := .ready, sval := 0, vval := 0 }

/-- The first push due that failed has the value zero from now on. -/
def zeroFailed : List Push → List Push
  | [] => []
  | p :: ps => if p.count = 0 ∧ isFailed p.state then zeroPush p :: ps else p :: zeroFailed ps

/-- A stop's fault that took a failed push from the task's state. -/
def notePush (p : Push) (c : Core) : Core :=
  match c.mode with
  | .stopped (.faulted f) => { c with mode := .stopped (.faulted { f with raised := .push p }) }
  | _ => c

/-- The fault of a failed push is taken at the bundle due now (05_scalar R122; 13_tasks R327). -/
def failPush (s : State) (p : Push) : State :=
  match p.state with
  | .failed code aux =>
    (takeFault code 0 p.addr aux false none (s.modCtx fun c => { c with pushes := zeroFailed c.pushes })).modCore s.cur
      (notePush p)
  | .ready | .awaiting _ => s

/-- RESULT_PUSH (R46, R160).
DEDUCED (notes/assumptions/48). -/
def execResultPush (core : Nat) (s : State) : Out :=
  let s := { s with cur := core }
  match takeWhere isReady s.ctx.pushes with
  | some (p, rest) =>
    match pushGranule s.ctx p with
    | some (vec, g) => .next { startFill vec g (noteStall s) with turn := s.turn.tail }
    | none => .next (s.modCtx fun c => { c with pushes := rest }.performPush p)
  | none =>
    match takeWhere isFailed s.ctx.pushes with
    | some (p, _) => .next (failPush s p)
    | none => .next s

/-! ### FORMAT_WRITE_APPLY (03_numbers R66) -/

/-- The first format write due, with the others. -/
def takeFmt : List FmtWrite → Option (FmtWrite × List FmtWrite)
  | [] => none
  | f :: fs => if f.count = 0 then some (f, fs) else (takeFmt fs).map fun (d, r) => (d, f :: r)

/-- FORMAT_WRITE_APPLY (R66). -/
def execFormatWriteApply (core : Nat) (s : State) : Out :=
  match takeFmt (s.coreAt core).ctx.fmts with
  | some (f, rest) =>
    .next (s.modCtxAt core fun c =>
      let c := { c with fmts := rest }
      if f.vf then { c with vf := f.val } else { c with mf := f.val })
  | none => .next s

/-! ### ILLEGAL_SLOT_WORD (02_bundles R37, R38) -/

/-- ILLEGAL_SLOT_WORD (R37): the decode fault of the bundle at the program counter.
DEDUCED (notes/assumptions/48). -/
def execIllegalSlotWord (core : Nat) (s : State) : Out :=
  let s := { s with cur := core }
  match fetchBundle s.core with
  | .error e => .next (takeFault e.code e.slot 0 0 false none s)
  | .ok _ => .next s

/-! ### CLAMP_LINE_RELEASE (06_sequencer R154) -/

/-- CLAMP_LINE_RELEASE (R154): every member that runs issues its SYNC bundle, and the line is free for the
next barrier. -/
def execClampLineRelease (task line : Nat) (s : State) : Out :=
  match (s.task? task).bind fun t => t.lineMap.get? line with
  | none => .next s
  | some phys =>
    let die := s.cores.findSome? fun (n, c) => if c.task = task ∧ c.mode ≠ .idle then some (dieOf n) else none
    match die with
    | none => .next s
    | some d =>
      match (s.dieAt d).clamps.get? phys with
      | none => .next s
      | some k =>
        if k.task = task ∧ k.releaseAt.isSome then
          let s := s.modDie d fun x => { x with clamps := x.clamps.set phys { k with arrived := [], releaseAt := none } }
          .next { s with cores := s.cores.map fun (n, c) =>
            if c.task = task ∧ c.member ∈ k.arrived then
              (n, { c with released := true, ctx := { c.ctx with arrived := c.ctx.arrived.filter (· != line) } })
            else (n, c) }
        else .next s

end Sys2Proof.Machine
end

