-- ==== Sys2Proof/Machine/Scalar.lean ====
section
/-! DEFINITION. The scalar unit's register arithmetic, predicates, pointers, system registers and checks
(05_scalar R109–R118, R123–R129; 03_numbers R65). -/

namespace Sys2Proof.Machine

open Sys2Proof

/-! ### Register arithmetic -/

/-- A slot that pushes a function of two scalar sources (R109, R110). -/
def scalar2 (lat : Nat) (f : Word → Word → Word) (d : Fin 32) (a b : SSrc) (s : State) : Out :=
  slot Need.push (fun s => needSS s a b) (fun s => pushS d lat (f (s.rs a) (s.rs b)) s) s

/-- A slot that pushes a function of one scalar source. -/
def scalar1 (lat : Nat) (f : Word → Word) (d : Fin 32) (a : SSrc) (s : State) : Out :=
  slot Need.push (fun s => needS s a) (fun s => pushS d lat (f (s.rs a)) s) s

/-- Shift left by B mod 64 (R109). -/
def shlW (x y : Word) : Word := x <<< (y.toNat % 64)
/-- Logical shift right by B mod 64. -/
def shrW (x y : Word) : Word := x >>> (y.toNat % 64)
/-- Arithmetic shift right by B mod 64. -/
def sarW (x y : Word) : Word := x.sshiftRight (y.toNat % 64)
/-- The smaller, read as signed. -/
def minW (x y : Word) : Word := if x.toInt ≤ y.toInt then x else y
/-- The larger, read as signed. -/
def maxW (x y : Word) : Word := if x.toInt ≤ y.toInt then y else x
/-- The smaller, read as unsigned. -/
def minuW (x y : Word) : Word := if x.toNat ≤ y.toNat then x else y
/-- The larger, read as unsigned. -/
def maxuW (x y : Word) : Word := if x.toNat ≤ y.toNat then y else x
/-- Bits 127:64 of the signed product (R110). -/
def mulhW (x y : Word) : Word := BitVec.ofInt 64 (x.toInt * y.toInt / 2 ^ 64)
/-- Bits 127:64 of the unsigned product. -/
def mulhuW (x y : Word) : Word := BitVec.ofNat 64 (x.toNat * y.toNat / 2 ^ 64)

/-- ADD (R109). -/
def execAdd (d : Fin 32) (a b : SSrc) (s : State) : Out := scalar2 1 (· + ·) d a b s
/-- SUB (R109). -/
def execSub (d : Fin 32) (a b : SSrc) (s : State) : Out := scalar2 1 (· - ·) d a b s
/-- AND (R109). -/
def execAnd (d : Fin 32) (a b : SSrc) (s : State) : Out := scalar2 1 (· &&& ·) d a b s
/-- OR (R109). -/
def execOr (d : Fin 32) (a b : SSrc) (s : State) : Out := scalar2 1 (· ||| ·) d a b s
/-- XOR (R109). -/
def execXor (d : Fin 32) (a b : SSrc) (s : State) : Out := scalar2 1 (· ^^^ ·) d a b s
/-- ANDN (R109). -/
def execAndn (d : Fin 32) (a b : SSrc) (s : State) : Out := scalar2 1 (fun x y => x &&& ~~~y) d a b s
/-- SHL (R109). -/
def execShl (d : Fin 32) (a b : SSrc) (s : State) : Out := scalar2 1 shlW d a b s
/-- SHR (R109). -/
def execShr (d : Fin 32) (a b : SSrc) (s : State) : Out := scalar2 1 shrW d a b s
/-- SAR (R109). -/
def execSar (d : Fin 32) (a b : SSrc) (s : State) : Out := scalar2 1 sarW d a b s
/-- MIN (R109). -/
def execMin (d : Fin 32) (a b : SSrc) (s : State) : Out := scalar2 1 minW d a b s
/-- MAX (R109). -/
def execMax (d : Fin 32) (a b : SSrc) (s : State) : Out := scalar2 1 maxW d a b s
/-- MINU (R109). -/
def execMinu (d : Fin 32) (a b : SSrc) (s : State) : Out := scalar2 1 minuW d a b s
/-- MAXU (R109). -/
def execMaxu (d : Fin 32) (a b : SSrc) (s : State) : Out := scalar2 1 maxuW d a b s
/-- MUL (R110). -/
def execMul (d : Fin 32) (a b : SSrc) (s : State) : Out := scalar2 3 (· * ·) d a b s
/-- MULH (R110). -/
def execMulh (d : Fin 32) (a b : SSrc) (s : State) : Out := scalar2 3 mulhW d a b s
/-- MULHU (R110). -/
def execMulhu (d : Fin 32) (a b : SSrc) (s : State) : Out := scalar2 3 mulhuW d a b s

/-- A divide: the result and whether the divisor is zero, which sets SATF.DIV at the push (R111). -/
def divide (f : Word → Word → Word) (d : Fin 32) (a b : SSrc) (s : State) : Out :=
  slot Need.push (fun s => needSS s a b)
    (fun s => pushSF d 18 (f (s.rs a) (s.rs b)) (flagIf (s.rs b == 0) satDiv) s) s

/-- The signed quotient (R111; 03_numbers R69). -/
def divW (x y : Word) : Word :=
  if y = 0 then (if 0 ≤ x.toInt then BitVec.ofInt 64 (2 ^ 63 - 1) else BitVec.ofInt 64 (-(2 ^ 63)))
  else BitVec.ofInt 64 (x.toInt.tdiv y.toInt)
/-- The unsigned quotient. -/
def divuW (x y : Word) : Word := if y = 0 then BitVec.allOnes 64 else BitVec.ofNat 64 (x.toNat / y.toNat)
/-- The signed remainder, of the dividend's sign. -/
def remW (x y : Word) : Word := if y = 0 then 0 else BitVec.ofInt 64 (x.toInt.tmod y.toInt)
/-- The unsigned remainder. -/
def remuW (x y : Word) : Word := if y = 0 then 0 else BitVec.ofNat 64 (x.toNat % y.toNat)

/-- DIV (R111). -/
def execDiv (d : Fin 32) (a b : SSrc) (s : State) : Out := divide divW d a b s
/-- DIVU (R111). -/
def execDivu (d : Fin 32) (a b : SSrc) (s : State) : Out := divide divuW d a b s
/-- REM (R111). -/
def execRem (d : Fin 32) (a b : SSrc) (s : State) : Out := divide remW d a b s
/-- REMU (R111). -/
def execRemu (d : Fin 32) (a b : SSrc) (s : State) : Out := divide remuW d a b s

/-- The number of leading zero bits (R112). -/
def clzW (x : Word) : Word := BitVec.ofNat 64 (64 - bitLen x.toNat)
/-- The census of a 64-bit value read as signed (R112). -/
def clsW (x : Word) : Word := BitVec.ofNat 64 (cls true 64 x.toInt)
/-- The number of one bits (R112). -/
def popcW (x : Word) : Word := BitVec.ofNat 64 ((List.range 64).countP fun k => x.getLsbD k)

/-- CLZ (R112). -/
def execClz (d : Fin 32) (a : SSrc) (s : State) : Out := scalar1 1 clzW d a s
/-- CLS (R112). -/
def execCls (d : Fin 32) (a : SSrc) (s : State) : Out := scalar1 1 clsW d a s
/-- POPC (R112). -/
def execPopc (d : Fin 32) (a : SSrc) (s : State) : Out := scalar1 1 popcW d a s

/-- The field of EXT (R113). -/
def extW (sgn : Bool) (x y : Word) : Word :=
  let wid := if bits y 8 6 = 0 then 64 else bits y 8 6
  let field := bits x (bits y 0 6) wid
  if sgn then BitVec.ofInt 64 (signedOf wid field) else BitVec.ofNat 64 field

/-- EXT (R113). -/
def execExt (d : Fin 32) (a b : SSrc) (sgn : Bool) (s : State) : Out := scalar2 1 (extW sgn) d a b s

/-! ### Immediates (R114, R115; 02_bundles R42) -/

/-- A slot that pushes a function of a source and the effective immediate. -/
def scalarI (f : Word → Int → Word) (d : Fin 32) (a : SSrc) (imm : BitVec 11) (s : State) : Out :=
  slot Need.push (fun s => needS s a) (fun s => pushS d 1 (f (s.rs a) (immSI s.iss.limm imm)) s) s

/-- ADDI (R114). -/
def execAddi (d : Fin 32) (a : SSrc) (imm : BitVec 11) (s : State) : Out :=
  scalarI (fun x i => x + BitVec.ofInt 64 i) d a imm s
/-- ANDI (R114). -/
def execAndi (d : Fin 32) (a : SSrc) (imm : BitVec 11) (s : State) : Out :=
  scalarI (fun x i => x &&& BitVec.ofInt 64 i) d a imm s
/-- ORI (R114). -/
def execOri (d : Fin 32) (a : SSrc) (imm : BitVec 11) (s : State) : Out :=
  scalarI (fun x i => x ||| BitVec.ofInt 64 i) d a imm s
/-- XORI (R114). -/
def execXori (d : Fin 32) (a : SSrc) (imm : BitVec 11) (s : State) : Out :=
  scalarI (fun x i => x ^^^ BitVec.ofInt 64 i) d a imm s
/-- SHLI (R114). -/
def execShli (d : Fin 32) (a : SSrc) (imm : BitVec 11) (s : State) : Out :=
  scalarI (fun x i => shlW x (BitVec.ofInt 64 i)) d a imm s
/-- SHRI (R114). -/
def execShri (d : Fin 32) (a : SSrc) (imm : BitVec 11) (s : State) : Out :=
  scalarI (fun x i => shrW x (BitVec.ofInt 64 i)) d a imm s
/-- SARI (R114). -/
def execSari (d : Fin 32) (a : SSrc) (imm : BitVec 11) (s : State) : Out :=
  scalarI (fun x i => sarW x (BitVec.ofInt 64 i)) d a imm s

/-- LIH (R115): imm17 × 2^47. -/
def execLih (d : Fin 32) (imm : BitVec 17) (s : State) : Out :=
  slot Need.push (fun _ => .ok) (fun s => pushS d 1 (imm.setWidth 64 <<< 47) s) s

/-! ### Predicates and selection (R116–R118) -/

/-- The outcome of a condition (02_bundles R35). -/
def holdsCond (c : Cond) (x y : Word) : Bool :=
  match c with
  | .eq => x == y
  | .ne => x != y
  | .lt => decide (x.toInt < y.toInt)
  | .ge => decide (y.toInt ≤ x.toInt)
  | .ltu => decide (x.toNat < y.toNat)
  | .geu => decide (y.toNat ≤ x.toNat)

/-- CMP (R116). -/
def execCmp (p : Fin 16) (a b : SSrc) (c : Cond) (s : State) : Out :=
  slot {} (fun s => needSS s a b) (fun s => s.defer (.pred p.val (holdsCond c (s.rs a) (s.rs b)))) s

/-- CMPI (R116): the immediate is sign-extended to 64 bits for every condition. -/
def execCmpi (p : Fin 16) (a : SSrc) (c : Cond) (imm : BitVec 8) (s : State) : Out :=
  slot {} (fun s => needS s a)
    (fun s => s.defer (.pred p.val (holdsCond c (s.rs a) (BitVec.ofInt 64 (immCmpi s.iss.limm imm))))) s

/-- SEL (R117). -/
def execSel (d : Fin 32) (a b : SSrc) (neg : Bool) (p : Fin 16) (s : State) : Out :=
  slot Need.push (fun s => needSS s a b)
    (fun s => pushS d 1 (if (s.ctx.pread p ^^ neg) then s.rs a else s.rs b) s) s

/-- The operations of PLOG (R118). -/
def plogOf (o : PlogOp) (x y : Bool) : Bool :=
  match o with
  | .and => x && y
  | .or => x || y
  | .xor => x ^^ y
  | .andn => x && !y
  | .orn => x || !y
  | .nand => !(x && y)
  | .nor => !(x || y)
  | .xnor => !(x ^^ y)

/-- PLOG (R118). -/
def execPlog (d a b : Fin 16) (o : PlogOp) (s : State) : Out :=
  slot {} (fun _ => .ok) (fun s => s.defer (.pred d.val (plogOf o (s.ctx.pread a) (s.ctx.pread b)))) s

/-! ### Generic pointers (R123, R124) -/

/-- A bit of a descriptor. -/
def bitN (b : Bool) (n : Nat) : Nat := if b then 2 ^ n else 0

/-- The descriptor of SPCQ (R123 Table 5-2). -/
def spaceDescriptor (s : State) (x : Word) : Word :=
  let a := x.toNat
  let t := tagOf a
  let peer := t == 0xB || t == 0xC
  let handle := if t = 0x9 then tileHandle a else if t = 0xB then peerHandle a else 0
  let isLocal := t == 0x8 || (t == 0x9 && tileCore a == s.cur)
  let acc := if peer then peerAcc a else 0
  BitVec.ofNat 64 (t + bitN (spaceOk a 1) 4 + bitN isLocal 5 + bitN peer 6 +
    bitN (peer && (windowAt s s.cur a).isSome) 7 + handle * 2 ^ 8 + acc * 2 ^ 16)

/-- SPCQ (R123). -/
def execSpcq (d : Fin 32) (a : SSrc) (s : State) : Out :=
  slot Need.push (fun s => needS s a) (fun s => pushS d 1 (spaceDescriptor s (s.rs a)) s) s

/-- The address that SPCAST makes, none when its requirements fail (R124). -/
def castOf (s : State) (k : CastKind) (x y : Word) : Option Word :=
  let a := x.toNat
  match k with
  | .peer =>
    if spaceOk a 1 ∧ y.toNat < 1024 then
      match tagOf a with
      | 0x9 => some (BitVec.ofNat 64 (0xB * 2 ^ 60 + y.toNat * 2 ^ 50 + tileCore a * 2 ^ 42 +
          tileHandle a * 2 ^ 34 + offOf a))
      | 0xA => some (BitVec.ofNat 64 (0xC * 2 ^ 60 + y.toNat * 2 ^ 50 + ringDie a * 2 ^ 48 + ringOff a))
      | _ => none
    else none
  | .toLocal =>
    if spaceOk a 1 ∧ peerAcc a = s.accid then
      match tagOf a with
      | 0xB => some (BitVec.ofNat 64 (0x9 * 2 ^ 60 + peerCore a * 2 ^ 52 + peerHandle a * 2 ^ 44 + offOf a))
      | 0xC => some (BitVec.ofNat 64 (0xA * 2 ^ 60 + peerDie a * 2 ^ 58 + ringOff a))
      | _ => none
    else none
  | .handle =>
    if a < 256 ∧ y.toNat < 2 ^ 22 then
      some (BitVec.ofNat 64 (0x9 * 2 ^ 60 + s.cur * 2 ^ 52 + a * 2 ^ 44 + y.toNat))
    else none

/-- SPCAST (R124). -/
def execSpcast (d : Fin 32) (a b : SSrc) (k : CastKind) (s : State) : Out :=
  slot Need.push
    (fun s => (needSS s a b).seq (require (castOf s k (s.rs a) (s.rs b)).isSome .space (s.rs a)))
    (fun s => pushS d 1 ((castOf s k (s.rs a) (s.rs b)).getD 0) s) s

/-! ### Format registers (03_numbers R65, R66) -/

/-- The latest value of MF or VF, those still pending among them (R66). -/
def latestFmt (vf : Bool) (c : Ctx) : Word :=
  ((c.fmts.filter fun f => f.vf == vf).getLast?.map FmtWrite.val).getD (if vf then c.vf else c.mf)

/-- The masked fields replaced (R65). -/
def mergeFmt (old x mask : Word) : Word := (old &&& ~~~mask) ||| (x &&& mask)

/-- A value that a format register may take (R65). -/
def fmtLegal (vf : Bool) (v : Word) : Bool := if vf then vfLegal v else mfLegal v

/-- The check of a format write. -/
def checkFmt (vf : Bool) (x mask : Word) (s : State) : Verdict :=
  require (fmtLegal vf (mergeFmt (latestFmt vf s.ctx) x mask)) .illegalOperand 0

/-- A format write that takes effect 3 (MF) or 2 (VF) issue cycles later (R65). -/
def writeFmt (vf : Bool) (x mask : Word) (s : State) : State :=
  s.modCtx fun c =>
    { c with fmts := c.fmts ++ [⟨vf, mergeFmt (latestFmt vf c) x mask, if vf then 2 else 3⟩] }

/-- SETMF (R65). -/
def execSetmf (a b : SSrc) (s : State) : Out :=
  slot {} (fun s => (needSS s a b).seq (checkFmt false (s.rs a) (s.rs b) s))
    (fun s => writeFmt false (s.rs a) (s.rs b) s) s

/-- SETVF (R65). -/
def execSetvf (a b : SSrc) (s : State) : Out :=
  slot {} (fun s => (needSS s a b).seq (checkFmt true (s.rs a) (s.rs b) s))
    (fun s => writeFmt true (s.rs a) (s.rs b) s) s

/-! ### System registers (R125–R127) -/

/-- A channel status register (10_copy R243 Table 10-1); OUT is the class counter. -/
def cstatWord (x : ChanStat) (out : Nat) : Word :=
  BitVec.ofNat 64 (x.done % 256 + out * 2 ^ 8 + x.page * 2 ^ 16 + bitN x.flt 61 + bitN x.sat 62 + bitN x.res 63)

/-- RMASKLO (R127 Table 5-5). -/
def rmaskloWord (c : Ctx) : Word :=
  let sum := ((List.range 8).map fun i => bitN (c.rmask.toNat / 2 ^ (64 * i) % 2 ^ 64 != 0) i).sum
  BitVec.ofNat 64 (sum + bitN c.rmScl 63)

/-- A system register as it governs the slots of this issue cycle (R125 Table 5-4). CSTAT and the window counts show what
the lower slots of the bundle have started, and not what the higher ones will (02_bundles R31).
DESIGN CHOICE (notes/assumptions/79). -/
def readSys (s : State) (r : SysReg) : Word :=
  let c := s.ctx
  let x := s.context? (s.asidAt s.cur)
  match r with
  | .core => BitVec.ofNat 64 s.cur
  | .die => BitVec.ofNat 64 (dieOf s.cur)
  | .accid => BitVec.ofNat 64 s.accid
  | .asid => BitVec.ofNat 64 (s.asidAt s.cur)
  | .mf => c.mf
  | .vf => c.vf
  | .hb => BitVec.ofNat 64 ((x.map Context.hb).getD 0)
  | .hl => BitVec.ofNat 64 ((x.map Context.hl).getD 0)
  | .ho => BitVec.ofNat 64 ((x.map Context.ho).getD 0)
  | .rseed => c.rseed
  | .rstep => c.rstep
  | .cstat ch => if ch = 0 then cstatWord c.chan0 c.cnt.c0 else cstatWord c.chan1 c.cnt.c1
  | .fltrec => c.fltrec
  | .satf => c.satf.setWidth 64
  | .cyc => BitVec.ofNat 64 s.cyc
  | .nbun => c.nbun
  | .wa n =>
    BitVec.ofNat 64 (bits (((x.map Context.wins).getD []).getD n.val 0) 0 8 + s.core.win.getD n.val 0 * 2 ^ 8)
  | .mo n => c.mo.getD n.val 0
  | .mi n => c.mi.getD n.val 0
  | .optc n => c.optc.getD n.val 0
  | .rmasklo => rmaskloWord c
  | .lc n => (c.lc.getD n.val 0).setWidth 64
  | .pred => c.p.setWidth 64

/-- MFS (R125). -/
def execMfs (d : Fin 32) (n : SysReg) (s : State) : Out :=
  slot Need.push (fun _ => .ok) (fun s => pushS d 1 (readSys s n) s) s

/-- The check of an MTS: MF and VF as SETMF and SETVF with a full mask (R66, R125). -/
def checkMts (n : SysReg) (v : Word) (s : State) : Verdict :=
  match n with
  | .mf => checkFmt false v (BitVec.allOnes 64) s
  | .vf => checkFmt true v (BitVec.allOnes 64) s
  | _ => .ok

/-- The effect of an MTS: a pending format write, or a write that governs the next issue cycle by its
register's access code (R125). A bit of SATF that a completion sets in the cycle stays 1 (03_numbers R68).
DEDUCED (notes/assumptions/74). -/
def doMts (n : SysReg) (v : Word) (s : State) : State :=
  match n with
  | .mf => writeFmt false v (BitVec.allOnes 64) s
  | .vf => writeFmt true v (BitVec.allOnes 64) s
  | .satf => s.defer (.sys .satf (v &&& ~~~((s.ctx.satKept s.cyc).setWidth 64)))
  | n => s.defer (.sys n v)

/-- MTS (R125). -/
def execMts (a : SSrc) (n : SysReg) (s : State) : Out :=
  slot {} (fun s => (needS s a).seq (checkMts n (s.rs a) s)) (fun s => doMts n (s.rs a) s) s

/-! ### Checks and random words (R128, R129) -/

/-- CHK (R128). -/
def execChk (a b : SSrc) (s : State) : Out :=
  slot {} (fun s => (needSS s a b).seq (require (s.rs a == s.rs b) .shadowMismatch (s.rs a ^^^ s.rs b))) id s

/-- RNG (R129). -/
def execRng (d : Fin 32) (a b : SSrc) (s : State) : Out :=
  slot Need.push (fun s => needSS s a b)
    (fun s => pushS d 3 (randomWord s.ctx.rseed s.ctx.rstep (s.rs a) (s.rs b)) s) s

end Sys2Proof.Machine
end

