-- ==== Sys2Proof/Machine/ScalarMem.lean ====
section
/-! DEFINITION. Scalar loads and stores (05_scalar R119–R122; 04_memory_model R85, R86) and XLT
(11_translation R271–R273). -/

namespace Sys2Proof.Machine

open Sys2Proof

/-- The bytes of a scalar access (02_bundles R35). -/
def sizeBytes : Size → Nat
  | .b8 => 1
  | .b16 => 2
  | .b32 => 4
  | .b64 => 8

/-- The address of a scalar access: base plus index modulo 2^64 (R119). -/
def scalarAddr (s : State) (a b : SSrc) : Word := s.rs a + s.rs b

/-- The latency of a load by its space (02_bundles R47 Table 2-14). -/
def loadLatency : Space → Nat
  | .tile => 4
  | .ring => 24
  | .global => 80

/-- The push of a scalar load (R120): RMASKLO.SCL when a byte lies in a non-resident page. -/
def scalarLoadPush (d : Fin 32) (s : State) (addr : Word) (len : Nat) : Push :=
  { scalarPush d (loadLatency (spaceOf s addr)) 0 0 with
    addr := addr
    scl := (accessRuns s addr len).any fun r => r.place == .zero }

/-- A scalar load. -/
def scalarLoad (d : Fin 32) (a b : SSrc) (z : Size) (sgn : Bool) (acq : Option Scope) (s : State) : Out :=
  slot Need.push
    (fun s => (needSS s a b).seq (checkLoad s (sizeBytes z) (scalarAddr s a b) (sizeBytes z)))
    (fun s =>
      let addr := scalarAddr s a b
      let n := sizeBytes z
      startLoad (scalarLoadPush d s addr n) (spaceOf s addr) (accessRuns s addr n) n sgn 0 acq s) s

/-- LD (R120). -/
def execLd (d : Fin 32) (a b : SSrc) (z : Size) (sgn : Bool) (s : State) : Out :=
  scalarLoad d a b z sgn none s

/-- LD_ACQ (R120; 04_memory_model R86). -/
def execLdAcq (d : Fin 32) (a b : SSrc) (z : Size) (o : Scope) (s : State) : Out :=
  scalarLoad d a b z false (some o) s

/-- The effect of a scalar store: its bytes go out, and a tile notes the write (R120). -/
def doScalarStore (d : Fin 32) (a b : SSrc) (z : Size) (rel : Option Scope) (s : State) : State :=
  let addr := scalarAddr s a b
  let n := sizeBytes z
  noteStore addr n (startStore addr n rel (wholeBytes 0 (leBytes n (s.rs (.g d)).toNat)) s)

/-- A scalar store. -/
def scalarStore (d : Fin 32) (a b : SSrc) (z : Size) (rel : Option Scope) (s : State) : Out :=
  slot (storeNeed s (scalarAddr s a b) (sizeBytes z))
    (fun s => ((needSS s a b).seq (needS s (.g d))).seq
      (checkStore s (sizeBytes z) (scalarAddr s a b) (sizeBytes z)))
    (doScalarStore d a b z rel) s

/-- ST (R120). -/
def execSt (d : Fin 32) (a b : SSrc) (z : Size) (s : State) : Out := scalarStore d a b z none s

/-- ST_REL (R120; 04_memory_model R85). -/
def execStRel (d : Fin 32) (a b : SSrc) (z : Size) (o : Scope) (s : State) : Out :=
  scalarStore d a b z (some o) s

/-! ### XLT -/

/-- The nominal cost of an XLT (R270 Table 11-3): a hit of a TLB, the rest of a walk of its page in flight on the die,
or a walk of its own. While the die's walks are all busy it waits for a free one, to R272's bound at most.
DESIGN CHOICE (notes/assumptions/8). -/
def xltCost (s : State) (addr : Word) : Nat :=
  let asid := s.asidAt s.cur
  let va := vaOf addr.toNat
  if !xltPaged s asid addr || (tlbFind s.core.l1 asid va).isSome then 0
  else
    match tlbFind (s.dieAt (dieOf s.cur)).l2 asid va, walkOn s (dieOf s.cur) asid va with
    | some _, _ => 6
    | none, some o => o.due - s.cyc
    | none, none => if walksBusy s (dieOf s.cur) then 640 else 6 + 110 * (walk s asid va s.cur).2

/-- A pending XLT of a member of a task to a register. -/
def isXltTo (task member n : Nat) (o : Op) : Bool :=
  o.task == task && o.member == member &&
    match o.kind with
    | .xlt m _ _ => m == n
    | _ => false

/-- Starts a translation to a tx register; an earlier one to it still pending is superseded (R272). -/
def startXlt (x : Fin 8) (addr : Word) (w : Bool) (s : State) : State :=
  let s := usePages addr 1 s
  ({ s with ops := s.ops.filter fun o => !isXltTo s.core.task s.core.member x.val o }).startOp
    (xltCost s addr) [] (.xlt x.val addr w)

/-- XLT (R272). -/
def execXlt (x : Fin 8) (a : SSrc) (w : Bool) (s : State) : Out :=
  slot {} (fun s => needS s a) (fun s => startXlt x (s.rs a) w s) s

end Sys2Proof.Machine
end

