-- ==== Sys2Proof/Machine/TaskEvents.lean ====
section
/-! DEFINITION. The events of the task engines (13_tasks R314–R329): admission, dispatch, the gang binder, pipes,
time slices, records between packages, and stealing. -/

namespace Sys2Proof.Machine

open Sys2Proof

/-! ### Admission (R314–R317) -/

/-- The die's next pooled record. -/
def nextPooled (s : State) (die : Nat) : Option Task :=
  (s.tasks.filter fun t => t.state == .pooled && t.homeDie == die && !sentAway s t).foldl (fun m t =>
    match m with
    | some u => if t.order < u.order then some t else some u
    | none => some t) none

/-- The dependence table of a die has a free entry. -/
def tableFree (s : State) (die : Nat) : Bool :=
  decide ((s.tasks.countP fun t => t.homeDie == die && t.admitted.isSome && inFlight t) < 2048)

/-- The id here of a record from another package.
DESIGN CHOICE (notes/assumptions/21). -/
def foreignId (src id : Nat) : Nat := (src + 1) * 2 ^ 32 + id

/-- The task that created another by SPAWN or FORK, wherever it runs. -/
def creatorOf (t : Task) : Option Nat :=
  match t.origin with
  | .spawn p | .fork p => some p
  | .remote acc p => p.map (foreignId acc)
  | .packet _ _ | .handler _ => none

/-- A record of the same creator, made before, is still pooled here (R315). -/
def siblingBefore (s : State) (t : Task) : Bool :=
  (creatorOf t).isSome && s.tasks.any fun e =>
    e.state == .pooled && decide (e.order < t.order) && creatorOf e == creatorOf t && !sentAway s e

/-- The revision of a forked task has its snapshot (14_revisions R337). -/
def snapshotDone (s : State) (t : Task) : Bool :=
  !(s.revs.any fun (_, r) => r.owner == t.id && r.asid == t.asid && r.state == .forking)

/-- A record is admitted now: it is its die's next and its creator's (R315), the table has room, and a forked one's
snapshot is established.
DEDUCED (notes/assumptions/35). -/
def admissible (s : State) (t : Task) : Bool :=
  ((nextPooled s t.homeDie).map Task.id) == some t.id && !siblingBefore s t && tableFree s t.homeDie && snapshotDone s t

/-- The tasks that a new one waits for (R316). -/
def waitsOf (s : State) (t : Task) : List Nat :=
  (s.tasks.filter fun e => e.id != t.id && e.admitted.isSome && inFlight e && mustWait t.spec e.spec).map Task.id

/-- A task came from another package with its tiles (R328). -/
def isCard (t : Task) : Bool :=
  match t.origin with
  | .remote _ _ => (boundCore t).isSome
  | .packet _ _ | .spawn _ | .fork _ | .handler _ => false

/-- The earlier tasks that name a handle of a job card: it waits for them, since its own tiles come to free handles
(R328).
DEDUCED (notes/assumptions/38). -/
def cardWaits (s : State) (t : Task) : List Nat :=
  match boundCore t with
  | none => []
  | some core => ((handlesOf (t.spec.reads ++ t.spec.writes)).flatMap fun h => namers s t.id core h).eraseDups

/-- A record takes its place in the dependence table. -/
def admitTask (t : Task) (s : State) : State :=
  let t := { t with state := .waiting, admitted := some s.admitOrder, waits := waitsOf s t }
  let s : State := { s with admitOrder := s.admitOrder + 1 }
  if isCard t then wakeTasks (s.modTask t.id fun _ => { t with waits := (t.waits ++ cardWaits s t).eraseDups })
  else
    let x := renameAll t s
    wakeTasks (x.1.modTask t.id fun _ => bindHandles x.1 x.2)

/-- TASK_ADMISSION (R314); an admitted task that only awaits its image becomes READY once that has come. -/
def execTaskAdmission (task : Nat) (s : State) : Out :=
  .next (match s.task? task with
    | some t => if readyNow t then wakeTasks s else if admissible s t then admitTask t s else s
    | none => s)

/-! ### Dispatch (R320, R322) -/

/-- The effective priority of a queued task. -/
def effPrio (s : State) (q : QEntry) : Nat :=
  min 3 ((((s.task? q.task).map fun t => t.spec.prio).getD 0) + (s.cyc - q.since) / 4096)

/-- A queued task that its core may take: it is not in transit to a thief, and no service record of it is held
(16_front_end R388).
DEDUCED (notes/assumptions/37). -/
def takeable (s : State) (q : QEntry) : Bool :=
  ((s.task? q.task).map fun t => t.transit.isNone).getD false && !serviceHolds s q.task

/-- The entry of highest effective priority, the first to enter among equals.
DEDUCED (notes/assumptions/37). -/
def bestEntry (s : State) (n : Nat) : Option QEntry :=
  ((s.coreAt n).runq.filter (takeable s)).foldl (fun m q =>
    match m with
    | some p => if effPrio s p < effPrio s q then some q else some p
    | none => some q) none

/-- Takes a task out of a core's run queue. -/
def unqueue (task n : Nat) (s : State) : State :=
  s.modCore n fun c => { c with runq := c.runq.filter fun q => q.task != task }

/-- A core takes a task: a new one is launched, a saved one is to be restored. -/
def takeTask (t : Task) (n : Nat) (s : State) : State :=
  if t.saved ≠ [] then
    queueReady (((unqueue t.id n s).modCore n fun c => { c with mode := .restoring, task := t.id, member := 0 }).modTask
      t.id fun t => { t with state := .running })
  else
    match launchTask t [n] s with
    | .ok u => queueReady (unqueue t.id n u)
    | .error none => askLaunch t s
    | .error (some (code, faddr)) => queueReady (refuseLaunch t n code faddr (unqueue t.id n s))

/-- The release of a new task's creator has been performed at the narrowest scope that encloses the core on which the
creator ran and the core on which the task is to run (01_engines R26; 04_memory_model R97). -/
def tokenCame (s : State) (t : Task) (core : Nat) : Bool :=
  t.saved ≠ [] || tokenReady s (scopeBetween s ((t.token.map Prod.fst).getD core) core) t

/-- TASK_DISPATCH (R320): the task's first bundle is its token's acquire. -/
def execTaskDispatch (core : Nat) (s : State) : Out :=
  let c := s.coreAt core
  .next (if c.mode ≠ .idle ∨ c.reserved = true ∨ c.offline = true then s
    else
      match (bestEntry s core).bind fun q => s.task? q.task with
      | some t => if tokenCame s t core then takeTask t core s else s
      | none => s)

/-! ### The gang binder (R322) -/

/-- The gang that a die binds next, in READY order. -/
def nextGang (s : State) (die : Nat) : Option Task :=
  (s.tasks.filter fun t => t.state == .ready && decide (1 < t.width) && t.runDie == die && !serviceHolds s t.id).foldl
    (fun m t =>
      match m with
      | some u => if t.readyNo < u.readyNo then some t else some u
      | none => some t) none

/-- The cores of a die that the binder may reserve. -/
def freeCores (s : State) (die : Nat) : List Nat :=
  (coresOf die).filter fun n =>
    let c := s.coreAt n
    c.mode == .idle && c.runq == [] && !c.reserved && !c.offline

/-- Reserves cores, or gives them back. -/
def reserveCores (cs : List Nat) (b : Bool) (s : State) : State :=
  cs.foldl (fun s n => s.modCore n fun c => { c with reserved := b }) s

/-- The lines of a LINES field. -/
def linesOf (n : Nat) : List Nat := (List.range 4).filter fun k => abits n k 1 == 1

/-- The free physical clamp lines of a die. -/
def freeLines (s : State) (die : Nat) : List Nat :=
  (List.range 4).filter fun n => ((s.dieAt die).clamps.get? n).isNone

/-- Binds a gang's logical lines to physical ones. The arrivals that a save kept stand again (06_sequencer
R176). -/
def bindLines (t : Task) (die : Nat) (ps : List (Nat × Nat)) (s : State) : State :=
  let arrivals (line : Nat) : List Nat :=
    (t.saved.filter fun (v : Saved) => decide (line ∈ v.ctx.arrived)).map Saved.member
  let bind (m : FMap Clamp) : FMap Clamp := ps.foldl (fun m p => m.set p.2 ⟨t.id, p.1, arrivals p.1, none⟩) m
  (s.modDie die fun d => { d with clamps := bind d.clamps }).modTask t.id fun t => { t with lineMap := ps }

/-- Sets a saved gang's cores to restore it. -/
def restoreOn (t : Task) (cs : List Nat) (s : State) : State :=
  ((cs.zipIdx).foldl (fun s (n, m) =>
    s.modCore n fun c => { c with mode := .restoring, task := t.id, member := m, reserved := false }) s).modTask t.id
      fun t => { t with state := .running }

/-- Releases a gang whose cores and lines are reserved, and to whose cores its token has come. -/
def releaseGang (t : Task) (die : Nat) (cs : List Nat) (s : State) : State :=
  let done (s : State) : State := queueReady (s.modDie die fun d => { d with binding := none })
  let ls := linesOf t.spec.lines
  if (freeLines s die).length < ls.length ∨ ¬ cs.all (tokenCame s t) then s
  else
    let u := bindLines t die (ls.zip (freeLines s die)) s
    if t.saved ≠ [] then done (restoreOn t cs u)
    else
      match launchTask t cs u with
      | .ok u => done u
      | .error none => askLaunch t s
      | .error (some (code, faddr)) =>
        done (reserveCores cs false (refuseLaunch t (cs.headD 0) code faddr s))

/-- The binder's gang and cores: the one it holds while that one is READY, or the next. -/
def bindingOf (s : State) (die : Nat) : Option (Task × List Nat) :=
  match (s.dieAt die).binding with
  | some (id, cs) => ((s.task? id).filter fun t => t.state == .ready).map fun t => (t, cs)
  | none => (nextGang s die).map fun t => (t, [])

/-- Cores that the binder holds for a gang that is no longer READY. -/
def dropBinding (die : Nat) (s : State) : State :=
  match (s.dieAt die).binding with
  | some (_, cs) => queueReady ((reserveCores cs false s).modDie die fun d => { d with binding := none })
  | none => s

/-- GANG_RELEASE (R322): the binder reserves what is free, and releases the gang once it holds all. -/
def execGangRelease (die : Nat) (s : State) : Out :=
  .next (match bindingOf s die with
    | none => dropBinding die s
    | some (t, cs) =>
      let more := (freeCores s die).take (t.width - cs.length)
      let all := (cs ++ more).mergeSort
      let s := (reserveCores more true s).modDie die fun d => { d with binding := some (t.id, all) }
      if t.width ≤ all.length then releaseGang t die all s else s)

/-! ### Pipes (R324) -/

/-- The consumer's core of a pipe of a gang that runs. -/
def pipeCore (t : Task) (p : Pipe) : Option Nat := t.cores[p.dst]?

/-- The tile that a fill makes on the consumer's core, none while it lacks an entry or granules. -/
def planFill (s : State) (core h : Nat) (x : PipeSlot) (e : TileEntry) : Option (Nat × TileEntry) :=
  (planTile s core h e.rows e.cols e.ty .tile e.exp).map fun (i, f) =>
    (i, { f with ver := x.ver, census := e.census, dirty := true, inuse := true })

/-- A PIPEW's slot is the next of its pipe to fill. -/
def nextToFill (p : Pipe) (h : Nat) : Bool :=
  (p.order.find? fun k => p.slots.any fun x => x.handle == k && x.state == .claimed) == some h

/-- The fill that a PIPEW makes now: its pipe, the core, the slot's entry and the source's; its release has been performed
at the scope between the two cores (01_engines R26; 04_memory_model R98). -/
def fillPlan (s : State) (o : Op) (pipe entry h : Nat) : Option (Nat × Nat × TileEntry × TileEntry) := do
  let t ← s.task? o.task
  let p ← t.pipes.get? pipe
  let core ← pipeCore t p
  let x ← p.slots.find? fun x => x.handle == h
  let e ← (s.coreAt o.core).tiles.get? entry
  let (i, f) ← planFill s core h x e
  if t.state = .running ∧ nextToFill p h = true ∧
      releaseReady s o.core (scopeBetween s o.core core) o.stamp o.id = true then some (core, i, f, e)
  else none

/-- The copy of a PIPEW: its slot is FILLED. -/
def fillSlot (o : Op) (pipe h core i : Nat) (f e : TileEntry) (s : State) : State :=
  let bs := s.bytes (tileByteKey o.core e 0) (tileBytes e)
  let s := fillTile core f bs (s.modCore core fun c => { c with tiles := c.tiles.set i f })
  let s := modPipe o.task pipe
    (fun p => p.modSlot h fun x => { x with state := .filled, ver := (x.ver + 1) % 2 ^ 16, entry := some i }) s
  s.endOp o .t none

/-- PIPEW_FILL (R324). -/
def execPipewFill (op : Nat) (s : State) : Out :=
  .next (match s.op? op with
    | some o =>
      match o.kind with
      | .pipew pipe entry h _ =>
        match fillPlan s o pipe entry h with
        | some (core, i, f, e) => fillSlot o pipe h core i f e s
        | none => s
      | _ => s
    | none => s)

/-! ### Slices and blocking (R321) -/

/-- The cores on which a task runs. -/
def coresWith (s : State) (task : Nat) : List Nat :=
  (s.cores.filter fun (_, c) => c.mode == .running && c.task == task).map Prod.fst

/-- The cores of a task are asked to stop. -/
def askStop (cs : List Nat) (k : StopKind) (s : State) : State :=
  cs.foldl (fun s n => s.modCore n fun c => { c with stopReq := some (c.stopReq.getD k) }) s

/-- A task's slice has run, and a queue of its cores holds a task of at least its priority. -/
def sliceOver (s : State) (core : Nat) : Bool :=
  let c := s.coreAt core
  c.mode == .running && decide (c.sliceAt + s.cfg.tslice ≤ s.cyc) &&
    (coresWith s c.task).any fun n => (s.coreAt n).runq.any fun q =>
      decide ((((s.taskAt core).map fun t => t.spec.prio).getD 0) ≤ effPrio s q)

/-- Pre-empts the task of a core whose slice is over, a gang on one cycle: not while one of its members has a PUBLISH in
flight (06_sequencer R176). -/
def endSlice (core : Nat) (s : State) : State :=
  if sliceOver s core ∧ (coresWith s (s.coreAt core).task).any (publishing s) = false then
    askStop (coresWith s (s.coreAt core).task) .preempt s
  else s

/-- TIME_SLICE_EXPIRY (R321). -/
def execTimeSliceExpiry (core : Nat) (s : State) : Out := .next (endSlice core s)

/-- TASK_AGEING_STEP (R320): a task in a queue has aged; the task that its core runs is pre-empted if its slice
is over. -/
def execTaskAgeingStep (task : Nat) (s : State) : Out :=
  .next (match s.cores.find? fun (_, c) => c.runq.any fun q => q.task == task with
    | some (n, _) => endSlice n s
    | none => s)

/-- The stalled bundle of a core is a JOIN. -/
def stalledInJoin (c : Core) : Bool :=
  match fetchBundle c with
  | .ok is => is.any fun i =>
      match i with
      | .join _ _ => true
      | _ => false
  | .error _ => false

/-- JOIN_BLOCK_SWITCH (R321). -/
def execJoinBlockSwitch (core : Nat) (s : State) : Out :=
  let c := s.coreAt core
  .next (if c.mode = .running ∧ s.widthAt core = 1 ∧ (c.waitSince.map fun w => decide (w + 4096 ≤ s.cyc)) = some true ∧
      c.runq ≠ [] ∧ stalledInJoin c = true then askStop [core] .blocked s
    else s)

/-! ### Records between packages (R328) -/

/-- A batch leaves now, the first of its target's: it is a job card or full, or 2 µs old; the one before it is answered;
and the releases of its records' creators have completed at POD.
DEDUCED (notes/assumptions/38). -/
def batchDue (s : State) (b : Batch) : Bool :=
  !b.sent &&
    (decide (b.sinceU + 2 * microU ≤ s.timeU) || decide (16 ≤ b.tasks.length) || b.tasks.any fun x => x.mode != 0) &&
    b.tasks.all fun x => ((s.task? x.id).map (tokenReady s .pod)).getD true

/-- The tiles that a job card takes along: those of the handles it names that have a version. -/
def cardTiles (s : State) (x : SentTask) : List SentTile :=
  if x.mode = 0 then []
  else
    match s.task? x.id with
    | none => []
    | some t =>
      match boundCore t with
      | none => []
      | some core => (handlesOf (t.spec.reads ++ t.spec.writes)).filterMap fun h =>
          (((s.coreAt core).handles.get? h).bind fun i => (s.coreAt core).tiles.get? i).map fun e =>
            { handle := h, rows := e.rows, cols := e.cols, ty := e.ty, exp := e.exp, census := e.census
              data := s.bytes (tileByteKey core e 0) (tileBytes e) }

/-- Sends a batch, and the tiles of its job cards behind it. -/
def sendBatch (b : Batch) (s : State) : State :=
  let xs := b.tasks.map fun (x : SentTask) => { x with tiles := (cardTiles s x).length }
  let s' := s.send b.acc (.taskRecordBatch s.accid xs)
  b.tasks.foldl (fun u x => (cardTiles s x).foldl (fun u y => u.send b.acc (.jobCardTileArrival s.accid x.id y)) u) s'

/-- PROXY_BATCH_SEND (R328). -/
def execProxyBatchSend (acc : Nat) (s : State) : Out :=
  .next (match (s.batches.find? fun b => b.acc == acc).filter (batchDue s) with
    | some b =>
      sendBatch b { s with batches := s.batches.map fun x => if x = b then { x with sent := true } else x }
    | none => s)

/-- A set entry of a job card, bound to the core chosen for it. -/
def rebind (core : Nat) (e : SetEntry) : SetEntry :=
  match e with
  | .tile _ f l => .tile core f l
  | .unused | .ring _ _ _ | .global _ _ => e

/-- A record of another package as a task: a job card's TILE entries name a core of its die (R319). -/
def foreignTask (src : Nat) (x : SentTask) (r : TaskRec) (s : State) : Task :=
  let die := if r.die < 4 then r.die else 0
  let core := ((argMin (coreLoad s) ((coresOf die).filter (takesTasks s))).or (argMin (coreLoad s) (coresOf die))).getD 0
  { id := foreignId src x.id, asid := x.asid, depth := x.depth, view := 0, origin := .remote src x.parent, homeDie := die
    spec := { r with reads := r.reads.map (rebind core), writes := r.writes.map (rebind core) }
    order := 0, state := .pooled, tilesDue := x.tiles }

/-- Places a record of another package in a pool, or leaves it with its sender, and every record behind it, so that they
come in order (R315).
DEDUCED (notes/assumptions/38). -/
def placeForeign (src : Nat) : List SentTask → State → State × List SentTask
  | [], s => (s, [])
  | x :: xs, s =>
    let placed : Option State :=
      if (s.task? (foreignId src x.id)).isSome then some s
      else
        match parseRecord x.bytes, s.context? x.asid with
        | .ok r, some _ =>
          let t := foreignTask src x r s
          if poolFree s t.homeDie = 0 then none else some (addTask t s)
        | _, _ => none
    match placed with
    | some u =>
      let (v, acks) := placeForeign src xs u
      (v, { x with tiles := 0, bytes := [], ended := none } :: acks)
    | none => (s, [])

/-- The records that a target has taken leave their batch and their pool, and their tasks are away; the others go again
later. -/
def takeAcks (src : Nat) (acks : List SentTask) (s : State) : State :=
  let ids := acks.map SentTask.id
  let gone := s.tasks.filter fun t => sentAway s t && t.spec.acc == src && decide (t.id ∈ ids)
  settleTasks <| queueReady { s with
    tasks := s.tasks.filter fun t => !decide (t ∈ gone)
    away := s.away ++ gone.map fun (t : Task) => ⟨t.id, src, t.origin⟩
    batches := (s.batches.map fun b =>
      if b.acc = src ∧ b.sent = true then
        { b with tasks := b.tasks.filter (fun x => !decide (x.id ∈ ids)), sent := false, sinceU := s.timeU }
      else b).filter fun b => b.tasks != [] }

/-- A task that ran on another package is DONE or terminated there: its id is free, and its LAUNCH completes (R312;
16_front_end R380). -/
def takeEnd (src : Nat) (s : State) (x : SentTask) : State :=
  match x.ended, s.away.find? fun y => y.id == x.id && y.acc == src with
  | some (code, rec_), some y =>
    let s : State := { s with away := s.away.filter (· != y) }
    match y.origin with
    | .packet q i => endPacket q i code rec_ s
    | .spawn _ | .fork _ | .handler _ | .remote _ _ => s
  | _, _ => s

/-- TASK_RECORD_BATCH (R328): records from another package, its acknowledgement of records sent to it, or the ends of
their tasks. -/
def execTaskRecordBatch (src : Nat) (tasks : List SentTask) (s : State) : Out :=
  .next (if tasks.all fun x => x.bytes == [] then
      let acks := tasks.filter fun x => x.ended.isNone
      tasks.foldl (takeEnd src) (if acks = [] ∧ tasks ≠ [] then s else takeAcks src acks s)
    else
      let x := placeForeign src tasks s
      x.1.send src (.taskRecordBatch s.accid x.2))

/-- A task was admitted before another. -/
def admittedBefore (t e : Task) : Bool :=
  match t.admitted, e.admitted with
  | some n, some m => decide (m < n)
  | none, some _ => true
  | _, none => false

/-- A tile of a job card is allocated and filled on the task's core, none while the task is not admitted, its handle is
not free of the tasks before it, or the core has no room. -/
def placeTile (t : Task) (core : Nat) (x : SentTile) (s : State) : Option State :=
  if t.admitted.isNone || handleInUse s (admittedBefore t) t.id core x.handle ||
      ((s.coreAt core).handles.get? x.handle).isSome then none
  else
    (planTile s core x.handle x.rows x.cols x.ty .tile x.exp).map fun (i, e) =>
      let e := { e with census := x.census, dirty := true }
      fillTile core e x.data
        ((s.modCore core fun c => { c with tiles := c.tiles.set i e, handles := c.handles.set x.handle i }).modTask t.id
          fun t => { t with binds := t.binds.set x.handle i })

/-- JOB_CARD_TILE_ARRIVAL (R328). -/
def execJobCardTileArrival (src task : Nat) (tile : SentTile) (s : State) : Out :=
  .next (match s.task? (foreignId src task) with
    | none => s
    | some t =>
      match (boundCore t).bind fun core => placeTile t core tile s with
      | some u => wakeTasks (u.modTask t.id fun t => { t with tilesDue := t.tilesDue - 1 })
      | none => s.retry (.jobCardTileArrival src task tile))

/-! ### Stealing (R329) -/

/-- A task in a run queue may be stolen. -/
def stealable (s : State) (q : QEntry) : Bool :=
  match s.task? q.task with
  | some t =>
    t.width == 1 && (boundCore t).isNone && t.spec.die == 4 && !t.spec.noSteal && !t.ran && t.saved == [] &&
      t.transit.isNone
  | none => false

/-- The tasks of a core's run queue that may be stolen. -/
def stealables (s : State) (n : Nat) : List QEntry := (s.coreAt n).runq.filter (stealable s)

/-- The stealing agent of a die has a reason to steal. -/
def wantsSteal (s : State) (die : Nat) : Bool :=
  ((coresOf die).any fun n =>
    let c := s.coreAt n
    c.mode == .idle && c.runq == [] && !c.reserved && !c.offline) &&
    !(s.tasks.any fun t => t.state == .ready && t.runDie == die) &&
    !(s.tasks.any fun t => match t.transit with
      | some x => x.thief == die
      | none => false)

/-- The die with the most queued stealable tasks other than the thief's. -/
def victimDie (s : State) (thief : Nat) : Option Nat :=
  let count (d : Nat) : Nat := ((coresOf d).map fun n => (stealables s n).length).sum
  (([0, 1, 2, 3].filter fun d => d != thief && decide (0 < count d))).foldl (fun m d =>
    match m with
    | some k => if count k < count d then some d else some k
    | none => some d) none

/-- The oldest stealable task of a die's longest queue that holds one. -/
def stealTarget (s : State) (die : Nat) : Option (Nat × QEntry) :=
  ((coresOf die).foldl (fun (m : Option Nat) n =>
    if stealables s n = [] then m
    else
      match m with
      | some k => if (s.coreAt k).runq.length < (s.coreAt n).runq.length then some n else some k
      | none => some n) none).bind fun n => ((stealables s n).head?).map fun q => (n, q)

/-- STEAL_REQUEST (R329): the victim sends the record. -/
def execStealRequest (die : Nat) (s : State) : Out :=
  .next (if wantsSteal s die then
      match (victimDie s die).bind fun v => (stealTarget s v).map fun x => (v, x) with
      | some (v, (n, q)) =>
        let epoch := (s.dieAt v).epoch
        let x : Transit := { core := n, since := q.since, epoch := epoch, thief := die, timerU := s.timeU + 8 * microU }
        (s.modTask q.task fun t => { t with transit := some x }).send s.accid (.stolenRecordArrival q.task die epoch)
      | none => s
    else s)

/-- The die that a task in transit leaves. -/
def victimOf (s : State) (task : Nat) : Option (Task × Transit) := (s.task? task).bind fun t => t.transit.map fun x => (t, x)

/-- STOLEN_RECORD_ARRIVAL (R329). -/
def execStolenRecordArrival (task thief epoch : Nat) (s : State) : Out :=
  let stale := match victimOf s task with
    | some (_, x) => (s.dieAt (dieOf x.core)).epoch != epoch
    | none => false
  .next (if stale then
      match s.task? task with
      | some t => postService { kind := 5, code := 0, asid := t.asid, task := task, address := 0, length := 0
                                parent := 0, flags := 0, bundle := 0 } s
      | none => s
    else
      (s.modDie thief fun d => { d with stolen := d.stolen ++ [task] }).send s.accid (.stealAck task thief))

/-- STEAL_ACK (R329): before the timer the victim confirms and removes the entry; a later ACK it cancels, and one to a record sent before its reset. -/
def execStealAck (task thief : Nat) (s : State) : Out :=
  .next (match victimOf s task with
    | some (t, x) =>
      if x.thief = thief ∧ t.state = .queued x.core ∧ (s.dieAt (dieOf x.core)).epoch = x.epoch then
        queueReady (((unqueue task x.core s).modTask task fun t => { t with state := .stealing }).send s.accid
          (.stealConfirm task thief))
      else s.send s.accid (.stealCancel task thief)
    | none => s.send s.accid (.stealCancel task thief))

/-- The thief's copy of a record leaves it. -/
def dropStolen (task thief : Nat) (s : State) : State :=
  s.modDie thief fun d => { d with stolen := d.stolen.filter (· != task) }

/-- STEAL_CONFIRM (R329): the thief queues the task on its die. -/
def execStealConfirm (task thief : Nat) (s : State) : Out :=
  .next (match s.task? task with
    | some t =>
      if t.state = .stealing ∧ (t.transit.map Transit.thief) = some thief then
        queueReady ((dropStolen task thief s).modTask task fun t =>
          { t with state := .ready, runDie := thief, transit := none })
      else dropStolen task thief s
    | none => dropStolen task thief s)

/-- A record in transit is back in its queue with its age, or waits for a queue where that one is full. -/
def requeueTransit (task : Nat) (x : Transit) (s : State) : State :=
  let c := s.coreAt x.core
  if 64 ≤ c.runq.length then
    s.modTask task fun t => { t with state := .ready, transit := none }
  else
    let older := c.runq.filter fun q => decide (q.since ≤ x.since)
    let newer := c.runq.filter fun q => decide (x.since < q.since)
    (s.modCore x.core fun c => { c with runq := older ++ [⟨task, x.since⟩] ++ newer }).modTask task fun t =>
      { t with state := .queued x.core, transit := none }

/-- STEAL_TIMER_EXPIRY (R329): the record is in its queue as if it had not been sent, and keeps its age. A reset of the
thief's die has the same end, also after the ACK, and loses the thief's copy. A reset of the victim's die advances its
epoch, and a record that it has confirmed is its own again, so that the thief discards its copy.
DESIGN CHOICE (notes/assumptions/71). -/
def execStealTimerExpiry (cause : TransitEnd) (s : State) : Out :=
  .next (match victimOf s cause.task with
    | some (t, x) =>
      match cause with
      | .timer task =>
        if x.timerU ≤ s.timeU ∧ t.state = .queued x.core then s.modTask task fun t => { t with transit := none } else s
      | .thiefReset task =>
        let u := dropStolen task x.thief s
        if t.state = .stealing then requeueTransit task x u else u.modTask task fun t => { t with transit := none }
      | .victimReset task =>
        let u := s.modDie (dieOf x.core) fun d => { d with epoch := d.epoch + 1 }
        if t.state = .stealing then requeueTransit task x u else u
    | none => s)

/-- STEAL_CANCEL (R329): the thief discards its copy. -/
def execStealCancel (task thief : Nat) (s : State) : Out := .next (dropStolen task thief s)

end Sys2Proof.Machine
end

