-- ==== Sys2Proof/Machine/Stops.lean ====
section
/-! DEFINITION. How a task stops, is saved, and is restored (06_sequencer R165–R176; 09_matrix R239). -/

namespace Sys2Proof.Machine

open Sys2Proof

/-! ### Stopping (R164, R165; 09_matrix R239) -/

/-- The steps after which a stopped product rests: the next multiple of 32 (R239).
DEDUCED (notes/assumptions/50). -/
def restStep (done : Nat) : Nat := (done + 31) / 32 * 32

/-- A product that runs when its task stops goes on to its next 32-step boundary, unless it ends first; the rest
of it is kept.
DEDUCED (notes/assumptions/50). -/
def drainOp (s : State) (core : Nat) (o : Op) : Op :=
  if o.core ≠ core then o
  else
    match o.kind with
    | .matrix m =>
      match m.started with
      | some t =>
        let target := restStep (m.steps + (s.cyc - t))
        if isProduct m = true ∧ target < m.steps + occupancy s o m then
          { o with due := t + (target - m.steps), kind := .matrix { m with started := none, steps := target } }
        else o
      | none => o
    | _ => o

/-- The matrix engine of a stopped core drains. -/
def drainMatrix (core : Nat) (s : State) : State := { s with ops := s.ops.map (drainOp s core) }

/-- The accumulator of a product that rests at a step boundary: the sums of the steps performed. Its state word is as
completed instructions left it (R232), but that it is in use. -/
def restAcc (r : MtxRes) (a : AccTile) : AccTile :=
  { a with
    elems := r.vals.filter fun e => e.2 != 0
    done := { a.done with dirty := true, inuse := true } }

/-- A product that rests at a step boundary has added what its steps make (R239); what happened in them is noted at its
completion (R235).
DEDUCED (notes/assumptions/50). -/
def restProduct (s : State) (o : Op) : State :=
  match o.kind with
  | .matrix m =>
    if m.summed < m.steps ∧ isProduct m = true then
      match factorsOf s o m with
      | some f =>
        let zero := match m.instr with
          | .mmaz _ _ _ => true
          | _ => false
        let r := partRes zero m f (some m.steps) ((s.ownerCtx o.task o.member).accAt m.acc)
        ((readRanged f.reads s).modOwner o.task o.member fun c =>
          { c with acc := c.acc.set m.acc (restAcc r (c.accAt m.acc)) }).modOp o.id fun x =>
            { x with kind := .matrix { m with summed := m.steps, sat := m.sat || r.sat, sub := m.sub || r.sub
                                              bad := m.bad.or (rangesFault s f.reads) } }
      | none => s
    else s
  | _ => s

/-- The products of a task that rest have added what their steps make. -/
def restProducts (task : Nat) (s : State) : State :=
  (s.ops.filter fun o => o.task == task).foldl restProduct s

/-- A core has stopped with its task. -/
def hasStopped (c : Core) : Bool :=
  match c.mode with
  | .stopped _ => true
  | .idle | .running | .restoring | .ended => false

/-- A member of a task has stopped. -/
def memberStopped (s : State) (task : Nat) : Bool := s.cores.any fun (_, c) => c.task == task && hasStopped c

/-- FIRMWARE_STOP_REQUEST (R165, R164, R176): the task that a core runs is asked to stop, a gang on all its cores
at once, and later where one of them has a PUBLISH in flight, so that all stop on one cycle; the engines of a core that
has stopped come to rest. -/
def execFirmwareStopRequest (core : Nat) (s : State) : Out :=
  let c := s.coreAt core
  .next (match c.mode with
    | .running =>
    if (coresWith s c.task).any (publishing s) then s.retry (.firmwareStopRequest core)
    else askStop (coresWith s c.task) (if memberStopped s c.task then .gangStop else .preempt) s
    | .stopped _ => drainMatrix core s
    | .idle | .restoring | .ended => s)

/-! ### Saving (R166, R167) -/

/-- An operation that a save leaves outstanding, or that the stop ends (R166, R172; 11_translation R270). -/
def mayStay (s : State) (o : Op) : Bool :=
  match o.kind with
  | .matrix m => m.started.isNone && (m.steps == 0 || decide (o.due ≤ s.cyc))
  | .pipew pipe entry h _ => (fillPlan s o pipe entry h).isNone
  | .pgreq _ _ _ _ _ | .migr _ _ _ _ | .walk _ _ _ | .fill _ _ | .desc _ _ | .fenceHeavy _ _ _ => true
  | .load l | .record _ _ l => l.taken && (decide (l.next < l.runs.length) || clientWaits s (.op o.id))
  | .part p => (accessId s o).isSome && p.ans == .waits
  | _ => false

/-- An operation that ends with the stop: the stalled bundle asks again when it issues. -/
def endsWithStop (o : Op) : Bool :=
  match o.kind with
  | .walk _ _ _ | .fill _ _ | .desc _ _ | .fenceHeavy _ _ _ => true
  | _ => false

/-- The cores that hold members of a task. -/
def coresHolding (s : State) (task : Nat) : List (Nat × Core) :=
  s.cores.filter fun (_, c) => c.mode != .idle && c.task == task

/-- Every member of a task has stopped or ended, and its engines are at rest (R166, R176). -/
def atRest (s : State) (task : Nat) : Bool :=
  ((coresHolding s task).all fun (_, c) => hasStopped c || c.mode == .ended) &&
    ((s.ops.filter fun o => o.task == task).all (mayStay s))

/-- The accumulators of a saved member: DIRTY is cleared (09_matrix R218).
DEDUCED (notes/assumptions/56). -/
def cleanAcc (x : AccTile) : AccTile := { x with done := { x.done with dirty := false }, issued := { x.issued with dirty := false } }

/-- The stop kind of a save area's header (R167 Table 6-5). -/
def stopCode (c : Core) : Nat :=
  match c.mode with
  | .stopped (.faulted _) => 2
  | _ => if c.stalled || c.fenced || c.bubble != 0 || lateDue c.ctx.pushes || dueMissing c.ctx then 1 else 0

/-- The saved state of a member. -/
def savedOf (n : Nat) (c : Core) : Saved :=
  { member := c.member, core := n, kind := stopCode c, ended := c.mode == .ended
    ctx := { c.ctx with acc := c.ctx.acc.map fun (k, x) => (k, cleanAcc x) } }

/-- The tiles of a saved member's handles: DIRTY is cleared in each (R167).
DEDUCED (notes/assumptions/56). -/
def cleanTiles (n : Nat) (c : Core) (s : State) : State :=
  c.ctx.hmap.vals.foldl (fun s i => s.modTile n i fun e => { e with dirty := false }) s

/-- The fault of a stopped core. -/
def coreFault (c : Core) : Option FaultInfo :=
  match c.mode with
  | .stopped (.faulted f) => some f
  | _ => none

/-- The fault of the member whose stop came first; of members that stopped at one boundary, of the lowest (R164). -/
def stopFault (ms : List (Nat × Core)) : Option (FaultInfo × Culprit) :=
  (ms.filterMap fun (n, c) => (coreFault c).map fun f => (f, (⟨n, c.member, c.ctx.nbun⟩ : Culprit))).foldl (fun m x =>
    match m with
    | some y => if x.1.at_ < y.1.at_ ∨ (x.1.at_ = y.1.at_ ∧ x.2.member < y.2.member) then some x else m
    | none => some x) none

/-- The first push that a fault made zero has failed again. -/
def refailPush (p : Push) : List Push → List Push
  | [] => []
  | x :: xs => if x = zeroPush p then p :: xs else x :: refailPush p xs

/-- A class's marks with one back in front; at most four are kept (R174). -/
def putMark (m : Mark) (ms : List Mark) : List Mark :=
  if ms.length < 4 then m :: ms else appendMark (m :: ms.take 3) m

/-- The state of a member whose fault was not reported: its bundle raises it again when the gang resumes (R164). -/
def raiseAgain (f : FaultInfo) (v : Saved) : Saved :=
  match f.raised with
  | .nothing => if f.code = .brk ∨ f.code = .trap then { v with again := some f } else v
  | .mark k m => { v with ctx := { v.ctx with marks := v.ctx.marks.modify k (putMark m) } }
  | .push p => { v with ctx := { v.ctx with pushes := refailPush p v.ctx.pushes } }

/-- The saved states of a gang's members, of which one fault is reported. -/
def keepFaults (task member : Nat) (ms : List (Nat × Core)) (s : State) : State :=
  s.modTask task fun t => { t with saved := t.saved.map fun (v : Saved) =>
    match (ms.find? fun x => x.2.member == v.member && v.member != member).bind fun x => coreFault x.2 with
    | some f => raiseAgain f v
    | none => v }

/-- Some member was switched out of a JOIN (13_tasks R321). -/
def stopBlocked (ms : List (Nat × Core)) : Bool := ms.any fun (_, c) => c.mode == .stopped .blocked

/-- The core of a width-1 task that yielded (R157). -/
def yieldCore (ms : List (Nat × Core)) : Option Nat :=
  match ms with
  | [(n, c)] => if c.mode = .stopped .yielded then some n else none
  | _ => none

/-- The clamp lines of a task are free (R176). -/
def dropClamps (task : Nat) (s : State) : State :=
  { s with dies := s.dies.map fun (n, d) => (n, { d with clamps := d.clamps.filter fun (_, k) => k.task != task }) }

/-- Every member of a task leaves its core for its save area.
DESIGN CHOICE (notes/assumptions/19). -/
def saveMembers (task : Nat) (ms : List (Nat × Core)) (s : State) : State :=
  let s : State :=
    { s with ops := (s.ops.filter fun o => !(o.task == task && endsWithStop o)).map fun o =>
        if o.task = task then { o with core := engineCore (dieOf o.core) } else o }
  let s := ms.foldl (fun s m => cleanTiles m.1 m.2 s) s
  let s := s.modTask task fun t =>
    { t with saved := ms.map fun m => savedOf m.1 m.2, state := .stopped, blockedOn := none }
  dropClamps task (ms.foldl (fun s m => idleCore m.1 s) s)

/-- What becomes of a saved task: its end when firmware terminates it, its fault, a wait for its children, or the
queue again. -/
def afterSave (t : Task) (ms : List (Nat × Core)) (s : State) : State :=
  if t.doomed then terminate [t.id] s
  else
    match stopFault ms with
    | some (f, w) => handleFault t f w (keepFaults t.id w.member ms s)
    | none =>
      if stopBlocked ms then wakeBlocked (s.modTask t.id fun t => { t with blockedOn := some t.mergeTo })
      else
        match if t.width = 1 then yieldCore ms else none with
        | some n => requeueOn n t.id s
        | none => requeue t.id s

/-- TASK_SAVE (R167): a task whose engines are at rest is saved, a gang with all its members.
DEDUCED (notes/assumptions/36). -/
def execTaskSave (core : Nat) (s : State) : Out :=
  let c := s.coreAt core
  .next (match s.taskAt core with
    | some t =>
      if hasStopped c && atRest s t.id then
        let s := restProducts t.id s
        let ms := coresHolding s t.id
        afterSave t ms (saveMembers t.id ms s)
      else s
    | none => s)

/-! ### Restoring (R170, R171, R176) -/

/-- A tile that moves to another core: the member that has it, its entry's number and the entry, with its bytes. -/
structure Lifted where
  member : Nat
  index : Nat
  entry : TileEntry
  bytes : List Byte

/-- The entries of a member: those of its handles and of the slots of the pipes that it consumes. -/
def memberEntries (t : Task) (v : Saved) : List Nat :=
  (v.ctx.hmap.vals ++ (t.pipes.vals.filter fun p => p.dst == v.member).flatMap fun p => p.slots.filterMap PipeSlot.entry).eraseDups

/-- A handle's tile of a task that moves. -/
def dropEntries (t : Task) (v : Saved) (is : List Nat) (c : Core) : Core :=
  { c with
    tiles := c.tiles.filter fun (i, _) => !decide (i ∈ is)
    handles := c.handles.filter fun (_, i) => !decide (i ∈ is)
    privs := c.privs.filter fun p => !(p.task == t.id && p.member == v.member) }

/-- Lifts the tiles of a member from the core that it left. -/
def liftMember (t : Task) (v : Saved) (s : State) : List Lifted × State :=
  let is := memberEntries t v
  let c := s.coreAt v.core
  (is.filterMap fun i => (c.tiles.get? i).map fun e =>
      { member := v.member, index := i, entry := e, bytes := s.bytes (tileByteKey v.core e 0) (tileBytes e) },
    s.modCore v.core (dropEntries t v is))

/-- Lifts the tiles of some members. -/
def liftAll (t : Task) (vs : List Saved) (s : State) : List Lifted × State :=
  vs.foldl (fun p v => let x := liftMember t v p.2; (p.1 ++ x.1, x.2)) ([], s)

/-- Places a lifted tile in fresh storage of a core: the entry's new number (R170). -/
def placeLifted (core : Nat) (x : Lifted) (s : State) : Option (Nat × State) :=
  (planTile s core 0 x.entry.rows x.entry.cols x.entry.ty x.entry.level x.entry.exp).map fun (i, f) =>
    let e := { x.entry with owner := core, base := f.base }
    (i, fillTile core e x.bytes (s.modCore core fun c => { c with tiles := c.tiles.set i e }))

/-- Places the lifted tiles of a member: old and new numbers, none while the core lacks room. -/
def placeAll (core : Nat) : List Lifted → State → Option (List (Nat × Nat) × State)
  | [], s => some ([], s)
  | x :: xs, s =>
    (placeLifted core x s).bind fun (i, s) => (placeAll core xs s).map fun (m, s) => ((x.index, i) :: m, s)

/-- An entry's number after a move. -/
def remap (m : List (Nat × Nat)) (i : Nat) : Nat := ((m.find? fun p => p.1 == i).map Prod.snd).getD i

/-- A kept operation with the entries of its core. -/
def remapKind (m : List (Nat × Nat)) (k : OpKind) : OpKind :=
  match k with
  | .matrix x => .matrix { x with a := remap m x.a, b := remap m x.b }
  | .pipew p e h n => .pipew p (remap m e) h n
  | k => k

/-- The byte ranges of a kept operation move with its tile. -/
def remapRange (s t : State) (old new : Nat) (m : List (Nat × Nat)) (r : Range) : Range :=
  (m.findSome? fun (i, j) =>
    match (s.coreAt old).tiles.get? i, (t.coreAt new).tiles.get? j with
    | some e, some f =>
      let k := tileByteKey old e 0
      if k ≤ r.key ∧ r.key < k + tileBytes e then some { r with key := tileByteKey new f 0 + (r.key - k) } else none
    | _, _ => none).getD r

/-- The operations of a member on its new core. -/
def moveOps (t : Task) (v : Saved) (core : Nat) (m : List (Nat × Nat)) (s u : State) : State :=
  { u with ops := u.ops.map fun o =>
    if o.task = t.id ∧ o.member = v.member then
      { o with core := core, kind := remapKind m o.kind, ranges := o.ranges.map (remapRange s u v.core core m) }
    else o }

/-- The handles of a member on its new core. -/
def rehandle (v : Saved) (core : Nat) (hm : FMap Nat) (s : State) : State :=
  if core = v.core then s
  else s.modCore core fun c => { c with handles := hm.foldl (fun x p => x.set p.1 p.2) c.handles }

/-- Some handle of a member is in use on a core that it has not left. -/
def handlesBusy (s : State) (t : Task) (v : Saved) (core : Nat) : Bool :=
  core != v.core && v.ctx.hmap.any fun (h, _) =>
    ((s.coreAt core).handles.get? h).isSome || handleInUse s (fun _ => true) t.id core h

/-- The private space of a member on its new core. -/
def movePriv (t : Task) (v : Saved) (core : Nat) (s : State) : Option State :=
  if core = v.core then some s
  else
    match placePriv t.id v.member core v.ctx.priv (.ok s []) with
    | .ok s _ => some s
    | .wait | .refuse _ _ => none

/-- The core of a member runs it again, or holds it ended. -/
def resumeMember (t : Task) (v : Saved) (core : Nat) (hm : FMap Nat) (s : State) : State :=
  let s := returnToTask core t.id v.member { v.ctx with hmap := hm } s
  s.modCore core fun c =>
    { c with mode := if v.ended then .ended else c.mode, stopReq := v.again.map StopKind.faulted }

/-- Restores a member on its core from the tiles lifted for it, none while the core lacks room. -/
def restoreMember (old : State) (t : Task) (ls : List Lifted) (v : Saved) (core : Nat) (s : State) : Option State :=
  if handlesBusy s t v core then none
  else
    (placeAll core (ls.filter fun x => x.member == v.member) s).bind fun (m, s) =>
      (movePriv t v core s).map fun s =>
        let hm := v.ctx.hmap.map fun (h, i) => (h, remap m i)
        let s := s.modTask t.id fun t => { t with pipes := t.pipes.map fun (k, p) =>
          (k, if p.dst = v.member then
              { p with slots := p.slots.map fun (x : PipeSlot) => { x with entry := x.entry.map (remap m) } }
            else p) }
        resumeMember t v core hm (rehandle v core hm (moveOps t v core m old s))

/-- The core that restores a member. -/
def coreFor (s : State) (task member : Nat) : Option Nat :=
  (s.cores.find? fun (_, c) => c.mode == .restoring && c.task == task && c.member == member).map Prod.fst

/-- Restores some members on their cores. -/
def restoreAll (old : State) (t : Task) (ls : List Lifted) : List Saved → State → Option State
  | [], s => some s
  | v :: vs, s =>
    (coreFor old t.id v.member).bind fun core =>
      (restoreMember old t ls v core s).bind fun s => restoreAll old t ls vs s

/-- The image of a saved task, with its code. -/
def restoreCode (s : State) (t : Task) : Got (Image × List Byte) :=
  (imageOfTask s t).bind fun im => (imageCode s t im).bind fun code => .got (im, code)

/-- The image's code on the cores of a restored task. -/
def reloadCode (t : Task) (cs : List Nat) (s : State) : State :=
  match (restoreCode s t).toOption with
  | none => s
  | some (im, code) => cs.foldl (fun s n =>
      if (s.coreAt n).image = some (t.asid, t.spec.image) then s
      else s.modCore n fun c => { c with imem := codeWords im.code code, image := some (t.asid, t.spec.image) }) s

/-- A task that its JOIN or END stopped with the reason for which a merge stopped resumes: the merge goes on (14_revisions
R343). -/
def clearStuck (t : Task) (s : State) : State :=
  match t.fault.map FaultInfo.code with
  | none => s
  | some code => { s with revs := s.revs.map fun (v, r) =>
      (v, if r.forker = t.id ∧ r.stuck = some code then { r with stuck := none } else r) }

/-- A saved task runs again on its cores (R170, R176): none while some core lacks room for a member. -/
def restoreTask (t : Task) (s : State) : Option State :=
  let cs := t.saved.filterMap fun (v : Saved) => coreFor s t.id v.member
  let x := liftAll t (t.saved.filter fun (v : Saved) => coreFor s t.id v.member != some v.core) s
  (restoreAll s t x.1 t.saved x.2).map fun u =>
    releaseLines t.id (endParts (.image t.id) (reloadCode t cs ((clearStuck t u).modTask t.id fun t =>
      { t with saved := [], cores := cs, fault := none, state := .running })))

/-- TASK_RESTORE (R170).
DEDUCED (notes/assumptions/36). -/
def execTaskRestore (core : Nat) (s : State) : Out :=
  .next (if (s.coreAt core).mode = .restoring then
      match s.taskAt core with
      | some t =>
        if t.doomed then
          terminate [t.id] { s with cores := s.cores.map fun (n, c) =>
            if c.mode = .restoring ∧ c.task = t.id then (n, { c with mode := .idle, task := 0, member := 0 }) else (n, c) }
        else if serviceHolds s t.id then s
        else
          match restoreCode s t with
          | .asks row ps => startParts (engineOp s t.asid) (.image t.id) row ps s
          | .refused | .got _ => (restoreTask t s).getD s
      | none => s
    else s)

end Sys2Proof.Machine
end

