-- ==== Sys2Proof/Machine/Boot.lean ====
section
/-! DEFINITION. The boot ROM's check of a firmware image (17_system R394–R396): SHA-256 and RSASSA-PKCS1-v1_5, as the
published standards give them (notes/assumptions 46). -/

namespace Sys2Proof.Machine

open Sys2Proof

/-! ### SHA-256

The digest's constants are computed from their definition, the first 32 bits of the fractions of roots of primes. A
working state keeps the eight variables as the last four pairs of the two that a round makes, most recent first. -/

/-- The greatest number of `k` bits, above those of `r`, whose power `e` is at most `x`. -/
def rootBits (e x : Nat) : Nat → Nat → Nat
  | 0, r => r
  | k + 1, r => rootBits e x k (if (r + 2 ^ k) ^ e ≤ x then r + 2 ^ k else r)

/-- The first 32 bits of the fraction of the `e`th root of a number below 2^8. -/
def rootFraction (e n : Nat) : BitVec 32 := BitVec.ofNat 32 (rootBits e (n * 2 ^ (32 * e)) 40 0)

/-- The primes below 312: 64 of them. -/
def shaPrimes : List Nat :=
  (List.range 312).filter fun n => decide (2 ≤ n) && (List.range n).all fun d => decide (d < 2) || n % d != 0

/-- The exclusive or of a word turned right by each of some counts. -/
def turned (x : BitVec 32) (counts : List Nat) : BitVec 32 :=
  counts.foldl (fun acc k => acc ^^^ x.rotateRight k) 0

/-- The variables of the digest: four pairs. -/
abbrev ShaVars := List (BitVec 32 × BitVec 32)

/-- The digest's variables before the first block. -/
def shaStart : ShaVars :=
  let r := (shaPrimes.take 8).map (rootFraction 2)
  r.zip (r.drop 4)

/-- A number from bytes, the first most significant. -/
def beNat (bs : List Byte) : Nat := leNat bs.reverse

/-- The window of 16 schedule words moves on by one, oldest first. -/
def shaSlide (win : List (BitVec 32)) : List (BitVec 32) :=
  let old := win.getD 1 0
  let new := win.getD 14 0
  win.tail ++ [win.headD 0 + win.getD 9 0 + (turned old [7, 18] ^^^ old >>> 3) + (turned new [17, 19] ^^^ new >>> 10)]

/-- A round: the pair it makes from a constant plus a schedule word goes in front. -/
def shaRound (kw : BitVec 32) (vs : ShaVars) : ShaVars :=
  let (a1, e1) := vs.getD 0 (0, 0)
  let (a2, e2) := vs.getD 1 (0, 0)
  let (a3, e3) := vs.getD 2 (0, 0)
  let (a4, e4) := vs.getD 3 (0, 0)
  let t := kw + e4 + turned e1 [6, 11, 25] + (e3 ^^^ (e1 &&& (e2 ^^^ e3)))
  (t + turned a1 [2, 13, 22] + ((a1 &&& (a2 ||| a3)) ||| (a2 &&& a3)), a4 + t) :: vs.take 3

/-- The variables and the window after a round for a prime. -/
def shaTurn (st : ShaVars × List (BitVec 32)) (p : Nat) : ShaVars × List (BitVec 32) :=
  (shaRound (rootFraction 3 p + st.2.headD 0) st.1, shaSlide st.2)

/-- The variables after the `k`th block of a padded message. -/
def shaBlock (m : List Byte) (vs : ShaVars) (k : Nat) : ShaVars :=
  let win := (List.range 16).map fun j => BitVec.ofNat 32 (beNat ((m.drop (64 * k + 4 * j)).take 4))
  let (out, _) := shaPrimes.foldl shaTurn (vs, win)
  vs.zipWith (fun x y => (x.1 + y.1, x.2 + y.2)) out

/-- SHA-256 of some bytes, as a number.
PRESUMED (notes/assumptions/46). -/
def sha256 (bs : List Byte) : Nat :=
  let fill := (55 + 64 - bs.length % 64) % 64
  let m := bs ++ 0x80#8 :: (List.replicate fill 0#8 ++ (leBytes 8 (8 * bs.length)).reverse)
  let vs := (List.range (m.length / 64)).foldl (shaBlock m) shaStart
  (vs.map Prod.fst ++ vs.map Prod.snd).foldl (fun acc w => acc * 2 ^ 32 + w.toNat) 0

/-! ### RSASSA-PKCS1-v1_5 -/

/-- A power modulo a number, by the bits of the exponent; the first argument bounds their number. -/
def powMod : Nat → Nat → Nat → Nat → Nat
  | 0, _, _, n => 1 % n
  | k + 1, b, e, n =>
    let r := powMod k (b * b % n) (e / 2) n
    if e % 2 = 1 then r * b % n else r

/-- The encoded message of a SHA-256 digest, in 384 bytes, as a number. -/
def encodedMessage (digest : Nat) : Nat :=
  let ones := (2 ^ (8 * 330) - 1) * 2 ^ (8 * 52)
  let info := 0x3031300d060960864801650304020105000420
  2 ^ (8 * 382) + ones + info * 2 ^ 256 + digest

/-- The signature of an image verifies (R396); its numbers are little-endian in memory (00_scope R5).
PRESUMED (notes/assumptions/46). -/
def signatureOk (img : List Byte) : Bool :=
  let n := leNat ((img.drop 0x10).take 384)
  let e := leNat ((img.drop 0x190).take 4)
  let sig := leNat ((img.drop 0x200).take 384)
  decide (sig < n) && powMod 32 sig e n == encodedMessage (sha256 (img.take 0x200 ++ img.drop 0x380))

/-! ### The check (R394, R396) -/

/-- What the boot ROM finds: the ERR code of the first check that fails, else 0. The configuration block comes last.
DEDUCED (notes/assumptions/44). -/
def bootCheck (s : State) : Nat :=
  let img := s.bytes (stagingKey 0) s.sys.len
  let pod := s.bytes (stagingKey s.sys.cfgoff) (2 ^ 24 - s.sys.cfgoff)
  if s.sys.len < 1024 ∨ 2 ^ 24 ≤ s.sys.len ∨ 2 ^ 24 ≤ s.sys.cfgoff then 1
  else if fieldAt img 0 4 ≠ 0x4E475346 then 2
  else if sha256 ((img.drop 0x10).take 388) ≠ Config.fuseKeyHash then 3
  else if fieldAt img 4 4 < Config.fuseMinVersion then 5
  else if signatureOk img = false then 4
  else if (Config.podAccid pod).isNone then 6
  else 0

end Sys2Proof.Machine
end

