-- ==== Sys2Proof/Machine/System.lean ====
section
/-! DEFINITION. Start-up, the host port, access tables, freeze, RAS and power (17_system R391–R407). -/

namespace Sys2Proof.Machine

open Sys2Proof

/-- The host port answers. -/
def portAnswer (a : PortAnswer) (s : State) : State := { s with answers := s.answers ++ [a] }

/-! ### Reset and start-up (R394–R397) -/

/-- The packages of the pod whose reports a home that was READY awaits after its reset (12_migration R308 Table 12-4).
DESIGN CHOICE (notes/assumptions/58). -/
def reportsDue (s : State) : List Nat := if s.sys.boot = .ready then s.cfg.members.filter (· != s.accid) else []

/-- The device after a reset (R394): no state is kept. What stands outside it stays: host memory, what is
on its way from outside, the reports that its peers will make, and the model's own numbering of requests and free
values. -/
def afterReset (s : State) : State :=
  { State.reset with
    mig := { rebuilding := reportsDue s }
    host := s.host, agenda := s.agenda, outbox := s.outbox, answers := s.answers, msix := s.msix, nextOp := s.nextOp
    freeCount := s.freeCount }

/-- FW_FATAL (R397). -/
def execFwFatal (s : State) : Out := .next (raiseFatal s)

/-- DEVICE_RESET (R394). -/
def execDeviceReset (s : State) : Out := .next (afterReset s)

/-- BOOT_RESET (R395): accepted in every state, while the CXL link is up (R404). -/
def execBootReset (s : State) : Out := .next (if s.sys.frozen then s else afterReset s)

/-- The boot mailbox accepts writes: WAIT_IMAGE, with the keys of the link set (R391, R395). -/
def mailboxOpen (s : State) : Bool := s.sys.boot == .waitImage && s.sys.ide

/-- BOOT_GO (R394, R396): the image is checked, and the lock-step pair starts or ERR is set.
DEDUCED (notes/assumptions/44). -/
def execBootGo (s : State) : Out :=
  .next (if mailboxOpen s then
    match bootCheck s with
    | 0 => { s with sys := { s.sys with
        boot := .running, err := 0, version := fieldAt (s.bytes (stagingKey 4) 4) 0 4 } }
    | e => { s with sys := { s.sys with boot := .waitImage, err := e } }
  else s)

/-- REGISTER_WRITE (R7, R395): LEN and CFGOFF of BOOT_CTL; BOOT_STS is read-only. -/
def execRegisterWrite (r : HostReg) (v : Word) (s : State) : Out :=
  .next (match r with
    | .bootCtl =>
      if s.sys.boot = .waitImage then { s with sys := { s.sys with len := bits v 8 24, cfgoff := bits v 32 24 } } else s
    | .bootSts => s)

/-- What firmware takes from the pod configuration block (R394). -/
def podSettings (pod : List Byte) (c : Settings) : Settings :=
  let (x, y, z) := Config.podTorus pod
  { c with
    hseed := Config.podHseed pod
    homemap := (List.range 1024).map fun k => (k, Config.podHomemap pod k % 1024)
    lx := x, ly := y, lz := z
    members := (List.range 1024).filter (Config.podMember pod)
    keys := Config.podKeys pod }

/-- FIRMWARE_READY (R394): the admin queue is registered and the links are up. -/
def execFirmwareReady (s : State) : Out :=
  .next (if s.sys.boot = .running then
    let pod := s.bytes (stagingKey s.sys.cfgoff) (2 ^ 24 - s.sys.cfgoff)
    { s with
      accid := (Config.podAccid pod).getD 0 % 1024
      cfg := podSettings pod s.cfg
      sys := { s.sys with boot := .ready } }
  else s)

/-- CXL_IDE_KEY_EXCHANGE (R391). -/
def execCxlIdeKeyExchange (s : State) : Out := .next { s with sys := { s.sys with ide := true } }

/-- STAGING_WINDOW_WRITE (R395). -/
def execStagingWindowWrite (off : Nat) (data : List Byte) (s : State) : Out :=
  .next (if mailboxOpen s && decide (off + data.length ≤ 2 ^ 24) then s.putBytes (stagingKey off) data else s)

/-! ### CXL.mem and the storage window (R392, R393) -/

/-- A denial is counted. -/
def denied (s : State) : State := s.noteErr (some .accessTable)

/-- An access to physical addresses from outside that its table allows or denies: a denied read, or one that finds
a bad granule, is answered with poison; a denied write is dropped.
DEDUCED (notes/assumptions/32). -/
def portAccess (master pa : Nat) (act : PortAct) (s : State) : State :=
  match act with
  | .read n =>
    if !lpddrAllowed s master pa n true false then portAnswer .poisoned (denied s)
    else if (readFault s.sys pa n).isSome then portAnswer .poisoned { s with sys := afterRead s.sys pa n }
    else portAnswer (.data (s.viewBytes 0 pa n)) { s with sys := afterRead s.sys pa n }
  | .write d =>
    if !lpddrAllowed s master pa d.length false true || copiesFail s 0 (granules4k pa d.length) == some .accessTable then denied s
    else s.viewPut 0 pa d

/-- The bytes of an access from outside. -/
def actBytes : PortAct → Nat
  | .read n => n
  | .write d => d.length

/-- The granules of an access from outside are free: none is being copied or merged, and the pool has the copies that
it needs. Until then the access waits (14_revisions R339).
DEDUCED (notes/assumptions/31). -/
def portFree (s : State) (pa : Nat) (act : PortAct) : Bool :=
  !granBusy s pa (actBytes act) &&
    match act with
    | .read _ => true
    | .write d => copiesFail s 0 (granules4k pa d.length) != some .revisionPool

/-- CXL_MEM_ACCESS (R392): 64 bytes of the package's LPDDR6. A device in FATAL answers a read with poison and
writes nothing (R397). -/
def execCxlMemAccess (pa : Nat) (act : PortAct) (s : State) : Out :=
  .next (if s.sys.boot = .fatal then
      match act with
      | .read _ => portAnswer .poisoned s
      | .write _ => s
    else if pa % 64 = 0 ∧ pa + 64 ≤ lpddrBytes ∧ actBytes act = 64 then
      if portFree s pa act then portAccess 0x151 pa act s else s.retry (.cxlMemAccess pa act)
    else s)

/-- The storage-window entry that holds an access. -/
def windowEntry (s : State) (off n : Nat) : Option WinEntry :=
  (s.sys.windows.find? fun (_, e) => decide (e.off ≤ off) && decide (off + n ≤ e.off + e.len)).map Prod.snd

/-- STORAGE_WINDOW_ACCESS (R393). -/
def execStorageWindowAccess (requester off : Nat) (act : PortAct) (s : State) : Out :=
  .next (match s.sys.requesters.get? requester, windowEntry s off (actBytes act) with
    | some m, some e =>
      let pa := e.pa + (off - e.off)
      if portFree s pa act then portAccess m pa act s else s.retry (.storageWindowAccess requester off act)
    | _, _ => portAnswer .abort s)

/-- The leaves of a table and of those below it: level and entry. -/
def leavesIn (s : State) : Nat → Nat → List (Nat × Nat)
  | level, table =>
    (List.range 512).flatMap fun i =>
      let e := pteAt s (table + 8 * i)
      match pteStep level e with
      | .table next =>
        match level with
        | 0 => []
        | l + 1 => leavesIn s l next
      | .localPage _ _ _ => [(level, e)]
      | .bad | .remotePage _ _ _ | .nonResident _ _ => []

/-- HV of a leaf (11_translation Table 11-2). -/
def hvBit : Nat := 47

/-- A frame of 64 KiB belongs to a page that is pinned and host-visible. -/
def frameVisible (leaves : List (Nat × Nat)) (frame : Nat) : Bool :=
  leaves.any fun (level, e) =>
    pteBit e pinBit && pteBit e hvBit && decide (abits e 16 24 ≤ frame) &&
      decide (frame < abits e 16 24 + pageBytes level / 2 ^ 16)

/-- Every frame of some physical addresses belongs to pinned, host-visible pages (R393).
DEDUCED (notes/assumptions/45). -/
def framesVisible (s : State) (pa len : Nat) : Bool :=
  let leaves := s.ctxs.flatMap fun (_, c) => leavesIn s 3 c.ptroot
  (List.range (len / 2 ^ 16)).all fun k => frameVisible leaves (pa / 2 ^ 16 + k)

/-- A storage-window entry that firmware may program (R393).
DEDUCED (notes/assumptions/45). -/
def windowOk (s : State) (off pa len requester master : Nat) : Bool :=
  off % 2 ^ 21 == 0 && len % 2 ^ 21 == 0 && decide (off + len ≤ 2 ^ 36) && pa % 2 ^ 16 == 0 &&
    decide (pa + len ≤ lpddrBytes) && decide (requester < 2 ^ 16) && decide (0x160 ≤ master) && decide (master ≤ 0x16F) &&
    framesVisible s pa len

/-- STORAGE_WINDOW_ENTRY_SET (R393): firmware programs an entry and gives a requester its master identifier; it
never maps pages that are not pinned and host-visible. -/
def execStorageWindowEntrySet (i : Fin 64) (winOff pa len requester master : Nat) (s : State) : Out :=
  .next (if windowOk s winOff pa len requester master then
    { s with sys := { s.sys with
      windows := s.sys.windows.set i.val ⟨winOff, pa, len⟩
      requesters := s.sys.requesters.set requester master } }
  else s)

/-- MAPPING_REQUEST (11_translation R267). -/
def execMappingRequest (asid va : Nat) (size : Fin 3) (s : State) : Out :=
  .next (portAnswer (.mapping (decide (va % pageBytes size.val = 0) && (s.context? asid).isSome)) s)

/-! ### Access tables (R398–R400) -/

/-- The entry of 128 bits, none when it is not valid (Table 17-5). -/
def accessEntryOf (e : BitVec 128) : Option AccessEntry :=
  let n := e.toNat
  if abits n 127 1 = 1 then
    some { wr := abits n 124 1 == 1, rd := abits n 123 1 == 1, mhi := abits n 113 10, mlo := abits n 103 10
           limit := abits n 32 32, base := abits n 0 32 }
  else none

/-- A target's table with an entry written. -/
def withEntry (t : Guard) (i : Nat) (e : Option AccessEntry) (s : State) : State :=
  let old := guardTable s t
  let new := match e with
    | some x => old.set i x
    | none => old.erase i
  { s with sys := { s.sys with access := (s.sys.access.filter fun x => x.1 != t) ++ [(t, new)] } }

/-- A page's verdict for a master changes between two states. -/
def verdictMoves (s t : State) (master size frame : Nat) : Bool :=
  leafVerdict s master size frame true false != leafVerdict t master size frame true false ||
    leafVerdict s master size frame false true != leafVerdict t master size frame false true

/-- A cached translation's verdict changes. -/
def entryMoves (s t : State) (e : TlbEntry) : Bool := e.remote.isNone && verdictMoves s t e.master e.size e.frame

/-- A tx register of a LOCAL page whose verdict changes for a core loses V (R268, R400). -/
def txMoves (s t : State) (core : Nat) (v : Word) : Word :=
  if bits v 63 1 = 1 ∧ bits v 59 2 = 0 ∧ verdictMoves s t core (bits v 61 2) (bits v 0 24) = true then
    v &&& 0x7FFFFFFFFFFFFFFF#64
  else v

/-- A member's tx registers after a change. -/
def txAfter (s t : State) (core : Nat) (c : Ctx) : Ctx := { c with tx := c.tx.map fun (n, v) => (n, txMoves s t core v) }

/-- The translations whose cached verdict a change alters are dropped (R400): `s` is the state before it. -/
def dropMoved (s t : State) : State :=
  { t with
    cores := t.cores.map fun (n, c) =>
      (n, { c with
        l1 := c.l1.filter fun e => !entryMoves s t e
        walkRes := c.walkRes.filter fun r =>
          match r.res with
          | .leaf e => !entryMoves s t e
          | .nonResident _ _ _ _ | .failed _ => true
        ctx := txAfter s t n c.ctx })
    dies := t.dies.map fun (n, d) => (n, { d with l2 := d.l2.filter fun e => !entryMoves s t e })
    tasks := t.tasks.map fun k =>
      { k with saved := k.saved.map fun (v : Saved) => { v with ctx := txAfter s t v.core v.ctx } } }

/-- ACCESS_TABLE_CHANGE (R400). -/
def execAccessTableChange (target : Guard) (i : Fin 64) (e : BitVec 128) (s : State) : Out :=
  .next (dropMoved s (withEntry target i.val (accessEntryOf e) s))

/-! ### Freeze, RAS, power (R404–R407) -/

/-- FREEZE (R404): every clock stops. -/
def execFreeze (s : State) : Out := .next { s with sys := { s.sys with frozen := true } }

/-- TAP_READOUT (R404). -/
def execTapReadout (s : State) : Out :=
  .next (if s.sys.frozen then { s with sys := { s.sys with readout := true } } else s)

/-- RAS_COUNTER_CLEAR (R405). -/
def execRasCounterClear (i : Fin 11) (s : State) : Out :=
  .next { s with sys := { s.sys with ras := s.sys.ras.erase i.val } }

/-- CORE_OFFLINE (R405): no task is placed on the core any more. -/
def execCoreOffline (core : Nat) (s : State) : Out :=
  .next (if core < 256 then s.modCore core fun c => { c with offline := true } else s)

/-- 100 µs have passed since the last step of the clock (R407). -/
def stepDue (s : State) : Bool := (s.sys.steppedU.map fun t => decide (t + 100 * microU ≤ s.timeU)).getD true

/-- THERMAL_STEP_DOWN (R407): one step of 100 MHz, down to 900 MHz.
DESIGN CHOICE (notes/assumptions/47). -/
def execThermalStepDown (s : State) : Out :=
  .next (if stepDue s && decide (9 < s.sys.clock) then
    State.ras { s with sys := { s.sys with clock := s.sys.clock - 1, steppedU := some s.timeU } } 10
  else s)

/-- THERMAL_STEP_UP (R407): one step of 100 MHz, up to 1,800 MHz.
DESIGN CHOICE (notes/assumptions/47). -/
def execThermalStepUp (s : State) : Out :=
  .next (if stepDue s && decide (s.sys.clock < 18) then
    { s with sys := { s.sys with clock := s.sys.clock + 1, steppedU := some s.timeU } }
  else s)

/-- THERMAL_TRIP (R407): the device freezes, asserts THERMTRIP_N, and is reset. -/
def execThermalTrip (s : State) : Out :=
  .next (let t := afterReset s; { t with sys := { t.sys with thermtrip := true } })

/-- POWER_CAP_SET (R407). -/
def execPowerCapSet (watts : Nat) (s : State) : Out :=
  .next (if 800 ≤ watts ∧ watts ≤ 1600 then { s with sys := { s.sys with cap := watts } } else s)

end Sys2Proof.Machine
end

