-- ==== Sys2Proof/Machine/Dispatch.lean ====
section
/-! DEFINITION. The dispatch of the table's rows to their meanings: one arm per constructor. -/

namespace Sys2Proof.Machine

open Sys2Proof

/-- What each instruction or event does. -/
def exec (i : Instr) (s : State) : Host.Outcome State Fault Refusal :=
  match i with
  | .add d a b => Sys2Proof.Machine.execAdd d a b s
  | .sub d a b => Sys2Proof.Machine.execSub d a b s
  | .and d a b => Sys2Proof.Machine.execAnd d a b s
  | .or d a b => Sys2Proof.Machine.execOr d a b s
  | .xor d a b => Sys2Proof.Machine.execXor d a b s
  | .andn d a b => Sys2Proof.Machine.execAndn d a b s
  | .shl d a b => Sys2Proof.Machine.execShl d a b s
  | .shr d a b => Sys2Proof.Machine.execShr d a b s
  | .sar d a b => Sys2Proof.Machine.execSar d a b s
  | .mul d a b => Sys2Proof.Machine.execMul d a b s
  | .mulh d a b => Sys2Proof.Machine.execMulh d a b s
  | .mulhu d a b => Sys2Proof.Machine.execMulhu d a b s
  | .div d a b => Sys2Proof.Machine.execDiv d a b s
  | .divu d a b => Sys2Proof.Machine.execDivu d a b s
  | .rem d a b => Sys2Proof.Machine.execRem d a b s
  | .remu d a b => Sys2Proof.Machine.execRemu d a b s
  | .min d a b => Sys2Proof.Machine.execMin d a b s
  | .max d a b => Sys2Proof.Machine.execMax d a b s
  | .minu d a b => Sys2Proof.Machine.execMinu d a b s
  | .maxu d a b => Sys2Proof.Machine.execMaxu d a b s
  | .clz d a => Sys2Proof.Machine.execClz d a s
  | .cls d a => Sys2Proof.Machine.execCls d a s
  | .popc d a => Sys2Proof.Machine.execPopc d a s
  | .ext d a b sgn => Sys2Proof.Machine.execExt d a b sgn s
  | .addi d a imm => Sys2Proof.Machine.execAddi d a imm s
  | .andi d a imm => Sys2Proof.Machine.execAndi d a imm s
  | .ori d a imm => Sys2Proof.Machine.execOri d a imm s
  | .xori d a imm => Sys2Proof.Machine.execXori d a imm s
  | .shli d a imm => Sys2Proof.Machine.execShli d a imm s
  | .shri d a imm => Sys2Proof.Machine.execShri d a imm s
  | .sari d a imm => Sys2Proof.Machine.execSari d a imm s
  | .lih d imm => Sys2Proof.Machine.execLih d imm s
  | .cmp p a b c => Sys2Proof.Machine.execCmp p a b c s
  | .cmpi p a c imm => Sys2Proof.Machine.execCmpi p a c imm s
  | .sel d a b neg p => Sys2Proof.Machine.execSel d a b neg p s
  | .plog d a b o => Sys2Proof.Machine.execPlog d a b o s
  | .ld d a b z sgn => Sys2Proof.Machine.execLd d a b z sgn s
  | .st d a b z => Sys2Proof.Machine.execSt d a b z s
  | .ldAcq d a b z o => Sys2Proof.Machine.execLdAcq d a b z o s
  | .stRel d a b z o => Sys2Proof.Machine.execStRel d a b z o s
  | .spcq d a => Sys2Proof.Machine.execSpcq d a s
  | .spcast d a b k => Sys2Proof.Machine.execSpcast d a b k s
  | .xlt x a w => Sys2Proof.Machine.execXlt x a w s
  | .setmf a b => Sys2Proof.Machine.execSetmf a b s
  | .setvf a b => Sys2Proof.Machine.execSetvf a b s
  | .mfs d n => Sys2Proof.Machine.execMfs d n s
  | .mts a n => Sys2Proof.Machine.execMts a n s
  | .chk a b => Sys2Proof.Machine.execChk a b s
  | .tinfo d a f => Sys2Proof.Machine.execTinfo d a f s
  | .tsets a b => Sys2Proof.Machine.execTsets a b s
  | .rng d a b => Sys2Proof.Machine.execRng d a b s
  | .vadd d a b t m => Sys2Proof.Machine.execVadd d a b t m s
  | .vsub d a b t m => Sys2Proof.Machine.execVsub d a b t m s
  | .vadds d a b t m => Sys2Proof.Machine.execVadds d a b t m s
  | .vsubs d a b t m => Sys2Proof.Machine.execVsubs d a b t m s
  | .vmul d a b t m => Sys2Proof.Machine.execVmul d a b t m s
  | .vmulhr d a b t m => Sys2Proof.Machine.execVmulhr d a b t m s
  | .vmin d a b t m => Sys2Proof.Machine.execVmin d a b t m s
  | .vmax d a b t m => Sys2Proof.Machine.execVmax d a b t m s
  | .vabs d a t m => Sys2Proof.Machine.execVabs d a t m s
  | .vneg d a t m => Sys2Proof.Machine.execVneg d a t m s
  | .vand d a b t m => Sys2Proof.Machine.execVand d a b t m s
  | .vor d a b t m => Sys2Proof.Machine.execVor d a b t m s
  | .vxor d a b t m => Sys2Proof.Machine.execVxor d a b t m s
  | .vshl d a b t m => Sys2Proof.Machine.execVshl d a b t m s
  | .vshr d a b t m => Sys2Proof.Machine.execVshr d a b t m s
  | .vsar d a b t m => Sys2Proof.Machine.execVsar d a b t m s
  | .vshli d a imm t m => Sys2Proof.Machine.execVshli d a imm t m s
  | .vsari d a imm t m => Sys2Proof.Machine.execVsari d a imm t m s
  | .vrshr d a b t m => Sys2Proof.Machine.execVrshr d a b t m s
  | .vcvt d a b t m => Sys2Proof.Machine.execVcvt d a b t m s
  | .vcmp d a b t c => Sys2Proof.Machine.execVcmp d a b t c s
  | .vsel d a b t => Sys2Proof.Machine.execVsel d a b t s
  | .vbcast d a t m => Sys2Proof.Machine.execVbcast d a t m s
  | .vextr d a b t => Sys2Proof.Machine.execVextr d a b t s
  | .vperm d a b t m => Sys2Proof.Machine.execVperm d a b t m s
  | .vslide d a b t m => Sys2Proof.Machine.execVslide d a b t m s
  | .vrsum d a t m => Sys2Proof.Machine.execVrsum d a t m s
  | .vrmax d a t m => Sys2Proof.Machine.execVrmax d a t m s
  | .vrmin d a t m => Sys2Proof.Machine.execVrmin d a t m s
  | .vscan d a t m => Sys2Proof.Machine.execVscan d a t m s
  | .vdot d a b t m => Sys2Proof.Machine.execVdot d a b t m s
  | .vcls d a t m => Sys2Proof.Machine.execVcls d a t m s
  | .vcensus d a t m => Sys2Proof.Machine.execVcensus d a t m s
  | .vld x k a => Sys2Proof.Machine.execVld x k a s
  | .vst x k a => Sys2Proof.Machine.execVst x k a s
  | .vldx x h a masked => Sys2Proof.Machine.execVldx x h a masked s
  | .vstx x h a masked => Sys2Proof.Machine.execVstx x h a masked s
  | .mpush a t => Sys2Proof.Machine.execMpush a t s
  | .mget d t => Sys2Proof.Machine.execMget d t s
  | .vfn d a b t m => Sys2Proof.Machine.execVfn d a b t m s
  | .vfnld x k a => Sys2Proof.Machine.execVfnld x k a s
  | .vdiv d a b t m => Sys2Proof.Machine.execVdiv d a b t m s
  | .vopt r h a => Sys2Proof.Machine.execVopt r h a s
  | .vchk a b => Sys2Proof.Machine.execVchk a b s
  | .vres d => Sys2Proof.Machine.execVres d s
  | .mma x h k => Sys2Proof.Machine.execMma x h k s
  | .mmaz x h k => Sys2Proof.Machine.execMmaz x h k s
  | .mmat x h k => Sys2Proof.Machine.execMmat x h k s
  | .mmbt x h k => Sys2Proof.Machine.execMmbt x h k s
  | .mmac x h y => Sys2Proof.Machine.execMmac x h y s
  | .mout x h sh => Sys2Proof.Machine.execMout x h sh s
  | .mload x h sh => Sys2Proof.Machine.execMload x h sh s
  | .madd x h sh => Sys2Proof.Machine.execMadd x h sh s
  | .mzero x r c => Sys2Proof.Machine.execMzero x r c s
  | .mcens x => Sys2Proof.Machine.execMcens x s
  | .mbias x h col => Sys2Proof.Machine.execMbias x h col s
  | .copy n a b c f => Sys2Proof.Machine.execCopy n a b c f s
  | .copyg n a b c => Sys2Proof.Machine.execCopyg n a b c s
  | .copys n a b c => Sys2Proof.Machine.execCopys n a b c s
  | .copyr n a b c f => Sys2Proof.Machine.execCopyr n a b c f s
  | .saeq n a b c f => Sys2Proof.Machine.execSaeq n a b c f s
  | .saef n a b c f => Sys2Proof.Machine.execSaef n a b c f s
  | .atom n a b c f => Sys2Proof.Machine.execAtom n a b c f s
  | .signal n a b plus f => Sys2Proof.Machine.execSignal n a b plus f s
  | .pgreq n a b w => Sys2Proof.Machine.execPgreq n a b w s
  | .migr n a b c => Sys2Proof.Machine.execMigr n a b c s
  | .cgld n a b clr => Sys2Proof.Machine.execCgld n a b clr s
  | .prep b off => Sys2Proof.Machine.execPrep b off s
  | .prepr b a => Sys2Proof.Machine.execPrepr b a s
  | .br b p neg always => Sys2Proof.Machine.execBr b p neg always s
  | .bru b => Sys2Proof.Machine.execBru b s
  | .call b => Sys2Proof.Machine.execCall b s
  | .loop l a len => Sys2Proof.Machine.execLoop l a len s
  | .loops l a len stages => Sys2Proof.Machine.execLoops l a len stages s
  | .wait w x y z => Sys2Proof.Machine.execWait w x y z s
  | .sync l => Sys2Proof.Machine.execSync l s
  | .fence o => Sys2Proof.Machine.execFence o s
  | .fenceHeavy o => Sys2Proof.Machine.execFenceHeavy o s
  | .brk c => Sys2Proof.Machine.execBrk c s
  | .limm p => Sys2Proof.Machine.execLimm p s
  | .rept c e0 e1 e2 e3 => Sys2Proof.Machine.execRept c e0 e1 e2 e3 s
  | .talloc d a b l t => Sys2Proof.Machine.execTalloc d a b l t s
  | .tfree a => Sys2Proof.Machine.execTfree a s
  | .tlink a b => Sys2Proof.Machine.execTlink a b s
  | .tid d f => Sys2Proof.Machine.execTid d f s
  | .spawn d a => Sys2Proof.Machine.execSpawn d a s
  | .fork d a => Sys2Proof.Machine.execFork d a s
  | .join d a => Sys2Proof.Machine.execJoin d a s
  | .trap c => Sys2Proof.Machine.execTrap c s
  | .pipew a p => Sys2Proof.Machine.execPipew a p s
  | .piper d p => Sys2Proof.Machine.execPiper d p s
  | .rvset a b clr => Sys2Proof.Machine.execRvset a b clr s
  | .resultPush core => Sys2Proof.Machine.execResultPush core s
  | .formatWriteApply core => Sys2Proof.Machine.execFormatWriteApply core s
  | .storePerformAtHome op => Sys2Proof.Machine.execStorePerformAtHome op s
  | .releaseStorePerform op => Sys2Proof.Machine.execReleaseStorePerform op s
  | .postedWriteAcknowledge op err => Sys2Proof.Machine.execPostedWriteAcknowledge op err s
  | .remoteLoadResponse op data err => Sys2Proof.Machine.execRemoteLoadResponse op data err s
  | .fabricRequestTimeout op => Sys2Proof.Machine.execFabricRequestTimeout op s
  | .fenceHeavySerialisation ask core => Sys2Proof.Machine.execFenceHeavySerialisation ask core s
  | .fenceHeavyAcknowledge op acc core => Sys2Proof.Machine.execFenceHeavyAcknowledge op acc core s
  | .firmwareStopRequest core => Sys2Proof.Machine.execFirmwareStopRequest core s
  | .taskSave core => Sys2Proof.Machine.execTaskSave core s
  | .taskRestore core => Sys2Proof.Machine.execTaskRestore core s
  | .lazyRestoreFill op => Sys2Proof.Machine.execLazyRestoreFill op s
  | .timeSliceExpiry core => Sys2Proof.Machine.execTimeSliceExpiry core s
  | .joinBlockSwitch core => Sys2Proof.Machine.execJoinBlockSwitch core s
  | .clampLineRelease task line => Sys2Proof.Machine.execClampLineRelease task line s
  | .vfnldComplete op n => Sys2Proof.Machine.execVfnldComplete op n s
  | .voptComplete op => Sys2Proof.Machine.execVoptComplete op s
  | .matrixInstructionStart op => Sys2Proof.Machine.execMatrixInstructionStart op s
  | .matrixInstructionComplete op => Sys2Proof.Machine.execMatrixInstructionComplete op s
  | .repeatRepetition core => Sys2Proof.Machine.execRepeatRepetition core s
  | .copyOperationComplete op n => Sys2Proof.Machine.execCopyOperationComplete op n s
  | .atomPerform op => Sys2Proof.Machine.execAtomPerform op s
  | .signalPerform op => Sys2Proof.Machine.execSignalPerform op s
  | .farOperationAcknowledge op old sat err => Sys2Proof.Machine.execFarOperationAcknowledge op old sat err s
  | .pageWalkComplete op => Sys2Proof.Machine.execPageWalkComplete op s
  | .xltResult op => Sys2Proof.Machine.execXltResult op s
  | .pgreqComplete op => Sys2Proof.Machine.execPgreqComplete op s
  | .invalidationDrainComplete op => Sys2Proof.Machine.execInvalidationDrainComplete op s
  | .remoteRequestReceive req => Sys2Proof.Machine.execRemoteRequestReceive req s
  | .requestRefused op why => Sys2Proof.Machine.execRequestRefused op why s
  | .homeConsult src page => Sys2Proof.Machine.execHomeConsult src page s
  | .homeAnswer op page ans => Sys2Proof.Machine.execHomeAnswer op page ans s
  | .requesterHoldRelease page => Sys2Proof.Machine.execRequesterHoldRelease page s
  | .redirect page owner epoch => Sys2Proof.Machine.execRedirect page owner epoch s
  | .ownerCacheExpiry page => Sys2Proof.Machine.execOwnerCacheExpiry page s
  | .migrationRequestAtHome m => Sys2Proof.Machine.execMigrationRequestAtHome m s
  | .migrationForwardAtOwner m home => Sys2Proof.Machine.execMigrationForwardAtOwner m home s
  | .reserve m owner home frame => Sys2Proof.Machine.execReserve m owner home frame s
  | .reserveAccept page accept => Sys2Proof.Machine.execReserveAccept page accept s
  | .transferAcknowledge page => Sys2Proof.Machine.execTransferAcknowledge page s
  | .migrationAbort page => Sys2Proof.Machine.execMigrationAbort page s
  | .commit page owner => Sys2Proof.Machine.execCommit page owner s
  | .commitAcknowledge page epoch => Sys2Proof.Machine.execCommitAcknowledge page epoch s
  | .endForward page rd w epoch queue => Sys2Proof.Machine.execEndForward page rd w epoch queue s
  | .migrComplete op status owner => Sys2Proof.Machine.execMigrComplete op status owner s
  | .stubLifetimeEnd page => Sys2Proof.Machine.execStubLifetimeEnd page s
  | .stubRetire page src => Sys2Proof.Machine.execStubRetire page src s
  | .stubRetireAcknowledge page => Sys2Proof.Machine.execStubRetireAcknowledge page s
  | .stubRetireTimeout page => Sys2Proof.Machine.execStubRetireTimeout page s
  | .taskAdmission task => Sys2Proof.Machine.execTaskAdmission task s
  | .taskDispatch core => Sys2Proof.Machine.execTaskDispatch core s
  | .gangRelease die => Sys2Proof.Machine.execGangRelease die s
  | .pipewFill op => Sys2Proof.Machine.execPipewFill op s
  | .proxyBatchSend acc => Sys2Proof.Machine.execProxyBatchSend acc s
  | .taskRecordBatch src tasks => Sys2Proof.Machine.execTaskRecordBatch src tasks s
  | .jobCardTileArrival src task tile => Sys2Proof.Machine.execJobCardTileArrival src task tile s
  | .stealRequest die => Sys2Proof.Machine.execStealRequest die s
  | .stolenRecordArrival task thief epoch => Sys2Proof.Machine.execStolenRecordArrival task thief epoch s
  | .stealAck task thief => Sys2Proof.Machine.execStealAck task thief s
  | .stealConfirm task thief => Sys2Proof.Machine.execStealConfirm task thief s
  | .stealTimerExpiry cause => Sys2Proof.Machine.execStealTimerExpiry cause s
  | .stealCancel task thief => Sys2Proof.Machine.execStealCancel task thief s
  | .snapshotEstablish rev => Sys2Proof.Machine.execSnapshotEstablish rev s
  | .cowCopyComplete op => Sys2Proof.Machine.execCowCopyComplete op s
  | .childMerge rev => Sys2Proof.Machine.execChildMerge rev s
  | .granuleMergeComplete op => Sys2Proof.Machine.execGranuleMergeComplete op s
  | .creditToken station peer ch reserved => Sys2Proof.Machine.execCreditToken station peer ch reserved s
  | .chunkOpRun asid slot k => Sys2Proof.Machine.execChunkOpRun asid slot k s
  | .chunkOpComplete op n => Sys2Proof.Machine.execChunkOpComplete op n s
  | .chunkReceive c => Sys2Proof.Machine.execChunkReceive c s
  | .cgldComplete op n => Sys2Proof.Machine.execCgldComplete op n s
  | .workRingPoll asid ring => Sys2Proof.Machine.execWorkRingPoll asid ring s
  | .runArm asid ring => Sys2Proof.Machine.execRunArm asid ring s
  | .runComplete asid ring => Sys2Proof.Machine.execRunComplete asid ring s
  | .collectiveTimeout asid ring => Sys2Proof.Machine.execCollectiveTimeout asid ring s
  | .earlyChunkTimeout station k => Sys2Proof.Machine.execEarlyChunkTimeout station k s
  | .launch qid n => Sys2Proof.Machine.execLaunch qid n s
  | .waitPacket qid n => Sys2Proof.Machine.execWaitPacket qid n s
  | .signalPacket qid n => Sys2Proof.Machine.execSignalPacket qid n s
  | .copyPacket qid n => Sys2Proof.Machine.execCopyPacket qid n s
  | .publishPacket qid n => Sys2Proof.Machine.execPublishPacket qid n s
  | .packetComplete op n => Sys2Proof.Machine.execPacketComplete op n s
  | .coalescingTimerExpiry qid => Sys2Proof.Machine.execCoalescingTimerExpiry qid s
  | .queueMap qid => Sys2Proof.Machine.execQueueMap qid s
  | .queueSliceEnd qid => Sys2Proof.Machine.execQueueSliceEnd qid s
  | .queueAgeingStep qid => Sys2Proof.Machine.execQueueAgeingStep qid s
  | .signalUnitPoll qid n => Sys2Proof.Machine.execSignalUnitPoll qid n s
  | .ctxEnd packet => Sys2Proof.Machine.execCtxEnd packet s
  | .queueRemoveComplete qid => Sys2Proof.Machine.execQueueRemoveComplete qid s
  | .pin msg => Sys2Proof.Machine.execPin msg s
  | .owner msg => Sys2Proof.Machine.execOwner msg s
  | .illegalSlotWord core => Sys2Proof.Machine.execIllegalSlotWord core s
  | .loadPerformAtHome op => Sys2Proof.Machine.execLoadPerformAtHome op s
  | .taskAgeingStep task => Sys2Proof.Machine.execTaskAgeingStep task s
  | .minv => Sys2Proof.Machine.execMinv s
  | .mpop => Sys2Proof.Machine.execMpop s
  | .nop => Sys2Proof.Machine.execNop s
  | .ret => Sys2Proof.Machine.execRet s
  | .fenceLite => Sys2Proof.Machine.execFenceLite s
  | .yield => Sys2Proof.Machine.execYield s
  | .endTask => Sys2Proof.Machine.execEndTask s
  | .publish => Sys2Proof.Machine.execPublish s
  | .invalidate packet => Sys2Proof.Machine.execInvalidate packet s
  | .policyMove page target => Sys2Proof.Machine.execPolicyMove page target s
  | .flitReceive station src ch mark => Sys2Proof.Machine.execFlitReceive station src ch mark s
  | .stationLinkFailure station => Sys2Proof.Machine.execStationLinkFailure station s
  | .kick qid head => Sys2Proof.Machine.execKick qid head s
  | .publishAcknowledge op => Sys2Proof.Machine.execPublishAcknowledge op s
  | .ctxSet packet => Sys2Proof.Machine.execCtxSet packet s
  | .queueSet packet => Sys2Proof.Machine.execQueueSet packet s
  | .queueReset packet => Sys2Proof.Machine.execQueueReset packet s
  | .pool packet => Sys2Proof.Machine.execPool packet s
  | .wring packet => Sys2Proof.Machine.execWring packet s
  | .pageReply packet => Sys2Proof.Machine.execPageReply packet s
  | .migrPolicy packet => Sys2Proof.Machine.execMigrPolicy packet s
  | .timing packet => Sys2Proof.Machine.execTiming packet s
  | .schedulerMemoryError e => Sys2Proof.Machine.execSchedulerMemoryError e s
  | .workerFailure worker => Sys2Proof.Machine.execWorkerFailure worker s
  | .fwFatal => Sys2Proof.Machine.execFwFatal s
  | .deviceReset => Sys2Proof.Machine.execDeviceReset s
  | .bootGo => Sys2Proof.Machine.execBootGo s
  | .bootReset => Sys2Proof.Machine.execBootReset s
  | .registerWrite r v => Sys2Proof.Machine.execRegisterWrite r v s
  | .firmwareReady => Sys2Proof.Machine.execFirmwareReady s
  | .cxlMemAccess pa act => Sys2Proof.Machine.execCxlMemAccess pa act s
  | .storageWindowAccess requester off act => Sys2Proof.Machine.execStorageWindowAccess requester off act s
  | .accessTableChange target k e => Sys2Proof.Machine.execAccessTableChange target k e s
  | .freeze => Sys2Proof.Machine.execFreeze s
  | .tapReadout => Sys2Proof.Machine.execTapReadout s
  | .rasCounterClear k => Sys2Proof.Machine.execRasCounterClear k s
  | .coreOffline core => Sys2Proof.Machine.execCoreOffline core s
  | .thermalStepDown => Sys2Proof.Machine.execThermalStepDown s
  | .thermalStepUp => Sys2Proof.Machine.execThermalStepUp s
  | .thermalTrip => Sys2Proof.Machine.execThermalTrip s
  | .peerPackageReset acc => Sys2Proof.Machine.execPeerPackageReset acc s
  | .serviceRingFreed asid n => Sys2Proof.Machine.execServiceRingFreed asid n s
  | .cxlIdeKeyExchange => Sys2Proof.Machine.execCxlIdeKeyExchange s
  | .stagingWindowWrite off data => Sys2Proof.Machine.execStagingWindowWrite off data s
  | .mappingRequest asid va size => Sys2Proof.Machine.execMappingRequest asid va size s
  | .storageWindowEntrySet k winOff pa len requester master => Sys2Proof.Machine.execStorageWindowEntrySet k winOff pa len requester master s
  | .powerCapSet watts => Sys2Proof.Machine.execPowerCapSet watts s

end Sys2Proof.Machine
end

