-- ==== Sys2Proof/Machine/Engines.lean ====
section
/-! DEFINITION. Which event the engines of the package take next when the clock alone drives them
(notes/assumptions 1): the first of the candidates below whose row changes the state. Answers from outside the
package come through the agenda. -/

namespace Sys2Proof.Machine

open Sys2Proof

/-- The candidates of an operation in flight.
DESIGN CHOICE (notes/assumptions/6). -/
def opEvents (s : State) (o : Op) : List Instr :=
  let timeout : List Instr := if fabricExpired s o then [.fabricRequestTimeout o.id] else []
  let done (i : Instr) := if o.due ≤ s.cyc then [i] else []
  match o.kind with
  | .desc _ _ => timeout
  | .load l | .record _ _ l =>
    if l.taken && decide (l.next < l.runs.length) then timeout else done (.loadPerformAtHome o.id)
  | .store w =>
    if w.rel.isSome && !w.sent then [.releaseStorePerform o.id]
    else
      match w.place with
      | .here _ => done (.storePerformAtHome o.id)
      | .far _ _ _ | .zero => timeout
  | .copy _ => done (.copyOperationComplete o.id ())
  | .cgld _ _ _ _ _ => done (.cgldComplete o.id ())
  | .far f =>
    if f.performed then
      match f.place with
      | .here _ => done (.farOperationAcknowledge o.id 0 false none)
      | .far _ _ _ | .zero => timeout
    else if isAtom f then done (.atomPerform o.id)
    else done (.signalPerform o.id)
  | .pgreq _ _ _ _ _ => done (.pgreqComplete o.id)
  | .migr _ _ _ r =>
    match r with
    | some (st, owner) => done (.migrComplete o.id st owner)
    | none => timeout
  | .matrix m =>
    if m.started.isSome then done (.matrixInstructionComplete o.id) else [.matrixInstructionStart o.id]
  | .vfnld _ _ _ => done (.vfnldComplete o.id ())
  | .vopt _ _ _ _ _ _ _ _ => done (.voptComplete o.id)
  | .pipew _ _ _ _ => done (.pipewFill o.id)
  | .walk _ _ _ => done (.pageWalkComplete o.id)
  | .xlt _ _ _ => done (.xltResult o.id)
  | .fill _ _ => done (.lazyRestoreFill o.id)
  | .cow _ => done (.cowCopyComplete o.id)
  | .merge _ => done (.granuleMergeComplete o.id)
  | .fenceHeavy _ _ _ => timeout
  | .publish begun => (if begun then [.packetComplete o.id ()] else []) ++ timeout
  | .invalidate _ _ _ _ _ _ => [.invalidationDrainComplete o.id]
  | .packet p => done (.packetComplete o.id ()) ++ if p.kind = .publish ∧ p.finished = false then timeout else []
  | .ownerCmd _ _ => timeout
  | .part p => if p.ans = .waits then timeout else []
  | .chunk _ _ _ => done (.chunkOpComplete o.id ())

/-- The candidates of a core: its task's stop, save, restore, slice and dispatch. A gang stops on one clock cycle. -/
def coreEvents (s : State) (n : Nat) (c : Core) : List Instr :=
  match c.mode with
  | .stopped _ => [.firmwareStopRequest n, .taskSave n]
  | .restoring => [.taskRestore n]
  | .idle => if c.runq = [] then [] else [.taskDispatch n]
  | .running =>
    if s.turn ≠ [] ∨ (coresWith s c.task).any (publishing s) then []
    else (if memberStopped s c.task then [.firmwareStopRequest n] else []) ++ [.timeSliceExpiry n, .joinBlockSwitch n]
  | .ended => []

/-- The candidates of a task. -/
def taskEvents (s : State) (t : Task) : List Instr :=
  match t.state with
  | .pooled | .waiting => [.taskAdmission t.id]
  | .queued n =>
    let age := (((s.coreAt n).runq.find? fun q => q.task == t.id).map fun q => s.cyc - q.since).getD 0
    (if age % 4096 = 0 ∧ age ≠ 0 ∧ s.turn = [] then [.taskAgeingStep t.id] else []) ++ [.stealTimerExpiry (.timer t.id)]
  | .ready | .stealing | .running | .stopped | .done => []

/-- The candidates of a die: a clamp line's release, the gang binder, the stealing agent. -/
def dieEvents (s : State) (d : Nat) : List Instr :=
  let lines := (s.dieAt d).clamps.filterMap fun (_, k) =>
    if (k.releaseAt.map fun t => decide (t ≤ s.cyc)).getD false then some (Instr.clampLineRelease k.task k.line) else none
  lines ++ [.gangRelease d, .stealRequest d]

/-- The candidates of the revision units and of the migration agent. -/
def pageEvents (s : State) : List Instr :=
  s.revs.flatMap (fun (v, r) =>
    match r.state with
    | .forking => [.snapshotEstablish v]
    | .live => [.childMerge v]
    | .merged _ | .discarded => []) ++
  s.mig.holds.map (fun h => .requesterHoldRelease h.page) ++
  s.mig.moves.map (fun m => .migrationAbort m.req.page) ++
  s.mig.stubs.flatMap (fun x => [.stubLifetimeEnd x.page, .stubRetireTimeout x.page]) ++
  (s.mig.cache.filter fun e => decide (e.last + 500000 ≤ nowNs s)).map (fun e => .ownerCacheExpiry e.page)

/-- The candidates of a work ring. -/
def ringEvents (s : State) (asid ring : Nat) (r : WorkRing) : List Instr :=
  (if r.lastPollU + pollU ≤ s.timeU then [Instr.workRingPoll asid ring] else []) ++
    [.runComplete asid ring, .collectiveTimeout asid ring, .runArm asid ring]

/-- The candidates of a station: the op that its sequencer runs next, and its early chunks. -/
def stationEvents (s : State) (n : Nat) (x : Station) : List Instr :=
  (match nextOpAt s n with
    | some (asid, slot, i) => [Instr.chunkOpRun asid slot i]
    | none => []) ++ (List.range x.early.length).map (fun i => .earlyChunkTimeout n i)

/-- The row of a queue's next packet, by its kind; the first row reads it where it lies in another package, and halts the
queue where it cannot be read. -/
def packetEvent (s : State) (qid : Nat) (q : Queue) : List Instr :=
  if !mayStartPacket s qid q then []
  else
    let f := nextBytes s qid q
    if f.waits || f.fail.isSome then [.launch qid ()]
    else
      match (packetOf (f.data.map Prod.fst)).kind with
      | 2 => [.waitPacket qid ()]
      | 3 => [.signalPacket qid ()]
      | 4 => [.copyPacket qid ()]
      | 5 => [.publishPacket qid ()]
      | _ => [.launch qid ()]

/-- The signal unit reads the parked queues' words once every 2 µs (16_front_end R384). -/
def signalTime (s : State) : Bool := crossed s 0 (2 * microU)

/-- A client has packets of its own. -/
def hasParts (s : State) (c : Client) : Bool :=
  s.ops.any fun o =>
    match o.kind with
    | .part p => p.client == c
    | _ => false

/-- The candidates of a queue. -/
def queueEvents (s : State) (qid : Nat) (q : Queue) : List Instr :=
  let aged := crossed s (q.since * 12252240 / 10) (100 * microU) && q.state == .waiting
  (if aged then [Instr.queueAgeingStep qid] else []) ++
    (if q.state = .parked ∧ (signalTime s = true ∨ hasParts s (.parked qid) = true) then [.signalUnitPoll qid ()] else []) ++
    packetEvent s qid q ++
    [.queueRemoveComplete qid, .coalescingTimerExpiry qid, .queueMap qid, .queueSliceEnd qid]

/-- The candidates, in the order in which they are taken. -/
def engineEvents (s : State) : List Instr :=
  s.ops.flatMap (opEvents s) ++ s.cores.flatMap (fun (n, c) => coreEvents s n c) ++ s.tasks.flatMap (taskEvents s) ++
    (if s.tasks = [] then [] else [0, 1, 2, 3].flatMap (dieEvents s)) ++
    s.batches.map (fun b => .proxyBatchSend b.acc) ++ pageEvents s ++
    s.ctxs.flatMap (fun (a, c) => c.rings.flatMap fun (k, r) => ringEvents s a k r) ++
    s.stations.flatMap (fun (n, x) => stationEvents s n x) ++ s.queues.flatMap (fun (n, q) => queueEvents s n q)

/-- A row tried again after a clock cycle. -/
def again (i : Instr) : Out → Out
  | .next t => .next (t.retry i)
  | .fault f => .fault f
  | .refused r => .refused r

/-- An event of the agenda happens: an admin command whose turn has not come is tried again (16_front_end R382, R387). -/
def takeEvent (i : Instr) (s : State) : Out := if adminWaits s i then again i (exec i s) else exec i s

/-- A row changes the state. -/
def acts (s : State) (i : Instr) : Bool :=
  match exec i s with
  | .next t => t != s
  | .fault _ | .refused _ => true

/-- The next event of the engines that is due and enabled, if any. -/
def engineNext (s : State) : Option Instr := (engineEvents s).find? (acts s)

end Sys2Proof.Machine
end

