-- ==== Sys2Proof/Machine/Step.lean ====
section
/-! DEFINITION. One step of the package: one row of the table, a core's stop or stall, or a tick of the
clock (notes/assumptions 1). -/

namespace Sys2Proof.Machine

open Sys2Proof

/-- The outcome with the core's turn taken. -/
def endTurn : Host.Outcome State Fault Refusal → Host.Outcome State Fault Refusal
  | .next t => .next { t with turn := t.turn.tail }
  | o => o

/-- Runs the slots of a bundle in one phase, in ascending slot index (02_bundles R31).
DEDUCED (notes/assumptions/59). -/
def runSlots : Nat → List Instr → State → Host.Outcome State Fault Refusal
  | _, [], s => .next s
  | k, i :: is, s =>
    match exec i { s with iss := { s.iss with slot := k } } with
    | .next t => runSlots (k + 1) is t
    | o => o

/-- Issues a bundle: one slot at once, several checked before any acts (02_bundles R31, R40).
DEDUCED (notes/assumptions/59). -/
def issueBundle (is : List Instr) (words : Nat) (s : State) : Host.Outcome State Fault Refusal :=
  match is with
  | [i] => exec i { s with iss := { words := words } }
  | is =>
    match runSlots 0 is { s with iss := { phase := .check, words := words } } with
    | .next noted =>
      match runSlots 0 is { s with iss := { phase := .commit, words := words } } with
      | .next acted => .next (conclude noted acted)
      | o => o
    | o => o

/-- A core at its boundary (06_sequencer R139): the row or stall that comes next.
DESIGN CHOICE (notes/assumptions/1). -/
def coreStep (n : Nat) (s : State) : Host.Outcome State Fault Refusal :=
  let c := s.coreAt n
  let s := { s with cur := n }
  match nextAtBoundary s c with
  | .skip => .next { s with turn := s.turn.tail }
  | .set t => .next t
  | .wait t => .next { t with turn := t.turn.tail }
  | .row i => exec i s
  | .issue is words => endTurn (issueBundle is words s)

/-- One step.
DESIGN CHOICE (notes/assumptions/1). -/
def step (s : State) : Host.Outcome State Fault Refusal :=
  if clockStopped s then
    match s.agenda with
    | [] => .fault .clockStopped
    | (_, i) :: r => if actsWhenStopped s i then exec i { s with agenda := r } else .next { s with agenda := r }
  else
    match s.agenda with
    | (0, i) :: r => takeEvent i { s with agenda := r }
    | _ =>
      match s.own with
      | (0, i) :: r => takeEvent i { s with own := r }
      | _ =>
        match engineNext s with
        | some i => exec i s
        | none =>
          match s.turn with
          | n :: _ => coreStep n s
          | [] => if s.sys.boot = .init then .next (bootRom s) else .next (tick s)

/-- The state with an instruction stored where the next step fetches and runs it (notes/assumptions 7). -/
def State.withFetchWord (s : State) (_nbits w : Nat) : State :=
  { s.modCore s.cur (readyCore w) with
    agenda := []
    own := []
    ops := []
    turn := [s.cur]
    iss := {}
    sys := { s.sys with boot := .ready, frozen := false } }

end Sys2Proof.Machine
end

