-- ==== Sys2Proof/Machine/SaveArea.lean ====
section
/-! DEFINITION. The bytes of a save area, as Tables 6-5, 6-6, 6-11, 6-12, 9-9 and 9-10 lay them out (06_sequencer
R167–R175; 08_function R213; 09_matrix R240). Programs cannot reach an area and firmware alone reads it, so the model
holds the saved state once, in its structured form (`Task.saved`, the operations that a stop keeps, and the storage the
member left), and computes the area from it (notes/assumptions 19). -/

namespace Sys2Proof.Machine

open Sys2Proof

/-- The first bytes of a part of `n` bytes, the remainder zero. -/
def part (n : Nat) (bs : List Byte) : List Byte := (bs ++ List.replicate n 0).take n

/-- The registers below `n` of a file, `w` bytes each, in ascending number. -/
def fileBytes (n w : Nat) (f : Nat → Nat) : List Byte := (List.range n).flatMap fun i => leBytes w (f i)

/-- Bits of a number set where a predicate of their positions holds. -/
def bitSum (n : Nat) (f : Nat → Bool) : Nat := ((List.range n).map fun i => bitN (f i) i).sum

/-! ### The registers (R167 Table 6-5) -/

/-- HDR: the resume bundle, the pending pushes, the stop kind, and NBUN. -/
def hdrBytes (v : Saved) : List Byte :=
  leBytes 2 v.ctx.pc ++ leBytes 1 v.ctx.pushes.length ++ leBytes 1 v.kind ++ leBytes 8 v.ctx.nbun.toNat

/-- A loop-stack entry, whose layout within its 8 bytes the spec does not give. -/
def loopBytes (e : LoopEntry) : List Byte :=
  (List.range 8).map (Config.loopByte e.lc e.first e.close e.loops e.stages e.retDepth)

/-- SEQ. The return and loop stacks stand bottom first. -/
def seqBytes (c : Ctx) : List Byte :=
  leBytes 2 c.p.toNat ++ fileBytes 4 4 (fun i => (c.lc.getD i 0).toNat) ++ fileBytes 8 2 (fun i => c.bt.getD i 0) ++
    leBytes 1 c.ret.length ++ leBytes 1 c.loops.length ++
    ([c.cnt.c0, c.cnt.c1, c.cnt.t, c.cnt.s].flatMap fun n => leBytes 1 n) ++
    c.loops.reverse.flatMap loopBytes

/-- SYSREG. -/
def sysregBytes (c : Ctx) : List Byte :=
  ([c.mf, c.vf, c.rseed, c.rstep, cstatWord c.chan0 c.cnt.c0, cstatWord c.chan1 c.cnt.c1, c.satf.setWidth 64].flatMap
      fun x => leBytes 8 x.toNat) ++
    fileBytes 4 8 (fun i => (c.mo.getD i 0).toNat) ++ fileBytes 4 8 (fun i => (c.mi.getD i 0).toNat) ++
    fileBytes 8 8 (fun i => (c.optc.getD i 0).toNat) ++ leBytes 8 (rmaskloWord c).toNat

/-- The selectors of a REPEAT, as in the prefix. -/
def selByte (rs : List RepSel) : Nat :=
  (List.range 4).foldl (fun n i => n + ((rs[i]?).map RepSel.code).getD 0 * 4 ^ i) 0

/-- REPEAT (R175). -/
def repeatBytes (c : Ctx) : List Byte :=
  match c.rep with
  | none => []
  | some r =>
    leBytes 1 1 ++ leBytes 1 (selByte r.sel) ++ leBytes 2 r.left ++ leBytes 2 r.addr ++ leBytes 2 r.issued ++
      leBytes 4 r.word

/-- Pending format writes, oldest first, each a value and a countdown. -/
def fmtBytes (c : Ctx) (vf : Bool) : List Byte :=
  (c.fmts.filter fun f => f.vf == vf).flatMap fun f => leBytes 8 f.val.toNat ++ leBytes 1 f.count

/-- PENDCTL. -/
def pendctlBytes (c : Ctx) : List Byte :=
  part 27 (fmtBytes c false) ++ part 18 (fmtBytes c true) ++ leBytes 1 (bitSum 4 fun i => decide (i ∈ c.arrived))

/-- MASKSTK: 16 masks, bottom first, then the depth. -/
def maskstkBytes (c : Ctx) : List Byte :=
  part 1024 (c.mask.reverse.flatMap fun m => leBytes 64 m.toNat) ++ leBytes 1 c.mask.length

/-- A queue of 16 entries, the newest first. -/
def queueBytes {n : Nat} (w : Nat) (q : List (BitVec n)) : List Byte := fileBytes 16 w fun i => (q.getD i 0).toNat

/-! ### Pending pushes (R169 Table 6-6) -/

/-- STATE and ERR of an entry. -/
def pushStatus : PushState → Nat × Nat
  | .ready => (0, 0)
  | .awaiting _ => (1, 0)
  | .failed code _ => (2, faultNumber code)

/-- A pending-push entry. -/
def pushBytes (p : Push) : List Byte :=
  part 272 (leBytes 1 (if p.vec then 2 else 1) ++ leBytes 1 p.dest ++ leBytes 1 (pushStatus p.state).1 ++
    leBytes 1 (pushStatus p.state).2 ++ leBytes 2 p.count ++ leBytes 2 0 ++ leBytes 8 p.addr.toNat ++
    (if p.vec then leBytes 256 p.vval.toNat else leBytes 8 p.sval.toNat))

/-- PENDPUSH: the entries in the order in which they will be performed. -/
def pendpushBytes (c : Ctx) : List Byte :=
  (c.pushes.mergeSort fun a b => decide (a.count ≤ b.count)).flatMap pushBytes

/-! ### Marks (R174 Table 6-12) -/

/-- A mark. -/
def markBytes (m : Mark) : List Byte :=
  leBytes 1 (faultNumber m.code) ++ leBytes 1 m.lost ++ leBytes 2 m.bundle ++ leBytes 4 0 ++ leBytes 8 m.faddr.toNat

/-- MARKS: four marks of each class, in the order C0, C1, T and S. -/
def marksBytes (c : Ctx) : List Byte :=
  [c.marks.c0, c.marks.c1, c.marks.t, c.marks.s].flatMap fun ms => part 64 (ms.flatMap markBytes)

/-! ### The engines (09_matrix R240 Tables 9-1, 9-9, 9-10; 08_function R213) -/

/-- The state word of an accumulator tile. -/
def accStateWord (w : AccWord) : Nat :=
  bitN w.inuse 0 + bitN w.dirty 1 + bitN w.sat 2 + w.census * 2 ^ 3 + bitN w.free 9 + codeOf 7 w.exp * 2 ^ 10 +
    (w.rows - 1) * 2 ^ 17 + (w.cols - 1) * 2 ^ 24

/-- KLEN of a kept instruction, as resolved at issue: K of a product, M of MZERO and MBIAS, which have none, or the
shift of MOUT, MLOAD and MADD.
DEDUCED (notes/assumptions/50). -/
def keptLen (m : MtxOp) : Nat :=
  match m.instr with
  | .mout _ _ _ | .mload _ _ _ | .madd _ _ _ => codeOf 16 m.shift
  | .mzero _ _ _ | .mbias _ _ _ => m.m
  | _ => m.klen

/-- A kept instruction. -/
def keptBytes (o : Op) (m : MtxOp) : List Byte :=
  part 64 (leBytes 4 m.word ++ leBytes 1 (if m.steps = 0 then 1 else 2) ++ leBytes 1 m.acc ++
    leBytes 2 (keptLen m) ++ leBytes 4 m.steps ++ leBytes 4 (m.ra + m.ca * 2 ^ 16) ++ leBytes 4 (m.rb + m.cb * 2 ^ 16) ++
    leBytes 2 o.bundle ++ leBytes 2 0 ++ leBytes 8 m.mf.toNat ++ leBytes 8 m.rseed.toNat ++ leBytes 8 m.rstep.toNat)

/-- The operations of a saved member that are kept, oldest first. -/
def keptOps (s : State) (t : Task) (v : Saved) : List Op :=
  s.ops.filter fun o => o.task == t.id && o.member == v.member

/-- The kept matrix instructions. -/
def keptMatrix (s : State) (t : Task) (v : Saved) : List Byte :=
  (keptOps s t v).flatMap fun o =>
    match o.kind with
    | .matrix m => keptBytes o m
    | _ => []

/-- ENGINE. -/
def engineBytes (s : State) (t : Task) (v : Saved) : List Byte :=
  fileBytes 64 8 (fun i => accStateWord (v.ctx.accAt i).done) ++ part 576 (keptMatrix s t v) ++ part 64 [] ++
    leBytes 1 (bitSum 8 fun i => (v.ctx.ftab.get? (8 + i)).isSome)

/-! ### The TILES part (R168 Table 6-11) -/

/-- A tile-table entry (05_scalar R131 Table 5-6). -/
def tileWord (e : TileEntry) : Nat :=
  e.base * 2 ^ 24 + e.prev.getD 0x3FF * 2 ^ 42 + 2 ^ 52 + bitN e.inuse 53 + bitN e.dirty 54 + e.census * 2 ^ 55 +
    codeOf 7 e.exp * 2 ^ 61 + (match e.level with | .tile => 0 | .ring => 2 ^ 68) + e.ty.code * 2 ^ 69 +
    (e.cols - 1) * 2 ^ 72 + (e.rows - 1) * 2 ^ 84 + e.ver * 2 ^ 96 + e.comp * 2 ^ 112 + e.owner * 2 ^ 120

/-- A record: its header, and its data padded to the next 64-byte boundary. -/
def recordPart (kind num aux entry : Nat) (data : List Byte) : List Byte :=
  part 64 (leBytes 1 kind ++ leBytes 1 num ++ leBytes 2 aux ++ leBytes 4 data.length ++ leBytes 8 0 ++ leBytes 16 entry) ++
    part ((data.length + 63) / 64 * 64) data

/-- The storage of a tile. -/
def tileData (s : State) (core : Nat) (e : TileEntry) : List Byte := s.bytes (tileByteKey core e 0) (tileBytes e)

/-- The records of the tiles that are in use, in ascending handle. -/
def tileParts (s : State) (v : Saved) : List Byte :=
  (List.range 256).flatMap fun h =>
    match (v.ctx.hmap.get? h).bind (s.coreAt v.core).tiles.get? with
    | some e => if e.dirty || e.inuse then recordPart 2 h 0 (tileWord { e with dirty := false }) (tileData s v.core e) else []
    | none => []

/-- The shape in which an accumulator tile is saved: that of a kept product whose first steps it holds, else its own.
DEDUCED (notes/assumptions/50). -/
def accShape (s : State) (t : Task) (v : Saved) (n : Nat) : Nat × Nat :=
  ((keptOps s t v).findSome? fun o =>
    match o.kind with
    | .matrix m => if m.acc = n ∧ 0 < m.summed then some (m.m, m.n) else none
    | _ => none).getD ((v.ctx.accAt n).done.rows, (v.ctx.accAt n).done.cols)

/-- The elements of an accumulator tile in linear index order, 5 bytes each. -/
def accData (x : AccTile) (shape : Nat × Nat) : List Byte :=
  (List.range shape.1).flatMap fun i => (List.range shape.2).flatMap fun j => leBytes 5 (codeOf 40 (x.elem i j))

/-- The records of the accumulator tiles that are in use. -/
def accParts (s : State) (t : Task) (v : Saved) : List Byte :=
  (List.range 64).flatMap fun n =>
    let x := v.ctx.accAt n
    if x.done.dirty || x.done.inuse then recordPart 3 n 0 0 (accData x (accShape s t v n)) else []

/-- The records of the valid loadable function tables. -/
def ftabParts (c : Ctx) : List Byte :=
  (List.range 8).flatMap fun i =>
    match c.ftab.get? (8 + i) with
    | some bs => recordPart 4 (8 + i) 0 0 (part 832 bs)
    | none => []

/-- The records of the kept PIPEWs, oldest first. -/
def pipewParts (s : State) (t : Task) (v : Saved) : List Byte :=
  (keptOps s t v).flatMap fun o =>
    match o.kind with
    | .pipew pipe i h _ => recordPart 5 pipe h ((((s.coreAt v.core).tiles.get? i).map tileWord).getD 0) []
    | _ => []

/-- TILES. -/
def tilesBytes (s : State) (t : Task) (v : Saved) : List Byte :=
  recordPart 1 0 0 0 (s.bytes (privKey t.id v.member 0) v.ctx.priv) ++ tileParts s v ++ accParts s t v ++
    ftabParts v.ctx ++ pipewParts s t v ++ recordPart 0xFF 0 0 0 []

/-! ### The area -/

/-- The parts before TILES, each at the offset of Table 6-5. -/
def savedRegs (s : State) (t : Task) (v : Saved) : List Byte :=
  part 0x40 (hdrBytes v) ++
  (part 0x100 (fileBytes 32 8 fun i => (v.ctx.g.getD i 0).toNat) ++
  (part 0x80 (queueBytes 8 v.ctx.q) ++
  (part 0x40 (fileBytes 8 8 fun i => (v.ctx.tx.getD i 0).toNat) ++
  (part 0x80 (seqBytes v.ctx) ++
  (part 0x40 (v.ctx.ret.reverse.flatMap fun r => leBytes 4 r.1) ++
  (part 0x100 (sysregBytes v.ctx) ++
  (part 0x40 (leBytes 64 v.ctx.rmask.toNat) ++
  (part 0x40 (repeatBytes v.ctx) ++
  (part 0x40 (pendctlBytes v.ctx) ++
  (part 0x440 (maskstkBytes v.ctx) ++
  (part 0x40 [] ++
  (part 0x2000 (fileBytes 32 256 fun i => (v.ctx.v.getD i 0).toNat) ++
  (part 0x1000 (queueBytes 256 v.ctx.vq) ++
  (part 0x2200 (pendpushBytes v.ctx) ++
  (part 0x500 (engineBytes s t v) ++
  part 0x100 (marksBytes v.ctx))))))))))))))))

/-- The save area of a member of a task (R167): what stands at `Config.saveArea t.id v.member`. -/
def saveAreaBytes (s : State) (t : Task) (v : Saved) : List Byte := savedRegs s t v ++ tilesBytes s t v

end Sys2Proof.Machine
end

