-- ==== Sys2Proof/Safety.lean ====
section
/-! DEFINITION. The terms in which claims speak of a run: a slot that stands alone with nothing against it, a
bundle that issues, and what a step leaves unchanged. -/

namespace Sys2Proof.Machine

open Sys2Proof

/-- A bundle of one slot is about to issue: the scratch of the issue holds the bundle's length alone. -/
def Alone (s : State) : Prop := s.iss = { words := s.iss.words }

/-- The core has room for what a slot takes: its class counters stay at most 63, the scoreboard has the entries,
and no push is the 33rd pending (06_sequencer R152, R161; 10_copy R246). -/
def RoomFor (s : State) (n : Need) : Prop :=
  exceeds s n = false ∧ s.ctx.pushes.length + n.pushes ≤ 32

/-- The bundle issued with the effect that leaves `t`; the boundary after it follows (06_sequencer R139). -/
def Issues (o : Out) (t : State) : Prop := o = .next (finishBundle t)

/-- The bundle took no effect, and its fault was taken at slot 0 (06_sequencer R139 step 6, R159).
DEDUCED (notes/assumptions/49). -/
def Faults (o : Out) (code : FaultCode) (faddr : Word) (aux : Nat) (s : State) : Prop :=
  o = .next (takeFault code 0 faddr aux false none { s with iss := {} })

/-- A vector was pushed whose active lanes have some codes, whose other lanes are those of a source or zero, and
whose flags VEC and RSUB say whether some active lane has one (07_vector R178–R180). -/
def PushesLanes (o : Out) (d : Fin 32) (lat : Nat) (t : ElemTy) (m : MaskMode) (a : VWord) (f : Nat → Nat)
    (vec sub : Nat → Bool) (s : State) : Prop :=
  ∃ v g, Issues o (pushV d lat v g s) ∧
    (∀ l, l < laneCount t.width → laneOf t.width v l =
      if activeLane m s.ctx.maskTop t.width l then f l else if m = .keepA then laneOf t.width a l else 0) ∧
    (g.getLsbD 0 = (List.range (laneCount t.width)).any fun l => activeLane m s.ctx.maskTop t.width l && vec l) ∧
    (g.getLsbD 5 = (List.range (laneCount t.width)).any fun l => activeLane m s.ctx.maskTop t.width l && sub l) ∧
    g.getLsbD 1 = false ∧ g.getLsbD 2 = false ∧ g.getLsbD 3 = false ∧ g.getLsbD 4 = false

/-- The bundle took no effect and stays where it stands: it is checked again (06_sequencer R139 step 7). -/
def Waits (o : Out) (s : State) : Prop :=
  ∃ t, o = .next t ∧ t.ctx = s.ctx ∧ t.core.mode = s.core.mode ∧ t.mem = s.mem ∧ t.host = s.host ∧
    t.nextBundle = s.nextBundle

/-- An operation of the executing core's task started, last in issue order, due after some clock cycles. -/
def Started (s t : State) (lat : Nat) (P : OpKind → Prop) : Prop :=
  ∃ x, t.ops = s.ops ++ [x] ∧ x.id = s.nextOp ∧ x.core = s.cur ∧ x.task = s.core.task ∧ x.member = s.core.member ∧
    x.bundle = s.ctx.pc ∧ x.issued = s.cyc ∧ x.due = s.cyc + lat ∧ P x.kind ∧ t.nextOp = s.nextOp + 1

/-- As `Started`, of an operation that may ask other packages by packets of its own, which follow it. -/
def StartedParts (s t : State) (lat : Nat) (P : OpKind → Prop) : Prop :=
  ∃ x ps, t.ops = s.ops ++ x :: ps ∧ x.id = s.nextOp ∧ x.core = s.cur ∧ x.task = s.core.task ∧
    x.member = s.core.member ∧ x.bundle = s.ctx.pc ∧ x.issued = s.cyc ∧ x.due = s.cyc + lat ∧ P x.kind ∧
    ∀ y ∈ ps, ∃ p, y.kind = .part p ∧ p.client = .op s.nextOp

/-- A class counter of the executing core rose by one. -/
def Counted (s t : State) (k : Cls) : Prop := t.ctx.cnt = s.ctx.cnt.modify k (· + 1)

/-- The lanes of a vector result under a mask mode (07_vector R179). -/
def LanesAre (s : State) (t : ElemTy) (m : MaskMode) (a v : VWord) (f : Nat → Nat) : Prop :=
  ∀ l, l < laneCount t.width → laneOf t.width v l =
    if activeLane m s.ctx.maskTop t.width l then f l else if m = .keepA then laneOf t.width a l else 0

/-- Every byte of the package's memory and of the host's reads as before. -/
def SameMemory (s t : State) : Prop :=
  (∀ k, Memory.get t.mem k = Memory.get s.mem k) ∧ ∀ k, Memory.get t.host k = Memory.get s.host k

/-- A host address lies in a record of the service ring of a context (16_front_end R388). -/
def InServiceRing (asid k : Nat) : Prop :=
  ∃ n, Config.serviceRing asid + 64 * (n % Config.serviceSlots asid) ≤ k ∧
    k < Config.serviceRing asid + 64 * (n % Config.serviceSlots asid) + 64

/-- Every byte of the package's memory reads as before, and of the host's every byte outside the service ring of a context,
where firmware may have posted a record. -/
def SameButService (asid : Nat) (s t : State) : Prop :=
  (∀ k, Memory.get t.mem k = Memory.get s.mem k) ∧
    ∀ k, ¬ InServiceRing asid k → Memory.get t.host k = Memory.get s.host k

/-- Every other core is as before. -/
def SameOthers (s t : State) : Prop := ∀ n, n ≠ s.cur → t.coreAt n = s.coreAt n

/-- The files that a result is delivered to are as before: no push has been performed. -/
def SameFiles (c d : Ctx) : Prop :=
  d.g = c.g ∧ d.q = c.q ∧ d.v = c.v ∧ d.vq = c.vq ∧ d.satf = c.satf ∧ d.rmScl = c.rmScl

/-- The system registers that a slot other than MTS and RVSET leaves alone, with the channels, the accumulators and
the loadable tables. -/
def SameSystem (c d : Ctx) : Prop :=
  d.mf = c.mf ∧ d.vf = c.vf ∧ d.rseed = c.rseed ∧ d.rstep = c.rstep ∧ d.chan0 = c.chan0 ∧ d.chan1 = c.chan1 ∧
    d.mo = c.mo ∧ d.mi = c.mi ∧ d.optc = c.optc ∧ d.fltrec = c.fltrec ∧ d.ftab = c.ftab ∧ d.acc = c.acc ∧
    d.tx = c.tx

/-- The package beside its cores and the scratch of the issue is as before. -/
def SamePackage (s t : State) : Prop :=
  t.accid = s.accid ∧ t.cyc = s.cyc ∧ t.timeU = s.timeU ∧ t.lastU = s.lastU ∧ t.dies = s.dies ∧ t.tasks = s.tasks ∧
    t.ctxs = s.ctxs ∧ t.revs = s.revs ∧ t.copies = s.copies ∧ t.queues = s.queues ∧ t.stations = s.stations ∧
    t.mig = s.mig ∧ t.sys = s.sys ∧ t.cfg = s.cfg ∧ t.admin = s.admin ∧ t.msix = s.msix ∧ t.batches = s.batches ∧
    t.away = s.away ∧ t.agenda = s.agenda ∧ t.own = s.own ∧ t.outbox = s.outbox ∧ t.answers = s.answers ∧
    t.freeCount = s.freeCount

/-- The task's state at the boundary after a bundle that issues and transfers nowhere, from what its slots left: the next
bundle follows or the top loop closes, one bundle more is counted, and what is pending comes one issue cycle nearer
(06_sequencer R139, R149; what this is, field by field, stands in `Obligations.ResultFrame`). -/
def nextCtx (words : Nat) (c : Ctx) : Ctx := countIssue (sequential words c)

/-- A core whose bundle has issued: its task's state, and nothing noted of a bundle that waits. -/
def rested (c : Ctx) (k : Core) : Core :=
  { k with ctx := c, walkRes := [], waitStamp := none, waitSince := none, released := false, pubDone := none,
           stalled := false }

/-- A bundle of one slot issues and leaves the executing core in a state; no byte of memory, no other core, no operation
in flight and nothing else of the package changes. -/
def LeavesCore (o : Out) (k : Core) (s : State) : Prop :=
  ∃ t, o = .next t ∧ SameMemory s t ∧ SamePackage s t ∧ SameOthers s t ∧ t.cur = s.cur ∧ t.ops = s.ops ∧ t.core = k

/-- As `LeavesCore`, of a bundle that changes only the task's state on its core. -/
def Leaves (o : Out) (c : Ctx) (s : State) : Prop := LeavesCore o (rested c s.core) s

/-- Both memories are in canonical form. -/
def CanonMem (s : State) : Prop := Memory.wf s.mem = true ∧ Memory.wf s.host = true

/-- What is canonical of the state after a step. -/
def CanonOut : Out → Prop
  | .next t => CanonMem t
  | .fault _ => True
  | .refused _ => True

end Sys2Proof.Machine
end

