-- ==== Sys2Proof/Certificates/Slice0/Obligations.lean ====
section
/-! DEFINITION. The statements for the provers. -/

open Sys2Proof Sys2Proof.Machine

/-! ### Scalar unit -/

/-- ADD, SUB, AND, OR, XOR, ANDN, SHL, SHR, SAR, MIN, MAX, MINU, MAXU, MUL, MULH, MULHU (05_scalar R109, R110): the
bundle issues and the value is pushed with latency 1, of a multiply with latency 3. -/
def Obligations.ScalarBinaryResults : Prop :=
  ∀ (s : State) (d : Fin 32) (a b : SSrc), Alone s → RoomFor s Need.push → needSS s a b = .ok →
    let x := s.rs a
    let y := s.rs b
    Issues (exec (.add d a b) s) (pushS d 1 (x + y) s) ∧
    Issues (exec (.sub d a b) s) (pushS d 1 (x - y) s) ∧
    Issues (exec (.and d a b) s) (pushS d 1 (x &&& y) s) ∧
    Issues (exec (.or d a b) s) (pushS d 1 (x ||| y) s) ∧
    Issues (exec (.xor d a b) s) (pushS d 1 (x ^^^ y) s) ∧
    Issues (exec (.andn d a b) s) (pushS d 1 (x &&& ~~~y) s) ∧
    Issues (exec (.shl d a b) s) (pushS d 1 (BitVec.ofNat 64 (x.toNat * 2 ^ (y.toNat % 64))) s) ∧
    Issues (exec (.shr d a b) s) (pushS d 1 (BitVec.ofNat 64 (x.toNat / 2 ^ (y.toNat % 64))) s) ∧
    Issues (exec (.sar d a b) s) (pushS d 1 (BitVec.ofInt 64 (x.toInt / 2 ^ (y.toNat % 64))) s) ∧
    Issues (exec (.min d a b) s) (pushS d 1 (BitVec.ofInt 64 (min x.toInt y.toInt)) s) ∧
    Issues (exec (.max d a b) s) (pushS d 1 (BitVec.ofInt 64 (max x.toInt y.toInt)) s) ∧
    Issues (exec (.minu d a b) s) (pushS d 1 (BitVec.ofNat 64 (min x.toNat y.toNat)) s) ∧
    Issues (exec (.maxu d a b) s) (pushS d 1 (BitVec.ofNat 64 (max x.toNat y.toNat)) s) ∧
    Issues (exec (.mul d a b) s) (pushS d 3 (BitVec.ofInt 64 (x.toInt * y.toInt)) s) ∧
    Issues (exec (.mulh d a b) s) (pushS d 3 (BitVec.ofInt 64 (x.toInt * y.toInt / 2 ^ 64)) s) ∧
    Issues (exec (.mulhu d a b) s) (pushS d 3 (BitVec.ofNat 64 (x.toNat * y.toNat / 2 ^ 64)) s)

/-- DIV, DIVU, REM, REMU (05_scalar R111; 03_numbers R69): latency 18; a zero divisor sets SATF.DIV when the value is
pushed, and gives the greatest or least value by the sign of the dividend, all ones, or 0. The quotient of the least
value by −1 wraps.
CLZ, CLS, POPC and EXT (05_scalar R112, R113), with latency 1. -/
def Obligations.ScalarDivideAndBitResults : Prop :=
  (∀ (s : State) (d : Fin 32) (a b : SSrc), Alone s → RoomFor s Need.push → needSS s a b = .ok →
     let x := s.rs a
     let y := s.rs b
     (y ≠ 0 →
       Issues (exec (.div d a b) s) (pushSF d 18 (BitVec.ofInt 64 (x.toInt.tdiv y.toInt)) 0 s) ∧
       Issues (exec (.divu d a b) s) (pushSF d 18 (BitVec.ofNat 64 (x.toNat / y.toNat)) 0 s) ∧
       Issues (exec (.rem d a b) s) (pushSF d 18 (BitVec.ofInt 64 (x.toInt.tmod y.toInt)) 0 s) ∧
       Issues (exec (.remu d a b) s) (pushSF d 18 (BitVec.ofNat 64 (x.toNat % y.toNat)) 0 s)) ∧
     (y = 0 →
       (0 ≤ x.toInt → Issues (exec (.div d a b) s) (pushSF d 18 0x7FFFFFFFFFFFFFFF#64 satDiv s)) ∧
       (x.toInt < 0 → Issues (exec (.div d a b) s) (pushSF d 18 0x8000000000000000#64 satDiv s)) ∧
       Issues (exec (.divu d a b) s) (pushSF d 18 0xFFFFFFFFFFFFFFFF#64 satDiv s) ∧
       Issues (exec (.rem d a b) s) (pushSF d 18 0 satDiv s) ∧
       Issues (exec (.remu d a b) s) (pushSF d 18 0 satDiv s))) ∧
  (∀ (s : State) (d : Fin 32) (a b : SSrc) (sgn : Bool), Alone s → RoomFor s Need.push → needSS s a b = .ok →
     let x := s.rs a
     let y := s.rs b
     (∃ n, Issues (exec (.clz d a) s) (pushS d 1 (BitVec.ofNat 64 n) s) ∧ n ≤ 64 ∧
       (∀ k, k < n → x.getLsbD (63 - k) = false) ∧ (n < 64 → x.getLsbD (63 - n) = true)) ∧
     (∃ n, Issues (exec (.cls d a) s) (pushS d 1 (BitVec.ofNat 64 n) s) ∧ n ≤ 63 ∧
       -(2 ^ (63 - n)) ≤ x.toInt ∧ x.toInt < 2 ^ (63 - n) ∧
       (n < 63 → ¬(-(2 ^ (62 - n)) ≤ x.toInt ∧ x.toInt < 2 ^ (62 - n)))) ∧
     Issues (exec (.popc d a) s) (pushS d 1 (BitVec.ofNat 64 ((List.range 64).countP fun k => x.getLsbD k)) s) ∧
     (let wid := if bits y 8 6 = 0 then 64 else bits y 8 6
      let field := x.toNat / 2 ^ bits y 0 6 % 2 ^ wid
      (sgn = false → Issues (exec (.ext d a b sgn) s) (pushS d 1 (BitVec.ofNat 64 field) s)) ∧
      (sgn = true → field < 2 ^ (wid - 1) →
        Issues (exec (.ext d a b sgn) s) (pushS d 1 (BitVec.ofNat 64 field) s)) ∧
      (sgn = true → 2 ^ (wid - 1) ≤ field →
        Issues (exec (.ext d a b sgn) s) (pushS d 1 (BitVec.ofInt 64 ((field : Int) - 2 ^ wid)) s))))

/-- ADDI, ANDI, ORI, XORI, SHLI, SHRI, SARI and LIH of a bundle of one slot (05_scalar R114, R115), a shift by an
immediate in 0…63; and the same with the immediate that a LIMM before them makes (02_bundles R42):
`imm22 × 2^11 + imm11`, sign-extended from 33 bits. -/
def Obligations.ScalarImmediateResults : Prop :=
  (∀ (s : State) (d : Fin 32) (a : SSrc) (imm : BitVec 11) (u : BitVec 17), Alone s → RoomFor s Need.push →
    needS s a = .ok →
    let x := s.rs a
    let i := imm.signExtend 64
    Issues (exec (.addi d a imm) s) (pushS d 1 (x + i) s) ∧
    Issues (exec (.andi d a imm) s) (pushS d 1 (x &&& i) s) ∧
    Issues (exec (.ori d a imm) s) (pushS d 1 (x ||| i) s) ∧
    Issues (exec (.xori d a imm) s) (pushS d 1 (x ^^^ i) s) ∧
    (imm.toNat < 64 →
      Issues (exec (.shli d a imm) s) (pushS d 1 (x <<< imm.toNat) s) ∧
      Issues (exec (.shri d a imm) s) (pushS d 1 (x >>> imm.toNat) s) ∧
      Issues (exec (.sari d a imm) s) (pushS d 1 (x.sshiftRight imm.toNat) s)) ∧
    Issues (exec (.lih d u) s) (pushS d 1 (BitVec.ofNat 64 (u.toNat * 2 ^ 47)) s)) ∧
  ∀ (s : State) (p : BitVec 22), exec (.limm p) s = .next { s with iss := { s.iss with limm := some p } } ∧
    ∀ (d : Fin 32) (a : SSrc) (imm : BitVec 11), s.iss.phase = .commit → s.iss.limm = some p →
      let x := s.rs a
      let n := p.toInt * 2 ^ 11 + imm.toNat
      let i := BitVec.ofInt 64 n
      let pushes (j : Instr) (v : Word) : Prop := ∃ t, exec j s = .next t ∧ t.iss = { s.iss with limm := none } ∧
        t.ctx.pushes = s.ctx.pushes ++ [scalarPush d 1 v 0]
      pushes (.addi d a imm) (x + i) ∧ pushes (.andi d a imm) (x &&& i) ∧ pushes (.ori d a imm) (x ||| i) ∧
      pushes (.xori d a imm) (x ^^^ i) ∧
      (0 ≤ n → n < 64 → pushes (.shli d a imm) (x <<< n.toNat) ∧ pushes (.shri d a imm) (x >>> n.toNat) ∧
        pushes (.sari d a imm) (x.sshiftRight n.toNat))

/-- CMP, CMPI, PLOG (05_scalar R108, R116, R118): at the boundary the predicate has its outcome, every other has what the
close of a loop leaves it, and nothing else changes but what every bundle changes; SEL (R117) pushes one of its sources
with latency 1.
SPCQ, SPCAST (05_scalar R123, R124): the descriptor of any word, every field of Table 5-2; the three casts, and SPACE where
a cast's requirement fails. That FADDR is then the first source is the model's choice (notes/assumptions/11). -/
def Obligations.PredicateAndPointerResults : Prop :=
  (∀ (s : State) (d : Fin 32) (p q r : Fin 16) (a b : SSrc) (imm : BitVec 8) (neg : Bool) (o : PlogOp), Alone s →
     RoomFor s Need.push → needSS s a b = .ok →
     let x := s.rs a
     let y := s.rs b
     let i := imm.signExtend 64
     let P (k : Fin 16) : Bool := s.ctx.p.getLsbD k.val
     let after := nextCtx s.iss.words s.ctx
     let sets (i : Instr) (v : Bool) : Prop := ∃ ps, Leaves (exec i s) { after with p := ps } s ∧
       ∀ k, k < 16 → ps.getLsbD k = if k = p.val then v else after.p.getLsbD k
     sets (.cmp p a b .eq) (x == y) ∧ sets (.cmp p a b .ne) (x != y) ∧
     sets (.cmp p a b .lt) (decide (x.toInt < y.toInt)) ∧ sets (.cmp p a b .ge) (decide (x.toInt ≥ y.toInt)) ∧
     sets (.cmp p a b .ltu) (decide (x.toNat < y.toNat)) ∧ sets (.cmp p a b .geu) (decide (x.toNat ≥ y.toNat)) ∧
     sets (.cmpi p a .eq imm) (x == i) ∧ sets (.cmpi p a .ne imm) (x != i) ∧
     sets (.cmpi p a .lt imm) (decide (x.toInt < i.toInt)) ∧ sets (.cmpi p a .ge imm) (decide (x.toInt ≥ i.toInt)) ∧
     sets (.cmpi p a .ltu imm) (decide (x.toNat < i.toNat)) ∧ sets (.cmpi p a .geu imm) (decide (x.toNat ≥ i.toNat)) ∧
     sets (.plog p q r o) (match o with
       | .and => P q && P r
       | .or => P q || P r
       | .xor => P q != P r
       | .andn => P q && !P r
       | .orn => P q || !P r
       | .nand => !(P q && P r)
       | .nor => !(P q || P r)
       | .xnor => P q == P r) ∧
     Issues (exec (.sel d a b neg p) s) (pushS d 1 (if P p != neg then x else y) s)) ∧
  (∀ (s : State) (d : Fin 32) (a b : SSrc) (k : CastKind), Alone s → RoomFor s Need.push → needSS s a b = .ok →
     let x := (s.rs a).toNat
     let y := (s.rs b).toNat
     let tag := x / 2 ^ 60
     let peer : Prop := tag = 0xB ∨ tag = 0xC
     let covers (w : Word) : Prop := bits w 54 10 ≤ x / 2 ^ 50 % 1024 ∧ x / 2 ^ 50 % 1024 ≤ bits w 44 10 ∧
       (tag = 0xB ∧ bits w 42 1 = 1 ∨ tag = 0xC ∧ bits w 43 1 = 1)
     let cast (v : Nat) : Prop := Issues (exec (.spcast d a b k) s) (pushS d 1 (BitVec.ofNat 64 v) s)
     (∃ v : Word, Issues (exec (.spcq d a) s) (pushS d 1 v s) ∧ bits v 0 4 = tag ∧ v.getLsbD 4 = spaceOk x 1 ∧
       (v.getLsbD 5 = true ↔ tag = 0x8 ∨ tag = 0x9 ∧ x / 2 ^ 52 % 256 = s.cur) ∧ (v.getLsbD 6 = true ↔ peer) ∧
       (v.getLsbD 7 = true ↔ ∃ c w, s.context? (s.asidAt s.cur) = some c ∧ w ∈ c.wins ∧ covers w) ∧
       bits v 8 8 = (if tag = 0x9 then x / 2 ^ 44 % 256 else if tag = 0xB then x / 2 ^ 34 % 256 else 0) ∧
       bits v 16 10 = (if tag = 0xB ∨ tag = 0xC then x / 2 ^ 50 % 1024 else 0) ∧ bits v 26 38 = 0) ∧
     (k = .handle → x < 256 → y < 2 ^ 22 → cast (0x9 * 2 ^ 60 + s.cur * 2 ^ 52 + x * 2 ^ 44 + y)) ∧
     (k = .handle → 256 ≤ x ∨ 2 ^ 22 ≤ y → Faults (exec (.spcast d a b k) s) .space (s.rs a) 0 s) ∧
     (k = .peer → spaceOk x 1 = true → y < 1024 → tag = 0x9 →
       cast (0xB * 2 ^ 60 + y * 2 ^ 50 + x / 2 ^ 52 % 256 * 2 ^ 42 + x / 2 ^ 44 % 256 * 2 ^ 34 + x % 2 ^ 22)) ∧
     (k = .peer → spaceOk x 1 = true → y < 1024 → tag = 0xA →
       cast (0xC * 2 ^ 60 + y * 2 ^ 50 + x / 2 ^ 58 % 4 * 2 ^ 48 + x % 2 ^ 28)) ∧
     (k = .peer → spaceOk x 1 = false ∨ 1024 ≤ y ∨ (tag ≠ 0x9 ∧ tag ≠ 0xA) →
       Faults (exec (.spcast d a b k) s) .space (s.rs a) 0 s) ∧
     (k = .toLocal → spaceOk x 1 = true → tag = 0xB → x / 2 ^ 50 % 1024 = s.accid →
       cast (0x9 * 2 ^ 60 + x / 2 ^ 42 % 256 * 2 ^ 52 + x / 2 ^ 34 % 256 * 2 ^ 44 + x % 2 ^ 22)) ∧
     (k = .toLocal → spaceOk x 1 = true → tag = 0xC → x / 2 ^ 50 % 1024 = s.accid →
       cast (0xA * 2 ^ 60 + x / 2 ^ 48 % 4 * 2 ^ 58 + x % 2 ^ 28)) ∧
     (k = .toLocal → spaceOk x 1 = false ∨ x / 2 ^ 50 % 1024 ≠ s.accid ∨ ¬ peer →
       Faults (exec (.spcast d a b k) s) .space (s.rs a) 0 s))

/-- SETMF, SETVF, MFS, MTS (05_scalar R125–R127; 03_numbers R65, R66, R68; 10_copy R243): an illegal merged value is
ILLEGAL_OPERAND; a legal one governs three (MF) or two (VF) issue cycles later. MTS leaves each other register at the
boundary as its access code says: a RW register has the source, a W1C bit is cleared where the source has a 1, a RO or FW
register is unchanged, PRED is written after the loop close and LCn before it; nothing else changes. MFS pushes with
latency 1 the register's value of Tables 5-4, 5-5 and 10-1. A bit of SATF that a completion sets in the cycle of the MTS
stays 1: that the cycle of issue counts is the model's reading (notes/assumptions/74); what MFS of CSTAT and WAn sees
within its bundle is the model's choice (notes/assumptions/79).
CHK, VCHK, RNG (05_scalar R128, R129; 07_vector R199): equal sources issue with no other effect; different ones
raise SHADOW_MISMATCH, CHK with their XOR. RNG pushes the keyed random word of 03_numbers R71 with latency 3. -/
def Obligations.SystemRegisterResults : Prop :=
  (∀ (s : State) (d : Fin 32) (a b : SSrc), Alone s → RoomFor s Need.push → needSS s a b = .ok →
     let x := s.rs a
     let m := s.rs b
     let c := s.ctx
     let mf := (latestFmt false s.ctx &&& ~~~m) ||| (x &&& m)
     let vf := (latestFmt true s.ctx &&& ~~~m) ||| (x &&& m)
     let pend (isVf : Bool) (v : Word) (n : Nat) : State :=
       s.modCtx fun k => { k with fmts := k.fmts ++ [⟨isVf, v, n⟩] }
     let after := nextCtx s.iss.words c
     let writes (n : SysReg) (d : Ctx) : Prop := Leaves (exec (.mts a n) s) d s
     let kept : BitVec 6 := if c.satAt = s.cyc then c.satNew else 0
     let clears (h : ChanStat) : ChanStat := { h with
       res := h.res && !x.getLsbD 63, sat := h.sat && !x.getLsbD 62, flt := h.flt && !x.getLsbD 61
       page := if (h.res && !x.getLsbD 63) || (h.flt && !x.getLsbD 61) then h.page else 0 }
     let fields (n : Nat) : Word :=
       match n with
       | 0 => 0x3FFFFFFFFF#64
       | 1 | 2 | 3 => 0xFFFF#64
       | 4 => 0xFFFFFFFF#64
       | _ => BitVec.allOnes 64
     let x? := s.context? (s.asidAt s.cur)
     let bit (b : Bool) (n : Nat) : Nat := if b then 2 ^ n else 0
     let cstat (h : ChanStat) (out : Nat) : Word := BitVec.ofNat 64
       (h.done % 256 + out * 2 ^ 8 + h.page * 2 ^ 16 + bit h.flt 61 + bit h.sat 62 + bit h.res 63)
     let reads (n : SysReg) (v : Word) : Prop := Issues (exec (.mfs d n) s) (pushS d 1 v s)
     (mfLegal mf = true → Issues (exec (.setmf a b) s) (pend false mf 3)) ∧
     (mfLegal mf = false → Faults (exec (.setmf a b) s) .illegalOperand 0 0 s) ∧
     (vfLegal vf = true → Issues (exec (.setvf a b) s) (pend true vf 2)) ∧
     (vfLegal vf = false → Faults (exec (.setvf a b) s) .illegalOperand 0 0 s) ∧
     (mfLegal x = true → Issues (exec (.mts a .mf) s) (pend false x 3)) ∧
     (mfLegal x = false → Faults (exec (.mts a .mf) s) .illegalOperand 0 0 s) ∧
     (vfLegal x = true → Issues (exec (.mts a .vf) s) (pend true x 2)) ∧
     (vfLegal x = false → Faults (exec (.mts a .vf) s) .illegalOperand 0 0 s) ∧
     (∀ n, (n = .core ∨ n = .die ∨ n = .accid ∨ n = .asid ∨ n = .hb ∨ n = .hl ∨ n = .ho ∨ n = .fltrec ∨ n = .cyc ∨ n = .nbun ∨
       ∃ k, n = .wa k) → writes n after) ∧
     writes .rseed { after with rseed := x } ∧ writes .rstep { after with rstep := x } ∧
     writes (.cstat 0) { after with chan0 := clears c.chan0 } ∧
     writes (.cstat 1) { after with chan1 := clears c.chan1 } ∧
     writes .satf { after with satf := c.satf &&& (~~~(x.setWidth 6) ||| kept) } ∧
     (∀ k : Fin 4, writes (.mo k) { after with mo := c.mo.set k.val x } ∧
       writes (.mi k) { after with mi := c.mi.set k.val x } ∧
       writes (.lc k) (nextCtx s.iss.words { c with lc := c.lc.set k.val (x.setWidth 32) })) ∧
     (∀ k : Fin 8, writes (.optc k) { after with optc := c.optc.set k.val (x &&& fields k.val) }) ∧
     writes .rmasklo { after with rmScl := c.rmScl && !x.getLsbD 63 } ∧
     writes .pred { after with p := x.setWidth 16 } ∧
     reads .core (BitVec.ofNat 64 s.cur) ∧ reads .die (BitVec.ofNat 64 (s.cur / 64)) ∧
     reads .accid (BitVec.ofNat 64 s.accid) ∧ reads .asid (BitVec.ofNat 64 (s.asidAt s.cur)) ∧
     reads .mf c.mf ∧ reads .vf c.vf ∧ reads .rseed c.rseed ∧ reads .rstep c.rstep ∧ reads .fltrec c.fltrec ∧
     (∀ k, x? = some k → reads .hb (BitVec.ofNat 64 k.hb) ∧ reads .hl (BitVec.ofNat 64 k.hl) ∧
       reads .ho (BitVec.ofNat 64 k.ho) ∧ ∀ n : Fin 16, reads (.wa n) (BitVec.ofNat 64
         ((k.wins.getD n.val 0).toNat % 256 + s.core.win.getD n.val 0 * 256))) ∧
     reads (.cstat 0) (cstat c.chan0 c.cnt.c0) ∧ reads (.cstat 1) (cstat c.chan1 c.cnt.c1) ∧
     reads .satf (c.satf.setWidth 64) ∧ reads .cyc (BitVec.ofNat 64 s.cyc) ∧ reads .nbun c.nbun ∧
     (∀ n : Fin 4, reads (.mo n) (c.mo.getD n.val 0) ∧ reads (.mi n) (c.mi.getD n.val 0) ∧
       reads (.lc n) ((c.lc.getD n.val 0).setWidth 64)) ∧
     (∀ n : Fin 8, reads (.optc n) (c.optc.getD n.val 0)) ∧
     (∃ v : Word, reads .rmasklo v ∧ v.getLsbD 63 = c.rmScl ∧ bits v 8 55 = 0 ∧ ∀ i, i < 8 →
       (v.getLsbD i = true ↔ ∃ j, j < 64 ∧ c.rmask.getLsbD (64 * i + j) = true)) ∧
     reads .pred (c.p.setWidth 64)) ∧
  (∀ (s : State) (d : Fin 32) (a b : SSrc) (u v : VSrc), Alone s → RoomFor s Need.push → needSS s a b = .ok →
     needVV s u v = .ok →
     let x := s.rs a
     let y := s.rs b
     let mix (z : Word) : Word :=
       let z := (z ^^^ (z >>> 30)) * 0xBF58476D1CE4E5B9#64
       let z := (z ^^^ (z >>> 27)) * 0x94D049BB133111EB#64
       z ^^^ (z >>> 31)
     (x = y → Leaves (exec (.chk a b) s) (nextCtx s.iss.words s.ctx) s) ∧
     (x ≠ y → Faults (exec (.chk a b) s) .shadowMismatch (x ^^^ y) 0 s) ∧
     (s.rv u = s.rv v → Leaves (exec (.vchk u v) s) (nextCtx s.iss.words s.ctx) s) ∧
     (s.rv u ≠ s.rv v → ∃ k, k < 32 ∧ (∀ j, j < k → laneOf 64 (s.rv u) j = laneOf 64 (s.rv v) j) ∧
       laneOf 64 (s.rv u) k ≠ laneOf 64 (s.rv v) k ∧ Faults (exec (.vchk u v) s) .shadowMismatch
         (BitVec.ofNat 64 (laneOf 64 (s.rv u) k) ^^^ BitVec.ofNat 64 (laneOf 64 (s.rv v) k)) 0 s) ∧
     Issues (exec (.rng d a b) s)
       (pushS d 3 (mix (s.ctx.rseed ^^^ (x * 0x9E3779B97F4A7C15#64) ^^^ (s.ctx.rstep * 0xD1B54A32D192ED03#64) ^^^ y)) s))



/-! ### Vector unit -/

/-- VADD, VSUB, VMUL wrap; VADDS, VSUBS, VMULHR saturate; VMIN, VMAX (07_vector R183, R185): every active lane, with the
flags of the active lanes. Lanes are read with the SUBST rule; results wrap or saturate as R180 states. -/
def Obligations.VectorArithmeticResults : Prop :=
  ∀ (s : State) (d : Fin 32) (a b : VSrc) (t : ElemTy) (m : MaskMode), Alone s → RoomFor s Need.push →
    needVV s a b = .ok → checkReserved s t m [a, b] = .ok →
    let vf := s.ctx.vf
    let X (l : Nat) : Int := (rdLane vf t (s.rv a) l).1
    let Y (l : Nat) : Int := (rdLane vf t (s.rv b) l).1
    let sub (l : Nat) : Bool := (rdLane vf t (s.rv a) l).2 || (rdLane vf t (s.rv b) l).2
    let lanes (i : Instr) (lat : Nat) (r : Nat → Int × Bool) : Prop :=
      PushesLanes (exec i s) d lat t m (s.rv a) (fun l => codeOf t.width (r l).1) (fun l => (r l).2) sub s
    lanes (.vadd d a b t m) 2 (fun l => wrapV vf t (X l + Y l)) ∧
    lanes (.vsub d a b t m) 2 (fun l => wrapV vf t (X l - Y l)) ∧
    lanes (.vmul d a b t m) 4 (fun l => wrapV vf t (X l * Y l)) ∧
    lanes (.vadds d a b t m) 2 (fun l => satV vf t (X l + Y l)) ∧
    lanes (.vsubs d a b t m) 2 (fun l => satV vf t (X l - Y l)) ∧
    lanes (.vmin d a b t m) 2 (fun l => (min (X l) (Y l), false)) ∧
    lanes (.vmax d a b t m) 2 (fun l => (max (X l) (Y l), false)) ∧
    lanes (.vmulhr d a b t m) 4 (fun l => satV vf t (rndV s (X l * Y l)
      (if tySigned t then t.width - 1 else t.width) l))

/-- VABS, VNEG, VSHLI, VSARI, VSAR, VRSHR (07_vector R183–R185): functions of one lane read as a number; VSAR's count is
the code of the other source's lane, and a count of the width or more gives 0 or −1; the count of VSHLI and VSARI is
an immediate in 0…w, which a LIMM before them may make (02_bundles R42); VRSHR with a shift above w is
ILLEGAL_OPERAND. -/
def Obligations.VectorUnaryResults : Prop :=
  ∀ (s : State) (d : Fin 32) (a b : VSrc) (g : SSrc) (t : ElemTy) (m : MaskMode) (imm : BitVec 6), Alone s →
    RoomFor s Need.push → needVV s a b = .ok → needS s g = .ok → checkReserved s t m [a] = .ok →
    let vf := s.ctx.vf
    let X (l : Nat) : Int := (rdLane vf t (s.rv a) l).1
    let sub (l : Nat) : Bool := (rdLane vf t (s.rv a) l).2
    let G := s.rs g
    let lanes (i : Instr) (r : Nat → Int × Bool) : Prop :=
      PushesLanes (exec i s) d 2 t m (s.rv a) (fun l => codeOf t.width (r l).1) (fun l => (r l).2) sub s
    lanes (.vabs d a t m) (fun l => if tySigned t then satV vf t |X l| else (X l, false)) ∧
    lanes (.vneg d a t m) (fun l => satV vf t (-X l)) ∧
    (imm.toNat < 32 → imm.toNat ≤ t.width →
      lanes (.vshli d a imm t m) (fun l => satV vf t (X l * 2 ^ imm.toNat)) ∧
      lanes (.vsari d a imm t m) (fun l => (X l / 2 ^ imm.toNat, false))) ∧
    (∀ (z : State) (p : BitVec 22), z = { s with iss := { s.iss with phase := .commit, limm := some p } } →
      let n : Int := p.toInt * 2 ^ 6 + imm.toNat
      0 ≤ n → n ≤ t.width →
      (∃ u v f, exec (.vshli d a imm t m) z = .next u ∧ u.ctx.pushes = s.ctx.pushes ++ [vectorPush d 2 v f] ∧
        LanesAre s t m (s.rv a) v fun l => codeOf t.width (satV vf t (X l * 2 ^ n.toNat)).1) ∧
      ∃ u v f, exec (.vsari d a imm t m) z = .next u ∧ u.ctx.pushes = s.ctx.pushes ++ [vectorPush d 2 v f] ∧
        LanesAre s t m (s.rv a) v fun l => codeOf t.width (X l / 2 ^ n.toNat)) ∧
    lanes (.vsar d a b t m) (fun l => (X l / 2 ^ min (laneOf t.width (s.rv b) l) t.width, false)) ∧
    (bits G 0 6 ≤ t.width →
      lanes (.vrshr d a g t m) (fun l => satV vf t (rndV s (X l) (bits G 0 6) (bits G 9 55 + l)))) ∧
    (t.width < bits G 0 6 → Faults (exec (.vrshr d a g t m) s) .illegalOperand 0 0 s)

/-- VAND, VOR, VXOR, VSHL, VSHR, VCLS, VBCAST, VPERM, VSLIDE (07_vector R183, R189): functions of lane codes, with
no flag; VBCAST with its mask modes, VPERM with its types. -/
def Obligations.VectorCodeResults : Prop :=
  ∀ (s : State) (d : Fin 32) (a b : VSrc) (g : SSrc) (t : ElemTy) (m : MaskMode), Alone s → RoomFor s Need.push →
    needVV s a b = .ok → needS s g = .ok →
    let w := t.width
    let X (l : Nat) : Nat := laneOf w (s.rv a) l
    let Y (l : Nat) : Nat := laneOf w (s.rv b) l
    let lanes (i : Instr) (v : VWord) (f : Nat → Nat) : Prop :=
      PushesLanes (exec i s) d 2 t m v f (fun _ => false) (fun _ => false) s
    lanes (.vand d a b t m) (s.rv a) (fun l => X l &&& Y l) ∧
    lanes (.vor d a b t m) (s.rv a) (fun l => X l ||| Y l) ∧
    lanes (.vxor d a b t m) (s.rv a) (fun l => X l ^^^ Y l) ∧
    lanes (.vshl d a b t m) (s.rv a) (fun l => if w ≤ Y l then 0 else X l * 2 ^ Y l % 2 ^ w) ∧
    lanes (.vshr d a b t m) (s.rv a) (fun l => if w ≤ Y l then 0 else X l / 2 ^ Y l) ∧
    lanes (.vcls d a t m) (s.rv a) (fun l => clsElem t (elemVal t (X l))) ∧
    (m ≠ .keepA → lanes (.vbcast d g t m) 0 (fun _ => (s.rs g).toNat % 2 ^ w)) ∧
    (t.isNibble = false → lanes (.vperm d a b t m) (s.rv a) (fun l => X (Y l % laneCount w))) ∧
    lanes (.vslide d a g t m) (s.rv a) (fun l =>
      let i := (l : Int) + (s.rs g).toInt
      if 0 ≤ i ∧ i < laneCount w then X i.toNat else 0)

/-- VRSUM, VRMAX, VRMIN, VCENSUS push a scalar with latency 6, VEXTR with latency 2 (07_vector R189, R190): the exact sum of
the active lanes, their largest and least value, and the minimum of their census, each with its value where no lane is
active; a lane number beyond the vector is ILLEGAL_OPERAND. -/
def Obligations.VectorReductionResults : Prop :=
  ∀ (s : State) (d : Fin 32) (a : VSrc) (g : SSrc) (t : ElemTy) (m : MaskMode), Alone s → RoomFor s Need.push →
    needV s a = .ok → needS s g = .ok → checkReserved s t m [a] = .ok →
    let vf := s.ctx.vf
    let w := t.width
    let act := (List.range (laneCount w)).filter fun l => activeLane m s.ctx.maskTop w l
    let xs := act.map fun l => (rdLane vf t (s.rv a) l).1
    let hs := act.map fun l => clsElem t (elemVal t (laneOf w (s.rv a) l))
    let rsub := if act.any (fun l => (rdLane vf t (s.rv a) l).2) then satRsub else 0
    Issues (exec (.vrsum d a t m) s) (pushSF d 6 (BitVec.ofInt 64 xs.sum) rsub s) ∧
    (∃ x, Issues (exec (.vrmax d a t m) s) (pushSF d 6 (BitVec.ofInt 64 x) rsub s) ∧
      (xs ≠ [] → x ∈ xs ∧ ∀ y ∈ xs, y ≤ x) ∧
      (xs = [] → x = if tySigned t = true ∧ fmtSym vf = true then -(maxv t) else minv t)) ∧
    (∃ x, Issues (exec (.vrmin d a t m) s) (pushSF d 6 (BitVec.ofInt 64 x) rsub s) ∧
      (xs ≠ [] → x ∈ xs ∧ ∀ y ∈ xs, x ≤ y) ∧ (xs = [] → x = maxv t)) ∧
    (∃ n, Issues (exec (.vcensus d a t m) s) (pushS d 6 (BitVec.ofNat 64 n) s) ∧
      (hs ≠ [] → n ∈ hs ∧ ∀ h ∈ hs, n ≤ h) ∧ (hs = [] → n = if tySigned t then w - 1 else w)) ∧
    ((s.rs g).toNat < laneCount w → Issues (exec (.vextr d a g t) s)
      (pushS d 2 (BitVec.ofInt 64 (elemVal t (laneOf w (s.rv a) (s.rs g).toNat))) s)) ∧
    (laneCount w ≤ (s.rs g).toNat → Faults (exec (.vextr d a g t) s) .illegalOperand 0 0 s)

/-- VCMP gives lanes of all ones or zero and sets RSUB alone, VSEL chooses by the top mask, MGET reads that mask, VRES reads
RMASK (07_vector R182, R187, R188, R198), each with latency 2; RMASK is 0 at the boundary after VRES.
MPUSH, MINV, MPOP (07_vector R182): the mask stack holds 16 entries; at the boundary MPUSH has added the nonzero lanes of its
source among those of the top, MINV has put in place of the top what the entry below it has and the top has not, MPOP has
removed it, and nothing else has changed; MINV and MPOP need an entry. -/
def Obligations.SelectAndMaskResults : Prop :=
  (∀ (s : State) (d : Fin 32) (a b : VSrc) (t : ElemTy) (c : VCond), Alone s → RoomFor s Need.push →
     needVV s a b = .ok → checkReserved s t .all [a, b] = .ok →
     let vf := s.ctx.vf
     let w := t.width
     let X (l : Nat) : Int := (rdLane vf t (s.rv a) l).1
     let Y (l : Nat) : Int := (rdLane vf t (s.rv b) l).1
     let sub (l : Nat) : Bool := (rdLane vf t (s.rv a) l).2 || (rdLane vf t (s.rv b) l).2
     let top (l : Nat) : Bool := s.ctx.maskTop.getLsbD (w / 4 * l)
     let test (l : Nat) : Bool := match c with
       | .eq => decide (X l = Y l)
       | .ne => decide (X l ≠ Y l)
       | .lt => decide (X l < Y l)
       | .ge => decide (X l ≥ Y l)
     (∃ v, Issues (exec (.vcmp d a b t c) s)
         (pushV d 2 v (if (List.range (laneCount w)).any sub then satRsub else 0) s) ∧
       ∀ l, l < laneCount w → laneOf w v l = if test l then 2 ^ w - 1 else 0) ∧
     (∃ v, Issues (exec (.vsel d a b t) s) (pushV d 2 v 0 s) ∧
       ∀ l, l < laneCount w → laneOf w v l = if top l then laneOf w (s.rv a) l else laneOf w (s.rv b) l) ∧
     (∃ v, Issues (exec (.mget d t) s) (pushV d 2 v 0 s) ∧
       ∀ l, l < laneCount w → laneOf w v l = if top l then 2 ^ w - 1 else 0) ∧
     Leaves (exec (.vres d) s) { nextCtx s.iss.words
       { s.ctx with pushes := s.ctx.pushes ++ [vectorPush d 2 (s.ctx.rmask.setWidth 2048) 0] } with rmask := 0 } s) ∧
  (∀ (s : State) (a : VSrc) (t : ElemTy), Alone s → RoomFor s {} → needV s a = .ok →
     let after := nextCtx s.iss.words s.ctx
     (s.ctx.mask.length < 16 → ∃ k, Leaves (exec (.mpush a t) s) { after with mask := k :: s.ctx.mask } s ∧
       ∀ i, i < 512 → k.getLsbD i =
         (s.ctx.maskTop.getLsbD (i / (t.width / 4) * (t.width / 4)) &&
           laneOf t.width (s.rv a) (i / (t.width / 4)) != 0)) ∧
     (s.ctx.mask.length = 16 → Faults (exec (.mpush a t) s) .stackDepth 0 0 s) ∧
     (∀ top rest, s.ctx.mask = top :: rest →
       (∃ k, Leaves (exec .minv s) { after with mask := k :: rest } s ∧
         ∀ i, i < 512 → k.getLsbD i = ((rest.headD (BitVec.allOnes 512)).getLsbD i && !top.getLsbD i)) ∧
       Leaves (exec .mpop s) { after with mask := rest } s) ∧
     (s.ctx.mask = [] → Faults (exec .minv s) .stackDepth 0 0 s ∧ Faults (exec .mpop s) .stackDepth 0 0 s))

/-- VSCAN, VDOT, VCVT (07_vector R186, R191, R192) issue and push a vector, with latencies 6, 4 and 2, under every mask mode:
VSCAN's active lanes hold the saturated running sums, which inactive lanes do not interrupt; VDOT's active lanes of width 32
the saturated sums of products of their group; VCVT converts the lanes of its source from VF.CVT to its own type, by its
shift or by the least census of those lanes, and refuses a part or a shift out of range. VEC says that an active lane was
clamped, RSUB that one was substituted. -/
def Obligations.VectorWideResults : Prop :=
  ∀ (s : State) (d : Fin 32) (a b : VSrc) (g : SSrc) (t : ElemTy) (m : MaskMode), Alone s → RoomFor s Need.push →
    needVV s a b = .ok → needS s g = .ok →
    let vf := s.ctx.vf
    let w := t.width
    let ts := vfCvt vf
    let G := s.rs g
    let X (l : Nat) : Int := (rdLane vf t (s.rv a) l).1
    let on (n l : Nat) : Bool := activeLane m s.ctx.maskTop n l
    let off (l : Nat) : Nat := if m = .keepA then laneOf w (s.rv a) l else 0
    let flags (f : BitVec 6) (n : Nat) (vec sub : Nat → Bool) : Prop :=
      f.getLsbD 0 = (List.range n).any vec ∧ f.getLsbD 5 = (List.range n).any sub ∧ ∀ k, 1 ≤ k → k ≤ 4 → f.getLsbD k = false
    (checkReserved s t m [a] = .ok → ∃ v f, Issues (exec (.vscan d a t m) s) (pushV d 6 v f s) ∧
      ∃ r : Nat → Int, r 0 = 0 ∧ (∀ l, l < laneCount w →
        (on w l = true → r (l + 1) = (satV vf t (r l + X l)).1 ∧ laneOf w v l = codeOf w (r (l + 1))) ∧
        (on w l = false → r (l + 1) = r l ∧ laneOf w v l = off l)) ∧
        flags f (laneCount w) (fun l => on w l && (satV vf t (r l + X l)).2)
          fun l => on w l && (rdLane vf t (s.rv a) l).2) ∧
    (let ok (x : VSrc) : Prop := ∀ l, l < laneCount w → on 32 (l / (32 / w)) = true →
       isReserved (fmtSym vf) t (laneOf w (s.rv x) l) = true → fmtSubst vf ≠ .fault
     let sum (l : Nat) : Int := ((List.range (32 / w)).map fun k =>
       (rdLane vf t (s.rv a) (32 / w * l + k)).1 * (rdLane vf t (s.rv b) (32 / w * l + k)).1).sum
     let tr := if tySigned t then ElemTy.i32 else .n32
     t.width < 32 → ok a → ok b → ∃ v f, Issues (exec (.vdot d a b t m) s) (pushV d 4 v f s) ∧
      (∀ l, l < 64 → laneOf 32 v l = if on 32 l then codeOf 32 (satV vf tr (sum l)).1
        else if m = .keepA then laneOf 32 (s.rv a) l else 0) ∧
      flags f 64 (fun l => on 32 l && (satV vf tr (sum l)).2) fun l => on 32 l && (List.range (32 / w)).any fun k =>
        (rdLane vf t (s.rv a) (32 / w * l + k)).2 || (rdLane vf t (s.rv b) (32 / w * l + k)).2) ∧
    (checkCvt s m t (s.rv a) G = .ok →
      let n := 2048 / max ts.width w
      let j := if ts.width < w then bits G 6 3 * n else 0
      let hs := ((List.range n).filter fun l => on ts.width (j + l)).map fun l =>
        clsElem ts (elemVal ts (laneOf ts.width (s.rv a) (j + l)))
      ∀ h, (hs ≠ [] → h ∈ hs ∧ ∀ k ∈ hs, h ≤ k) → (hs = [] → h = if tySigned ts then ts.width - 1 else ts.width) →
      let sh := if fmtAuto vf then ts.width - h - w else bits G 0 6
      let r (l : Nat) : Int × Bool := satV vf t (rndV s (rdLane vf ts (s.rv a) (j + l)).1 sh (bits G 9 55 + l))
      ∃ v f, Issues (exec (.vcvt d a g t m) s) (pushV d 2 v f s) ∧
        (∀ l, l < laneCount w → laneOf w v l = if n ≤ l then 0 else
          if on ts.width (j + l) then codeOf w (r l).1 else off l) ∧
        flags f n (fun l => on ts.width (j + l) && (r l).2)
          fun l => on ts.width (j + l) && (rdLane vf ts (s.rv a) (j + l)).2) ∧
    (ts.width < w → w / ts.width ≤ bits G 6 3 → Faults (exec (.vcvt d a g t m) s) .illegalOperand 0 0 s) ∧
    (¬(ts.width < w ∧ w / ts.width ≤ bits G 6 3) → fmtAuto vf = false → ts.width < bits G 0 6 →
      Faults (exec (.vcvt d a g t m) s) .illegalOperand 0 0 s)

/-! ### Function unit, matrix engine, copy engines -/

/-- VFN and VDIV (08_function R205, R208): VFN pushes with latency 8 the function of the loaded table that its field
names, and refuses a table that is absent; a reciprocal of 0 gives the greatest value and SATF.DIV. VDIV pushes with
latency 24; a zero divisor saturates by the sign of the dividend and sets SATF.DIV; else the quotient of the dividend
scaled by 2^DSH is rounded by each of the five modes and saturated. -/
def Obligations.FunctionResults : Prop :=
  ∀ (s : State) (d : Fin 32) (a b : VSrc) (n : Fin 16) (t : ElemTy) (m : MaskMode), Alone s →
    RoomFor s Need.push → needVV s a b = .ok → checkReserved s t m [a, b] = .ok → checkReserved s t m [a] = .ok →
    loadingTable s n.val = false →
    let vf := s.ctx.vf
    let w := t.width
    let X (l : Nat) : Int := (rdLane vf t (s.rv a) l).1
    let Y (l : Nat) : Int := (rdLane vf t (s.rv b) l).1
    (∀ tab, fnTable s.ctx n.val = some tab → ∃ v g, Issues (exec (.vfn d a n t m) s) (pushV d 8 v g s) ∧
      LanesAre s t m (s.rv a) v (fun l => codeOf w (vfnLane tab vf t (fun y k => rndV s y k l) (X l)).1) ∧
      ∀ l, l < laneCount w → activeLane m s.ctx.maskTop w l = true → X l = 0 → tab.kind = 2 →
        laneOf w v l = codeOf w (maxv t) ∧ g.getLsbD 4 = true) ∧
    (fnTable s.ctx n.val = none → Faults (exec (.vfn d a n t m) s) .illegalOperand 0 0 s) ∧
    ∃ v g, Issues (exec (.vdiv d a b t m) s) (pushV d 24 v g s) ∧
      ∀ l, l < laneCount w → (activeLane m s.ctx.maskTop w l = false →
          laneOf w v l = if m = .keepA then laneOf w (s.rv a) l else 0) ∧
        (activeLane m s.ctx.maskTop w l = true →
          let num : Int := X l * 2 ^ vfDsh vf * (if Y l < 0 then -1 else 1)
          let den : Int := if Y l < 0 then -(Y l) else Y l
          let word := randomWord s.ctx.rseed s.ctx.rstep 0 (BitVec.ofNat 64 l)
          let gives (q : Int) : Prop := laneOf w v l = codeOf w (satV vf t q).1 ∧
            ((satV vf t q).2 = true → g.getLsbD 0 = true)
          (Y l ≠ 0 → fmtRnd vf = .rne → gives (if den < 2 * (num % den) ∨ 2 * (num % den) = den ∧ num / den % 2 = 1 then
            num / den + 1 else num / den)) ∧
          (Y l ≠ 0 → fmtRnd vf = .rna → gives (if den < 2 * (num % den) ∨ 2 * (num % den) = den ∧ 0 ≤ num then
            num / den + 1 else num / den)) ∧
          (Y l ≠ 0 → fmtRnd vf = .stoch → gives ((num + (word.toNat : Int) % den) / den)) ∧
          (Y l = 0 → g.getLsbD 4 = true) ∧
          (Y l = 0 → 0 ≤ X l → laneOf w v l = codeOf w (maxv t)) ∧
          (Y l = 0 → X l < 0 → laneOf w v l = codeOf w (if fmtSym vf then -(maxv t) else minv t)) ∧
          (Y l ≠ 0 → fmtRnd vf = .rtz →
            laneOf w v l = codeOf w (satV vf t ((X l * 2 ^ vfDsh vf).tdiv (Y l))).1) ∧
          (Y l ≠ 0 → fmtRnd vf = .rdn →
            laneOf w v l = codeOf w (satV vf t ((X l * 2 ^ vfDsh vf).fdiv (Y l))).1))

/-- VFNLD and VOPT issue (08_function R201, R207, R210, R212): each starts one operation of class T that holds its
ranges, VFNLD against writes and VOPT against every access; a VOPT captures VF, RSEED, RSTEP and OPTC0–OPTC4 with its three tiles. That an operation ends at its nominal time is the
model's choice (notes/assumptions/8). -/
def Obligations.FunctionStarts : Prop :=
  ∀ (s : State) (x : Fin 8) (k : VfAddr) (r : OptRule) (h : BitVec 8) (a : SSrc), Alone s → RoomFor s { t := 1 } →
    needS s a = .ok →
    (vfCheck s k (s.rs a) = .ok → functionBusy s = false → accessHeld s false (vfRuns s k (s.rs a)) = false →
      ∃ t, Issues (exec (.vfnld x k a) s) t ∧ Counted s t .t ∧ SameMemory s t ∧
        (Started s t ((vfSpace s k (s.rs a)).delay + 13) fun o =>
          o = .vfnld (x.val + 8) (vfSide s k (s.rs a)) (s.rs a)) ∧
        ∀ key, vfRuns s k (s.rs a) = [⟨.here key, 832⟩] → t.ops.getLast?.map Op.ranges = some [⟨key, 832, false⟩]) ∧
    (∀ iw ew im em ig eg, voptTiles s h (s.rs a) = (some (iw, ew), some (im, em), some (ig, eg)) →
      checkVopt s h (s.rs a) = .ok →
      ∃ t, Issues (exec (.vopt r h a) s) t ∧ Counted s t .t ∧ SameMemory s t ∧
        Started s t (20 + (ew.rows * ew.cols + 127) / 128) fun o =>
          o = .vopt r iw im ig s.ctx.vf s.ctx.rseed s.ctx.rstep
            ((List.range 5).map fun n => s.ctx.optc.getD n 0) ∧ t.ops.getLast?.map Op.ranges = some
              ([ew, em, eg].map fun e => ⟨tileByteKey s.cur e 0, tileBytes e, true⟩)) ∧
    (∀ ew em eg iw im ig, voptTiles s h (s.rs a) = (some (iw, ew), some (im, em), some (ig, eg)) →
      (im = iw ∨ ig = iw ∨ ig = im) → Faults (exec (.vopt r h a) s) .illegalOperand 0 0 s)

/-- MMA, MMAZ, MMAT, MMBT (09_matrix R224–R226): a product that passes its checks is queued with the shape and the
exponent it has at issue, the accumulator's issued word takes the product's exponent (and, of MMAZ, its shape), and
class T counts it, of a REPEAT run once, at its first repetition.
MMAC, MOUT, MLOAD, MADD, MBIAS, MZERO (09_matrix R225, R227–R231) are queued with the exponent and the shift they
have at issue; a MOUT makes its tile's exponent pending; that MZERO leaves the exponent 0 is the model's choice
(notes/assumptions/76); MCENS (R232 Table 9-5) pushes with latency 12 the word of what completed instructions left. -/
def Obligations.MatrixStarts : Prop :=
  (∀ (s : State) (x : Fin 64) (h k : BitVec 8) (ia ib : Nat) (ea eb : TileEntry), Alone s →
     RoomFor s (matrixNeed s) → mtxTile s h = some (ia, ea) → mtxTile s k = some (ib, eb) →
     let n := x.val + bits (s.ctx.mo.getD 0 0) 0 16
     let w := issuedWord s n
     let issued := (s.ctx.rep.map RepState.issued).getD 0
     let starts (i : Instr) (zero tA tB : Bool) : Prop := checkProduct zero tA tB x h k s = .ok →
       ∃ t m, Issues (exec i s) t ∧ Started s t 1 (fun o => o = .matrix m) ∧
         m.instr = i ∧ m.acc = n ∧ m.a = ia ∧ m.b = ib ∧ m.started = none ∧ m.mf = s.ctx.mf ∧
         m.m = (if zero then min 128 (ea.rows - rowA s) else w.rows) ∧
         m.n = (if zero then min 128 (eb.cols - colB s) else w.cols) ∧
         m.klen = (if kLen s ≠ 0 then kLen s else if tA then ea.rows - rowA s else ea.cols - colA s) ∧
         m.exp = ea.exp + eb.exp ∧
         issuedWord t n = (if zero then { w with rows := m.m, cols := m.n, exp := m.exp, free := false }
           else { w with exp := m.exp, free := false }) ∧
         (issued = 0 → Counted s t .t) ∧ (issued ≠ 0 → t.ctx.cnt = s.ctx.cnt) ∧ SameMemory s t
     starts (.mma x h k) false false false ∧ starts (.mmaz x h k) true false false ∧
     starts (.mmat x h k) false true false ∧ starts (.mmbt x h k) false false true) ∧
  (∀ (s : State) (x y : Fin 64) (h sh : BitVec 8) (so : Fin 41) (r c : Fin 128) (col : Bool) (ib : Nat)
     (eb : TileEntry), Alone s → RoomFor s (matrixNeed s) → mtxTile s h = some (ib, eb) →
     let n := x.val + bits (s.ctx.mo.getD 0 0) 0 16
     let w := issuedWord s n
     let wy := issuedWord s y.val
     let starts (i : Instr) (P : State → MtxOp → Prop) : Prop :=
       ∃ t m, Issues (exec i s) t ∧ Started s t 1 (fun o => o = .matrix m) ∧ m.instr = i ∧ m.acc = n ∧
         m.started = none ∧ P t m ∧ ((s.ctx.rep.map RepState.issued).getD 0 = 0 → Counted s t .t) ∧ SameMemory s t
     (checkMmac x h y s = .ok → starts (.mmac x h y) fun t m =>
       m.klen = wy.cols ∧ m.m = w.rows ∧ m.n = w.cols ∧ m.b = ib ∧ m.ay = y.val ∧
       m.exp = (if wy.free then 0 else wy.exp) + mfChsh s.ctx.mf + eb.exp ∧
       issuedWord t n = { w with exp := m.exp, free := false }) ∧
     (checkMout x h s = .ok → starts (.mout x h so) fun t m =>
       m.m = w.rows ∧ m.n = w.cols ∧ m.a = ib ∧
       m.shift = (if w.free then 0 else
         if rowA s = 0 ∧ colA s = 0 ∧ w.rows = eb.rows ∧ w.cols = eb.cols then (so.val : Int) else eb.exp - w.exp) ∧
       (t.core.tiles.get? ib).map TileEntry.expPending = some (some s.nextOp) ∧ issuedWord t n = w) ∧
     (checkLoadAcc true none x h sh.toInt s = .ok → starts (.mload x h sh) fun t m =>
       m.m = min 128 (eb.rows - rowA s) ∧ m.n = min 128 (eb.cols - colA s) ∧ m.shift = sh.toInt ∧
       issuedWord t n = { w with rows := m.m, cols := m.n, exp := eb.exp + sh.toInt, free := false }) ∧
     (checkLoadAcc false none x h sh.toInt s = .ok → starts (.madd x h sh) fun t m =>
       m.m = w.rows ∧ m.n = w.cols ∧ m.shift = sh.toInt ∧
       issuedWord t n = { w with exp := eb.exp + sh.toInt, free := false }) ∧
     (checkLoadAcc false (some col) x h 0 s = .ok → starts (.mbias x h col) fun t m =>
       m.m = w.rows ∧ m.n = w.cols ∧ m.shift = 0 ∧ issuedWord t n = { w with exp := eb.exp, free := false }) ∧
     (n < 64 → queuedMatrix s s.cur < 8 → acqPending s = false → starts (.mzero x r c) fun t m =>
       m.m = r.val + 1 ∧ m.n = c.val + 1 ∧
       issuedWord t n = { w with rows := r.val + 1, cols := c.val + 1, exp := 0, free := true }) ∧
     (n < 64 → RoomFor s Need.push → Issues (exec (.mcens x) s) (pushS 0 12 (mcensWord (s.ctx.accAt n).done) s)) ∧
     (64 ≤ n → Faults (exec (.mcens x) s) .illegalOperand 0 0 s ∧ Faults (exec (.mzero x r c) s) .illegalOperand 0 0 s))

/-- COPY, COPYG, COPYS, COPYR, SAEQ, SAEF (10_copy R242, R246, R251–R255): a slot whose checks pass in the order of R246
starts one operation of its channel, with its operands; one whose checks find a fault takes that fault and starts
nothing. The time at which the operation ends is the model's choice (notes/assumptions/8). -/
def Obligations.CopyStarts : Prop :=
  ∀ (s : State) (n : Fin 2) (a b c : SSrc) (m : CopyMode) (r : RedOp) (f : SaeOp), Alone s → needSSS s a b c = .ok →
    let A := s.rs a
    let B := s.rs b
    let C := s.rs c
    let k := if n = 0 then Cls.c0 else Cls.c1
    let room (x : List Range × List Range) : Prop :=
      RoomFor s (if n = 0 then { c0 := 1, ranges := x.1.length + x.2.length }
        else { c1 := 1, ranges := x.1.length + x.2.length })
    let starts (i : Instr) (chk : Verdict) (x : List Range × List Range) (lat : Nat) (act : CopyAct) : Prop :=
      (chk = .ok → room x → ∃ t op, Issues (exec i s) t ∧ Started s t lat (fun o => o = .copy op) ∧ op.ch = n.val ∧
        op.act = act ∧ op.dstAddr = A ∧ op.srcAddr = B ∧ op.shape = C ∧ Counted s t k ∧ SameMemory s t) ∧
      ∀ code faddr, chk = .fault code faddr 0 false none → Faults (exec i s) code faddr 0 s
    starts (.copy n a b c m) (checkCopy s m A B C) (copyRanges s m A B (shapeOf C)) (copyCost s m A B (shapeOf C))
      (.copy m B) ∧
    starts (.copyg n a b c) (checkGather s true A B C) (gatherRanges s true A B (gatherOf C))
      (indexCost s B (gatherOf C)) .gather ∧
    starts (.copys n a b c) (checkGather s false A B C) (gatherRanges s false A B (gatherOf C))
      (indexCost s B (gatherOf C)) .scatter ∧
    starts (.copyr n a b c r) (checkCopyr s A B C) (copyRanges s .plain A B (shapeOf C))
      (copyCost s .plain A B (shapeOf C)) (.reduce r) ∧
    starts (.saeq n a b c f) (checkSae s false A B C) (saeRanges s false A B (gatherOf C)) (saeCost s B (gatherOf C))
      (.saeRows f) ∧
    starts (.saef n a b c f) (checkSae s true A B C) (saeRanges s true A B (gatherOf C)) (saeCost s B (gatherOf C))
      (.saeElems f)

/-- ATOM, SIGNAL, PGREQ, MIGR, CGLD (10_copy R256, R257; 11_translation R276; 12_migration R292–R294;
15_fabric R368): each starts one operation, of class S, of CGLD that of its channel. An ATOM or SIGNAL of a place in this
package waits there; a MIGR of a heap page has its answer already; a PGREQ of missing pages may post their records. That
an operation ends at its nominal time is the model's choice (notes/assumptions/8). -/
def Obligations.FarStarts : Prop :=
  ∀ (s : State) (n : Fin 2) (a b c : SSrc) (f : AtomOp) (plus w clr : Bool) (o : Scope), Alone s →
    needSSS s a b c = .ok →
    let A := s.rs a
    let B := s.rs b
    let C := s.rs c
    (checkAtom s f A C = .ok → RoomFor s { s := 1, ranges := (resultRange s (atomWord C)).length } →
      let far := ∃ q z g, farPlace s A (atomWord C).bytes true = .far q z g
      let mine (k : OpKind) : Prop := ∃ x, k = .far x ∧ x.addr = A ∧ x.rel = (atomWord C).rel ∧
        (x.performed = true ↔ far ∧ x.rel = false) ∧
        ∃ wide uns nores cmp off, x.kind = .atom f wide uns nores
            (BitVec.ofNat 64 (B.toNat % 2 ^ (8 * (atomWord C).bytes))) cmp off ∧
          (wide = true ↔ bits C 22 2 = 3) ∧ (nores = true ↔ bits C 29 1 = 1) ∧ off = bits C 0 22
      ∃ t, Issues (exec (.atom n a b c f) s) t ∧ Counted s t .s ∧ SameMemory s t ∧
        (¬far ∨ (atomWord C).rel = true →
          Started s t (2 + if (atomWord C).rel = true then 0 else (spaceOf s A).delay) mine) ∧
        ∃ x ∈ t.ops, x.id = s.nextOp ∧ mine x.kind) ∧
    (∀ code faddr, checkAtom s f A C = .fault code faddr 0 false none →
      Faults (exec (.atom n a b c f) s) code faddr 0 s) ∧
    (checkSignal s A plus = .ok → RoomFor s { s := 1 } →
      ∃ t, Issues (exec (.signal n a b plus o) s) t ∧ Counted s t .s ∧ SameMemory s t ∧
        Started s t 2 fun k => ∃ x, k = .far x ∧ x.addr = A ∧ x.kind = .signal plus B n.val ∧
          x.scope = o ∧ x.performed = false) ∧
    (spaceOk A.toNat 1 = true → A.toNat / 2 ^ 60 = 0 → 1 ≤ B.toNat → B.toNat ≤ 2 ^ 32 → acqPending s = false →
      RoomFor s { s := 1 } →
      ∃ t, Issues (exec (.pgreq n a b w) s) t ∧ Counted s t .s ∧ SameButService (s.asidAt s.cur) s t ∧
        ((∀ x ∈ requestPages s (s.asidAt s.cur) (A.toNat % 2 ^ 48) B.toNat w, x.2.2 ≠ .missing) → SameMemory s t) ∧
        Started s t 0 fun k => k = .pgreq (A.toNat % 2 ^ 48) B.toNat w true false) ∧
    (checkMigr s A B C = .ok → RoomFor s { s := 1, ranges := 1 } →
      ∃ t, Issues (exec (.migr n a b c) s) t ∧ Counted s t .s ∧ SameMemory s t ∧
        Started s t 0 fun k => k = .migr (A.toNat % 2 ^ 48) B.toNat C.toNat
          (if heapVa s (A.toNat % 2 ^ 48) then some (.heap, s.accid) else none)) ∧
    (checkCgld s A B clr = .ok → RoomFor s (if n = 0 then { c0 := 1 } else { c1 := 1 }) →
      ∃ t lat, Issues (exec (.cgld n a b clr) s) t ∧ Counted s t (if n = 0 then .c0 else .c1) ∧ SameMemory s t ∧
        Started s t lat fun k => ∃ ps, k = .cgld n.val clr B.toNat (A.toNat % 2 ^ 48) ps)

/-! ### Loads and stores -/

/-- LD and LD_ACQ (05_scalar R119, R120; 02_bundles R47): an access whose checks pass pushes with latency 4, 24 or 80
by where its bytes live. Of a tile or private space LD's value is ready at issue, the sign- or zero-extended
little-endian bytes as the core sees them; any other load, and every acquiring one, starts an operation that the push
awaits. A check's fault is taken. That the value is taken at issue, and when any other load performs, are the model's
choices (notes/assumptions/8, 52). -/
def Obligations.ScalarLoadResults : Prop :=
  ∀ (s : State) (d : Fin 32) (a b : SSrc) (z : Size) (sgn : Bool) (o : Scope), Alone s → RoomFor s Need.push →
    needSS s a b = .ok →
    let addr := s.rs a + s.rs b
    let n := sizeBytes z
    let runs := accessRuns s addr n
    let got := takeRuns s s.cur s.nextOp 0 runs
    let near := spaceOf s addr = .tile ∨ ∀ r ∈ runs, r.place = .zero
    let lat := match spaceOf s addr with
      | .tile => 4
      | .ring => 24
      | .global => 80
    let pushes (i : Instr) (t : State) (st : PushState) (v : Word → Prop) : Prop :=
      Issues (exec i s) t ∧ SameMemory s t ∧ ∃ q, t.ctx.pushes = s.ctx.pushes ++ [q] ∧ q.vec = false ∧
        q.dest = d.val ∧ q.count = lat ∧ q.addr = addr ∧ q.state = st ∧ v q.sval
    let starts (i : Instr) (sg : Bool) (acq : Option Scope) : Prop := ∃ t,
      pushes i t (.awaiting s.nextOp) (fun _ => True) ∧
      Started s t (spaceOf s addr).delay fun k => ∃ l, k = .load l ∧ l.runs = runs.map (nearRun s true false) ∧
        l.nbytes = n ∧ l.sgn = sg ∧
        l.vec = false ∧ l.acq = acq
    (checkLoad s n addr n = .ok →
      (near → got.2 = none → ∃ t, pushes (.ld d a b z sgn) t .ready
        (fun v => v = scalarOf sgn (gotBytes n got.1) ∧
          ∀ k, runs = [⟨.here k, n⟩] → v = scalarOf sgn (coreBytes s s.cur s.nextOp k n)) ∧ t.ops = s.ops) ∧
      (near → ∀ code, got.2 = some code → ∃ t, pushes (.ld d a b z sgn) t (.failed code 0) (fun _ => True) ∧
        ∃ u, pushes (.ldAcq d a b z o) u (.failed code 0) (fun _ => True)) ∧
      (¬near → starts (.ld d a b z sgn) sgn none) ∧
      (¬near ∨ got.2 = none → starts (.ldAcq d a b z o) false (some o))) ∧
    ∀ code faddr, checkLoad s n addr n = .fault code faddr 0 false none →
      Faults (exec (.ld d a b z sgn) s) code faddr 0 s ∧ Faults (exec (.ldAcq d a b z o) s) code faddr 0 s

/-- ST and ST_REL (05_scalar R119, R120; 04_memory_model R79, R84, R85): a plain store to a tile or private space
writes its bytes at issue and no others, unless an earlier access of the core to them is pending; any other store, and
every release, leaves memory as it is and starts an operation, of an address in another package, or of a peer form, a
posted one that class S counts; a peer form of this package's own id reaches its bytes here (01_engines R22). A check's
fault is taken. When a store performs and enters its queue are the model's choices (notes/assumptions/8, 52). -/
def Obligations.ScalarStoreResults : Prop :=
  ∀ (s : State) (d : Fin 32) (a b : SSrc) (z : Size) (o : Scope), CanonMem s → Alone s → needSS s a b = .ok →
    needS s (.g d) = .ok →
    let addr := s.rs a + s.rs b
    let n := sizeBytes z
    let v := (s.rs (.g d)).toNat
    let runs := accessRuns s addr n
    RoomFor s (storeNeed s addr n) →
    let starts (i : Instr) (rel : Option Scope) : Prop := ∃ t, Issues (exec i s) t ∧ SameMemory s t ∧
      (∀ k, runs = [⟨.here k, n⟩] → t.ctx.cnt = s.ctx.cnt ∧ Started s t (spaceOf s addr).delay fun x =>
        ∃ w, x = .store w ∧ w.place = .here k ∧ w.rel = rel ∧ w.len = n ∧ w.data = wholeBytes 0 (leBytes n v) ∧
          w.posted = false ∧ (w.queued = true ↔ homeDie s.cur k ≠ dieOf s.cur)) ∧
      (∀ acc size g, runs = [⟨.far acc size g, n⟩] → Counted s t .s ∧ Started s t (spaceOf s addr).delay fun x =>
        ∃ w, x = .store w ∧ w.rel = rel ∧ w.len = n ∧ w.posted = true ∧ w.data = wholeBytes 0 (leBytes n v) ∧
          (acc ≠ s.accid → w.place = .far acc size g) ∧
          ∀ key, ownPeer s (.far acc size g) n = some key → tagOf addr.toNat = 0xB → w.place = .here key)
    (checkStore s n addr n = .ok →
      (spaceOf s addr = .tile → ∀ k, runs = [⟨.here k, n⟩] → storeWaits s k n = false →
        ∃ t, Issues (exec (.st d a b z) s) t ∧ t.ops = s.ops ∧
        (∀ j, j < n → Memory.get t.mem (k + j) = BitVec.ofNat 8 (v / 256 ^ j)) ∧
        (∀ key, key < k ∨ k + n ≤ key → Memory.get t.mem key = Memory.get s.mem key) ∧ t.host = s.host) ∧
      (spaceOf s addr ≠ .tile ∨ (∃ k, runs = [⟨.here k, n⟩] ∧ storeWaits s k n = true) → starts (.st d a b z) none) ∧ starts (.stRel d a b z o) (some o)) ∧
    ∀ code faddr, checkStore s n addr n = .fault code faddr 0 false none →
      Faults (exec (.st d a b z) s) code faddr 0 s ∧ Faults (exec (.stRel d a b z o) s) code faddr 0 s

/-- VLD and VST (07_vector R193–R195; 02_bundles R47): a load pushes with latency 6, 26 or 80; of a tile its value is
ready at issue, the 256 bytes under the mask. A store to a tile, no earlier access of the core to its bytes being pending,
writes at issue the nibbles that the mask lets it write and no other byte; any other leaves memory as it is and starts
operations. The performance at issue is the model's choice (notes/assumptions/52), and FADDR 0 of the tile modes' faults
too (notes/assumptions/11). -/
def Obligations.VectorMemoryResults : Prop :=
  ∀ (s : State) (x : Fin 32) (k : VAddr) (a : SSrc), CanonMem s → Alone s → needS s a = .ok →
    let addr := s.rs a
    let runs := vmRuns s k addr
    let sp := vmSpace s k addr
    let m := vmMask s k
    let reads := vldRuns s k addr
    let got := takeRuns s s.cur s.nextOp 0 reads
    (vmCheck s false k addr = .ok → accessHeld s false runs = false → RoomFor s Need.push →
      (sp = .tile → got.2 = none → ∃ t q, Issues (exec (.vld x k a) s) t ∧ SameMemory s t ∧ t.ops = s.ops ∧
        t.ctx.pushes = s.ctx.pushes ++ [q] ∧ q.vec = true ∧ q.dest = x.val ∧ q.count = 6 ∧ q.state = .ready ∧
        q.vval = vectorOf m (gotBytes 256 got.1)) ∧
      (sp ≠ .tile → (∃ r ∈ reads, r.place ≠ .zero) → ∃ t q, Issues (exec (.vld x k a) s) t ∧ SameMemory s t ∧
        t.ctx.pushes = s.ctx.pushes ++ [q] ∧ q.vec = true ∧ q.dest = x.val ∧
        q.count = (if sp = .ring then 26 else 80) ∧ q.state = .awaiting s.nextOp ∧
        StartedParts s t sp.delay fun o => ∃ l, o = .load l ∧ l.runs = reads.map (nearRun s true false) ∧ l.nbytes = 256 ∧ l.vec = true ∧ l.mask = m) ∧
      (∃ t, Issues (exec (.vld x k a) s) t ∧ SameMemory s t ∧ t.ctx.pushes.length = s.ctx.pushes.length + 1)) ∧
    (vmCheck s true k addr = .ok → needV s (.v x) = .ok → holdStore s k addr = .ok →
      RoomFor s (postedNeed s addr (farWrites 0 runs (maskedBytes m (s.rv (.v x))))) →
      (sp = .tile → ∀ key, runs = [⟨.here key, 256⟩] → storeWaits s key 256 = false → ∃ t, Issues (exec (.vst x k a) s) t ∧ t.ops = s.ops ∧
        t.host = s.host ∧
        (∀ j, j < 256 → Memory.get t.mem (key + j) =
          (Memory.get s.mem (key + j) &&& ~~~nibbleBits m j) |||
            (BitVec.ofNat 8 (laneOf 8 (s.rv (.v x)) j) &&& nibbleBits m j)) ∧
        ∀ c, c < key ∨ key + 256 ≤ c → Memory.get t.mem c = Memory.get s.mem c) ∧
      (sp ≠ .tile ∨ (∃ key, runs = [⟨.here key, 256⟩] ∧ storeWaits s key 256 = true) →
        ∃ t, Issues (exec (.vst x k a) s) t ∧ SameMemory s t)) ∧
    (∀ h masked, k = .tile h masked → s.tileAt s.cur h.toNat = none →
      Faults (exec (.vld x k a) s) .tileHandle 0 0 s) ∧
    (∀ h masked i e, k = .tile h masked → s.tileAt s.cur h.toNat = some (i, e) →
      (addr.toNat % 8 ≠ 0 → Faults (exec (.vld x k a) s) .align 0 0 s) ∧
      (addr.toNat % 8 = 0 → tileBytes e < addr.toNat + 256 → Faults (exec (.vld x k a) s) .tileBounds 0 0 s))

/-- VLDX and VSTX (07_vector R197): four bytes of the tile for each lane that takes part, at the offset in the index
vector's lane. A gather's other lanes are zero. Of a scatter to tile memory, no earlier access of the core to the tile being
pending, a word is written by the last lane that names it, and no byte is written that none names. An offset that is not a
multiple of 4 is ALIGN and one beyond the tile TILE_BOUNDS, of the first lane that has one. The access at issue is the
model's choice (notes/assumptions/52), and FADDR 0 too (notes/assumptions/11). -/
def Obligations.IndexedMemoryResults : Prop :=
  ∀ (s : State) (x : Fin 32) (h : BitVec 8) (a : VSrc) (masked : Bool) (i : Nat) (e : TileEntry), CanonMem s → Alone s →
    needV s a = .ok → vmTile s h = some (i, e) →
    let o (l : Nat) : Nat := laneOf 32 (s.rv a) l
    let takes (l : Nat) : Prop := l < 64 ∧ (masked = true → s.ctx.maskTop.getLsbD (8 * l) = true)
    let good (l : Nat) : Prop := o l % 4 = 0 ∧ o l + 4 ≤ tileBytes e
    (∀ l code, takes l → (∀ j, j < l → takes j → good j) →
      (o l % 4 ≠ 0 ∧ code = .align ∨ o l % 4 = 0 ∧ tileBytes e < o l + 4 ∧ code = .tileBounds) →
      Faults (exec (.vldx x h a masked) s) code 0 0 s ∧
      (needV s (.v x) = .ok → Faults (exec (.vstx x h a masked) s) code 0 0 s)) ∧
    ((∀ l, takes l → good l) →
    (holdIndexed s h (s.rv a) masked false = .ok → RoomFor s Need.push → e.level = .tile →
      (takeRuns s s.cur s.nextOp 0 (gatherRuns s e (s.rv a) masked)).2 = none →
      ∃ t q, Issues (exec (.vldx x h a masked) s) t ∧ SameMemory s t ∧ t.ctx.pushes = s.ctx.pushes ++ [q] ∧
        q.vec = true ∧ q.dest = x.val ∧ q.count = 6 ∧ q.state = .ready ∧
        ∀ l, l < 64 →
          (takes l → laneOf 32 q.vval l = leNat (coreBytes s s.cur s.nextOp (tileByteKey s.cur e (o l)) 4)) ∧
          (¬takes l → laneOf 32 q.vval l = 0)) ∧
    (holdIndexed s h (s.rv a) masked false = .ok → RoomFor s Need.push →
      ∃ t, Issues (exec (.vldx x h a masked) s) t ∧ SameMemory s t ∧
        t.ctx.pushes.length = s.ctx.pushes.length + 1) ∧
    (holdIndexed s h (s.rv a) masked true = .ok → needV s (.v x) = .ok → RoomFor s {} →
      (e.level = .tile → storeWaits s (tileByteKey s.cur e 0) (tileBytes e) = false →
        ∃ t, Issues (exec (.vstx x h a masked) s) t ∧ t.host = s.host ∧
        (∀ l, takes l → (∀ j, l < j → takes j → o j ≠ o l) → ∀ n, n < 4 →
          Memory.get t.mem (tileKey s.cur (e.base * 256 + o l) + n) =
            BitVec.ofNat 8 (laneOf 32 (s.rv (.v x)) l / 256 ^ n)) ∧
        ∀ c, (∀ l, takes l → c < tileKey s.cur (e.base * 256 + o l) ∨ tileKey s.cur (e.base * 256 + o l) + 4 ≤ c) →
          Memory.get t.mem c = Memory.get s.mem c) ∧
      (e.level = .ring → ∃ t, Issues (exec (.vstx x h a masked) s) t ∧ SameMemory s t)))

/-! ### Tile table -/

/-- TALLOC, TFREE, TLINK, TSETS (05_scalar R130–R135, R137): after its bundle a new tile stands under its handle, all
zero, with its shape, type, level and exponent and the greatest census; a freed handle names no tile; a companion and
an exponent are written, and nothing else changes. TALLOC pushes the handle with latency 6, or all ones when it allocates
nothing: which entry and granules it takes, and so when it takes none, are the model's choices (notes/assumptions/20, 63).
TINFO (05_scalar R136 Table 5-7) pushes with latency 4 a field of the tile's entry; TID (R138) with latency 1 a
number of the task, its identifier modulo 2^32 (notes/assumptions/21). FADDR 0 of the faults is the model's
choice (notes/assumptions/77). -/
def Obligations.TileResults : Prop :=
  (∀ (s : State) (d : Fin 32) (a b : SSrc) (l : Level) (ty : ElemTy), Alone s → RoomFor s Need.push →
     needSS s a b = .ok →
     let x := s.rs a
     let y := s.rs b
     let after := nextCtx s.iss.words s.ctx
     (∀ h i e, tallocPlan s l ty x y = some (h, i, e) → ∃ t, Issues (exec (.talloc d a b l ty) s) t ∧
       t.ctx.pushes = s.ctx.pushes ++ [scalarPush d 6 (BitVec.ofNat 64 h) 0] ∧ h = bits y 0 8 ∧
       e.rows = bits x 0 13 ∧ e.cols = bits x 16 13 ∧ e.ty = ty ∧ e.level = l ∧ e.exp = signedOf 7 (bits y 8 7) ∧
       e.census = clsMax ty ∧ e.dirty = false ∧ e.inuse = true ∧ e.ver = 0 ∧ e.comp = h ∧
       (∀ n, n < tileBytes e → Memory.get t.mem (tileByteKey s.cur e 0 + n) = 0) ∧
       (∀ k, k < tileByteKey s.cur e 0 ∨ tileByteKey s.cur e 0 + tileBytes e ≤ k →
         Memory.get t.mem k = Memory.get s.mem k) ∧
       (finishBundle t).tileAt s.cur h = some (i, e) ∧ SameOthers s (finishBundle t) ∧
       (finishBundle t).core = { rested { nextCtx s.iss.words t.ctx with hmap := s.ctx.hmap.set h i } s.core with
         tiles := s.core.tiles.set i e, handles := s.core.handles.set h i }) ∧
     (tallocShape l ty x y ≠ none → tallocPlan s l ty x y = none →
       Issues (exec (.talloc d a b l ty) s) (pushS d 6 (BitVec.allOnes 64) s)) ∧
     (tallocShape l ty x y = none → Faults (exec (.talloc d a b l ty) s) .tileShape 0 0 s) ∧
     (∀ i e, s.tileOfReg x = some (i, e) →
       (tileBusy s s.cur i = false → ∃ t, Issues (exec (.tfree a) s) t ∧ SameMemory s t ∧
         (finishBundle t).tileAt s.cur x.toNat = none ∧ SameOthers s (finishBundle t) ∧ (finishBundle t).ops = s.ops ∧
         (finishBundle t).ctx = { after with hmap := s.ctx.hmap.erase x.toNat } ∧
         (finishBundle t).core.imem = s.core.imem ∧ (finishBundle t).core.l1 = s.core.l1 ∧
         ∀ k e, (finishBundle t).core.tiles.get? k = some e → (s.core.tiles.get? k).map TileEntry.base = some e.base) ∧
       (tileBusy s s.cur i = true → Waits (exec (.tfree a) s) s) ∧
       (∀ j f, s.tileOfReg y = some (j, f) → f.rows = e.rows → f.cols = e.cols →
         LeavesCore (exec (.tlink a b) s)
           { rested after s.core with tiles := s.core.tiles.set i { e with comp := y.toNat } } s ∧
         ∃ t, exec (.tlink a b) s = .next t ∧ t.tileAt s.cur x.toNat = some (i, { e with comp := y.toNat })) ∧
       (∀ j f, s.tileOfReg y = some (j, f) → f.rows ≠ e.rows ∨ f.cols ≠ e.cols →
         Faults (exec (.tlink a b) s) .tileShape 0 0 s) ∧
       (-64 ≤ y.toInt → y.toInt ≤ 63 → tileBusy s s.cur i = false →
         LeavesCore (exec (.tsets a b) s)
           { rested after s.core with tiles := s.core.tiles.set i { e with exp := y.toInt } } s ∧
         ∃ t, exec (.tsets a b) s = .next t ∧ t.tileAt s.cur x.toNat = some (i, { e with exp := y.toInt })) ∧
       (y.toInt < -64 ∨ 63 < y.toInt → Faults (exec (.tsets a b) s) .scaleMismatch 0 0 s)) ∧
     (s.tileOfReg x = none → Faults (exec (.tfree a) s) .tileHandle 0 0 s ∧
       Faults (exec (.tlink a b) s) .tileHandle 0 0 s ∧ Faults (exec (.tsets a b) s) .tileHandle 0 0 s)) ∧
  (∀ (s : State) (d : Fin 32) (a : SSrc), Alone s → RoomFor s Need.push → needS s a = .ok →
     (∀ i e, s.tileOfReg (s.rs a) = some (i, e) →
       let info (f : TinfoSel) (v : Word) : Prop := Issues (exec (.tinfo d a f) s) (pushS d 4 v s)
       info .shape (BitVec.ofNat 64 (e.rows + e.cols * 2 ^ 16 + e.ty.code * 2 ^ 32 +
         if e.level = .ring then 2 ^ 36 else 0)) ∧
       info .exp (BitVec.ofInt 64 e.exp) ∧ info .census (BitVec.ofNat 64 e.census) ∧
       info .comp (BitVec.ofNat 64 e.comp) ∧ info .ver (BitVec.ofNat 64 e.ver) ∧
       info .owner (BitVec.ofNat 64 e.owner) ∧
       info .bytes (BitVec.ofNat 64 ((e.rows * e.cols * e.ty.width + 7) / 8)) ∧
       ∃ v, info .flags v ∧ (v.getLsbD 0 = e.dirty) ∧ (v.getLsbD 1 = e.inuse) ∧ (v.getLsbD 2 = e.prev.isSome) ∧
         bits v 3 61 = 0) ∧
     (s.tileOfReg (s.rs a) = none → ∀ f, Faults (exec (.tinfo d a f) s) .tileHandle 0 0 s) ∧
     (let tid (f : TidSel) (n : Nat) : Prop := Issues (exec (.tid d f) s) (pushS d 1 (BitVec.ofNat 64 n) s)
      tid .id (s.core.task % 2 ^ 32) ∧ tid .member s.core.member ∧ tid .width (s.widthAt s.cur) ∧
      tid .pool (4096 - s.tasks.countP fun t => t.state != .done && t.homeDie == s.cur / 64) ∧
      ∀ t, s.taskAt s.cur = some t → tid .depth t.depth ∧ ∀ c, s.context? t.asid = some c → tid .mode c.mode))

/-! ### Control -/


/-- PREP, PREPR, BR, BRU, CALL, RET and NOP (06_sequencer R140–R146, R151): a target is written for the next issue cycle; a
taken transfer goes to its target, and its stall at the boundary is 3 − d cycles for a target written d issue cycles before,
3 where d is 0 (the model's choice, notes/assumptions/65); a branch that stays in the body of the top loop leaves the loops
active, and one that leaves every body of its depth ends them (notes/assumptions/68); CALL saves the address after its bundle
on a stack of 16. Nothing else changes. -/
def Obligations.BranchResults : Prop :=
  ∀ (s : State) (b : Fin 8) (p : Fin 16) (neg always : Bool) (off : BitVec 19) (a : SSrc), Alone s → RoomFor s {} →
    needS s a = .ok →
    let to_ := s.ctx.bt.getD b.val 0
    let after := nextCtx s.iss.words s.ctx
    let goes (i : Instr) (d : Ctx) (w : Option Nat) : Prop := LeavesCore (exec i s)
      { rested (countIssue d) s.core with
        bubble := match w with | some c => 3 - (s.ctx.icyc - c) | none => s.core.bubble } s
    let taken (i : Instr) : Prop := ∃ ls, goes i { s.ctx with pc := to_, loops := ls } (s.ctx.btAt.get? b.val) ∧
      (∀ e r, s.ctx.loops = e :: r → e.first ≤ to_ → to_ ≤ e.close → ls = s.ctx.loops) ∧
      ((∀ e ∈ s.ctx.loops, (to_ < e.first ∨ e.close < to_) ∧ e.retDepth = s.ctx.ret.length) → ls = [])
    let sets (i : Instr) (n : Nat) : Prop := Leaves (exec i s)
      { after with bt := s.ctx.bt.set b.val n, btAt := s.ctx.btAt.set b.val s.ctx.icyc } s
    let n : Int := (s.ctx.pc : Int) + off.toInt
    (0 ≤ n → n < 65536 → sets (.prep b off) n.toNat) ∧
    (n < 0 ∨ 65536 ≤ n → Faults (exec (.prep b off) s) .illegalOperand 0 0 s) ∧
    ((s.rs a).toNat < 65536 → sets (.prepr b a) (s.rs a).toNat) ∧
    (65536 ≤ (s.rs a).toNat → Faults (exec (.prepr b a) s) .illegalOperand 0 0 s) ∧
    (always = true ∨ s.ctx.p.getLsbD p.val ≠ neg → taken (.br b p neg always)) ∧
    (always = false → s.ctx.p.getLsbD p.val = neg → Leaves (exec (.br b p neg always) s) after s) ∧
    (s.ctx.maskTop = 0 → taken (.bru b)) ∧ (s.ctx.maskTop ≠ 0 → Leaves (exec (.bru b) s) after s) ∧
    (s.ctx.ret.length < 16 → goes (.call b)
      { s.ctx with pc := to_, ret := (s.ctx.pc + s.iss.words, s.ctx.icyc) :: s.ctx.ret } (s.ctx.btAt.get? b.val)) ∧
    (16 ≤ s.ctx.ret.length → Faults (exec (.call b) s) .stackDepth 0 0 s) ∧
    (∀ r c rest, s.ctx.ret = (r, c) :: rest → goes .ret
      { s.ctx with pc := r, ret := rest, loops := s.ctx.loops.filter fun e => decide (e.retDepth < s.ctx.ret.length) }
      (some c)) ∧
    (s.ctx.ret = [] → Faults (exec .ret s) .stackDepth 0 0 s) ∧
    Leaves (exec .nop s) after s

/-- LOOP and LOOPS (06_sequencer R147–R149): a count of 0 skips the body's bundles; else the body is entered with its
loop counter, LOOPS with its stage predicates at p8 alone; a counter beyond 32 bits is LOOP_COUNT and a fifth nested loop
STACK_DEPTH. -/
def Obligations.LoopResults : Prop :=
  ∀ (s : State) (l : Fin 4) (a : SSrc) (len : Fin 64) (st : Fin 8), Alone s → RoomFor s {} → needS s a = .ok →
    let n := (s.rs a).toNat
    let body := if len = 0 then 64 else len.val
    let first := s.ctx.pc + s.iss.words
    let enters (i : Instr) (total : Nat) (lp : Bool) (stages : Nat) : Prop :=
      n ≠ 0 → total < 2 ^ 32 → s.ctx.loops.length < 4 → ∃ t e, Issues (exec i s) t ∧ SameMemory s t ∧
        (finishBundle t).ctx.loops = e :: s.ctx.loops ∧ (finishBundle t).ctx.pc = first ∧
        (finishBundle t).ctx.lc.get? l.val = some (BitVec.ofNat 32 total) ∧ e.lc = l.val ∧ e.first = first ∧
        e.loops = lp ∧ e.stages = stages ∧ (∀ c, skipBundles s.core (body - 1) first = some c → e.close = c)
    let skips (i : Instr) : Prop := n = 0 → ∃ t, Issues (exec i s) t ∧ SameMemory s t ∧
      (finishBundle t).ctx.loops = s.ctx.loops ∧ (finishBundle t).ctx.lc.get? l.val = some 0 ∧
      ∀ c, skipBundles s.core body first = some c → (finishBundle t).ctx.pc = c
    enters (.loop l a len) n false 1 ∧ skips (.loop l a len) ∧
    (2 ^ 32 ≤ n → Faults (exec (.loop l a len) s) .loopCount 0 0 s) ∧
    (n ≠ 0 → n < 2 ^ 32 → 4 ≤ s.ctx.loops.length → Faults (exec (.loop l a len) s) .stackDepth 0 0 s) ∧
    enters (.loops l a len st) (n + st.val) true (st.val + 1) ∧ skips (.loops l a len st) ∧
    (2 ^ 32 ≤ n + st.val → Faults (exec (.loops l a len st) s) .loopCount 0 0 s) ∧
    (n ≠ 0 → n + st.val < 2 ^ 32 → s.ctx.loops.length < 4 → ∃ t, Issues (exec (.loops l a len st) s) t ∧
      ∀ k, k < 16 → (finishBundle t).ctx.p.getLsbD k = if k < 8 then s.ctx.p.getLsbD k else decide (k = 8))

/-- WAIT, SYNC, FENCE, FENCE_LITE, FENCE_HEAVY (06_sequencer R152–R154; 04_memory_model R88–R90): each issues with no other
effect once what it waits for has come, waits until then, and WAIT raises and removes the oldest mark of its classes.
BRK, TRAP, YIELD, END, REPEAT (06_sequencer R155–R158, R175; 02_bundles R43): the bundle issues, and the
task is to stop at the next boundary with the record of its code, or as one that yields; END, once what it waits for is
done (the model's reading, notes/assumptions/22), ends its member and discards its pushes; a REPEAT stands before the next
slot. -/
def Obligations.WaitAndStopResults : Prop :=
  (∀ (s : State) (w x y z : Fin 16) (l : Fin 4) (o : Scope), Alone s → RoomFor s {} →
     let lim (k : Cls) : Nat := match k with
       | .c0 => w.val
       | .c1 => x.val
       | .t => y.val
       | .s => z.val
     let mark := firstMark s.ctx.marks fun k => lim k != 15
     let within := ∀ k, lim k ≠ 15 → s.ctx.cnt.get k ≤ lim k
     (within → mark = none → Issues (exec (.wait w x y z) s) s) ∧
     (within → ∀ k m, mark = some (k, m) → exec (.wait w x y z) s =
       .next (takeFault m.code 0 m.faddr m.lost true (some k) { s with iss := {} })) ∧
     (¬within → Waits (exec (.wait w x y z) s) s) ∧
     (s.widthAt s.cur = 1 → ∀ c, s.core.waitSince = some c →
       (c + 6 ≤ s.cyc → Issues (exec (.sync l) s) s) ∧ (s.cyc < c + 6 → Waits (exec (.sync l) s) s)) ∧
     (s.widthAt s.cur ≠ 1 → ∀ t, s.taskAt s.cur = some t →
       (t.lineMap.get? l.val = none → Faults (exec (.sync l) s) .illegalOperand 0 0 s) ∧
       (t.lineMap.get? l.val ≠ none → s.core.released = true → Issues (exec (.sync l) s) s)) ∧
     (let done := releaseReady s s.cur o s.nextBundle (s.core.waitStamp.getD s.nextOp)
      (done = true → Issues (exec (.fence o) s) s) ∧ (o ≠ .core → done = false → Waits (exec (.fence o) s) s) ∧
      (o ≠ .core → done = false → Waits (exec (.fenceHeavy o) s) s) ∧
      (done = true → s.core.pubDone = none → s.core.released = true ∨ (heavyAsked s = false ∧ heavyRecipients s o = []) →
        Issues (exec (.fenceHeavy o) s) s) ∧
      (done = true → s.core.pubDone = none → s.core.released = false → heavyAsked s = true →
        Waits (exec (.fenceHeavy o) s) s)) ∧
     (o = .core → Issues (exec (.fence o) s) s) ∧ Issues (exec .fenceLite s) s) ∧
  (∀ (s : State) (c : BitVec 16) (c17 : BitVec 17) (n : BitVec 12) (e0 e1 e2 e3 : RepSel), Alone s → RoomFor s {} →
     let stops (i : Instr) (code : FaultCode) (aux : Nat) : Prop := ∃ t f, Issues (exec i s) t ∧ SameMemory s t ∧
       (finishBundle t).core.stopReq = some (.faulted f) ∧ f.code = code ∧ f.aux = aux ∧ f.bundle = s.ctx.pc ∧
       f.async = false ∧ f.slot = 0
     stops (.brk c) .brk c.toNat ∧ stops (.trap c17) .trap c17.toNat ∧
     (∃ t, Issues (exec .yield s) t ∧ (finishBundle t).core.stopReq = some .yielded) ∧
     (checkEnd s = .ok → ∃ t, t.core.mode = .ended ∧ t.ctx.pushes = [] ∧ SameMemory s t ∧ t.cur = s.cur ∧
       exec .endTask s = .next (completeEnd s.cur t)) ∧
     (s.ctx.cnt ≠ ⟨0, 0, 0, 0⟩ → ∃ u, exec .endTask s = .next (completeEnd s.cur u) ∧ u.ctx = s.ctx ∧
       u.core.mode = s.core.mode) ∧
     ∃ t, exec (.rept n e0 e1 e2 e3) s = .next t ∧ t.iss.rep = some (n, [e0, e1, e2, e3]) ∧ t.ctx = s.ctx ∧
       SameMemory s t)

/-! ### Tasks -/


/-- SPAWN, FORK, JOIN (13_tasks R327; 14_revisions R336, R347): a record in tile memory is read at issue, and the push, of
latency 16 or 24, has the new task's number, zero when none is created, or fails with the record's error; any other is
read by an operation, as is one after a record of the task that is still being read. JOIN of 0 pushes 0; of a merged child
the conflicts; of a discarded one all ones; a merge that has stopped is its fault. That a tile record is read at issue, the
delay of another read, and JOIN's FADDR 0 are the model's choices (notes/assumptions/8, 11, 52). -/
def Obligations.TaskResults : Prop :=
  ∀ (s : State) (d : Fin 32) (a : SSrc) (fork : Bool), Alone s → RoomFor s Need.push → needS s a = .ok →
    let i : Instr := if fork then .fork d a else .spawn d a
    let addr := s.rs a
    let got := takeRuns s s.cur s.nextOp 0 (accessRuns s addr 256)
    let r := spawnRecord (creatorNow s) fork (gotBytes 256 got.1)
      (readRuns s (s.viewAt s.cur) (accessRuns s addr 256))
    (checkRecord s 64 addr 256 = .ok →
      (spaceOf s addr = .tile → got.2 = none → recordBefore s s.core.task s.nextOp = false →
        ∃ t q, Issues (exec i s) t ∧ t.ctx.pushes = r.1.ctx.pushes ++ [q] ∧
        t.tasks = r.1.tasks ∧ q.vec = false ∧ q.dest = d.val ∧ q.count = (if fork then 24 else 16) ∧ q.state = r.2.1 ∧
        q.sval = r.2.2 ∧ (∀ aux, parseRecord (gotBytes 256 got.1) = .error aux → q.state = .failed .illegalOperand aux)) ∧
      (spaceOf s addr = .tile → ∀ code, got.2 = some code → ∃ t q, Issues (exec i s) t ∧
        t.ctx.pushes = s.ctx.pushes ++ [q] ∧ q.state = .failed code 0) ∧
      (spaceOf s addr = .tile → got.2 = none → recordBefore s s.core.task s.nextOp = true →
        ∃ t q, Issues (exec i s) t ∧ t.ctx.pushes = s.ctx.pushes ++ [q] ∧ q.state = .awaiting s.nextOp ∧
          Started s t 0 fun k => ∃ l, k = .record fork addr l ∧ l.got = got.1) ∧
      (spaceOf s addr ≠ .tile → ∃ t q, Issues (exec i s) t ∧ t.ctx.pushes = s.ctx.pushes ++ [q] ∧
        q.state = .awaiting s.nextOp ∧ StartedParts s t (spaceOf s addr).delay fun k => ∃ l, k = .record fork addr l)) ∧
    (∀ code faddr, checkRecord s 64 addr 256 = .fault code faddr 0 false none → Faults (exec i s) code faddr 0 s) ∧
    (addr = 0 → Issues (exec (.join d a) s) (pushS d 1 0 s)) ∧
    (addr ≠ 0 → childRev s addr.toNat = none → Faults (exec (.join d a) s) .illegalOperand 0 0 s) ∧
    (addr ≠ 0 → ∀ v rev, childRev s addr.toNat = some (v, rev) →
      (∀ n, rev.state = .merged n → ∃ t, Issues (exec (.join d a) s) t ∧
        t.ctx.pushes = s.ctx.pushes ++ [scalarPush d 1 (BitVec.ofNat 64 n) 0]) ∧
      (rev.state = .discarded → ∃ t, Issues (exec (.join d a) s) t ∧
        t.ctx.pushes = s.ctx.pushes ++ [scalarPush d 1 (BitVec.allOnes 64) 0]) ∧
      (revLive rev = true → mergeStuck s s.core.task = none → Waits (exec (.join d a) s) s) ∧
      (revLive rev = true → ∀ code, mergeStuck s s.core.task = some code → Faults (exec (.join d a) s) code 0 0 s))

/-- PIPEW, PIPER, PUBLISH, XLT, RVSET (13_tasks R323–R326; 11_translation R272; 14_revisions R334): PIPEW claims the
empty slot of the highest handle and starts the copy; PIPER takes the oldest slot when it is filled, pushes its handle and
has its tile under it; XLT starts a translation in place of one pending to its register; RVSET defines or removes a region.
PUBLISH whose add failed has that fault. The due times of PIPEW's copy and of XLT are nominal, and that the pipe's faults
have FADDR 0 is the model's choice (notes/assumptions/8, 11). -/
def Obligations.PipeResults : Prop :=
  ∀ (s : State) (d : Fin 32) (a b : SSrc) (p : Fin 16) (x : Fin 8) (w : Bool), Alone s → needSS s a b = .ok →
    (∀ pp h i e, checkPipew p.val (s.rs a) s = .ok → RoomFor s { t := 1, ranges := 1 } → pipeAt s p.val = some pp →
      emptyPipeSlot pp = some h → s.tileOfReg (s.rs a) = some (i, e) →
      ∃ t, Issues (exec (.pipew a p) s) t ∧ SameMemory s t ∧ Counted s t .t ∧
        Started s t (16 + (tileBytes e + 63) / 64) fun k => k = .pipew p.val i h (tileBytes e)) ∧
    (∀ pp, pipeAt s p.val = some pp → pp.dst = s.core.member → RoomFor s Need.push →
      (∀ h i, filledSlot pp = some (h, i) → ∃ t, Issues (exec (.piper d p) s) t ∧ SameMemory s t ∧
        t.ctx.pushes = s.ctx.pushes ++ [scalarPush d 1 (BitVec.ofNat 64 h) 0] ∧
        (finishBundle t).ctx.hmap.get? h = some i) ∧
      (filledSlot pp = none → Waits (exec (.piper d p) s) s)) ∧
    (pipeAt s p.val = none → Faults (exec (.piper d p) s) .illegalOperand 0 0 s ∧
      Faults (exec (.pipew a p) s) .illegalOperand 0 0 s) ∧
    (releaseReady s s.cur .sys s.nextBundle (s.core.waitStamp.getD s.nextOp) = true → RoomFor s {} →
      (pubcntNow s = 0 ∨ s.core.pubDone = some none → Issues (exec .publish s) s) ∧
      (pubcntNow s ≠ 0 → ∀ code, s.core.pubDone = some (some code) → Faults (exec .publish s) code 0 0 s)) ∧
    (RoomFor s {} → ∃ t q, Issues (exec (.xlt x a w) s) t ∧ SameMemory s t ∧
      t.ops = (s.ops.filter fun o => !isXltTo s.core.task s.core.member x.val o) ++ [q] ∧ q.id = s.nextOp ∧
      q.kind = .xlt x.val (s.rs a) w ∧ q.due = s.cyc + xltCost s (s.rs a)) ∧
    (RoomFor s {} → bits (s.rs b) 48 16 = 0 → bits (s.rs b) 6 42 = 0 → s.viewAt s.cur = 0 → revisionLive s = false →
      forkReading s = false → ∃ t, Issues (exec (.rvset a b true) s) t ∧
        ∀ c, t.context? (s.asidAt s.cur) = some c → c.regions.get? (bits (s.rs b) 0 6) = none) ∧
    (RoomFor s {} → checkRvset false (s.rs a) (s.rs b) s = .ok → ∀ bs c, readDescriptor s (s.rs a) = .ok bs →
      s.context? (s.asidAt s.cur) = some c → ∃ t c', Issues (exec (.rvset a b false) s) t ∧
        t.context? (s.asidAt s.cur) = some c' ∧
        c'.regions.get? (bits (s.rs b) 0 6) =
          some (regionFor s (s.asidAt s.cur) (bits (s.rs b) 6 42 * 64) (descriptorOf bs)))

/-! ### Events of cores and of their accesses -/

/-- RESULT_PUSH, FORMAT_WRITE_APPLY, ILLEGAL_SLOT_WORD (02_bundles R37, R44–R46; 03_numbers R66, R68): the first push due in
issue order enters its queue, whose entry 15 is lost, and its register, but for register 0; its flags are ORed in. A push
that failed is a fault at the bundle due. A format write due governs from here. -/
def Obligations.PushEventResults : Prop :=
  ∀ (s : State) (n : Nat) (pre post : List Push) (p : Push),
    let c := (s.coreAt n).ctx
    (c.pushes = pre ++ p :: post → (∀ x ∈ pre, x.count = 0 → x.state ≠ .ready) → p.count = 0 → p.state = .ready →
      pushGranule c p = none → ∃ t, exec (.resultPush n) s = .next t ∧ SameMemory s t ∧
        let d := (t.coreAt n).ctx
        d.pushes = pre ++ post ∧ d.satf = c.satf ||| p.satf ∧ d.rmask = c.rmask ||| p.rmask ∧ SameSystem c d ∧
        d.pc = c.pc ∧ d.p = c.p ∧ d.lc = c.lc ∧
        (p.vec = false → d.q = (p.sval :: c.q).take 16 ∧ d.vq = c.vq ∧ d.v = c.v ∧
          ∀ r : Fin 32, d.sread (.g r) = if r.val = p.dest ∧ p.dest ≠ 0 then p.sval else c.sread (.g r)) ∧
        (p.vec = true → d.vq = (p.vval :: c.vq).take 16 ∧ d.q = c.q ∧ d.g = c.g ∧
          ∀ r : Fin 32, d.vread (.v r) = if r.val = p.dest ∧ p.dest ≠ 0 then p.vval else c.vread (.v r))) ∧
    (c.pushes = pre ++ p :: post → (∀ x ∈ c.pushes, x.count = 0 → x.state ≠ .ready) →
      (∀ x ∈ pre, x.count = 0 → ∀ code aux, x.state ≠ .failed code aux) → p.count = 0 →
      ∀ code aux, p.state = .failed code aux → ∃ t f, exec (.resultPush n) s = .next t ∧ SameMemory s t ∧
        (t.coreAt n).mode = .stopped (.faulted f) ∧ f.code = code ∧ f.aux = aux ∧ f.faddr = p.addr ∧
        f.bundle = c.pc ∧ (t.coreAt n).ctx.pc = c.pc) ∧
    (∀ (a b : List FmtWrite) (f : FmtWrite), c.fmts = a ++ f :: b → (∀ x ∈ a, x.count ≠ 0) → f.count = 0 →
      ∃ t, exec (.formatWriteApply n) s = .next t ∧ SameMemory s t ∧ (t.coreAt n).ctx.fmts = a ++ b ∧
        (t.coreAt n).ctx.vf = (if f.vf then f.val else c.vf) ∧ (t.coreAt n).ctx.mf = (if f.vf then c.mf else f.val) ∧
        (t.coreAt n).ctx.pushes = c.pushes ∧ ∀ k, k ≠ n → t.coreAt k = s.coreAt k) ∧
    (∀ e, fetchBundle (s.coreAt n) = .error e → ∃ t f, exec (.illegalSlotWord n) s = .next t ∧ SameMemory s t ∧
      (t.coreAt n).mode = .stopped (.faulted f) ∧ f.code = e.code ∧ f.slot = e.slot ∧ f.faddr = 0 ∧ f.aux = 0 ∧
      f.bundle = c.pc)

/-- REPEAT_REPETITION, CLAMP_LINE_RELEASE, LAZY_RESTORE_FILL, XLT_RESULT
(09_matrix R236; 06_sequencer R154, R171; 11_translation R272): an advance of the offset registers lane by lane and the
end of the run; the members of a gang released; a granule of registers present; a tx register written: with a page's kind,
size, rights, number and frame, its owner's hint or zero, or with the code of what failed. That XLT translates as its result
is written is the model's reading (notes/assumptions/34). -/
def Obligations.CoreEventResults : Prop :=
  ∀ (s : State) (n : Nat),
    let c := (s.coreAt n).ctx
    (∀ r, c.rep = some r → r.adv = true → ∃ t, exec (.repeatRepetition n) s = .next t ∧ SameMemory s t ∧
      (∀ k l, k < 4 → l < 4 → bits ((t.coreAt n).ctx.mo.getD k 0) (16 * l) 16 =
        match r.sel.getD k .hold with
        | .hold => bits (c.mo.getD k 0) (16 * l) 16
        | .add => (bits (c.mo.getD k 0) (16 * l) 16 + bits (c.mi.getD k 0) (16 * l) 16) % 2 ^ 16
        | .sub => (bits (c.mo.getD k 0) (16 * l) 16 + 2 ^ 16 - bits (c.mi.getD k 0) (16 * l) 16) % 2 ^ 16) ∧
      (r.left ≤ 1 → (t.coreAt n).ctx.rep = none) ∧
      (1 < r.left → (t.coreAt n).ctx.pc = c.pc ∧ ∃ q, (t.coreAt n).ctx.rep = some q ∧ q.left = r.left - 1 ∧
        q.adv = false)) ∧
    (∀ op o vec g, s.op? op = some o → o.kind = .fill vec g → s.coreOf o.task o.member = some n →
      ∃ t, exec (.lazyRestoreFill op) s = .next t ∧ SameMemory s t ∧ t.op? op = none ∧
        (vec = false → g ∉ (t.coreAt n).ctx.gAbsent ∧ (t.coreAt n).ctx.vAbsent = c.vAbsent) ∧
        (vec = true → g ∉ (t.coreAt n).ctx.vAbsent ∧ (t.coreAt n).ctx.gAbsent = c.gAbsent) ∧
        (t.coreAt n).ctx.pushes = c.pushes) ∧
    (∀ op o x addr w, s.op? op = some o → o.kind = .xlt x addr w → s.coreOf o.task o.member = some n →
      ∃ t q, exec (.xltResult op) s = .next t ∧ SameMemory s t ∧ t.op? op = none ∧
        (t.coreAt n).ctx.tx.get? x = some q ∧ (∀ y, y ≠ x → (t.coreAt n).ctx.tx.get? y = c.tx.get? y) ∧
        (t.coreAt n).ctx.g = c.g ∧
        let a := addr.toNat
        let failed (code : FaultCode) : Prop := bits q 57 7 = 3 * 4 ∧ bits q 56 1 = 0 ∧ bits q 24 32 = abits a 16 32 ∧
          bits q 0 24 = faultNumber code
        let page (size kind : Nat) (wr rd : Bool) (vpn frame : Nat) : Prop := size < 3 → vpn < 2 ^ 32 → frame < 2 ^ 24 →
          bits q 63 1 = 1 ∧ bits q 61 2 = size ∧ bits q 59 2 = kind ∧ q.getLsbD 58 = wr ∧ q.getLsbD 57 = rd ∧
          bits q 56 1 = 0 ∧ bits q 24 32 = vpn ∧ bits q 0 24 = frame
        (spaceOk a 1 = false ∨ tagOf a ≠ 0 → failed .space) ∧
        (spaceOk a 1 = true → tagOf a = 0 → ∀ k, s.context? o.asid = some k →
          (inHeap k (vaOf a) 1 = true → page 0 0 true true (abits a 16 32) (heapPa k (vaOf a) / 2 ^ 16)) ∧
          (inHeap k (vaOf a) 1 = false →
            match engineWalk s o.core o.asid (vaOf a) with
            | .failed code => failed code
            | .nonResident vpn size rd wr =>
              if rd = false ∨ (w = true ∧ wr = false) then failed .permission
              else if w = true then failed .nonresWrite else page size 2 wr rd vpn 0
            | .leaf e =>
              if e.rd = false ∨ (w = true ∧ e.w = false) then failed .permission
              else
                match e.remote with
                | some owner => page e.size 1 e.w e.rd e.vpn owner
                | none =>
                  if e.vrd = false ∨ (w = true ∧ e.vw = false) then failed .accessTable
                  else page e.size 0 (e.w && e.vw) (e.rd && e.vrd) e.vpn e.frame))) ∧
    (∀ tk line phys d k, s.task? tk = some k → k.lineMap.get? line = some phys →
      (s.cores.findSome? fun (m, e) => if e.task = tk ∧ e.mode ≠ .idle then some (dieOf m) else none) = some d →
      ∀ cl, (s.dieAt d).clamps.get? phys = some cl → cl.task = tk → cl.releaseAt ≠ none →
      ∃ t cl', exec (.clampLineRelease tk line) s = .next t ∧ SameMemory s t ∧
        (t.dieAt d).clamps.get? phys = some cl' ∧ cl'.arrived = [] ∧ cl'.releaseAt = none ∧
        ∀ m, (s.coreAt m).task = tk → s.cores.get? m ≠ none → (s.coreAt m).member ∈ cl.arrived →
          (t.coreAt m).released = true)

/-- LOAD_PERFORM_AT_HOME, STORE_PERFORM_AT_HOME, RELEASE_STORE_PERFORM (04_memory_model R79, R81–R85): a load of bytes in
this package takes them as its core sees them and its push has its value; a store writes its bytes and no others, and
waits while an earlier access of its core or queue stands before it, and lowers class S where it was posted through a peer
form of this package's own id; a release leaves the store buffer for its die's queue once what it waits for is done. A
controller whose access table denies the access by now fails it (17_system R400). That a release takes its place in the
queue as it leaves its core, and what a load, a store and a release wait for, are the model's reading
(notes/assumptions/52). -/
def Obligations.AccessEventResults : Prop :=
  ∀ (s : State) (op n : Nat) (o : Op), CanonMem s → s.op? op = some o →
    (∀ l k, o.kind = .load l → l.runs = [⟨.here k, l.nbytes⟩] → l.taken = false → l.got = [] → l.next = 1 →
      s.coreOf o.task o.member = some n → liveRun s ⟨.here k, l.nbytes⟩ = ⟨.here k, l.nbytes⟩ →
      (loadReady s o l.runs = false → exec (.loadPerformAtHome op) s = .next s) ∧
      (loadReady s o l.runs = true → coreAllowed s o.core k l.nbytes true false = false →
        ∃ t, exec (.loadPerformAtHome op) s = .next t ∧ SameMemory s t ∧ t.op? op = none ∧ (t.coreAt n).ctx.pushes =
          (s.coreAt n).ctx.pushes.map fun p =>
            if p.state = .awaiting o.id then { p with state := .failed .accessTable 0 } else p) ∧
      (loadReady s o l.runs = true → coreAllowed s o.core k l.nbytes true false = true →
      ∃ t, exec (.loadPerformAtHome op) s = .next t ∧ SameMemory s t ∧ t.op? op = none ∧
        (s.viewFault (s.viewAt o.core) k l.nbytes = none → (t.coreAt n).ctx.pushes = (s.coreAt n).ctx.pushes.map fun p =>
          if p.state = .awaiting o.id then
            (if l.vec then { p with state := .ready, vval := vectorOf l.mask (coreBytes s o.core o.id k l.nbytes) }
             else { p with state := .ready, sval := scalarOf l.sgn (coreBytes s o.core o.id k l.nbytes) })
          else p) ∧
        ∀ code, s.viewFault (s.viewAt o.core) k l.nbytes = some code → (t.coreAt n).ctx.pushes =
          (s.coreAt n).ctx.pushes.map fun p =>
            if p.state = .awaiting o.id then { p with state := .failed code 0 } else p)) ∧
    (∀ w k bs, o.kind = .store w → w.place = .here k → w.rel = none ∨ w.sent = true → w.data = wholeBytes 0 bs →
      w.len = bs.length →
      (storeReady s o w k = true → movedAt s k = none → frozenAt s k = none →
        coreAllowed s o.core k w.len false true = false → ∃ t, exec (.storePerformAtHome op) s = .next t ∧
          SameMemory s t ∧ t.op? op = none ∧ (w.window = none → s.coreOf o.task o.member = some n →
            (t.coreAt n).ctx.marks.s = appendMark (s.coreAt n).ctx.marks.s ⟨.accessTable, 0, o.bundle, w.faddr⟩)) ∧
      (storeReady s o w k = true → movedAt s k = none → frozenAt s k = none →
        coreAllowed s o.core k w.len false true = true → (∀ g ∈ granules4k k w.len, copiesNeeded s o.view g = []) →
        k % 4096 + bs.length ≤ 4096 → ∃ t, exec (.storePerformAtHome op) s = .next t ∧ t.op? op = none ∧
          t.host = s.host ∧
          (∀ j, j < bs.length → Memory.get t.mem (writeKey s o.view (k + j)) = bs.getD j 0) ∧
          ∀ key, (∀ j, j < bs.length → key ≠ writeKey s o.view (k + j)) →
            Memory.get t.mem key = Memory.get s.mem key) ∧
      (storeReady s o w k = true → movedAt s k = none → frozenAt s k = none →
        coreAllowed s o.core k w.len false true = true → s.revs = [] → s.copies = [] →
        ∃ t, exec (.storePerformAtHome op) s = .next t ∧ t.op? op = none ∧ t.host = s.host ∧
          (w.posted = false → w.window = none → t.cores = s.cores) ∧
          (w.posted = true → w.window = none → s.coreOf o.task o.member = some n →
            (t.coreAt n).ctx.cnt = (s.coreAt n).ctx.cnt.modify .s (· - 1)) ∧
          (∀ j, j < bs.length → Memory.get t.mem (k + j) = bs.getD j 0) ∧
          ∀ key, key < k ∨ k + bs.length ≤ key → Memory.get t.mem key = Memory.get s.mem key) ∧
      (storeReady s o w k = false → exec (.storePerformAtHome op) s = .next s)) ∧
    (∀ w k scope, o.kind = .store w → w.place = .here k → w.rel = some scope → w.sent = false →
      (releaseReady s o.core scope o.stamp o.id = true → w.queued = true →
        ∃ t, exec (.releaseStorePerform op) s = .next t ∧ SameMemory s t ∧
          t.op? op = some { o with queuedAt := s.nextOp, kind := .store { w with sent := true } }) ∧
      (releaseReady s o.core scope o.stamp o.id = false → exec (.releaseStorePerform op) s = .next s))

/-- REMOTE_LOAD_RESPONSE, POSTED_WRITE_ACKNOWLEDGE, FABRIC_REQUEST_TIMEOUT (15_fabric R359, R360; 04_memory_model R84;
05_scalar R122): an answer gives the awaited push its value or its failure; an acknowledgement lowers class S and marks an
error; a load whose time-out has passed fails with FABRIC_TIMEOUT, or with MIGRATION where it was refused and waits for
its page's home (12_migration R288), and before that nothing happens. Poison in an answer is POISON: that the answer tells
it is the model's choice (notes/assumptions/69). -/
def Obligations.RemoteEventResults : Prop :=
  ∀ (s : State) (op n : Nat) (o : Op), s.op? op = some o → s.coreOf o.task o.member = some n →
    (∀ l acc size g, o.kind = .load l → l.runs = [⟨.far acc size g, l.nbytes⟩] → l.taken = true → l.next = 0 →
      l.got = [] → l.vec = false →
      (∀ data, data.length = l.nbytes → ∃ t, exec (.remoteLoadResponse op ⟨data, []⟩ none) s = .next t ∧ SameMemory s t ∧
        t.op? op = none ∧ (t.coreAt n).ctx.pushes = (s.coreAt n).ctx.pushes.map fun p =>
          if p.state = .awaiting o.id then { p with state := .ready, sval := scalarOf l.sgn data } else p) ∧
      (∀ data bad, bad ≠ [] → ∃ t, exec (.remoteLoadResponse op ⟨data, bad⟩ none) s = .next t ∧ SameMemory s t ∧
        t.op? op = none ∧ (t.coreAt n).ctx.pushes = (s.coreAt n).ctx.pushes.map fun p =>
          if p.state = .awaiting o.id then { p with state := .failed .poison 0 } else p) ∧
      (∀ data bad code, ∃ t, exec (.remoteLoadResponse op ⟨data, bad⟩ (some code)) s = .next t ∧ SameMemory s t ∧
        t.op? op = none ∧ (t.coreAt n).ctx.pushes = (s.coreAt n).ctx.pushes.map fun p =>
          if p.state = .awaiting o.id then { p with state := .failed code 0 } else p) ∧
      (o.issuedU + s.cfg.ftimeout * microU ≤ s.timeU → movesHere s o = false →
        ∃ t, exec (.fabricRequestTimeout op) s = .next t ∧
        SameMemory s t ∧ t.op? op = none ∧ (t.coreAt n).ctx.pushes = (s.coreAt n).ctx.pushes.map fun p =>
          if p.state = .awaiting o.id then
            { p with state := .failed (if stillRefused s op then .migration else .fabricTimeout) 0 } else p) ∧
      (s.timeU < o.issuedU + s.cfg.ftimeout * microU → exec (.fabricRequestTimeout op) s = .next s)) ∧
    (∀ w acc size g, o.kind = .store w → w.place = .far acc size g → w.sent = true → w.posted = true →
      w.window = none →
      (∃ t, exec (.postedWriteAcknowledge op none) s = .next t ∧ SameMemory s t ∧ t.op? op = none ∧
        (t.coreAt n).ctx.cnt = (s.coreAt n).ctx.cnt.modify .s (· - 1) ∧
        (t.coreAt n).ctx.marks = (s.coreAt n).ctx.marks) ∧
      ∀ code, ∃ t, exec (.postedWriteAcknowledge op (some code)) s = .next t ∧ SameMemory s t ∧ t.op? op = none ∧
        (t.coreAt n).ctx.cnt = (s.coreAt n).ctx.cnt.modify .s (· - 1) ∧
        (t.coreAt n).ctx.marks.s = appendMark (s.coreAt n).ctx.marks.s ⟨code, 0, o.bundle, w.faddr⟩)

/-- FENCE_HEAVY_SERIALISATION and FENCE_HEAVY_ACKNOWLEDGE (04_memory_model R90): a core that runs the context serves the
request at its boundary; any other, and a package without one, is acknowledged at once; the last acknowledgement lets the
fence issue. That a package without such a core acknowledges at once, and as core 256, is the model's reading
(notes/assumptions/33). -/
def Obligations.HeavyFenceResults : Prop :=
  ∀ (s : State) (ask : FenceAsk) (n : Nat),
    (n ∈ coresRunning s ask.asid → ∃ t, exec (.fenceHeavySerialisation ask (some n)) s = .next t ∧ SameMemory s t ∧
      (t.coreAt n).fences = (s.coreAt n).fences ++ [⟨ask, s.nextOp⟩] ∧ t.outbox = s.outbox) ∧
    (n ∉ coresRunning s ask.asid →
      exec (.fenceHeavySerialisation ask (some n)) s =
        .next (s.send ask.src.acc (.fenceHeavyAcknowledge ask.src.op s.accid n))) ∧
    (coresRunning s ask.asid = [] →
      exec (.fenceHeavySerialisation ask none) s =
        .next (s.send ask.src.acc (.fenceHeavyAcknowledge ask.src.op s.accid 256))) ∧
    ∀ op o scope waiting acc core, s.op? op = some o → o.kind = .fenceHeavy scope waiting none →
      ((∀ x ∈ waiting, x = (acc, core)) → ∃ t, exec (.fenceHeavyAcknowledge op acc core) s = .next t ∧ SameMemory s t ∧
        t.op? op = none ∧ (t.coreAt o.core).released = true) ∧
      ((∃ x ∈ waiting, x ≠ (acc, core)) → ∃ t, exec (.fenceHeavyAcknowledge op acc core) s = .next t ∧ SameMemory s t ∧
        t.cores = s.cores ∧ t.op? op =
          some { o with kind := .fenceHeavy scope (waiting.filter fun x => x != (acc, core)) none })

/-- FIRMWARE_STOP_REQUEST, TIME_SLICE_EXPIRY, TASK_AGEING_STEP, JOIN_BLOCK_SWITCH (06_sequencer R164, R165; 13_tasks
R320, R321): the cores that run the task are asked to stop at their boundaries and no other core changes; a slice that is
not over, or a JOIN that has not waited 4,096 cycles, changes nothing. A task with a PUBLISH in flight is asked later.
TASK_SAVE and TASK_RESTORE (06_sequencer R166–R171, R176): a task whose engines are at rest leaves its cores idle, and what
is saved of it holds the state of each member, with DIRTY cleared in its accumulators; one that is not at rest stays. Every
member restored, on its core or on another, runs again from its resume bundle with its saved state, every granule of its
registers absent and every branch target counted as written then; on another core its handles name tiles of the same shape
and bytes there. That one event saves or restores every member, and that a product at rest has added its steps, are the
model's reading (notes/assumptions/36, 50). -/
def Obligations.StopAndSaveEventResults : Prop :=
  (∀ (s : State) (n : Nat),
     let tk := (s.coreAt n).task
     let asks (i : Instr) (cs : List Nat) (k : StopKind) : Prop := ∃ t, exec i s = .next t ∧ SameMemory s t ∧
       t.tasks = s.tasks ∧ (∀ m ∈ cs, (t.coreAt m).stopReq = some ((s.coreAt m).stopReq.getD k) ∧
         (t.coreAt m).ctx = (s.coreAt m).ctx ∧ (t.coreAt m).mode = (s.coreAt m).mode) ∧
       ∀ m, m ∉ cs → t.coreAt m = s.coreAt m
     let busy := (coresWith s tk).any (publishing s)
     ((s.coreAt n).mode = .running → busy = true →
       exec (.firmwareStopRequest n) s = .next (s.retry (.firmwareStopRequest n))) ∧
     ((s.coreAt n).mode = .running → busy = false → memberStopped s tk = false →
       asks (.firmwareStopRequest n) (coresWith s tk) .preempt) ∧
     ((s.coreAt n).mode = .running → busy = false → memberStopped s tk = true →
       asks (.firmwareStopRequest n) (coresWith s tk) .gangStop) ∧
     (∀ k, (s.coreAt n).mode = .stopped k → ∃ t, exec (.firmwareStopRequest n) s = .next t ∧ SameMemory s t ∧
       t.cores = s.cores ∧ t.ops.length = s.ops.length) ∧
     (sliceOver s n = true → busy = false → asks (.timeSliceExpiry n) (coresWith s tk) .preempt) ∧
     (sliceOver s n = false ∨ busy = true → exec (.timeSliceExpiry n) s = .next s) ∧
     (∀ q c, (s.cores.find? fun (_, c) => c.runq.any fun x => x.task == q) = some (n, c) → sliceOver s n = true →
       busy = false → asks (.taskAgeingStep q) (coresWith s tk) .preempt) ∧
     ((s.coreAt n).mode = .running → s.widthAt n = 1 → (s.coreAt n).runq ≠ [] → stalledInJoin (s.coreAt n) = true →
       ∀ w, (s.coreAt n).waitSince = some w →
         (w + 4096 ≤ s.cyc → asks (.joinBlockSwitch n) [n] .blocked) ∧
         (s.cyc < w + 4096 → exec (.joinBlockSwitch n) s = .next s))) ∧
  (∀ (s : State) (n : Nat) (k : Task), s.taskAt n = some k →
     (hasStopped (s.coreAt n) = false ∨ atRest s k.id = false → exec (.taskSave n) s = .next s) ∧
     (hasStopped (s.coreAt n) = true → atRest s k.id = true →
       let r := restProducts k.id s
       let ms := coresHolding r k.id
       let kept : List Saved := ms.map fun (m, c) =>
         { member := c.member, core := m, kind := stopCode c, ended := c.mode == .ended
           ctx := { c.ctx with acc := c.ctx.acc.map fun (i, x) => (i, cleanAcc x) } }
       (∃ u k', exec (.taskSave n) s = .next (afterSave k ms u) ∧ SameMemory s u ∧ u.task? k.id = some k' ∧
         k'.saved = kept ∧ k'.state = .stopped ∧
         ∀ m c, (m, c) ∈ ms → (u.coreAt m).mode = .idle ∧ (u.coreAt m).task = 0 ∧ (u.coreAt m).fences = []) ∧
       (k.doomed = false → stopFault ms = none → ∃ t k', exec (.taskSave n) s = .next t ∧ SameMemory s t ∧
         t.task? k.id = some k' ∧ k'.saved = kept ∧ ∀ m c, (m, c) ∈ ms → (t.coreAt m).mode = .idle)) ∧
     ((s.coreAt n).mode ≠ .restoring → exec (.taskRestore n) s = .next s) ∧
     ((s.coreAt n).mode = .restoring → k.doomed = false → serviceHolds s k.id = true →
       exec (.taskRestore n) s = .next s) ∧
     ((s.coreAt n).mode = .restoring → k.doomed = false → serviceHolds s k.id = false →
      (∀ row ps, restoreCode s k ≠ .asks row ps) → (k.saved.map Saved.core).Nodup →
      let again (v : Saved) (c : Nat) (hm : FMap Nat) (t : State) : Prop :=
        (t.coreAt c).mode = (if v.ended then .ended else .running) ∧ (t.coreAt c).member = v.member ∧
        (t.coreAt c).task = k.id ∧ (t.coreAt c).stopReq = v.again.map StopKind.faulted ∧
        (t.coreAt c).ctx = { v.ctx with hmap := hm, gAbsent := [0, 1, 2, 3], vAbsent := [0, 1, 2, 3, 4, 5, 6, 7],
                                        btAt := (List.range 8).map fun b => (b, v.ctx.icyc) }
      let runs (t : State) (cs : List Nat) : Prop := ∃ k', t.task? k.id = some k' ∧ k'.state = .running ∧
        k'.saved = [] ∧ k'.fault = none ∧ k'.cores = cs
      ((∀ v ∈ k.saved, coreFor s k.id v.member = some v.core) →
        ∃ t, exec (.taskRestore n) s = .next t ∧ SameMemory s t ∧ runs t (k.saved.map Saved.core) ∧
          ∀ v ∈ k.saved, again v v.core v.ctx.hmap t) ∧
      (restoreTask k s = none → exec (.taskRestore n) s = .next s) ∧
      (restoreTask k s ≠ none → (k.saved.map fun v => coreFor s k.id v.member).Nodup →
        ∃ t, exec (.taskRestore n) s = .next t ∧ runs t (k.saved.filterMap fun v => coreFor s k.id v.member) ∧
          ∀ v ∈ k.saved, ∀ c, coreFor s k.id v.member = some c → ∃ hm, again v c hm t ∧
            hm.map Prod.fst = v.ctx.hmap.map Prod.fst ∧ (v.core = c → hm = v.ctx.hmap) ∧
            (v.core ≠ c → ∀ h i e, v.ctx.hmap.get? h = some i → (s.coreAt v.core).tiles.get? i = some e →
              ∃ j f, hm.get? h = some j ∧ (t.coreAt c).tiles.get? j = some f ∧
                f = { e with owner := c, base := f.base } ∧
                (CanonMem s → k.saved = [v] → memberEntries k v = [i] →
                  t.bytes (tileByteKey c f 0) (tileBytes e) = s.bytes (tileByteKey v.core e 0) (tileBytes e))))))

/-- MATRIX_INSTRUCTION_START and MATRIX_INSTRUCTION_COMPLETE (09_matrix R218, R223, R226, R227, R228, R229, R230, R231,
R233, R235, R239): an instruction that may start completes 8 cycles after the last cycle it occupies; the oldest that has
started completes. A product adds in ascending k, saturating at each step, to each element of its accumulator, or to zero,
and after a save only the steps that its accumulator does not hold yet; MMAC multiplies by the elements of another
accumulator narrowed to MF.CHT; MLOAD puts, MADD and MBIAS add the shifted elements of a window, or of a row or column of
it; the accumulator's word has its shape and exponent, its least census and whether it saturated. MOUT narrows the
accumulator into its window, whose tile takes the exponent of a whole write. MZERO clears the accumulator. The flags rise,
an error is a mark of class T, and class T falls with the last repetition. That an instruction reads and writes at its
completion, and which steps are kept after a save, are the model's choices (notes/assumptions/12, 50). -/
def Obligations.MatrixEventResults : Prop :=
  ∀ (s : State) (op : Nat) (o : Op) (m : MtxOp), s.op? op = some o → o.kind = .matrix m →
    (mayStart s o m = true → ∃ t x, exec (.matrixInstructionStart op) s = .next t ∧ SameMemory s t ∧
      t.cores = s.cores ∧ t.op? op = some x ∧ x.due = s.cyc + occupancy s o m + 7 ∧
      ∃ y, x.kind = .matrix y ∧ y.started = some s.cyc ∧ y.instr = m.instr) ∧
    (mayStart s o m = false → exec (.matrixInstructionStart op) s = .next s) ∧
    (m.started ≠ none → (∀ p ∈ matrixOps s o.core, op ≤ p.1.id) → s.coreOf o.task o.member = some o.core →
      let x := (s.coreAt o.core).ctx
      let old := x.accAt m.acc
      let ends (t : State) : Prop := exec (.matrixInstructionComplete op) s = .next t ∧ t.op? op = none ∧
        (m.lastRep = true → (t.coreAt o.core).ctx.cnt = x.cnt.modify .t (· - 1)) ∧
        (m.lastRep = false → (t.coreAt o.core).ctx.cnt = x.cnt)
      let new (t : State) : AccTile := (t.coreAt o.core).ctx.accAt m.acc
      let mark (code : FaultCode) (ms : List Mark) : List Mark :=
        appendMark ms ⟨code, 0, o.bundle, BitVec.ofNat 64 o.bundle⟩
      let notes (t : State) (f : BitVec 6) (sub : Bool) (bad : Option FaultCode) : Prop :=
        (t.coreAt o.core).ctx.satf = x.satf ||| f ||| flagIf sub satRsub ∧
        let l := if sub && fmtSubst m.mf == .fault then mark .reservedCode x.marks.t else x.marks.t
        (t.coreAt o.core).ctx.marks.t = match bad with
          | some code => mark code l
          | none => l
      let sums (t : State) (zero kept : Bool) (f : Nat → Nat → Int × Bool) (fl : BitVec 6) (sub : Bool)
          (bad : Option FaultCode) : Prop :=
        let clip := (List.range m.m).any fun i => (List.range m.n).any fun j => (f i j).2
        (∀ i j, i < m.m → j < m.n → (new t).elem i j = (f i j).1) ∧
        (new t).done.rows = m.m ∧ (new t).done.cols = m.n ∧ (new t).done.exp = m.exp ∧
        (new t).done.free = false ∧ (new t).done.dirty = true ∧ (new t).done.inuse = true ∧
        (new t).done.sat = (clip || kept || (!zero && old.done.sat)) ∧ (new t).done.census ≤ 39 ∧
        (∀ i j, i < m.m → j < m.n → (new t).done.census ≤ cls true 40 (f i j).1) ∧
        ((new t).done.census = 39 ∨ ∃ i j, i < m.m ∧ j < m.n ∧ (new t).done.census = cls true 40 (f i j).1) ∧
        notes t (fl ||| flagIf (clip || kept) satAcc) sub bad
      let random (key : Nat) (i : Nat) : Word := randomWord m.rseed m.rstep (BitVec.ofNat 64 key) (BitVec.ofNat 64 i)
      ((match m.instr with
        | .mma _ _ _ | .mmaz _ _ _ | .mmat _ _ _ | .mmbt _ _ _ | .mmac _ _ _ | .mout _ _ _ | .mload _ _ _
        | .madd _ _ _ | .mbias _ _ _ | .mzero _ _ _ => True
        | _ => False) → ∃ t, ends t) ∧
      (∀ a r c, m.instr = .mzero a r c → ∃ t, ends t ∧ SameMemory s t ∧ (∀ i j, (new t).elem i j = 0) ∧
        (new t).done.free = true ∧ (new t).done.rows = m.m ∧ (new t).done.cols = m.n ∧ (new t).done.sat = false ∧
        (new t).done.dirty = false ∧ (new t).done.inuse = false ∧ (new t).done.census = 39 ∧ notes t 0 false none) ∧
      (∀ ea eb a h k y zero tA tB chain, (chain = false → (s.coreAt o.core).tiles.get? m.a = some ea) →
        (s.coreAt o.core).tiles.get? m.b = some eb → m.n ≤ 128 →
        (m.instr = .mma a h k ∧ zero = false ∧ tA = false ∧ tB = false ∧ chain = false) ∨
          (m.instr = .mmaz a h k ∧ zero = true ∧ tA = false ∧ tB = false ∧ chain = false) ∨
          (m.instr = .mmat a h k ∧ zero = false ∧ tA = true ∧ tB = false ∧ chain = false) ∨
          (m.instr = .mmbt a h k ∧ zero = false ∧ tA = false ∧ tB = true ∧ chain = false) ∨
          (m.instr = .mmac a h y ∧ zero = false ∧ tA = false ∧ tB = false ∧ chain = true) →
        let narrow (i q : Nat) : Int × Bool := sat (fmtSym m.mf) (mfCht m.mf)
          (shiftBy (fmtRnd m.mf) (random ((256 + m.ay) * 2 ^ 32) (i * m.klen + q)) ((x.accAt m.ay).elem i q)
            (mfChsh m.mf))
        let A (i q : Nat) : Int × Bool := if chain then ((narrow i q).1, false)
          else if tA then rdm s o.core m.mf ea (m.ra + q) (m.ca + i)
          else rdm s o.core m.mf ea (m.ra + i) (m.ca + q)
        let B (q j : Nat) : Int × Bool := if chain then rdm s o.core m.mf eb (m.ra + q) (m.ca + j)
          else if tB then rdm s o.core m.mf eb (m.rb + j) (m.cb + q)
          else rdm s o.core m.mf eb (m.rb + q) (m.cb + j)
        let qs := (List.range m.klen).drop
          (slicesOf (if chain then (mfCht m.mf).width else ea.ty.width) eb.ty.width m.summed)
        let clamped := chain && (List.range m.m).any fun i => (List.range m.klen).any fun q => (narrow i q).2
        let sub := qs.any fun q => ((List.range m.m).any fun i => (A i q).2) || (List.range m.n).any fun j => (B q j).2
        ∃ t, ends t ∧ SameMemory s t ∧
          sums t zero m.sat
            (fun i j => dotA40 (if zero && m.summed == 0 then 0 else old.elem i j)
              (qs.map fun q => ((A i q).1, (B q j).1)))
            (flagIf clamped satOut) (sub || m.sub)
            (m.bad.or ((factorsOf s o m).bind fun f => rangesFault s f.reads))) ∧
      (∀ e a h sh col zero bias, (s.coreAt o.core).tiles.get? m.a = some e → m.n ≤ 128 →
        (m.instr = .mload a h sh ∧ zero = true ∧ bias = none) ∨ (m.instr = .madd a h sh ∧ zero = false ∧ bias = none) ∨
          (m.instr = .mbias a h col ∧ zero = false ∧ bias = some col) →
        let v (i j : Nat) : Int × Bool := rdm s o.core m.mf e (if bias = some false then m.ra else m.ra + i)
          (if bias = some true then m.ca else m.ca + j)
        let reads := rowBytes o.core e m.ra m.ca (if bias = some false then 1 else m.m) (if bias = some true then 1 else m.n)
        ∃ t, ends t ∧ SameMemory s t ∧
          sums t zero false
            (fun i j => satA40 ((if zero then 0 else old.elem i j) +
              shiftBy (fmtRnd m.mf) (random ((256 + m.acc) * 2 ^ 32) (i * m.n + j)) (v i j).1 m.shift))
            0 ((List.range m.m).any fun i => (List.range m.n).any fun j => (v i j).2) (rangesFault s reads)) ∧
      (∀ e a h sh, m.instr = .mout a h sh → (s.coreAt o.core).tiles.get? m.a = some e → CanonMem s →
        m.ra + m.m ≤ e.rows → m.ca + m.n ≤ e.cols → e.expPending = some op → 0 < m.m → 0 < m.n →
        let by_ : Int := if old.done.free then 0
          else if m.whole && fmtAuto m.mf then ((40 - m.census) - e.ty.width : Nat) else m.shift
        let ex := old.done.exp + by_
        let out (i j : Nat) : Int × Bool := if old.done.free then (0, false)
          else sat (fmtSym m.mf) e.ty (shiftBy (fmtRnd m.mf)
            (random (handleOf x m.a * 2 ^ 32 + e.ver) ((m.ra + i) * e.cols + m.ca + j)) (old.elem i j) by_)
        let clamped := (List.range m.m).any fun i => (List.range m.n).any fun j => (out i j).2
        let tile (t : State) (f : TileEntry) : Prop :=
          (t.coreAt o.core).tiles.get? m.a = some f ∧ f.expPending = none ∧ new t = old
        (m.whole = true → old.done.free = false → ¬(-64 ≤ ex ∧ ex ≤ 63) → ∃ t f, ends t ∧ SameMemory s t ∧ tile t f ∧
          f = { e with expPending := none } ∧ notes t 0 false (some .scaleMismatch)) ∧
        ((m.whole = true → old.done.free = false → -64 ≤ ex ∧ ex ≤ 63) → ∃ t f, ends t ∧ t.host = s.host ∧ tile t f ∧
          f.exp = (if m.whole && !old.done.free then ex else e.exp) ∧ f.dirty = true ∧ f.rows = e.rows ∧ f.cols = e.cols ∧
          (∀ i j, i < m.m → j < m.n →
            memCode t o.core e ((m.ra + i) * e.cols + (m.ca + j)) = codeOf e.ty.width (out i j).1 ∧
            f.census ≤ clsElem e.ty (out i j).1) ∧
          (f.census = (if m.whole then clsMax e.ty else e.census) ∨
            ∃ i j, i < m.m ∧ j < m.n ∧ f.census = clsElem e.ty (out i j).1) ∧
          notes t (flagIf clamped satOut) false none ∧
          ∀ k, k < tileByteKey o.core e 0 ∨ tileByteKey o.core e 0 + tileBytes e ≤ k →
            Memory.get t.mem k = Memory.get s.mem k)))

/-- VFNLD_COMPLETE and VOPT_COMPLETE (08_function R207, R211, R212): a valid image is the table of its number from then on,
any other removes it and leaves a mark, and bytes in another package are asked for and awaited; the elements of a VOPT's weights and momenta take the values of its
rule, and SATF says whether one clamped or was read from a reserved code. Class T falls. That bytes are read and written at
the completion, and by which packets other packages are asked, are the model's choices (notes/assumptions/10, 12). -/
def Obligations.FunctionEventResults : Prop :=
  ∀ (s : State) (op : Nat) (o : Op), CanonMem s → s.op? op = some o → s.coreOf o.task o.member = some o.core →
    let lowered (t : State) : Prop := t.op? op = none ∧
      (t.coreAt o.core).ctx.cnt = (s.coreAt o.core).ctx.cnt.modify .t (· - 1)
    (∀ n side addr, o.kind = .vfnld n side addr →
      let fails (t : State) (code : FaultCode) : Prop := (t.coreAt o.core).ctx.ftab.get? n = none ∧
        (t.coreAt o.core).ctx.marks.t = appendMark (s.coreAt o.core).ctx.marks.t
          ⟨code, 0, o.bundle, BitVec.ofNat 64 o.bundle⟩
      (reach false s (sideRuns s o side 0 832) = none → ∃ t, exec (.vfnldComplete op ()) s = .next t ∧ SameMemory s t ∧
        lowered t ∧ fails t .remoteError) ∧
      ∀ rs, reach false s (sideRuns s o side 0 832) = some rs →
        let f := fetchRuns s o.view (.op op) 0 rs
        (vfnldReady s o rs = false → exec (.vfnldComplete op ()) s = .next s) ∧
        (vfnldReady s o rs = true → f.waits = true → exec (.vfnldComplete op ()) s =
          .next (startParts o (.op op) 0 f.asks s)) ∧
        (vfnldReady s o rs = true → f.waits = false → ∃ t, exec (.vfnldComplete op ()) s = .next t ∧ SameMemory s t ∧
          lowered t ∧
          (tableFail s o side rs f = none → (t.coreAt o.core).ctx.ftab.get? n = some (f.data.map Prod.fst) ∧
            (t.coreAt o.core).ctx.marks = (s.coreAt o.core).ctx.marks) ∧
          ∀ code, tableFail s o side rs f = some code → fails t code)) ∧
    (∀ rule iw im ig vf seed st p ew em eg, o.kind = .vopt rule iw im ig vf seed st p →
      (s.coreAt o.core).tiles.get? iw = some ew → (s.coreAt o.core).tiles.get? im = some em →
      (s.coreAt o.core).tiles.get? ig = some eg → ew.rows * ew.cols = em.rows * em.cols →
      overlaps (tileByteKey o.core ew 0) (tileBytes ew) (tileByteKey o.core em 0) (tileBytes em) = false →
      let v := optEnv (s.coreAt o.core).ctx vf seed st p iw im ew em eg
      let R (e : TileEntry) (i : Nat) : Int × Bool := readElem (fmtSym vf) (fmtSubst vf) e.ty (memCode s o.core e i)
      let W (e : TileEntry) (i : Nat) : Int := (R e i).1
      let new (i : Nat) : Int × Int × Bool := optElem rule v i (W ew i) (W em i) (W eg i)
      let replaced (e : TileEntry) : Bool := (List.range (e.rows * e.cols)).any fun i => (R e i).2
      ∃ t, exec (.voptComplete op) s = .next t ∧ t.host = s.host ∧ lowered t ∧
        (ew.rows * ew.cols ≤ eg.rows * eg.cols → (∀ i, i < ew.rows * ew.cols →
            memCode t o.core ew i = codeOf ew.ty.width (new i).1 ∧ memCode t o.core em i = codeOf em.ty.width (new i).2.1) ∧
          (t.coreAt o.core).ctx.satf = (s.coreAt o.core).ctx.satf |||
            (flagIf (replaced ew || replaced em || replaced eg) satRsub |||
              flagIf ((List.range (ew.rows * ew.cols)).any fun i => (new i).2.2) satVec)) ∧
        ∀ k, (k < tileByteKey o.core ew 0 ∨ tileByteKey o.core ew 0 + tileBytes ew ≤ k) →
          (k < tileByteKey o.core em 0 ∨ tileByteKey o.core em 0 + tileBytes em ≤ k) →
          Memory.get t.mem k = Memory.get s.mem k)

/-- COPY_OPERATION_COMPLETE (10_copy R243, R248, R250, R251, R252, R253, R255): a copy that its order holds back changes
nothing. Where its sides lie in tiles, private space, rings or one run of LPDDR6, and memory holds no error, a fill writes its
pattern row by row, a plain copy each row's bytes, a transposing one each element in its place; COPYG reads and COPYS writes
the rows that the indices name, an index of all ones being a row of zeros or none; COPYR, SAEQ and SAEF combine the values
with the elements of their tile, SAEQ and SAEF those of one index first among themselves; and no other byte changes. The
channel's counter falls and DONE rises modulo 256; a bad granule in the first row is FLT and a mark, and nothing is
written. That an operation reads and writes at its completion, and which earlier operations it waits for, are the model's
choices (notes/assumptions/12, 14). -/
def Obligations.CopyEventResults : Prop :=
  ∀ (s : State) (op : Nat) (o : Op) (c : CopyOp), CanonMem s → s.op? op = some o → o.kind = .copy c →
    s.coreOf o.task o.member = some o.core →
    let x := (s.coreAt o.core).ctx
    let chan (c : Ctx) (ch : Nat) : ChanStat := if ch = 0 then c.chan0 else c.chan1
    let here (d : Side) : Prop := match d with
      | .tile _ _ | .priv _ | .ring _ _ | .none => True
      | .global _ _ | .peer _ _ => False
    let ends (t : State) : Prop := exec (.copyOperationComplete op ()) s = .next t ∧ t.op? op = none ∧
      (t.coreAt o.core).ctx.cnt = x.cnt.modify (if c.ch = 0 then .c0 else .c1) (· - 1) ∧
      (chan (t.coreAt o.core).ctx c.ch).done = ((chan x c.ch).done + 1) % 256
    let marksOf (c : Ctx) (ch : Nat) : List Mark := if ch = 0 then c.marks.c0 else c.marks.c1
    let good (t : State) (sat : Bool) : Prop := ends t ∧ (t.coreAt o.core).ctx.marks = x.marks ∧ t.host = s.host ∧
      (t.coreAt o.core).ctx.satf = x.satf ||| flagIf sat satRed ∧
      (chan (t.coreAt o.core).ctx c.ch).flt = (chan x c.ch).flt ∧
      (chan (t.coreAt o.core).ctx c.ch).sat = ((chan x c.ch).sat || sat)
    let others (t : State) (hit : Nat → Prop) : Prop := ∀ k, ¬ hit k → Memory.get t.mem k = Memory.get s.mem k
    let base (d : Side) (k n : Nat) : Prop := match d with
      | .tile e off => ∃ t, (s.coreAt o.core).tiles.get? e = some t ∧ k = tileByteKey o.core t off
      | .priv off => k = privKey o.task o.member off
      | .ring die off => k = ringKey die off
      | .global va tr => ∃ a m q, tr = [(a, m, .here q)] ∧ a ≤ va ∧ va + n ≤ a + m ∧ k = q + (va - a)
      | .peer _ _ | .none => False
    (copyReady s o c = false → exec (.copyOperationComplete op ()) s = .next s) ∧
    (copyReady s o c = true → s.mig.stubs = [] → s.mig.moves = [] →
      (∀ p ∈ s.ops, ∀ n side a, p.kind = .vfnld n side a → op ≤ p.id) →
      (here c.dst → here c.src → c.act ≠ .gather → c.act ≠ .scatter → ∃ t, ends t) ∧
      ((∀ p ∈ s.ops, ∀ y, p.kind = .part y → y.client ≠ .op op) → c.prog = {} → o.view = 0 → s.revs = [] →
       s.copies = [] → (∀ k n rd wr, coreAllowed s o.core k n rd wr = true) →
       (∀ die off n rd wr, ringAllowed s o.core die off n rd wr = true) →
       let z := shapeOf c.shape
       let g := gatherOf c.shape
       let inRow (k row str len rows : Nat) : Prop := ∃ i, i < rows ∧ row + i * str ≤ k ∧ k < row + i * str + len
       (∀ v ks code, c.act = .copy .plain v → base c.src ks ((z.rows - 1) * z.sstr + z.rlen) → 0 < z.rows → 0 < z.rlen →
         hardFault s 0 [⟨.here ks, z.rlen⟩] = some code → ∃ t, ends t ∧ SameMemory s t ∧
           (chan (t.coreAt o.core).ctx c.ch).flt = true ∧ marksOf (t.coreAt o.core).ctx c.ch =
             appendMark (marksOf x c.ch) ⟨code, 0, o.bundle, BitVec.ofNat 64 o.bundle⟩) ∧
       (s.sys.poison = [] → s.sys.badEcc = [] → s.sys.badCode = [] →
        (∀ v kd, c.act = .copy .fill v → base c.dst kd ((z.rows - 1) * z.dstr + z.rlen) → z.rows ≤ 1 ∨ z.rlen ≤ z.dstr →
          ∃ t, good t false ∧ others t (fun k => inRow k kd z.dstr z.rlen z.rows) ∧ ∀ i j, i < z.rows → j < z.rlen →
            Memory.get t.mem (kd + i * z.dstr + j) = BitVec.ofNat 8 (bits v (8 * (j % 8)) 8)) ∧
        (∀ v kd ks, c.act = .copy .plain v → base c.dst kd ((z.rows - 1) * z.dstr + z.rlen) →
          base c.src ks ((z.rows - 1) * z.sstr + z.rlen) → z.rows ≤ 1 ∨ z.rlen ≤ z.dstr →
          z.rows = 1 ∨ overlaps kd ((z.rows - 1) * z.dstr + z.rlen) ks ((z.rows - 1) * z.sstr + z.rlen) = false →
          ∃ t, good t false ∧ others t (fun k => inRow k kd z.dstr z.rlen z.rows) ∧ ∀ i j, i < z.rows → j < z.rlen →
            Memory.get t.mem (kd + i * z.dstr + j) = Memory.get s.mem (ks + i * z.sstr + j)) ∧
        (∀ mode v e kd ks, c.act = .copy mode v →
          (mode = .trans1 ∧ e = 1) ∨ (mode = .trans2 ∧ e = 2) ∨ (mode = .trans4 ∧ e = 4) →
          base c.dst kd ((z.rlen / e - 1) * z.dstr + z.rows * e) → base c.src ks ((z.rows - 1) * z.sstr + z.rlen) →
          z.rlen / e ≤ 1 ∨ z.rows * e ≤ z.dstr →
          ∃ t, good t false ∧ others t (fun k => inRow k kd z.dstr (z.rows * e) (z.rlen / e)) ∧
            ∀ i q b, i < z.rows → q < z.rlen / e → b < e →
              Memory.get t.mem (kd + q * z.dstr + (i * e + b)) = Memory.get s.mem (ks + i * z.sstr + (q * e + b))) ∧
        (∀ ti first e, c.idx = some (ti, first) → (s.coreAt o.core).tiles.get? ti = some e → e.ty.width = 32 →
          let X (j : Nat) : Nat := memCode s o.core e (first + j)
          let ki := tileByteKey o.core e (4 * first)
          let reached (wr : Bool) (from_ : Word) (kr : Nat → Nat) : Prop := ∀ j, j < g.count → X j ≠ 0xFFFFFFFF →
            let v := { s with cur := o.core }
            let a := from_ + BitVec.ofNat 64 (X j * g.str)
            tagOf a.toNat ∈ [0x8, 0x9, 0xA] ∧ checkAccess v (!wr) wr 1 a g.rlen = .ok ∧
              sideRuns s o (sideOf v a (accessRuns v a g.rlen)) 0 g.rlen = [⟨.here (kr j), g.rlen⟩]
          (∀ kd kr, c.act = .gather → base c.dst kd (g.count * g.rlen) → reached false c.srcAddr kr → 0 < g.rlen →
            overlaps kd (g.count * g.rlen) ki (4 * g.count) = false →
            (∀ j, j < g.count → overlaps kd (g.count * g.rlen) (kr j) g.rlen = false) →
            ∃ t, good t false ∧ others t (fun k => kd ≤ k ∧ k < kd + g.count * g.rlen) ∧ ∀ j b, j < g.count → b < g.rlen →
              Memory.get t.mem (kd + j * g.rlen + b) =
                if X j = 0xFFFFFFFF then 0 else Memory.get s.mem (kr j + b)) ∧
          (∀ ks kr, c.act = .scatter → base c.src ks (g.count * g.rlen) → reached true c.dstAddr kr → 0 < g.rlen →
            (∀ j, j < g.count → X j ≠ 0xFFFFFFFF → overlaps (kr j) g.rlen ki (4 * g.count) = false ∧
              overlaps (kr j) g.rlen ks (g.count * g.rlen) = false) →
            ∃ t, good t false ∧
              others t (fun k => ∃ j, j < g.count ∧ X j ≠ 0xFFFFFFFF ∧ kr j ≤ k ∧ k < kr j + g.rlen) ∧
              ∀ j b, j < g.count → b < g.rlen → X j ≠ 0xFFFFFFFF →
                (∀ l, j < l → l < g.count → X l ≠ 0xFFFFFFFF → overlaps (kr l) g.rlen (kr j) g.rlen = false) →
                Memory.get t.mem (kr j + b) = Memory.get s.mem (ks + j * g.rlen + b)) ∧
          (∀ f flat td off ks d, c.dst = .tile td off → (s.coreAt o.core).tiles.get? td = some d →
            (c.act = .saeRows f ∧ flat = false) ∨ (c.act = .saeElems f ∧ flat = true) →
            let w := d.ty.width
            base c.src ks (if flat then (g.count * w + 7) / 8 else g.count * g.rlen) → g.count ≤ 64 →
            (flat = false → 0 < g.rlen ∧ g.rlen ≤ g.str ∧ ∀ j, j < g.count → (off + X j * g.str) * 8 % w = 0) →
            let first (y : Nat) : Nat := if flat then off * 8 / w + y else (off + y * g.str) * 8 / w
            let len : Nat := if flat then 1 else g.rlen * 8 / w
            (∀ j, j < g.count → X j ≠ 0xFFFFFFFF → ((first (X j) + len) * w + 7) / 8 ≤ tileBytes d ∧
              (flat = false → off + X j * g.str + g.rlen ≤ tileBytes d)) →
            let value (j q : Nat) : Int := elemVal d.ty
              (if flat then codeIn w (s.bytes ks ((g.count * w + 7) / 8)) j
               else codeIn w (s.bytes (ks + j * g.rlen) g.rlen) q)
            let join (a b : Int) : Int := match f with
              | .add | .sadd => a + b
              | .max => max a b
              | .min => min a b
              | .set => b
            let total (y q : Nat) : Int := match ((List.range g.count).filter fun j => X j = y).map fun j => value j q with
              | [] => 0
              | v :: vs => vs.foldl join v
            let new (y q : Nat) : Int × Bool :=
              combine f d.ty (elemVal d.ty (memCode s o.core d (first y + q))) (total y q)
            let clip : Bool := (List.range g.count).any fun j => X j != 0xFFFFFFFF &&
              (List.range len).any fun q => (new (X j) q).2
            ∃ t, good t clip ∧
              others t (fun k => tileByteKey o.core d 0 ≤ k ∧ k < tileByteKey o.core d 0 + tileBytes d) ∧
              (∀ j q, j < g.count → q < len → X j ≠ 0xFFFFFFFF →
                memCode t o.core d (first (X j) + q) = codeOf w (new (X j) q).1) ∧
              ∀ n, n < d.rows * d.cols → (∀ j q, j < g.count → q < len → X j ≠ 0xFFFFFFFF → n ≠ first (X j) + q) →
                memCode t o.core d n = memCode s o.core d n)) ∧
        (∀ f td off ks d, c.act = .reduce f → c.dst = .tile td off → (s.coreAt o.core).tiles.get? td = some d →
          base c.src ks ((z.rows - 1) * z.sstr + z.rlen) → z.rows ≤ 1 ∨ z.rlen ≤ z.dstr →
          let w := d.ty.width
          let kd := tileByteKey o.core d off
          (∀ k, k < z.rows → (off + k * z.dstr) * 8 % w = 0) →
          overlaps kd ((z.rows - 1) * z.dstr + z.rlen) ks ((z.rows - 1) * z.sstr + z.rlen) = false →
          let n0 (k : Nat) : Nat := (off + k * z.dstr) * 8 / w
          let new (k q : Nat) : Int × Bool := combine (saeOfRed f) d.ty (elemVal d.ty (memCode s o.core d (n0 k + q)))
            (elemVal d.ty (codeIn w (s.bytes (ks + k * z.sstr) z.rlen) q))
          let clip : Bool := (List.range z.rows).any fun k => (List.range (z.rlen * 8 / w)).any fun q => (new k q).2
          ∃ t, good t clip ∧ others t (fun k => inRow k kd z.dstr z.rlen z.rows) ∧ ∀ k q, k < z.rows → q < z.rlen * 8 / w →
            memCode t o.core d (n0 k + q) = codeOf w (new k q).1))))

/-- ATOM_PERFORM, SIGNAL_PERFORM, FAR_OPERATION_ACKNOWLEDGE (10_copy R256–R258; 04_memory_model R94, R96): an operation that
waited begins its access; then the target takes its new value in one step, and no other byte changes; at the end class S
falls, and an ATOM's old value goes to its place in private space; an error is a mark of class S. The time of its access and
its place in the order of requests are the model's choices (notes/assumptions/8, 52). -/
def Obligations.FarEventResults : Prop :=
  ∀ (s : State) (op k : Nat) (o : Op) (f : FarOp), CanonMem s → s.op? op = some o → o.kind = .far f →
    let n := farBytes f.kind
    let i : Instr := if isAtom f then .atomPerform op else .signalPerform op
    (f.place = .here k → f.performed = false → f.begun = false → farReady s o f = true → ∃ t, exec i s = .next t ∧
      SameMemory s t ∧ t.cores = s.cores ∧ t.op? op = some { o with
        due := s.cyc + (farSpace f).delay, queuedAt := s.nextOp, kind := .far { f with begun := true } }) ∧
    (reachRun true s ⟨f.place, n⟩ = some ⟨.here k, n⟩ → f.performed = false → f.begun = true →
      (arrivesLater s o true k n = true ∨ granBusy s k n = true ∨ requestsBefore s op k n = true → exec i s = .next s) ∧
      (arrivesLater s o true k n = false → granBusy s k n = false → requestsBefore s op k n = false →
      (∀ code, farFault s o f k = some code → s.coreOf o.task o.member = some o.core → ∃ t, exec i s = .next t ∧
        SameMemory s t ∧ t.op? op = none ∧
        (t.coreAt o.core).ctx.cnt = (s.coreAt o.core).ctx.cnt.modify .s (· - 1) ∧
        (t.coreAt o.core).ctx.marks.s = appendMark (s.coreAt o.core).ctx.marks.s
          ⟨code, 0, o.bundle, BitVec.ofNat 64 o.bundle⟩) ∧
      (farFault s o f k = none → o.view = 0 → s.revs = [] → s.copies = [] →
      let old := BitVec.ofNat 64 (leNat (s.bytes k n))
      ∃ t x, exec i s = .next t ∧ t.host = s.host ∧ (tagOf f.addr.toNat ≠ 0xC → t.cores = s.cores) ∧
        t.op? op = some x ∧
        x.kind = .far { f with place := .here k, performed := true, old := old, sat := (farNew f.kind old).2 } ∧
        (∀ v, (farNew f.kind old).1 = some v → t.bytes k n = leBytes n v.toNat) ∧
        ((farNew f.kind old).1 = none → t.mem = s.mem) ∧
        ∀ a, a < k ∨ k + n ≤ a → Memory.get t.mem a = Memory.get s.mem a))) ∧
    (f.begun = false → f.performed = false → farReady s o f = false → exec i s = .next s) ∧
    (f.performed = true → s.coreOf o.task o.member = some o.core → ∀ v sat,
      let low (t : State) : Prop := t.op? op = none ∧ t.host = s.host ∧
        (t.coreAt o.core).ctx.cnt = (s.coreAt o.core).ctx.cnt.modify .s (· - 1)
      let value := match f.place with
        | .here _ => f.old
        | .far _ _ _ | .zero => v
      (∀ a wide uns x y off, f.kind = .atom a wide uns false x y off →
        ∃ t, exec (.farOperationAcknowledge op v sat none) s = .next t ∧ low t ∧
          t.bytes (privKey o.task o.member off) (if wide then 8 else 4) =
            leBytes (if wide then 8 else 4) value.toNat) ∧
      (∀ a wide uns x y off, f.kind = .atom a wide uns true x y off →
        ∃ t, exec (.farOperationAcknowledge op v sat none) s = .next t ∧ low t ∧ t.mem = s.mem) ∧
      (∀ plus x ch, f.kind = .signal plus x ch → ∃ t, exec (.farOperationAcknowledge op v sat none) s = .next t ∧
        low t ∧ t.mem = s.mem) ∧
      ∀ code, ∃ t, exec (.farOperationAcknowledge op v sat (some code)) s = .next t ∧ low t ∧ t.mem = s.mem ∧
        (t.coreAt o.core).ctx.marks.s = appendMark (s.coreAt o.core).ctx.marks.s
          ⟨code, 0, o.bundle, BitVec.ofNat 64 o.bundle⟩)

/-! ### Pages: requests, translation, migration -/

/-- REMOTE_REQUEST_RECEIVE, HOME_CONSULT, REDIRECT, OWNER_CACHE_EXPIRY (12_migration R285, R287, R288, R291; 15_fabric
R359): a request that its station denies, or whose peer form is refused, is answered with REMOTE_ERROR; a read of a ring
byte range, or of a page held here, is answered with its bytes, a write of a ring changes those bytes alone and is
acknowledged; a request for a page that is not here is refused, or relayed by its stub. The home answers what its directory
holds; a later epoch replaces an owner-cache entry. The flits of an answer are presumed, one for each 64 bytes of data and
at least one (notes/assumptions/39), and a poisoned answer names the bytes by the model's choice (notes/assumptions/69). -/
def Obligations.HomeEventResults : Prop :=
  ∀ (s : State) (r : RemoteReq) (d off k n : Nat), CanonMem s →
    let st := planeOf s.accid r.target
    let reply (i : Instr) (flits : Nat) (u : State) : State := u.sendOn st .rsp flits none r.src.acc i
    (behindStalled s r = true → exec (.remoteRequestReceive r) s =
      .next { s with mig := { s.mig with stalled := s.mig.stalled ++ [r] } }) ∧
    (behindStalled s r = false → stationAllows s r = false → r.act = .read n → exec (.remoteRequestReceive r) s =
      .next (reply (.remoteLoadResponse r.src.op ⟨[], []⟩ (some .remoteError)) 1 (s.noteErr (some .accessTable)))) ∧
    (behindStalled s r = false → stationAllows s r = true → r.target = .peerRing d off →
      (ringBytes < off + actLen r.act → r.act = .read n → exec (.remoteRequestReceive r) s =
        .next (reply (.remoteLoadResponse r.src.op ⟨[], []⟩ (some .remoteError)) 1 s)) ∧
      (off + actLen r.act ≤ ringBytes → k = ringKey d off → peerAllowed s r = false → r.act = .read n →
        exec (.remoteRequestReceive r) s =
          .next (reply (.remoteLoadResponse r.src.op ⟨[], []⟩ (some .remoteError)) 1 (s.noteErr (some .accessTable)))) ∧
      (off + actLen r.act ≤ ringBytes → k = ringKey d off → peerAllowed s r = true → granBusy s k (actLen r.act) = true →
        exec (.remoteRequestReceive r) s = .next { s with mig := { s.mig with stalled := s.mig.stalled ++ [r] } }) ∧
      (off + actLen r.act ≤ ringBytes → k = ringKey d off → peerAllowed s r = true → granBusy s k (actLen r.act) = false →
        (r.act = .read n → s.copies = [] → exec (.remoteRequestReceive r) s =
          .next (reply (.remoteLoadResponse r.src.op ⟨s.bytes k n, badOffsets s k n⟩ none) (flitsOf n)
            { s with sys := afterRead s.sys k n })) ∧
        (∀ bs, r.act = .write (wholeBytes 0 bs) bs.length [] → s.revs = [] → s.copies = [] → ∃ u : State,
          exec (.remoteRequestReceive r) s = .next (reply (.postedWriteAcknowledge r.src.op none) 1 u) ∧
          u.host = s.host ∧ u.cores = s.cores ∧ (∀ j, j < bs.length → Memory.get u.mem (k + j) = bs.getD j 0) ∧
          ∀ a, a < k ∨ k + bs.length ≤ a → Memory.get u.mem a = Memory.get s.mem a))) ∧
    (∀ asid va, behindStalled s r = false → stationAllows s r = true → r.target = .page asid va → s.mig.incoming = [] →
      (ownerLeaf s asid va = .other →
        exec (.remoteRequestReceive r) s = .next (reply (.requestRefused r.src.op .notOwner) 1 s)) ∧
      (ownerLeaf s asid va = .failed → r.act = .read n → exec (.remoteRequestReceive r) s =
        .next (reply (.remoteLoadResponse r.src.op ⟨[], []⟩ (some .remoteError)) 1 s)) ∧
      (∀ level owner, ownerLeaf s asid va = .stub level owner → 2 < r.hops →
        exec (.remoteRequestReceive r) s = .next (reply (.requestRefused r.src.op .chain) 1 s)) ∧
      (∀ level owner, ownerLeaf s asid va = .stub level owner → r.hops ≤ 2 → exec (.remoteRequestReceive r) s =
        .next (s.sendOn (pagePlane owner (pageKey asid level va)) .req (flitsOf (actData r.act)) none owner
          (.remoteRequestReceive { r with hops := r.hops + 1 }))) ∧
      (∀ level e, ownerLeaf s asid va = .owner level e → r.act = .read n →
        let key := abits e 16 24 * 2 ^ 16 + (va - pageBase level va)
        (pteBit e 42 = false → exec (.remoteRequestReceive r) s =
          .next (reply (.remoteLoadResponse r.src.op ⟨[], []⟩ (some .remoteError)) 1 s)) ∧
        (pteBit e 42 = true → homeAllows s r key = true → frozenMove s asid va = none → r.hops ≤ 1 →
          granBusy s key n = false → s.copies = [] → exec (.remoteRequestReceive r) s =
            .next (reply (.remoteLoadResponse r.src.op ⟨s.bytes key n, badOffsets s key n⟩ none) (flitsOf n)
              { s with sys := afterRead s.sys key n })))) ∧
    (∀ src page, s.mig.rebuilding = [] → (s.mig.home.find? (fun e => e.page == page)) = none → exec (.homeConsult src page) s =
      .next (s.send src.acc (.homeAnswer src.op page .none))) ∧
    (∀ src page e, s.mig.rebuilding = [] → s.mig.home.find? (fun e => e.page == page) = some e → exec (.homeConsult src page) s =
      .next (s.send src.acc (.homeAnswer src.op page
        (if e.state = .lost then .lost else .owner e.owner e.epoch)))) ∧
    (∀ page owner epoch,
      (ownerEntry s page = none → ∃ t e, exec (.redirect page owner epoch) s = .next t ∧ SameMemory s t ∧
        ownerEntry t page = some e ∧ e.owner = owner ∧ e.epoch = epoch) ∧
      ∀ e, ownerEntry s page = some e → e.epoch < 2 ^ 16 → epoch < 2 ^ 16 → ∃ t e', exec (.redirect page owner epoch) s =
        .next t ∧ SameMemory s t ∧ ownerEntry t page = some e' ∧ e'.owner =
          if 1 ≤ (epoch + 2 ^ 16 - e.epoch) % 2 ^ 16 ∧ (epoch + 2 ^ 16 - e.epoch) % 2 ^ 16 ≤ 32767 then owner else e.owner) ∧
    (∀ page, ∃ t, exec (.ownerCacheExpiry page) s = .next t ∧ SameMemory s t ∧ t.mig.cache =
      s.mig.cache.filter fun e => !(e.page == page && decide (e.last + 500000 ≤ nowNs s)))

/-- REQUEST_REFUSED, HOME_ANSWER, REQUESTER_HOLD_RELEASE (12_migration R288, R289; 15_fabric R350, R360): a refused access is held and its home
consulted, unless its time-out has passed, when it fails with MIGRATION; an owner fills the cache; no owner is REMOTE_ERROR
and a lost page MIGRATION. A hold stays while a request or a consult is unanswered. A packet that fails authentication is sent
again, and the eighth failure completes its access with REMOTE_ERROR; that other messages are sent again in the same way, and
what their eighth failure ends, are the model's choices (notes/assumptions/75). -/
def Obligations.RequesterEventResults : Prop :=
  ∀ (s : State) (op : Nat) (o : Op) (p : PageKey) (why : Refused), s.op? op = some o →
    (opPage s op = some p → why = .notOwner ∨ why = .chain →
      (s.timeU < o.issuedU + s.cfg.ftimeout * microU → ∃ (u : State) (h : Hold), exec (.requestRefused op why) s =
        .next (u.send (homeOf s p) (.homeConsult ⟨s.accid, op⟩ p)) ∧ SameMemory s u ∧ u.cores = s.cores ∧
        holdOf u p = some h ∧ op ∈ h.refused ∧ op ∈ h.asked ∧ ∀ e ∈ u.mig.sent, e.1 ≠ op) ∧
      (o.issuedU + s.cfg.ftimeout * microU ≤ s.timeU → exec (.requestRefused op why) s =
        .next (failRemote o .migration s))) ∧
    (7 ≤ s.mig.fails.getD op 0 → exec (.requestRefused op .auth) s = .next (failRemote o .remoteError s)) ∧
    (s.mig.fails.getD op 0 < 7 → exec (.requestRefused op .auth) s = .next (resend op
      { s with mig := { s.mig with fails := s.mig.fails.set op (s.mig.fails.getD op 0 + 1) } })) ∧
    (∀ n station ch m, s.outbox[n]? = some m →
      let k := ((s.mig.lost.find? fun e => e.1 == m).map Prod.snd).getD 0
      let rest := s.mig.lost.filter fun e => e.1 != m
      (k < 7 → exec (.requestRefused n (.packet station ch)) s =
        .next (({ s with mig := { s.mig with lost := rest ++ [(m, k + 1)] } } : State).sendOn station ch
          (flitsAgain s.accid m.1 m.2) none m.1 m.2)) ∧
      (7 ≤ k → exec (.requestRefused n (.packet station ch)) s =
        .next (messageFails m.2 { s with mig := { s.mig with lost := rest } }))) ∧
    (exec (.homeAnswer op p .none) s = .next (failRemote o .remoteError s)) ∧
    (exec (.homeAnswer op p .lost) s = .next (failRemote o .migration s)) ∧
    (∀ acc epoch, s.timeU < o.issuedU + s.cfg.ftimeout * microU → ∃ t e, exec (.homeAnswer op p (.owner acc epoch)) s =
      .next t ∧ SameMemory s t ∧ t.ops = s.ops ∧ ownerEntry t p = some e ∧ e.owner = acc ∧ e.epoch = epoch) ∧
    (∀ h, holdOf s p = some h →
      (h.asked ≠ [] ∨ sentFor s p ≠ [] → exec (.requesterHoldRelease p) s = .next s) ∧
      (h.asked = [] → sentFor s p = [] → h.refused = [] → h.held = [] → ∃ t, exec (.requesterHoldRelease p) s = .next t ∧
        SameMemory s t ∧ holdOf t p = none))

/-- PAGE_WALK_COMPLETE, PGREQ_COMPLETE, INVALIDATION_DRAIN_COMPLETE, MAPPING_REQUEST (11_translation R265–R269, R276,
R277; 17_system R393): a walk's leaf is cached and the walk serves the stalled bundle; a request whose pages are all resident
ends without a mark, an invalid or refused one with TRANSLATION; a drain begins once no move of its pages is in progress and
ends once no earlier access of the context is at work, with its completion record; a mapping request is answered. Which
accesses a drain waits for, the record's INDEX and its place in the ring are the model's choices
(notes/assumptions/29, 42, 72). -/
def Obligations.TranslationEventResults : Prop :=
  ∀ (s : State) (op : Nat) (o : Op), s.op? op = some o →
    (∀ asid va m, o.kind = .walk asid va m → ∃ t, exec (.pageWalkComplete op) s = .next t ∧ SameMemory s t ∧
      t.op? op = none ∧
      (∃ rest, (t.coreAt o.core).walkRes = ⟨asid, va / 2 ^ 16, engineWalk s o.core asid va⟩ :: rest) ∧
      ∀ e, engineWalk s o.core asid va = .leaf e → e ∈ (t.coreAt o.core).l1 ∧ e ∈ (t.dieAt (dieOf o.core)).l2 ∧
        (t.coreAt o.core).l1.length ≤ 256 ∧ (t.dieAt (dieOf o.core)).l2.length ≤ 32768) ∧
    (∀ va len w asked refused, o.kind = .pgreq va len w asked refused → s.coreOf o.task o.member = some o.core →
      let ps := requestPages s o.asid va len w
      (refused = false → (∀ x ∈ ps, x.2.2 = .resident) → ∃ t, exec (.pgreqComplete op) s = .next t ∧ SameMemory s t ∧
        t.op? op = none ∧ (t.coreAt o.core).ctx.cnt = (s.coreAt o.core).ctx.cnt.modify .s (· - 1) ∧
        (t.coreAt o.core).ctx.marks = (s.coreAt o.core).ctx.marks) ∧
      (refused = true ∨ (∃ x ∈ ps, x.2.2 = .invalid) → ∃ t, exec (.pgreqComplete op) s = .next t ∧ SameMemory s t ∧
        t.op? op = none ∧ (t.coreAt o.core).ctx.marks.s = appendMark (s.coreAt o.core).ctx.marks.s
          ⟨.translation, 0, o.bundle, BitVec.ofNat 64 o.bundle⟩) ∧
      (refused = false → (∃ x ∈ ps, x.2.2 = .missing) → (∀ x ∈ ps, x.2.2 ≠ .invalid) →
        exec (.pgreqComplete op) s = .next s)) ∧
    (∀ asid va len admin page, o.kind = .invalidate asid va len none admin page →
      (moveWithin s asid va len = true → exec (.invalidationDrainComplete op) s = .next s) ∧
      (moveWithin s asid va len = false → ∃ t x, exec (.invalidationDrainComplete op) s = .next t ∧ SameMemory s t ∧
        t.op? op = some x ∧ x.kind = .invalidate asid va len (some s.nextOp) admin page)) ∧
    (∀ asid va len bound n e, o.kind = .invalidate asid va len (some bound) (some n) none →
      s.adminCmds.find? (fun c => c.index == n) = some e →
      let p := packetOf (leBytes 64 e.packet.toNat)
      (drained s asid va len bound = true → ∃ t, exec (.invalidationDrainComplete op) s = .next t ∧
        t.mem = s.mem ∧ t.host = Memory.setN s.host (Config.adminRing.1 + 32 * (s.admin.length % Config.adminRing.2))
          (leBytes 4 p.tag ++ leBytes 1 p.kind ++ leBytes 1 0 ++ leBytes 2 0 ++ leBytes 8 n ++ leBytes 8 0 ++
            leBytes 4 0 ++ leBytes 4 0) ∧
        t.op? op = none ∧ t.admin = s.admin ++ [⟨p.tag, p.kind, none, n⟩]) ∧
      ((∃ p ∈ s.ops, p.id < bound ∧ holdsTranslation asid p = true) →
        exec (.invalidationDrainComplete op) s = .next s)) ∧
    ∀ (asid va : Nat) (size : Fin 3), exec (.mappingRequest asid va size) s = .next { s with
      answers := s.answers ++ [.mapping (decide (va % pageBytes size.val = 0) && (s.context? asid).isSome)] }

/-- MIGRATION_REQUEST_AT_HOME, MIGRATION_FORWARD_AT_OWNER, RESERVE_ACCEPT, TRANSFER_ACKNOWLEDGE, MIGRATION_ABORT, COMMIT
(12_migration R294–R299): the home forwards a stable page's move to its owner and answers NOTRES or INFLIGHT else; the owner
ends a move it may not make with its status and asks the target for any other; an accepted page freezes and its frame is
sent, a granule with an uncorrectable error poisoned; the acknowledged transfer is committed at the home, whose entry then
names the new owner with the next epoch. That an unanswered RESERVE is aborted too, that the frame comes as a second RESERVE
row, and the agent's checks are the model's choices (notes/assumptions/30, 54, 73). -/
def Obligations.MoveEventResults : Prop :=
  ∀ (s : State) (m : MoveReq) (home : Nat),
    let tell (st : MigrStatus) (owner : Nat) (u : State) : State := tellIssuer m.page m.issuer st owner u
    let ends (st : MigrStatus) : State := tell st s.accid ((dropMove m.page s).send home (.commit m.page s.accid))
    (s.mig.rebuilding = [] → requestedEntry s m.page = none →
      exec (.migrationRequestAtHome m) s = .next (tell .notres s.accid s)) ∧
    (∀ e, s.mig.rebuilding = [] → requestedEntry s m.page = some e →
      (e.state = .moving → exec (.migrationRequestAtHome m) s = .next (tell .inflight e.owner s)) ∧
      (e.state = .lost → exec (.migrationRequestAtHome m) s = .next (tell .notres s.accid s)) ∧
      (e.state = .stable → ∃ (u : State) (e' : HomeEntry), exec (.migrationRequestAtHome m) s =
        .next (u.send e.owner (.migrationForwardAtOwner { m with page := e.page } s.accid)) ∧ SameMemory s u ∧
        homeEntry u e.page = some e' ∧
        e'.state = .moving ∧ e'.target = m.target ∧ e'.owner = e.owner ∧ e'.epoch = e.epoch)) ∧
    (leafOf s m.page.asid (pageVa m.page 0) = none →
      exec (.migrationForwardAtOwner m home) s = .next (ends .notres)) ∧
    (∀ pa level e, leafOf s m.page.asid (pageVa m.page 0) = some (pa, level, e) →
      (isLocal e = false → exec (.migrationForwardAtOwner m home) s = .next (ends .notres)) ∧
      (isLocal e = true → m.target = s.accid → exec (.migrationForwardAtOwner m home) s = .next (ends .already)) ∧
      (isLocal e = true → m.target ≠ s.accid →
        (level = 2 → exec (.migrationForwardAtOwner m home) s = .next (ends .large)) ∧
        (level ≠ 2 → pteBit e 46 = true → exec (.migrationForwardAtOwner m home) s = .next (ends .busy)) ∧
        (level ≠ 2 → pteBit e 46 = false → ∃ u : State, exec (.migrationForwardAtOwner m home) s =
          .next (u.send m.target (.reserve m s.accid home none)) ∧ SameMemory s u ∧
          u.mig.moves = s.mig.moves ++ [⟨m, frameOf e, home, .reserving, [], s.timeU, []⟩]))) ∧
    (∀ v, moveOf s m.page = some v →
      (v.stage = .reserving → exec (.reserveAccept m.page false) s =
        .next (endMove v.req v.home .refused s.accid s)) ∧
      (v.stage = .reserving → lpddrAllowed s agentMaster v.frame (pageBytes m.page.size) true false = false →
        exec (.reserveAccept m.page true) s = .next (abortMove v (s.noteErr (some .accessTable)))) ∧
      (v.stage = .reserving → lpddrAllowed s agentMaster v.frame (pageBytes m.page.size) true false = true →
        let c := checkFrame v.frame (pageBytes m.page.size) s
        ∃ (u : State) (v' : Move), exec (.reserveAccept m.page true) s =
        .next (u.send v.req.target (.reserve v.req s.accid v.home (some (pageData c v.frame (pageBytes m.page.size))))) ∧
        c.mem = s.mem ∧ (∀ g ∈ granules64 v.frame (pageBytes m.page.size), g ∈ s.sys.badEcc → g ∈ c.sys.poison) ∧
        moveOf u m.page = some v' ∧ v'.stage = .frozen ∧ v'.queue = v.queue) ∧
      (v.stage = .frozen → ∃ (u : State) (v' : Move), exec (.transferAcknowledge m.page) s =
        .next (u.send v.home (.commit m.page v.req.target)) ∧ SameMemory s u ∧ moveOf u m.page = some v' ∧
        v'.stage = .committing) ∧
      (s.timeU < v.sinceU + s.cfg.ftimeout * microU ∨ v.stage = .committing →
        exec (.migrationAbort m.page) s = .next s) ∧
      (v.stage ≠ .committing → v.sinceU + s.cfg.ftimeout * microU ≤ s.timeU →
        exec (.migrationAbort m.page) s = .next (abortMove v s))) ∧
    ∀ e owner, homeEntry s m.page = some e → e.state = .moving →
      (owner ≠ e.owner → ∃ (u : State) (e' : HomeEntry), exec (.commit m.page owner) s =
        .next (u.send e.owner (.commitAcknowledge m.page ((e.epoch + 1) % 2 ^ 16))) ∧ SameMemory s u ∧
        homeEntry u m.page = some e' ∧ e'.state = .stable ∧ e'.owner = owner ∧ e'.epoch = (e.epoch + 1) % 2 ^ 16) ∧
      (owner = e.owner → ∃ (u : State) (e' : HomeEntry), exec (.commit m.page owner) s = .next u ∧ SameMemory s u ∧
        homeEntry u m.page = some e' ∧ e'.state = .stable ∧ e'.owner = e.owner ∧ e'.epoch = e.epoch)

/-- RESERVE, COMMIT_ACKNOWLEDGE, END_FORWARD, MIGR_COMPLETE, POLICY_MOVE (12_migration R293–R296, R298–R300): the target
accepts with a frame when it has one and declines else; a frame that arrives is written and acknowledged; the old owner is
left with a stub; the new owner performs the queued requests; the status word is written and class S falls. That an
aborting owner tells the target, that the frame comes as a second RESERVE row, and the agent's checks are the model's
choices (notes/assumptions/54, 73, 81). -/
def Obligations.MoveEndResults : Prop :=
  ∀ (s : State) (m : MoveReq) (owner home : Nat), CanonMem s →
    (let free : Prop := (s.context? m.page.asid).isSome = true ∧ incomingOf s m.page = none ∧ moveOf s m.page = none
     (free → ∃ u : State, exec (.reserve m owner home none) s =
        .next (u.send owner (.reserveAccept m.page (reserveFrame s m.page.size).isSome)) ∧ SameMemory s u ∧
        u.mig.incoming = s.mig.incoming ++
          ((reserveFrame s m.page.size).map fun f => ⟨m.page, owner, home, f * 2 ^ 16, []⟩).toList) ∧
     (¬ free → ∃ u : State, exec (.reserve m owner home none) s = .next (u.send owner (.reserveAccept m.page false)) ∧
        SameMemory s u ∧ u.mig = s.mig)) ∧
    (∀ x d, incomingOf s m.page = some x → lpddrAllowed s agentMaster x.frame d.bytes.length false true = false →
      exec (.reserve m owner home (some d)) s = .next (s.noteErr (some .accessTable))) ∧
    (∀ x, moveOf s m.page = none → incomingOf s m.page = some x → x.held = [] →
      ∃ t, exec (.reserveAccept m.page false) s = .next t ∧ SameMemory s t ∧ incomingOf t m.page = none) ∧
    (∀ x d, incomingOf s m.page = some x → lpddrAllowed s agentMaster x.frame d.bytes.length false true = true →
      let bs := d.bytes
      ∃ u : State, exec (.reserve m owner home (some d)) s =
      .next (u.send owner (.transferAcknowledge m.page)) ∧ u.host = s.host ∧
      (∀ j, j < bs.length → Memory.get u.mem (x.frame + j) = bs.getD j 0) ∧
      ∀ k, k < x.frame ∨ x.frame + bs.length ≤ k → Memory.get u.mem k = Memory.get s.mem k) ∧
    (∀ v pa level e epoch, moveOf s m.page = some v → leafOf s m.page.asid (pageVa m.page 0) = some (pa, level, e) →
      v.stage = .committing → v.overflow = [] → lpddrAllowed s agentMaster pa 8 false true = true → ∃ t x, exec (.commitAcknowledge m.page epoch) s = .next t ∧
        moveOf t v.req.page = none ∧ stubOf t v.req.page = some x ∧ x.owner = v.req.target ∧ x.retiring = false ∧
        x.endU = s.timeU + s.cfg.stubLife * microU ∧
        t.bytes pa 8 = leBytes 8 (3 + v.req.target % 1024 * 2 ^ 16 + (if pteBit e 42 then 2 ^ 42 else 0) +
          (if pteBit e 43 then 2 ^ 43 else 0) + 2 ^ 44)) ∧
    (∀ x pa rd w epoch, incomingOf s m.page = some x → x.held = [] → leafSlot s m.page = some pa →
      lpddrAllowed s agentMaster pa 8 false true = true → ∃ t e, exec (.endForward m.page rd w epoch []) s = .next t ∧ incomingOf t m.page = none ∧
        stubOf t m.page = none ∧ ownerEntry t m.page = some e ∧ e.owner = s.accid ∧ e.epoch = epoch ∧
        t.bytes pa 8 = leBytes 8 (2 + x.frame / 2 ^ 16 * 2 ^ 16 + (if rd then 2 ^ 42 else 0) + (if w then 2 ^ 43 else 0))) ∧
    (∀ op o va target off res st own, s.op? op = some o → o.kind = .migr va target off res →
      s.coreOf o.task o.member = some o.core →
      let x := res.getD (st, own)
      ∃ t, exec (.migrComplete op st own) s = .next t ∧ t.op? op = none ∧ t.host = s.host ∧
        (t.coreAt o.core).ctx.cnt = (s.coreAt o.core).ctx.cnt.modify .s (· - 1) ∧
        t.bytes (privKey o.task o.member off) 8 = leBytes 8 (x.2 % 1024 * 2 ^ 16 + statusNumber x.1) ∧
        ∀ k, k < privKey o.task o.member off ∨ privKey o.task o.member off + 8 ≤ k →
          Memory.get t.mem k = Memory.get s.mem k) ∧
    (∀ c, s.context? m.page.asid = some c →
      (c.policy = true → exec (.policyMove m.page m.target) s =
        .next (s.send (homeOf s m.page) (.migrationRequestAtHome ⟨m.page, m.target, none⟩))) ∧
      (c.policy = false → exec (.policyMove m.page m.target) s = .next s))

/-- STUB_LIFETIME_END, STUB_RETIRE, STUB_RETIRE_ACKNOWLEDGE, STUB_RETIRE_TIMEOUT, PEER_PACKAGE_RESET (12_migration R303,
R308): a stub whose lifetime has ended asks its owner to let it retire; the owner answers once no relayed request waits
there; the answer, or the fabric time-out with a RAS count, removes it. On a reset of a package that nothing here concerns,
this one only reports that it owns no page of it; any other ends the moves, the incoming pages and the tasks elsewhere that
the reset concerns. When STUB_RETIRE is answered, and what a reset ends, are the model's choices
(notes/assumptions/58). -/
def Obligations.StubResults : Prop :=
  ∀ (s : State) (p : PageKey) (x : Stub) (src : Nat), stubOf s p = some x →
    (x.retiring = false → x.endU ≤ s.timeU → ∃ (u : State) (y : Stub), exec (.stubLifetimeEnd p) s =
      .next (u.send x.owner (.stubRetire p s.accid)) ∧ SameMemory s u ∧ stubOf u p = some y ∧ y.retiring = true ∧
      y.endU = s.timeU) ∧
    (x.retiring = true ∨ s.timeU < x.endU → exec (.stubLifetimeEnd p) s = .next s) ∧
    (relaysWait s p = true → exec (.stubRetire p src) s = .next (s.retry (.stubRetire p src))) ∧
    (relaysWait s p = false → exec (.stubRetire p src) s = .next (s.send src (.stubRetireAcknowledge p))) ∧
    (x.retiring = false → exec (.stubRetireAcknowledge p) s = .next s) ∧
    (x.retiring = true → ∃ t, exec (.stubRetireAcknowledge p) s = .next t ∧ stubOf t p = none ∧ t.host = s.host) ∧
    (x.retiring = true → x.endU + s.cfg.ftimeout * microU ≤ s.timeU → ∃ t, exec (.stubRetireTimeout p) s = .next t ∧
      stubOf t p = none ∧ t.sys.ras.getD 7 0 = min (2 ^ 32 - 1) (s.sys.ras.getD 7 0 + 1)) ∧
    (x.retiring = false ∨ s.timeU < x.endU + s.cfg.ftimeout * microU → exec (.stubRetireTimeout p) s = .next s) ∧
    (∀ acc, s.mig.moves = [] → s.mig.home = [] → (∀ y ∈ s.mig.incoming, y.owner ≠ acc) → (∀ y ∈ s.away, y.acc ≠ acc) →
      s.mig.owned = [] → s.mig.registered = [] → acc ∉ s.mig.rebuilding → s.mig.taken = [] →
      exec (.peerPackageReset acc) s = .next (s.send acc (.owner (.reported s.accid)))) ∧
    (∀ acc, ∃ t, exec (.peerPackageReset acc) s = .next t ∧ t.host = s.host ∧ acc ∉ t.mig.rebuilding ∧
      (∀ y ∈ t.mig.incoming, y.owner ≠ acc) ∧ (∀ y ∈ t.away, y.acc ≠ acc) ∧
      (∀ m ∈ t.mig.moves, m.home ≠ acc ∧ (m.req.target = acc → m.stage = .committing)) ∧
      ∀ e ∈ t.mig.home, e.state = .moving → e.owner ≠ acc)

/-! ### Tasks between creation and launch, and between packages -/

/-- TASK_ADMISSION, TASK_DISPATCH, GANG_RELEASE, PIPEW_FILL (13_tasks R314, R320, R322, R324): a pooled record that may be
admitted takes the next place of the dependence table; an idle core takes the first task of highest effective priority and
launches or restores it; the binder reserves the free cores of its die and, once it holds them all with the clamp lines,
runs the gang on them; a fill copies the tile into the pipe's slot. That a task waits for its creator's release, and the
strict order of dispatch, are the model's reading (notes/assumptions/35, 37). -/
def Obligations.TaskEventResults : Prop :=
  ∀ s : State, CanonMem s →
    (∀ n t, s.task? n = some t →
      (readyNow t = true → exec (.taskAdmission n) s = .next (wakeTasks s)) ∧
      (readyNow t = false → admissible s t = false → exec (.taskAdmission n) s = .next s) ∧
      (readyNow t = false → admissible s t = true → ∃ (u : State) (x : Task), exec (.taskAdmission n) s = .next u ∧ u.task? n = some x ∧
        x.admitted = some s.admitOrder ∧ u.host = s.host)) ∧
    (∀ core,
      ((s.coreAt core).mode ≠ .idle ∨ (s.coreAt core).reserved = true ∨ (s.coreAt core).offline = true ∨
        bestEntry s core = none → exec (.taskDispatch core) s = .next s) ∧
      ((s.coreAt core).mode = .idle → (s.coreAt core).reserved = false → (s.coreAt core).offline = false →
        ∀ q t, bestEntry s core = some q → s.task? q.task = some t →
          (t.saved ≠ [] → ∃ u : State, exec (.taskDispatch core) s = .next u ∧ SameMemory s u ∧
            (u.coreAt core).mode = .restoring ∧ (u.coreAt core).task = t.id ∧ (u.coreAt core).member = 0 ∧
            ∀ e ∈ (u.coreAt core).runq, e.task ≠ t.id) ∧
          (tokenCame s t core = false → exec (.taskDispatch core) s = .next s) ∧
          (t.saved = [] → tokenCame s t core = true → launchTask t [core] s = .error none →
            exec (.taskDispatch core) s = .next (askLaunch t s)) ∧
          ∀ im v, t.saved = [] → tokenCame s t core = true → imageOfTask s t = .got im → launchTask t [core] s = .ok v →
            ∃ u : State, exec (.taskDispatch core) s = .next u ∧ (u.coreAt core).mode = .running ∧
              (u.coreAt core).task = t.id ∧ (u.coreAt core).ctx.pc = entryOfMember im 0 ∧
              (u.coreAt core).ctx.rseed = t.spec.rseed ∧ (u.coreAt core).ctx.rstep = t.spec.rstep)) ∧
    (∀ die,
      (nextGang s die = none → (s.dieAt die).binding = none → exec (.gangRelease die) s = .next s) ∧
      ∀ t cs, bindingOf s die = some (t, cs) →
        (cs.length + (freeCores s die).length < t.width → ∃ (u : State) (all : List Nat),
          exec (.gangRelease die) s = .next u ∧ SameMemory s u ∧ (u.dieAt die).binding = some (t.id, all) ∧
          all.Perm (cs ++ freeCores s die) ∧ ∀ n ∈ freeCores s die, (u.coreAt n).reserved = true) ∧
        (cs.length = t.width → (linesOf t.spec.lines).length ≤ (freeLines s die).length → t.saved ≠ [] →
          ∃ u : State, exec (.gangRelease die) s = .next u ∧ SameMemory s u ∧ (u.dieAt die).binding = none ∧
            ∀ n ∈ cs, (u.coreAt n).mode = .restoring ∧ (u.coreAt n).task = t.id) ∧
        ∀ v, cs.length = t.width → (linesOf t.spec.lines).length ≤ (freeLines s die).length → t.saved = [] →
          (∀ n ∈ cs, tokenCame s t n = true) →
          launchTask t cs.mergeSort (bindLines t die ((linesOf t.spec.lines).zip (freeLines s die))
            (s.modDie die fun d => { d with binding := some (t.id, cs.mergeSort) })) = .ok v →
          ∃ u : State, exec (.gangRelease die) s = .next u ∧ (u.dieAt die).binding = none ∧
            ∀ n ∈ cs, (u.coreAt n).mode = .running ∧ (u.coreAt n).task = t.id) ∧
    ∀ op o pipe entry h tail, s.op? op = some o → o.kind = .pipew pipe entry h tail →
      (fillPlan s o pipe entry h = none → exec (.pipewFill op) s = .next s) ∧
      ∀ core i f e, fillPlan s o pipe entry h = some (core, i, f, e) → ∃ (u : State) (t : Task) (p : Pipe) (x : PipeSlot),
        exec (.pipewFill op) s = .next u ∧ u.op? op = none ∧ u.host = s.host ∧
        u.bytes (tileByteKey core f 0) (tileBytes e) = s.bytes (tileByteKey o.core e 0) (tileBytes e) ∧
        (u.coreAt core).tiles.get? i = some f ∧ u.task? o.task = some t ∧ t.pipes.get? pipe = some p ∧
        p.slots.find? (fun y => y.handle == h) = some x ∧ x.state = .filled ∧ x.entry = some i

/-- PROXY_BATCH_SEND, TASK_RECORD_BATCH, JOB_CARD_TILE_ARRIVAL, STEAL_REQUEST, STOLEN_RECORD_ARRIVAL, STEAL_ACK,
STEAL_CONFIRM, STEAL_TIMER_EXPIRY, STEAL_CANCEL (13_tasks R328, R329): a batch that is due is sent once; a record that has
room joins the pool and is acknowledged; an acknowledgement ends the wait of the batch; a job card's tile is allocated on the
task's core. A stolen record goes to the thief's die when the victim confirms it before its timer, and is cancelled else. A reset of the thief's die puts the record back in its
queue with its age, also after the ACK, and a reset of the victim's die advances its epoch, after which a record of the old
epoch is neither taken nor confirmed. That the resets come with STEAL_TIMER_EXPIRY, how a batch and its acknowledgement go,
and the ids of foreign tasks are the model's choices (notes/assumptions/21, 38, 71). -/
def Obligations.RecordEventResults : Prop :=
  ∀ (s : State) (src n thief epoch : Nat) (t : Task),
    (s.batches.find? (fun b => b.acc == src) = none → exec (.proxyBatchSend src) s = .next s) ∧
    (∀ b, s.batches.find? (fun b => b.acc == src) = some b → batchDue s b = false →
      exec (.proxyBatchSend src) s = .next s) ∧
    (∀ b, s.batches.find? (fun b => b.acc == src) = some b → batchDue s b = true → (∀ x ∈ b.tasks, x.mode = 0) →
      ∃ u : State, exec (.proxyBatchSend src) s = .next (u.send src (.taskRecordBatch s.accid
        (b.tasks.map fun (x : SentTask) => { x with tiles := 0 }))) ∧ SameMemory s u ∧ u.tasks = s.tasks ∧
        u.batches = s.batches.map fun c => if c = b then { c with sent := true } else c) ∧
    (∀ xs : List SentTask, (∀ x ∈ xs, x.bytes = [] ∧ x.ended = none) → ∃ u : State, exec (.taskRecordBatch src xs) s = .next u ∧
      ∀ b ∈ u.batches, b.acc = src → b.sent = false ∧ b.tasks ≠ []) ∧
    (∀ (x : SentTask) r c, x.bytes ≠ [] → s.task? (foreignId src x.id) = none → parseRecord x.bytes = .ok r →
      s.context? x.asid = some c → poolFree s (if r.die < 4 then r.die else 0) ≠ 0 → ∃ (u : State) (y : Task),
        exec (.taskRecordBatch src [x]) s = .next (u.send src (.taskRecordBatch s.accid [{ x with
          tiles := 0, bytes := [], ended := none }])) ∧
        SameMemory s u ∧ u.tasks = s.tasks ++ [y] ∧ y.id = foreignId src x.id ∧ y.state = .pooled ∧ y.origin = .remote src x.parent ∧
        y.order = s.poolOrder ∧ y.tilesDue = x.tiles) ∧
    (∀ (x : SentTask) xs r, x.bytes ≠ [] → s.task? (foreignId src x.id) = none → parseRecord x.bytes = .ok r →
      poolFree s (if r.die < 4 then r.die else 0) = 0 →
      exec (.taskRecordBatch src (x :: xs)) s = .next (s.send src (.taskRecordBatch s.accid []))) ∧
    (∀ x : SentTile, (s.task? (foreignId src n) = none → exec (.jobCardTileArrival src n x) s = .next s) ∧
      (s.task? (foreignId src n) = some t →
        (boundCore t = none → exec (.jobCardTileArrival src n x) s = .next (s.retry (.jobCardTileArrival src n x))) ∧
        (t.admitted = none → exec (.jobCardTileArrival src n x) s = .next (s.retry (.jobCardTileArrival src n x))) ∧
        ∀ core i e, boundCore t = some core → t.admitted.isSome = true →
          handleInUse s (admittedBefore t) t.id core x.handle = false →
          (s.coreAt core).handles.get? x.handle = none →
          planTile s core x.handle x.rows x.cols x.ty .tile x.exp = some (i, e) → ∃ (u : State) (f : TileEntry),
            exec (.jobCardTileArrival src n x) s = .next u ∧ (u.coreAt core).handles.get? x.handle = some i ∧
            (u.coreAt core).tiles.get? i = some f ∧ f.rows = x.rows ∧ f.cols = x.cols)) ∧
    (wantsSteal s thief = false → exec (.stealRequest thief) s = .next s) ∧
    (∀ v core q t0, wantsSteal s thief = true → victimDie s thief = some v → stealTarget s v = some (core, q) →
      s.task? q.task = some t0 → ∃ (u : State) (y : Task) (x : Transit), exec (.stealRequest thief) s =
        .next (u.send s.accid (.stolenRecordArrival q.task thief (s.dieAt v).epoch)) ∧ SameMemory s u ∧
        u.cores = s.cores ∧ u.task? q.task = some y ∧ y.transit = some x ∧ x.core = core ∧ x.thief = thief ∧
        x.timerU = s.timeU + 8 * microU) ∧
    (s.task? n = some t →
      (t.transit = none → exec (.stealAck n thief) s = .next (s.send s.accid (.stealCancel n thief))) ∧
      (∀ x, t.transit = some x →
        ((s.dieAt (dieOf x.core)).epoch = epoch → ∃ u : State, exec (.stolenRecordArrival n thief epoch) s =
          .next (u.send s.accid (.stealAck n thief)) ∧ SameMemory s u ∧ u.tasks = s.tasks ∧
          (u.dieAt thief).stolen = (s.dieAt thief).stolen ++ [n]) ∧
        ((s.dieAt (dieOf x.core)).epoch ≠ epoch → ∃ u : State, exec (.stolenRecordArrival n thief epoch) s = .next u ∧
          u.dies = s.dies ∧ u.tasks = s.tasks) ∧
        (x.thief = thief → t.state = .queued x.core → (s.dieAt (dieOf x.core)).epoch = x.epoch →
          ∃ (v u : State) (y : Task), exec (.stealAck n thief) s = .next u ∧
          u = queueReady (v.send s.accid (.stealConfirm n thief)) ∧ u.task? n = some y ∧ y.state = .stealing ∧
          ∀ q ∈ (u.coreAt x.core).runq, q.task ≠ n) ∧
        (x.thief ≠ thief ∨ t.state ≠ .queued x.core ∨ (s.dieAt (dieOf x.core)).epoch ≠ x.epoch →
          exec (.stealAck n thief) s = .next (s.send s.accid (.stealCancel n thief))) ∧
        (x.timerU ≤ s.timeU → t.state = .queued x.core → ∃ (u : State) (y : Task),
          exec (.stealTimerExpiry (.timer n)) s = .next u ∧ u.cores = s.cores ∧ u.task? n = some y ∧ y.transit = none) ∧
        (s.timeU < x.timerU ∨ t.state ≠ .queued x.core → exec (.stealTimerExpiry (.timer n)) s = .next s) ∧
        (∃ (u : State) (y : Task), exec (.stealTimerExpiry (.thiefReset n)) s = .next u ∧ u.task? n = some y ∧
          y.transit = none ∧ n ∉ (u.dieAt x.thief).stolen ∧ (t.state ≠ .stealing → u.cores = s.cores) ∧
          (t.state = .stealing → (s.coreAt x.core).runq.length < 64 → y.state = .queued x.core ∧
            ∃ q ∈ (u.coreAt x.core).runq, q.task = n ∧ q.since = x.since)) ∧
        ∃ (u : State) (y : Task), exec (.stealTimerExpiry (.victimReset n)) s = .next u ∧
          (u.dieAt (dieOf x.core)).epoch = (s.dieAt (dieOf x.core)).epoch + 1 ∧ u.task? n = some y ∧
          (t.state ≠ .stealing → u.tasks = s.tasks ∧ u.cores = s.cores) ∧
          (t.state = .stealing → (s.coreAt x.core).runq.length < 64 → y.transit = none ∧ y.state = .queued x.core ∧
            ∃ q ∈ (u.coreAt x.core).runq, q.task = n ∧ q.since = x.since)) ∧
      (t.state = .stealing → (t.transit.map Transit.thief) = some thief → ∃ (u : State) (y : Task), exec (.stealConfirm n thief) s = .next u ∧ u.task? n = some y ∧
        y.runDie = thief ∧ y.transit = none ∧ n ∉ (u.dieAt thief).stolen)) ∧
    ∃ u : State, exec (.stealCancel n thief) s = .next u ∧ n ∉ (u.dieAt thief).stolen ∧ u.tasks = s.tasks ∧
      u.cores = s.cores

/-! ### Revisions, graphs and rings -/

/-- SNAPSHOT_ESTABLISH, COW_COPY_COMPLETE, CHILD_MERGE, GRANULE_MERGE_COMPLETE (14_revisions R337, R339, R342–R345, R347): a
fork whose creator's release has completed gets its snapshot; a copy's operation ends; a merge-ready child that wrote nothing
is merged at once, each granule that it wrote takes 96 cycles, and a merge that the pool or a denial stops records why; a
granule's elements, of the base view or of a parent view's own copy, then hold what Table 14-2 gives, and FLAG conflicts are
marked in the conflict map and counted. That the snapshot waits for its creator's release as tokenReady says, that an error
in what a merge reads leaves poison, that the map is written as the merge engine, and what a denied merge does are the
model's choices (notes/assumptions/31, 35, 37, 73). -/
def Obligations.RevisionEventResults : Prop :=
  (∀ (s : State) (rev : Nat) (r : Rev), CanonMem s → s.revs.get? rev = some r →
    let ready : Prop := r.state = .forking ∧ ((s.task? r.owner).map (tokenReady s .pkg)).getD true = true
    (ready → ∃ u : State, exec (.snapshotEstablish rev) s = .next u ∧ SameMemory s u ∧
      u.revs.get? rev = some { r with state := .live }) ∧
    (¬ ready → exec (.snapshotEstablish rev) s = .next s) ∧
    (mergeReady s rev r = false ∨ r.stuck ≠ none → exec (.childMerge rev) s = .next s) ∧
    (mergeReady s rev r = true → r.stuck = none → r.todo = none → mergingRev s rev = false →
      (writtenGranules s rev = [] → ∃ (u : State) (x : Rev), exec (.childMerge rev) s = .next u ∧ u.revs.get? rev = some x ∧
        x.state = .merged r.conflicts) ∧
      ∀ g, writtenGranules s rev = [g] →
        (∀ code, mergeFail s r g = some code → ∃ (u : State) (x : Rev), exec (.childMerge rev) s = .next u ∧
          u.revs.get? rev = some x ∧ x.stuck = some code ∧ x.todo = some [g] ∧ SameMemory s u) ∧
        (mergeFail s r g = none → granBusy s (g * 4096) 4096 = false → ∃ (u : State) (o : Op),
          exec (.childMerge rev) s = .next u ∧ o ∈ u.ops ∧ o.kind = .merge ⟨rev, g⟩ ∧ o.due = s.cyc + 96)) ∧
    ∀ g, unitAllowed s g true = true → (copiesNeeded s r.parent g ≠ [] → unitAllowed s g false = true) →
      mergeFail s r g = if poolHas s (copiesNeeded s r.parent g).length then none else some .revisionPool) ∧
  (∀ (s : State) (op : Nat) (o : Op), CanonMem s → s.op? op = some o →
    (∀ g, o.kind = .cow g → s.mig.stalled = [] → ∃ u : State, exec (.cowCopyComplete op) s = .next u ∧ u.op? op = none ∧ SameMemory s u ∧
      u.cores = s.cores ∧ u.revs = s.revs) ∧
    ∀ m r asid x, o.kind = .merge m → s.mig.stalled = [] → s.revs.get? m.rev = some r → regionOf s m.gran = some (asid, x) →
      x.merge < 8 → x.width ∈ [8, 16, 32, 64] → (m.gran + 1) * 4096 ≤ lpddrBytes → r.parent ≠ m.rev →
      copiesNeeded s r.parent m.gran = [] → (s.copies.map GranCopy.id).Nodup → ∀ k, ancestorCopy s m.rev m.gran = some k →
      let w := x.width / 8
      let e (i : Nat) := mergeElem x (leNat (s.viewBytes r.parent (m.gran * 4096 + i * w) w))
        (leNat (s.viewBytes m.rev (m.gran * 4096 + i * w) w)) (leNat (s.bytes (poolKey k.id (i * w)) w))
      let at_ := writeKey s r.parent (m.gran * 4096)
      ∃ t u : State, exec (.granuleMergeComplete op) s = .next u ∧ u.op? op = none ∧
        (∀ i, i < 4096 / w → leNat (t.bytes (at_ + i * w) w) = (e i).1) ∧
        (∀ a, a < at_ ∨ at_ + 4096 ≤ a → t.bytes a 1 = s.bytes a 1) ∧ t.ctxs = s.ctxs ∧
        (x.merge ≠ 7 → ∀ i, i < 4096 / w → leNat (u.bytes (at_ + i * w) w) = (e i).1) ∧
        let y := setConflicts (dieMaster (m.gran % 96 / 24)) asid x ((granuleVa x m.gran - x.base) * 8 / x.width)
          ((List.range (4096 / w)).map e) (t, 0)
        (∀ a, a < lpddrBytes → u.bytes a 1 = y.1.bytes a 1) ∧
        ∃ z : Rev, u.revs.get? m.rev = some z ∧
          if r.todo = some [] ∧ mergingRev (s.dropOp op) m.rev = false then z.state = .merged (r.conflicts + y.2)
          else z = { r with conflicts := r.conflicts + y.2 }) ∧
  (∀ (t : State) (master asid : Nat) (x : Region) (n v k : Nat) (c f : Bool) (es : List (Nat × Bool × Bool)),
    let next (q : State × Nat) := setConflicts master asid x n ((v, c, f) :: es) (t, k) = setConflicts master asid x (n + 1) es q
    setConflicts master asid x n [] (t, k) = (t, k) ∧
    (f = false → next (t, k)) ∧
    (f = true → ∀ b, readVa t master asid (x.cmap + n / 8) 1 = some [b] →
      let mark := [b ||| (1#8 <<< (n % 8))]
      (∀ u, writeVa t master asid (x.cmap + n / 8) mark = some u → next (u, if b.getLsbD (n % 8) then k else k + 1)) ∧
      ∀ a, CanonMem t → masterRuns t master asid (x.cmap + n / 8) 1 false true = .ok [⟨.here a, 1⟩] →
        reach true t [⟨.here a, 1⟩] = some [⟨.here a, 1⟩] → copiesNeeded t 0 (a / 4096) = [] → ∃ u : State,
          writeVa t master asid (x.cmap + n / 8) mark = some u ∧ u.bytes (writeKey t 0 a) 1 = mark ∧
          ∀ j, j ≠ writeKey t 0 a → u.bytes j 1 = t.bytes j 1)) ∧
  ∀ (x : Region) (p c a : Nat), p < 2 ^ x.width → c < 2 ^ x.width → a < 2 ^ x.width → 0 < x.width →
    let v (n : Nat) : Int := if x.signed ∧ 2 ^ (x.width - 1) ≤ n then (n : Int) - 2 ^ x.width else n
    let e := mergeElem x p c a
    (x.merge = 0 → e = (if c = a then p else c, false, false)) ∧
    (x.merge = 1 → e = (if p = a then c else p, false, false)) ∧
    (x.merge = 2 → (e.1 : Int) = ((p : Int) + c - a) % 2 ^ x.width) ∧
    (x.merge = 3 → x.signed = false → (e.1 : Int) = max 0 (min (2 ^ x.width - 1) ((p : Int) + (c - a))) ∧
      (e.2.1 = true ↔ (p : Int) + (c - a) < 0 ∨ (2 ^ x.width : Int) ≤ (p : Int) + (c - a))) ∧
    (x.merge = 3 → x.signed = true →
      v e.1 = max (-2 ^ (x.width - 1)) (min (2 ^ (x.width - 1) - 1) (v p + (v c - v a))) ∧
      (e.2.1 = true ↔ v p + (v c - v a) < -2 ^ (x.width - 1) ∨ (2 ^ (x.width - 1) : Int) ≤ v p + (v c - v a))) ∧
    (x.merge = 4 → v e.1 = max (v p) (v c)) ∧
    (x.merge = 5 → v e.1 = min (v p) (v c)) ∧
    (x.merge = 6 → ∀ i, e.1.testBit i = if c.testBit i = a.testBit i then p.testBit i else c.testBit i) ∧
    (x.merge = 7 → e = if p ≠ a ∧ c ≠ a ∧ p ≠ c then (p, false, true) else (if c = a then p else c, false, false))

/-- CGLD_COMPLETE, WORK_RING_POLL, RUN_ARM, RUN_COMPLETE, COLLECTIVE_TIMEOUT, EARLY_CHUNK_TIMEOUT (15_fabric R368–R371,
R374): a load fills its graph slot, a clear empties it, and a slot in use is refused; the entry at TAIL becomes current; a
triggered run is armed with the next SEQ and the ops' counters; a finished one steps RUNS, the bases and, at the last run,
TAIL, and the words TAIL, RUNS and STATUS of the control block in memory with them; a run or a chunk older than the collective
timeout halts its ring, with the code in STATUS. That a run's end waits for earlier stores of its context to the named
buffers, which master an access of the device is, and what a denied one does are the model's choices (notes/assumptions/40,
73). -/
def Obligations.RingEventResults : Prop :=
  (∀ (s : State) (op : Nat) (o : Op) ch clr slot va places, s.op? op = some o →
    o.kind = .cgld ch clr slot va places →
    let rs : List Run := places.map fun (_, n, p) => ⟨p, n⟩
    (cgldReady s o ch clr rs = false → exec (.cgldComplete op ()) s = .next s) ∧
    (cgldReady s o ch clr rs = true →
      (slotInUse s o.asid slot = true → ∃ u : State, exec (.cgldComplete op ()) s = .next u ∧ u.op? op = none ∧
        u.ctxs = s.ctxs ∧ SameMemory s u) ∧
      (slotInUse s o.asid slot = false →
        (clr = true → ∃ u : State, exec (.cgldComplete op ()) s = .next u ∧ u.op? op = none ∧
          slotOf u o.asid slot = none) ∧
        (∀ k ps, clr = false → loadGraph s o slot va rs = .asks k ps →
          exec (.cgldComplete op ()) s = .next (startParts o (.op o.id) k ps s)) ∧
        ∀ g c res, clr = false → s.context? o.asid = some c → loadGraph s o slot va rs = .ends res (.ok g) → ∃ u : State,
          exec (.cgldComplete op ()) s = .next u ∧ u.op? op = none ∧ slotOf u o.asid slot = some g ∧ SameMemory s u))) ∧
  ∀ (s : State) (asid ring : Nat),
    let bare (t : State) : Option Context := (t.context? asid).map fun c => { c with rings := [], slots := [] }
    let like (a b : State) : Prop := SameMemory a b ∧ { b.sys with ras := a.sys.ras } = a.sys ∧ b.mig = a.mig ∧ bare b = bare a
    let memOf (u v : State) : Prop := ∀ k, Memory.get u.mem k = Memory.get v.mem k
    let halts (i : Instr) (code : FaultCode) : Prop := ∃ (t u : State) (r w : WorkRing), exec i s = .next u ∧
      ringOf s asid ring = some r ∧ ringOf u asid ring = some w ∧ w.halted ∧ like s t ∧
      let old := (controlWord s asid r 0x18).getD 0
      memOf u (putControl asid r 0x18 (faultNumber code + 2 ^ 8 + if old.testBit 9 then 2 ^ 9 else 0) t)
    (∀ (t : State) (w : WorkRing) (off v q : Nat), CanonMem t → v < 2 ^ 64 →
      masterRuns t pairMaster asid (w.control + off) 8 false true = .ok [⟨.here q, 8⟩] →
      reach true t [⟨.here q, 8⟩] = some [⟨.here q, 8⟩] → (∀ g ∈ granules4k q 8, copiesNeeded t 0 g = []) →
      (∀ i, i < 8 → writeKey t 0 (q + i) = q + i) →
      leNat ((putControl asid w off v t).bytes q 8) = v ∧
      ∀ k, k < q ∨ q + 8 ≤ k → Memory.get (putControl asid w off v t).mem k = Memory.get t.mem k) ∧
    (ringOf s asid ring = none → exec (.workRingPoll asid ring) s = .next s) ∧
    (∀ w, ringOf s asid ring = some w →
      let t := modRing asid ring (fun x => { x with
        lastPollU := x.lastPollU + (s.timeU - x.lastPollU) / pollU * pollU }) s
      (w.halted = true → exec (.workRingPoll asid ring) s = .next s) ∧
      (w.halted = false → ∀ head, controlWord t asid w 0 = some head →
        (head < w.tail ∨ w.tail + w.size < head → halts (.workRingPoll asid ring) .illegalOperand) ∧
        (head = w.tail → exec (.workRingPoll asid ring) s = .next t) ∧
        ∀ b e, w.tail < head → head ≤ w.tail + w.size → w.current = none →
          readVa t pairMaster asid (w.base + 64 * (w.tail % w.size)) 64 = some b → parseRingEntry b = some e →
          (slotOf s asid e.slot).isSome → ∃ (u : State) (x : WorkRing), exec (.workRingPoll asid ring) s = .next u ∧
            SameMemory s u ∧ ringOf u asid ring = some x ∧ x.current = some e ∧ x.halted = false) ∧
      ∀ e r, w.current = some e → e.run = some r →
        let before := participantBefore s asid r.armedAt (r.bases.map Prod.snd).flatten
        (∀ g, slotOf s asid e.slot = some g → r.doneOps.length ≠ g.ops.length ∨ before = true →
          exec (.runComplete asid ring) s = .next s) ∧
        (∀ g, slotOf s asid e.slot = some g → r.doneOps.length = g.ops.length → before = false →
          ∃ (u : State) (x : WorkRing), exec (.runComplete asid ring) s = .next u ∧ ringOf u asid ring = some x ∧
          (let old := (controlWord s asid w 0x18).getD 0
           ∃ t v : State, like (if r.sat then putControl asid w 0x18 (old + if old.testBit 9 then 0 else 2 ^ 9) s else s) t ∧
            like (putControl asid w 0x10 (w.runs + 1) t) v ∧
            memOf u (if e.j + 1 = e.runs then putControl asid w 8 (w.tail + 1) v else v)) ∧
          x.runs = w.runs + 1 ∧
          (e.j + 1 = e.runs → x.tail = w.tail + 1 ∧ x.current = none) ∧
          (e.j + 1 ≠ e.runs → x.tail = w.tail ∧ x.current = some { e with
            j := e.j + 1, bases := e.bases.map (fun b => (b + e.stride) % 2 ^ 64), run := none })) ∧
        (s.timeU < r.armedU + collTimeout s asid → exec (.collectiveTimeout asid ring) s = .next s) ∧
        (r.armedU + collTimeout s asid ≤ s.timeU → halts (.collectiveTimeout asid ring) .collTimeout)) ∧
    (armable s asid ring = none → exec (.runArm asid ring) s = .next s) ∧
    (∀ e g, armable s asid ring = some (e, g) →
      let t := modSlots asid (fun m => m.set e.slot { g with seq := (g.seq + 1) % 2 ^ 16 }) s
      (∀ bases, runBases t asid e g.ops.zipIdx = .ok bases → ∃ (u : State) (x : WorkRing) (f : RingEntry) (r : RunState),
        exec (.runArm asid ring) s = .next u ∧ SameMemory s u ∧ ringOf u asid ring = some x ∧ x.current = some f ∧
        f.run = some r ∧ r.bases = bases ∧ r.counters = g.ops.map ChunkOp.waits ∧ r.doneOps = [] ∧
        r.seq = (g.seq + 1) % 2 ^ 16 ∧ r.armedU = s.timeU) ∧
      ∀ code, runBases t asid e g.ops.zipIdx = .error code → halts (.runArm asid ring) code) ∧
    ∀ station i,
      ((s.stationAt station).early[i]? = none → exec (.earlyChunkTimeout station i) s = .next s) ∧
      ∀ e, (s.stationAt station).early[i]? = some e →
        (s.timeU < e.sinceU + collTimeout s e.chunk.asid ∨ chunkIsReady s e.chunk = true → exec (.earlyChunkTimeout station i) s = .next s) ∧
        (e.sinceU + collTimeout s e.chunk.asid ≤ s.timeU → chunkIsReady s e.chunk = false →
          (ringNaming s e.chunk.asid e.chunk.slot = none → ∃ u : State, exec (.earlyChunkTimeout station i) s = .next u ∧
            SameMemory s u ∧ (u.stationAt station).early = (s.stationAt station).early.eraseIdx i) ∧
          (e.chunk.asid = asid → ringNaming s asid e.chunk.slot = some ring → halts (.earlyChunkTimeout station i) .collTimeout))

/-- CHUNK_OP_RUN, CHUNK_OP_COMPLETE, CHUNK_RECEIVE, FLIT_RECEIVE, CREDIT_TOKEN, STATION_LINK_FAILURE (15_fabric R357, R358,
R361, R364, R373): the first runnable op of a station starts when its sequencer is free; a LOAD fills staging, a STORE
empties it, a RECV or FWD takes its chunk, and an ADDS adds it element by element; an op that its memory, or poison in an ADDS,
fails halts its ring; an early chunk is held; a token returns one credit; a plane that fails is down. The figure at which an op
ends, that poison halts an ADDS, and what becomes of a packet that the link loses are the model's choices
(notes/assumptions/8, 40, 75, 82). -/
def Obligations.StationEventResults : Prop :=
  (∀ (s : State) (asid slot i : Nat), CanonMem s →
    (runOp s asid slot i = none → exec (.chunkOpRun asid slot i) s = .next s) ∧
    ∀ ring r o, runOp s asid slot i = some (ring, r, o) →
      let free : Prop := nextOpAt s o.station = some (asid, slot, i) ∧ sequencerBusy s o.station = false
      (¬ free → exec (.chunkOpRun asid slot i) s = .next s) ∧
      (free → (o.takes = true → ∀ e, chunkFor s asid slot r.seq o = some e → e.chunk.data.length = o.len) →
        ∃ (u : State) (x : Op), exec (.chunkOpRun asid slot i) s = .next u ∧ SameMemory s u ∧ u.ops = s.ops ++ [x] ∧
          x.kind = .chunk asid slot i ∧
          x.due = s.cyc + (o.len * s.sys.clock / 250 + if o.op = 0 ∨ o.op = 5 then 10 * s.sys.clock else 0))) ∧
  (∀ (s : State) (op : Nat) (p : Op) (asid slot i : Nat), CanonMem s → s.op? op = some p →
    p.kind = .chunk asid slot i →
    (runOp s asid slot i = none → exec (.chunkOpComplete op ()) s = .next (s.dropOp op)) ∧
    ∀ ring r o, runOp s asid slot i = some (ring, r, o) →
      let key := opStage s asid slot o
      (flitsHeld s op o.station = true ∨ memBusy s p r i o = true → exec (.chunkOpComplete op ()) s = .next s) ∧
      (flitsHeld s op o.station = false → memBusy s p r i o = false →
        let halts : Prop := ∃ (u : State) (w : WorkRing), exec (.chunkOpComplete op ()) s = .next u ∧
          ringOf u asid ring = some w ∧ w.halted
        (∀ code, o.op = 0 → chunkFault s o.station true ((reach false s (FMap.getD r.bases i [])).getD []) = some code →
          halts) ∧
        (∀ e, o.op = 3 → chunkFor s asid slot r.seq o = some e →
          readFault s.sys key o.len ≠ none ∨ e.chunk.bad ≠ [] → halts) ∧
        (o.op = 1 → ∃ u : State, exec (.chunkOpComplete op ()) s = .next u ∧ u.op? op = none ∧ SameMemory s u) ∧
        (∀ e, o.op = 2 ∨ o.op = 4 → chunkFor s asid slot r.seq o = some e → ∃ u : State,
          exec (.chunkOpComplete op ()) s = .next u ∧ u.op? op = none ∧ u.host = s.host ∧
          u.bytes key e.chunk.data.length = e.chunk.data) ∧
        (∀ e, o.op = 3 → chunkFor s asid slot r.seq o = some e → readFault s.sys key o.len = none → e.chunk.bad = [] → ∃ u : State,
          exec (.chunkOpComplete op ()) s = .next u ∧ u.op? op = none ∧ u.host = s.host ∧ ∀ j, j < o.len / o.elem →
            let w := 8 * o.elem
            let a := signedOf w (leNat (s.bytes (key + j * o.elem) o.elem))
            let b := signedOf w (leNat ((e.chunk.data.drop (j * o.elem)).take o.elem))
            leNat (u.bytes (key + j * o.elem) o.elem) = codeOf w (
              if o.fn = 0 then max (-(2 ^ (w - 1))) (min (2 ^ (w - 1) - 1) (a + b)) else if o.fn = 1 then a + b
              else if o.fn = 2 then max a b else min a b)) ∧
        ∀ k, FMap.getD r.bases i [] = [⟨.here k, o.len⟩] → s.copies = [] → s.revs = [] →
          (o.op = 0 → reach false s [⟨.here k, o.len⟩] = some [⟨.here k, o.len⟩] →
            chunkFault s o.station true [⟨.here k, o.len⟩] = none → ∃ u : State,
            exec (.chunkOpComplete op ()) s = .next u ∧ u.op? op = none ∧ u.host = s.host ∧
            u.bytes key o.len = s.bytes k o.len) ∧
          (o.op = 5 → p.view = 0 → reach true s [⟨.here k, o.len⟩] = some [⟨.here k, o.len⟩] →
            s.ops.any (isPartOf (.op op) 1) = false → hardFault s 0 [⟨.here key, o.len⟩] = none →
            chunkFault s o.station false [⟨.here k, o.len⟩] = none → ∃ u : State,
            exec (.chunkOpComplete op ()) s = .next u ∧ u.op? op = none ∧ u.host = s.host ∧
            u.bytes k o.len = s.bytes key o.len))) ∧
  (∀ (s : State) (c : Chunk), CanonMem s → (staleChunk s c = true → exec (.chunkReceive c) s = .next s) ∧
    (staleChunk s c = false → ∃ u : State, exec (.chunkReceive c) s = .next u ∧ SameMemory s u ∧
      (u.stationAt c.station).early = (s.stationAt c.station).early ++ [⟨c, s.timeU⟩])) ∧
  ∀ (s : State) (n peer : Nat) (ch : Channel) (reserved : Bool), CanonMem s →
    let keeps : Prop := (ch = .chk ∧ earlyFull s n peer = true) ∨ (ch = .req ∧ queueFull s = true)
    (¬ keeps → exec (.flitReceive n peer ch { reserved := reserved }) s =
      .next (s.send peer (.creditToken n s.accid ch reserved))) ∧
    (keeps → ∃ u : State, exec (.flitReceive n peer ch { reserved := reserved }) s = .next u ∧
      (u.stationAt n).owed = (s.stationAt n).owed ++ [(peer, ch, reserved)] ∧ u.outbox = s.outbox) ∧
    (∀ t r, exec (.flitReceive n peer ch { reserved := reserved }) s = .next t →
      exec (.flitReceive n peer ch { reserved := reserved, failed := some r }) s = .next (discardPacket n peer r t) ∧
      (∀ m, exec (.flitReceive n peer ch { reserved := reserved, lost := some m }) s =
        .next (t.sendOn n .rsp 1 none peer (.requestRefused m (.packet n ch)))) ∧
      ∀ k, k ≠ 0 → exec (.flitReceive n peer ch { reserved := reserved, retries := k }) s =
        .next { t with sys := t.sys.count 5 k }) ∧
    (∀ old, old = (s.stationAt n).credit.getD peer {} → (s.stationAt n).held = [] → ∃ (u : State) (c : Credit),
        exec (.creditToken n peer ch reserved) s = .next u ∧ SameMemory s u ∧ (u.stationAt n).credit.get? peer = some c ∧
        (reserved = false → c.shared = min 512 (old.shared + 1) ∧ c.req = old.req ∧ c.rsp = old.rsp ∧ c.chk = old.chk) ∧
        (reserved = true → c.shared = old.shared ∧ c.req = (if ch = .req then min 4 (old.req + 1) else old.req) ∧
          c.rsp = (if ch = .rsp then min 4 (old.rsp + 1) else old.rsp) ∧
          c.chk = if ch = .chk then min 4 (old.chk + 1) else old.chk)) ∧
    ∃ u : State, exec (.stationLinkFailure n) s = .next u ∧ SameMemory s u ∧ (u.stationAt n).down = true ∧
      (u.stationAt n).held = ((s.stationAt n).held.filter fun h => h.op.isSome) ∧ u.sys.ras.getD 6 0 = min (2 ^ 32 - 1) (s.sys.ras.getD 6 0 + 1)

/-! ### The front end -/

/-- LAUNCH, WAIT_PACKET, SIGNAL_PACKET, COPY_PACKET, PUBLISH_PACKET, PACKET_COMPLETE, PUBLISH_ACKNOWLEDGE (16_front_end
R379–R382, R384, R386; 13_tasks R326): the next packet of a mapped queue starts as its kind says; one that cannot be read
halts the queue. A finished packet leaves its completion record and its interrupt; a SIGNAL or COPY to host memory writes
it; an acknowledged publication is counted, and what fails its add is told to its bundle, or its packet, whose queue halts. The
order of these writes and the fields that a record leaves open are the model's choices (notes/assumptions/41). -/
def Obligations.PacketEventResults : Prop :=
  (∀ (s : State) (qid : Nat), CanonMem s →
    let rows : List Instr := [.launch qid (), .waitPacket qid (), .signalPacket qid (), .copyPacket qid (), .publishPacket qid ()]
    let came (f : Fetched) : Prop := f.asks = [] ∧ f.waits = false ∧ f.fail = none
    (s.queues.get? qid = none → ∀ i ∈ rows, exec i s = .next s) ∧
    (∀ q, s.queues.get? qid = some q → mayStartPacket s qid q = false → ∀ i ∈ rows, exec i s = .next s) ∧
    ∀ q f, s.queues.get? qid = some q → mayStartPacket s qid q = true → nextBytes s qid q = f →
      let halts (i : Instr) (code : FaultCode) : Prop := ∃ u : State, exec i s = .next u ∧ SameButService q.asid s u ∧
        u.queues.get? qid = some { q with state := .halted, status := some code }
      let p := packetOf (f.data.map Prod.fst)
      (f.asks ≠ [] → ∀ i ∈ rows, exec i s = .next (startParts (engineOp s q.asid) (.start qid) 0 f.asks s)) ∧
      (f.asks = [] → f.waits = true → ∀ i ∈ rows, exec i s = .next s) ∧
      (f.asks = [] → f.waits = false → ∀ code, f.fail = some code → ∀ i ∈ rows, halts i code) ∧
      (came f → packetTurn q p = false → ∀ i ∈ rows, exec i s = .next s) ∧
      (came f → packetTurn q p = true →
      let begins (u : State) (k : PktKind) (task : Nat) (fin : Bool) : Prop := ∃ x : Op,
        u.ops = (endParts (.start qid) s).ops ++ [x] ∧ x.id = s.nextOp ∧
        x.kind = .packet { qid := qid, index := q.started, tag := p.tag, irq := abits p.flags 1 1 == 1, kindCode := p.kind
                           kind := k, status := none, faultRec := 0, taskId := task, finished := fin }
      let after : Queue := { q with started := q.started + 1, inflight := q.inflight ++ [q.started] }
      (p.kind = 0 ∨ 5 < p.kind → halts (.launch qid ()) .illegalOperand) ∧
      (p.kind = 1 → packetOk p 8 = true → ∀ g r, fetchAddr s pairMaster (.start qid) 1 q.asid (p.word 0) 256 64 = g → came g →
        launchRecord s q.asid (g.data.map Prod.fst) = some r →
        (poolFree s 0 = 0 → exec (.launch qid ()) s = .next s) ∧
        (poolFree s 0 ≠ 0 → isAway s r = false → ∃ (u : State) (t : Task), exec (.launch qid ()) s = .next u ∧
          SameMemory s u ∧ u.tasks = s.tasks ++ [t] ∧ t.asid = q.asid ∧ t.depth = 0 ∧ t.view = 0 ∧ t.homeDie = 0 ∧
          t.origin = .packet qid q.started ∧ t.spec = r ∧ t.state = .pooled ∧ begins u (.launch t.id) t.id false ∧
          u.queues.get? qid = some after)) ∧
      (p.kind = 2 → packetOk p 16 = true → ∀ g b, fetchAddr s pairMaster (.start qid) 1 q.asid (p.word 0) 8 8 = g → came g →
        waitTrue (g.data.map Prod.fst) (p.word 8) = b → ∃ u : State,
        exec (.waitPacket qid ()) s = .next u ∧ SameMemory s u ∧ begins u .wait 0 b ∧ u.queues.get? qid = some
          (if b then after else { after with state := .parked, waddr := p.word 0, wval := p.word 8 })) ∧
      (p.kind = 3 → packetOk p 17 = true → (p.word 0).toNat % 8 = 0 → fieldAt p.body 16 1 ≤ 1 → ∀ x,
        pktSide s q.asid (p.word 0) 8 8 (fieldAt p.body 16 1 == 1) true = .ok x → ∃ u : State,
          exec (.signalPacket qid ()) s = .next u ∧ SameMemory s u ∧ u.queues.get? qid = some after ∧
          begins u (.signal x (fieldAt p.body 16 1 == 1) false (p.word 8)) 0 false) ∧
      (p.kind = 4 → packetOk p 24 = true → (p.word 16).toNat ≠ 0 → (p.word 16).toNat ≤ 2 ^ 32 → ∀ x y,
        pktSide s q.asid (p.word 0) (p.word 16).toNat 1 false true = .ok x →
        pktSide s q.asid (p.word 8) (p.word 16).toNat 1 true false = .ok y → ∃ u : State,
          exec (.copyPacket qid ()) s = .next u ∧ SameMemory s u ∧ u.queues.get? qid = some after ∧
          begins u (.copy x y (p.word 16).toNat false) 0 false) ∧
      (p.kind = 5 → packetOk p 0 = true → ∃ u : State, exec (.publishPacket qid ()) s = .next u ∧ SameMemory s u ∧
        u.queues.get? qid = some after ∧
        begins u .publish 0 (((s.context? q.asid).map Context.pubcnt).getD 0 == 0)))) ∧
  ∀ (s : State) (op : Nat) (o : Op), CanonMem s → s.op? op = some o →
    (∀ p, o.kind = .packet p →
      (p.finished = true → ∀ q, s.queues.get? p.qid = some q → p.index ∈ q.inflight →
        recordOnWay s o.id p.qid = true → exec (.packetComplete op ()) s = .next s) ∧
      (p.finished = true → p.noted = true → ∀ q, s.queues.get? p.qid = some q → p.index ∈ q.inflight →
        recordOnWay s o.id p.qid = false → ∀ err,
        (stepAnswers s (.op o.id) 2 = (true, err) → exec (.packetComplete op ()) s = .next s) ∧
        (stepAnswers s (.op o.id) 2 = (false, err) → ∃ (u : State) (x : Queue), exec (.packetComplete op ()) s = .next u ∧
          u.op? op = none ∧ SameButService q.asid s u ∧ u.queues.get? p.qid = some x ∧ x.done = q.done + 1 ∧
          (∀ code, err = some code → x.state = .halted ∧ x.status = some code) ∧
          (err = none → x.state = q.state ∧
            u.msix = if p.irq ∧ q.coal = 0 then s.msix ++ [q.vector] else s.msix))) ∧
      (p.finished = true → p.noted = false → ∀ q a, s.queues.get? p.qid = some q → p.index ∈ q.inflight →
        recordOnWay s o.id p.qid = false →
        pktSide s q.asid (q.cring + BitVec.ofNat 64 (32 * (q.done % 2 ^ q.logSize))) 32 1 false true = .ok (.host a) →
        ∃ (u : State) (x : Queue), exec (.packetComplete op ()) s = .next u ∧ u.op? op = none ∧ u.mem = s.mem ∧
          Memory.getN u.host a 32 = leBytes 4 p.tag ++ leBytes 1 p.kindCode ++
            leBytes 1 ((p.status.map faultNumber).getD 0) ++ leBytes 2 0 ++ leBytes 8 p.index ++
            leBytes 8 p.faultRec.toNat ++ leBytes 4 p.taskId ++ leBytes 4 0 ∧
          (∀ k, k < a ∨ a + 32 ≤ k → Memory.get u.host k = Memory.get s.host k) ∧ u.queues.get? p.qid = some x ∧
          x.done = q.done + 1 ∧ x.inflight = q.inflight.filter (· ≠ p.index) ∧
          u.msix = (if p.irq ∧ q.coal = 0 then s.msix ++ [q.vector] else s.msix) ∧
          (p.irq = true → q.coal ≠ 0 → x.armed = some (q.armed.getD (s.timeU + q.coal * microU)))) ∧
      (p.finished = false → ∀ a add v, p.kind = .signal (.host a) add false v → ∃ (u : State) (x : Op),
        exec (.packetComplete op ()) s = .next u ∧ u.mem = s.mem ∧ u.op? op = some x ∧
        x.kind = .packet { p with finished := true } ∧ Memory.getN u.host a 8 = leBytes 8 (
          if add then (leNat (Memory.getN s.host a 8) + v.toNat) % 2 ^ 64 else v.toNat)) ∧
      (p.finished = false → ∀ x y n, p.kind = .copy x y n true →
        (∀ err, stepAnswers s (.op op) 1 = (true, err) → exec (.packetComplete op ()) s = .next s) ∧
        (∀ err, stepAnswers s (.op op) 1 = (false, err) → exec (.packetComplete op ()) s = .next (endWork o p err s))) ∧
      (p.finished = false → ∀ a b n, p.kind = .copy (.host a) (.host b) n false → ∃ (u : State) (x : Op),
        exec (.packetComplete op ()) s = .next u ∧ u.mem = s.mem ∧ u.op? op = some x ∧
        x.kind = .packet { p with kind := .copy (.host a) (.host b) n true } ∧ Memory.getN u.host a n = Memory.getN s.host b n)) ∧
    let count := pktSide s o.asid (((s.context? o.asid).map Context.pubcnt).getD 0) 8 8 true true
    let added (u : State) (a : Nat) : Prop := u.mem = s.mem ∧
      Memory.getN u.host a 8 = leBytes 8 ((leNat (Memory.getN s.host a 8) + 1) % 2 ^ 64) ∧
      ∀ k, k < a ∨ a + 8 ≤ k → Memory.get u.host k = Memory.get s.host k
    (∀ y, o.kind = .publish y →
      (∀ code, count = .error code → ∃ u : State, exec (.publishAcknowledge op) s = .next u ∧ u.op? op = none ∧
        (u.coreAt o.core).pubDone = some (some code) ∧ SameMemory s u) ∧
      ∀ a, count = .ok (.host a) → hasStep s (.op o.id) 0 = false → ∃ u : State,
        exec (.publishAcknowledge op) s = .next u ∧ u.op? op = none ∧ (u.coreAt o.core).pubDone = some none ∧ added u a) ∧
    ∀ p, o.kind = .packet p → p.kind = .publish → p.finished = false →
      (∀ code q, count = .error code → s.queues.get? p.qid = some q → ∃ (u : State) (x : Op) (y : PktOp),
        exec (.publishAcknowledge op) s = .next u ∧ u.op? op = some x ∧ x.kind = .packet y ∧ y.finished = true ∧
        y.status = p.status.or (some code) ∧ u.queues.get? p.qid = some { q with state := .halted, status := some code }) ∧
      ∀ a, count = .ok (.host a) → hasStep s (.op o.id) 0 = false → ∃ (u : State) (x : Op) (y : PktOp),
        exec (.publishAcknowledge op) s = .next u ∧ u.op? op = some x ∧ x.kind = .packet y ∧ y.finished = true ∧
        y.status = p.status ∧ added u a

/-- KICK, COALESCING_TIMER_EXPIRY, QUEUE_MAP, QUEUE_SLICE_END, QUEUE_AGEING_STEP, SIGNAL_UNIT_POLL, QUEUE_REMOVE_COMPLETE
(16_front_end R383–R386, R412): a kick latches the largest HEAD and makes an idle queue WAITING, and halts one out of range;
a due timer sends its interrupt; the scheduler maps the first queue and unmaps one whose slice has ended; a satisfied WAIT
makes its queue WAITING; a removed queue without packets in flight is gone, and the record of its removal in the admin queue's
completion ring, whose place and INDEX are the model's choices, as is what a removal waits for
(notes/assumptions/29, 42, 72). -/
def Obligations.QueueEventResults : Prop :=
  ∀ (s : State) (qid : Nat) (q : Queue) (head : Word), s.queues.get? qid = some q →
    let bad : Prop := head.toNat < q.started ∨ q.done + 2 ^ q.logSize < head.toNat
    let unmapped (z : Queue) : QState := if z.pending ∨ z.started < z.head then .waiting else .idle
    (∃ (u : State) (x : Queue), exec (.kick qid head) s = .next u ∧ SameMemory s u ∧ u.queues.get? qid = some x ∧
      x.head = max q.head head.toNat ∧ (q.state = .halted → x.state = .halted ∧ x.status = q.status) ∧
      (q.state ≠ .halted → bad → x.state = .halted ∧ x.status = some .illegalOperand) ∧
      (¬ bad → q.state = .idle → x.state = .waiting ∧ x.since = nowNs s ∧ x.pending = true) ∧
      (¬ bad → q.state = .waiting ∨ q.state = .parked → x.state = q.state ∧ x.pending = true) ∧
      (¬ bad → q.state = .mapped → x.state = .mapped ∧ x.pending = q.pending)) ∧
    (∀ t, q.armed = some t →
      (t ≤ s.timeU → ∃ u : State, exec (.coalescingTimerExpiry qid) s = .next u ∧ u.msix = s.msix ++ [q.vector] ∧
        u.queues.get? qid = some { q with armed := none }) ∧
      (s.timeU < t → exec (.coalescingTimerExpiry qid) s = .next s)) ∧
    let v := giveWay q s
    (q.state ≠ .waiting ∨ slotFree s q.asid = true → v = s) ∧
    (nextMapped v ≠ some qid → exec (.queueMap qid) s = .next v) ∧
    (nextMapped v = some qid → ∃ (u : State) (x : Queue), exec (.queueMap qid) s = .next u ∧ SameMemory s u ∧
      u.queues.get? qid = some x ∧ x.state = .mapped ∧ x.pending = false ∧ x.mapAt = nowNs s) ∧
    (sliceEnded s q = false → exec (.queueSliceEnd qid) s = .next s) ∧
    (sliceEnded s q = true → ∃ (u : State) (x : Queue), exec (.queueSliceEnd qid) s = .next u ∧ SameMemory s u ∧
      u.queues.get? qid = some x ∧ x.state = unmapped q) ∧
    (s.queues.find? (fun x => x.2.asid == q.asid && sliceEnded s x.2) = none → exec (.queueAgeingStep qid) s = .next s) ∧
    (∀ n y z, s.queues.find? (fun x => x.2.asid == q.asid && sliceEnded s x.2) = some (n, y) → s.queues.get? n = some z →
      ∃ (u : State) (x : Queue), exec (.queueAgeingStep qid) s = .next u ∧ SameMemory s u ∧ u.queues.get? n = some x ∧
        x.state = unmapped z) ∧
    (q.state ≠ .parked → exec (.signalUnitPoll qid ()) s = .next s) ∧
    (q.state = .parked → ∀ f, fetchAddr s signalMaster (.parked qid) 0 q.asid q.waddr 8 8 = f →
      (f.asks ≠ [] → exec (.signalUnitPoll qid ()) s =
        .next (startParts (engineOp s q.asid) (.parked qid) 0 f.asks s)) ∧
      (f.asks = [] → f.waits = true → exec (.signalUnitPoll qid ()) s = .next s) ∧
      (f.asks = [] → f.waits = false → f.fail = none → waitTrue (f.data.map Prod.fst) q.wval = false →
        exec (.signalUnitPoll qid ()) s = .next (endParts (.parked qid) s)) ∧
      (f.asks = [] → f.waits = false → f.fail = none → waitTrue (f.data.map Prod.fst) q.wval = true →
        ∃ u : State, exec (.signalUnitPoll qid ()) s = .next u ∧
        SameMemory s u ∧ u.queues.get? qid = some { q with state := .waiting, since := nowNs s } ∧
        ∀ o ∈ u.ops, ∀ p, o.kind = .packet p → p.qid = qid → p.kind = .wait → p.finished = true) ∧
      ∀ code, f.asks = [] → f.waits = false → f.fail = some code → ∃ u : State, exec (.signalUnitPoll qid ()) s = .next u ∧
        u.queues.get? qid = some { q with state := .halted, status := some code }) ∧
    (q.removing = none ∨ q.inflight ≠ [] → exec (.queueRemoveComplete qid) s = .next s) ∧
    ∀ n e, q.removing = some n → q.inflight = [] → s.adminCmds.find? (fun c => c.index == n) = some e →
      let p := packetOf (leBytes 64 e.packet.toNat)
      ∃ u : State, exec (.queueRemoveComplete qid) s = .next u ∧ u.queues.get? qid = none ∧
        u.admin = s.admin ++ [⟨p.tag, p.kind, none, n⟩] ∧ u.mem = s.mem ∧ (∀ c ∈ u.adminCmds, c.index ≠ n) ∧
        let a := Config.adminRing.1 + 32 * (s.admin.length % Config.adminRing.2)
        Memory.getN u.host a 32 = leBytes 4 p.tag ++ leBytes 1 p.kind ++ leBytes 3 0 ++ leBytes 8 n ++ leBytes 16 0 ∧
        ∀ k, k < a ∨ a + 32 ≤ k → Memory.get u.host k = Memory.get s.host k

/-! ### Administration and the system -/

/-- CTX_SET, CTX_END, QUEUE_SET, QUEUE_RESET, POOL, TIMING, MIGR_POLICY, PAGE_REPLY (16_front_end R387, R412, R413): an
admin command whose fields are in range has its effect and leaves its completion record in its ring; one outside its range, or
of a reserved KIND, has no effect and completes with ILLEGAL_OPERAND; one whose turn in the admin queue has not come waits. The
place of the ring and the fields that a record leaves open are the model's choices (notes/assumptions/29, 42, 72). -/
def Obligations.AdminCommandResults : Prop :=
  ∀ (s : State) (packet : BitVec 512), s.sys.boot = .ready →
    let p := packetOf (leBytes 64 packet.toNat)
    let f := p.field
    let c := commandOf s packet
    let s0 := takeCommand packet s
    let done (st : Option FaultCode) (u : State) : State :=
      { u with
        admin := u.admin ++ [⟨p.tag, p.kind, st, c.index⟩]
        host := Memory.setN u.host (Config.adminRing.1 + 32 * (u.admin.length % Config.adminRing.2))
          (leBytes 4 p.tag ++ leBytes 1 p.kind ++ leBytes 1 ((st.map faultNumber).getD 0) ++ leBytes 2 0 ++
            leBytes 8 c.index ++ leBytes 8 0 ++ leBytes 4 0 ++ leBytes 4 0)
        msix := if p.irq then u.msix ++ [Config.adminVector] else u.msix }
    let bad : State := done (some .illegalOperand) s0
    let rows := [(0x40, 16, Instr.ctxSet packet), (0x41, 2, .ctxEnd packet), (0x42, 28, .queueSet packet),
      (0x43, 2, .queueReset packet), (0x44, 24, .invalidate packet), (0x45, 1, .pool packet), (0x46, 24, .wring packet),
      (0x47, 24, .pin (.command packet)), (0x48, 24, .pageReply packet), (0x49, 3, .migrPolicy packet),
      (0x4A, 16, .timing packet), (0x4B, 24, .owner (.command packet))]
    ((∀ e ∈ s.adminCmds, e.packet ≠ packet) → c = ⟨s.adminCount, packet, .waiting⟩ ∧
      s0 = { s with adminCount := s.adminCount + 1 }) ∧
    (commandTurn s0 c = true ↔ ∀ e ∈ s0.adminCmds, c.index ≤ e.index ∨ e.stage ≠ .waiting ∧ p.barrier = false) ∧
    let reserved : Prop := p.kind < 0x40 ∨ 0x4B < p.kind
    (commandTurn s0 c = false → ∀ x ∈ rows, p.kind = x.1 ∨ reserved →
      exec x.2.2 s = .next { s0 with adminCmds := s0.adminCmds ++ [⟨c.index, packet, .waiting⟩] }) ∧
    (∀ x ∈ rows, p.kind ≠ x.1 → ¬ reserved → exec x.2.2 s = .next s) ∧
    (commandTurn s0 c = true → reserved → ∀ x ∈ rows, exec x.2.2 s = .next bad) ∧
    (commandTurn s0 c = true →
    (∀ x ∈ rows, p.kind = x.1 → packetOk p x.2.1 = false → exec x.2.2 s = .next bad) ∧
    (p.kind = 0x40 → packetOk p 16 = true →
      let b := Memory.getN s.host (abits (f 8 8) 0 52) 256
      let ok : Prop := f 2 1 ≤ 1 ∧ f 3 5 = 0 ∧ abits (f 8 8) 52 12 = 0x800 ∧ f 8 8 % 64 = 0 ∧ contextOk b = true ∧
        ((s.context? (f 0 2)).isSome ↔ f 2 1 = 1)
      (¬ ok → exec (.ctxSet packet) s = .next bad) ∧
      (ok → ∃ (u : State) (c : Context), exec (.ctxSet packet) s = .next (done none u) ∧ SameMemory s u ∧
        u.context? (f 0 2) = some c ∧ c.ptroot = fieldAt b 0 8 ∧ c.hb = fieldAt b 8 8 ∧ c.hl = fieldAt b 0x10 8 ∧
        c.ho = fieldAt b 0x18 8 ∧ c.pubcnt = BitVec.ofNat 64 (fieldAt b 0x20 8) ∧ c.frec = fieldAt b 0x28 8 ∧
        c.frecn = fieldAt b 0x30 4 ∧ c.frecNext = 0 ∧ c.quota = fieldAt b 0x34 2 ∧ c.mode = fieldAt b 0x36 1 ∧
        c.ctimeout = (if fieldAt b 0x38 4 = 0 then 1000 else fieldAt b 0x38 4) ∧ c.defHandler = fieldAt b 0x40 8 ∧
        ∀ k, k ≠ f 0 2 → u.context? k = s.context? k)) ∧
    (p.kind = 0x41 → packetOk p 2 = true →
      (s.context? (f 0 2) = none → exec (.ctxEnd packet) s = .next bad) ∧
      ((s.context? (f 0 2)).isSome → (∀ t ∈ s.tasks, t.asid ≠ f 0 2 ∧ t.doomed = false) → packetsDue s (f 0 2) = false →
        ∃ u : State, exec (.ctxEnd packet) s = .next (done none u) ∧ u.context? (f 0 2) = none ∧
          (∀ x ∈ u.queues, x.2.asid ≠ f 0 2) ∧ (∀ x ∈ u.revs, x.2.asid ≠ f 0 2) ∧
          ((∀ x ∈ s.queues, x.2.asid = f 0 2 → x.2.removing = none) → u.host = s.host))) ∧
    (p.kind = 0x42 → packetOk p 28 = true →
      (1024 ≤ f 0 2 ∨ 2 < f 2 1 ∨ queueFieldsOk p = false → exec (.queueSet packet) s = .next bad) ∧
      (f 0 2 < 1024 → f 2 1 = 0 → queueFieldsOk p = true → (s.context? (f 4 2)).isSome → s.queues.get? (f 0 2) = none →
        exec (.queueSet packet) s = .next (done none { s0 with queues := (s.queues.set (f 0 2)
          { asid := f 4 2, prio := f 3 1, logSize := f 6 1, ring := p.word 8, cring := p.word 0x10, vector := f 0x18 2
            coal := f 0x1A 2 }) })) ∧
      ∀ q, f 0 2 < 1024 → s.queues.get? (f 0 2) = some q → q.removing = none →
        (f 2 1 = 0 → exec (.queueSet packet) s = .next bad) ∧
        (f 2 1 = 1 → queueFieldsOk p = true → f 4 2 = q.asid → f 6 1 = q.logSize → p.word 8 = q.ring →
          p.word 0x10 = q.cring → exec (.queueSet packet) s = .next (done none { s0 with queues := (s.queues.set (f 0 2)
            { q with prio := f 3 1, vector := f 0x18 2, coal := f 0x1A 2 }) })) ∧
        (f 2 1 = 1 → queueFieldsOk p = true → f 4 2 ≠ q.asid ∨ f 6 1 ≠ q.logSize ∨ p.word 8 ≠ q.ring ∨
          p.word 0x10 ≠ q.cring → exec (.queueSet packet) s = .next bad) ∧
        (f 2 1 = 2 → queueFieldsOk p = true → exec (.queueSet packet) s = .next
          { s0 with
            queues := (s.queues.set (f 0 2) { q with removing := some c.index })
            adminCmds := s0.adminCmds ++ [⟨c.index, packet, .issued⟩] })) ∧
    (p.kind = 0x43 → packetOk p 2 = true →
      (s.queues.get? (f 0 2) = none → exec (.queueReset packet) s = .next bad) ∧
      ∀ q, s.queues.get? (f 0 2) = some q → ∃ (u : State) (x : Queue), exec (.queueReset packet) s = .next (done none u) ∧
        SameMemory s u ∧ u.queues.get? (f 0 2) = some x ∧ x.started = q.head ∧ x.done = q.head ∧ x.head = q.head ∧
        x.status = none ∧ x.inflight = [] ∧ (q.state = .halted ∨ q.state = .parked → x.state = .idle)) ∧
    (p.kind = 0x45 → packetOk p 1 = true →
      (64 < f 0 1 → exec (.pool packet) s = .next bad) ∧
      (f 0 1 ≤ 64 → exec (.pool packet) s = .next (done none { s0 with cfg := { s.cfg with poolGib := f 0 1 } }))) ∧
    (p.kind = 0x4A → packetOk p 16 = true →
      let within (v lo hi : Nat) : Prop := v = 0 ∨ lo ≤ v ∧ v ≤ hi
      let ok : Prop := within (f 0 4) 100 10000 ∧ within (f 4 4) 65536 16777216 ∧ within (f 8 4) 10 499 ∧
        within (f 12 4) 600 100000
      (¬ ok → exec (.timing packet) s = .next bad) ∧
      (ok → exec (.timing packet) s = .next (done none { s0 with cfg := { s.cfg with
        qslice := if f 0 4 = 0 then s.cfg.qslice else f 0 4, tslice := if f 4 4 = 0 then s.cfg.tslice else f 4 4
        ftimeout := if f 8 4 = 0 then s.cfg.ftimeout else f 8 4
        stubLife := if f 12 4 = 0 then s.cfg.stubLife else f 12 4 } }))) ∧
    (p.kind = 0x49 → packetOk p 3 = true →
      (1 < f 2 1 ∨ s.context? (f 0 2) = none → exec (.migrPolicy packet) s = .next bad) ∧
      ∀ c, f 2 1 ≤ 1 → s.context? (f 0 2) = some c → ∃ u : State, exec (.migrPolicy packet) s = .next (done none u) ∧
        SameMemory s u ∧ u.context? (f 0 2) = some { c with policy := f 2 1 == 1 }) ∧
    (p.kind = 0x48 → packetOk p 24 = true →
      let ok : Prop := f 2 1 ≤ 1 ∧ f 3 5 = 0 ∧ f 8 8 % 2 ^ 16 = 0 ∧ f 16 8 % 2 ^ 16 = 0 ∧ f 8 8 < 2 ^ 48 ∧
        f 8 8 + f 16 8 ≤ 2 ^ 48 ∧ (s.context? (f 0 2)).isSome
      (¬ ok → exec (.pageReply packet) s = .next bad) ∧
      (ok → f 2 1 = 0 → exec (.pageReply packet) s = .next (done none s0)) ∧
      (ok → f 2 1 = 1 → ∃ u : State, exec (.pageReply packet) s = .next (done none u) ∧ SameMemory s u ∧
        u.cores = s.cores ∧ u.ops.length = s.ops.length ∧ ∀ o ∈ s.ops, ∀ va n w asked r, o.kind = .pgreq va n w asked r →
          o.asid = f 0 2 → overlaps va n (f 8 8) (f 16 8) = true → { o with kind := .pgreq va n w asked true } ∈ u.ops)))

/-- INVALIDATE, WRING, PIN, OWNER, SERVICE_RING_FREED, SCHEDULER_MEMORY_ERROR, WORKER_FAILURE, FW_FATAL (11_translation R277;
12_migration R282, R305; 15_fabric R369; 16_front_end R388, R389; 17_system R397): an invalidation drops every translation
of its range and waits for the accesses made before it; a ring is registered, reset or removed; a page is pinned; a home
records an owner and acknowledges it; posted records fit the room; errors are counted, and a fatal one stops the device. What an
invalidation waits for, the place and the fields of the records that a command leaves, and the worker that fails are the model's
choices (notes/assumptions/29, 42, 72, 73). -/
def Obligations.AdminPageResults : Prop :=
  (∀ (s : State) (packet : BitVec 512), CanonMem s → s.sys.boot = .ready →
    commandTurn (takeCommand packet s) (commandOf s packet) = true →
    let p := packetOf (leBytes 64 packet.toNat)
    let f := p.field
    let c := commandOf s packet
    let s0 := takeCommand packet s
    let done (st : Option FaultCode) (u : State) : State :=
      { u with
        admin := u.admin ++ [⟨p.tag, p.kind, st, c.index⟩]
        host := Memory.setN u.host (Config.adminRing.1 + 32 * (u.admin.length % Config.adminRing.2))
          (leBytes 4 p.tag ++ leBytes 1 p.kind ++ leBytes 1 ((st.map faultNumber).getD 0) ++ leBytes 2 0 ++
            leBytes 8 c.index ++ leBytes 8 0 ++ leBytes 4 0 ++ leBytes 4 0)
        msix := if p.irq then u.msix ++ [Config.adminVector] else u.msix }
    let issued (u : State) : State := { u with adminCmds := u.adminCmds ++ [⟨c.index, packet, .issued⟩] }
    let pages := rangePages s (f 0 2) (f 16 8 / 2 ^ 16 + 2) (f 8 8) (f 8 8 + f 16 8)
    (p.kind = 0x44 → packetOk p 24 = true →
      let ok : Prop := f 2 6 = 0 ∧ f 8 8 % 2 ^ 16 = 0 ∧ f 16 8 ≠ 0 ∧ f 16 8 % 2 ^ 16 = 0 ∧ f 8 8 + f 16 8 ≤ 2 ^ 48
      (¬ ok → exec (.invalidate packet) s = .next (done (some .illegalOperand) s0)) ∧
      (ok → pinnedWithin s (f 0 2) (f 8 8) (f 16 8) = true → ∃ u : State,
        exec (.invalidate packet) s = .next (done (some .illegalOperand) u) ∧ SameButService (f 0 2) s u ∧ u.cores = s.cores ∧
        u.dies = s.dies ∧ u.ops = s.ops ∧ (serviceRoom s (f 0 2) = true → ∀ x, s.context? (f 0 2) = some x →
          ∃ (y : Context) (r : ServiceRec), u.context? (f 0 2) = some y ∧ y.service = x.service ++ [r] ∧ r.kind = 6 ∧
            r.code = faultNumber .illegalOperand ∧ r.asid = f 0 2 ∧ r.address.toNat = f 8 8 ∧ r.length = f 16 8)) ∧
      (ok → pinnedWithin s (f 0 2) (f 8 8) (f 16 8) = false → moveWithin s (f 0 2) (f 8 8) (f 16 8) = true →
        exec (.invalidate packet) s = .next (issued (s0.startEngineOp (f 0 2) 0
          (.invalidate (f 0 2) (f 8 8) (f 16 8) none (some c.index) none)))) ∧
      (ok → pinnedWithin s (f 0 2) (f 8 8) (f 16 8) = false → moveWithin s (f 0 2) (f 8 8) (f 16 8) = false →
        ∃ (u : State) (o : Op), exec (.invalidate packet) s = .next (issued u) ∧
        SameMemory s u ∧ u.admin = s.admin ∧ u.ops = s.ops ++ [o] ∧
        o.kind = .invalidate (f 0 2) (f 8 8) (f 16 8) (some s.nextOp) (some c.index) none ∧
        (∀ x ∈ u.cores, ∀ e ∈ x.2.l1, e.within (f 0 2) (f 8 8) (f 16 8) = false) ∧
        ∀ x ∈ u.dies, ∀ e ∈ x.2.l2, e.within (f 0 2) (f 8 8) (f 16 8) = false)) ∧
    (p.kind = 0x46 → packetOk p 24 = true → f 2 1 < 64 →
      (f 3 1 = 0 → (s.context? (f 0 2)).isSome → ringOf s (f 0 2) (f 2 1) = none →
        f 4 4 ∈ [16, 32, 64, 128, 256, 512, 1024, 2048, 4096] → f 8 8 % 64 = 0 → f 8 8 + 64 * f 4 4 ≤ 2 ^ 48 →
        f 16 8 + 64 ≤ 2 ^ 48 → ringHere s (f 0 2) (f 8 8) (64 * f 4 4) false = true →
        ringHere s (f 0 2) (f 16 8) 64 true = true → ∃ (u : State) (r : WorkRing),
          exec (.wring packet) s = .next (done none u) ∧ u.host = s.host ∧ ringOf u (f 0 2) (f 2 1) = some r ∧
          r.base = f 8 8 ∧ r.size = f 4 4 ∧ r.control = f 16 8 ∧ r.tail = 0 ∧ r.runs = 0 ∧ r.halted = false ∧
          r.current = none) ∧
      (3 ≤ f 3 1 ∨ f 3 1 = 0 ∧ s.context? (f 0 2) = none ∨ f 3 1 ≠ 0 ∧ ringOf s (f 0 2) (f 2 1) = none →
        exec (.wring packet) s = .next (done (some .illegalOperand) s0)) ∧
      ∀ r, ringOf s (f 0 2) (f 2 1) = some r → f 4 4 = 0 → f 16 8 = 0 → f 8 8 < 2 ^ 48 → r.current = none →
        (f 3 1 = 1 → ∃ u : State, exec (.wring packet) s = .next (done none u) ∧ SameMemory s u ∧
          ringOf u (f 0 2) (f 2 1) = none) ∧
        (f 3 1 = 2 → r.halted = true → ∃ (u : State) (x : WorkRing), exec (.wring packet) s = .next (done none u) ∧
          u.host = s.host ∧ ringOf u (f 0 2) (f 2 1) = some x ∧ x.halted = false ∧ x.tail = r.tail ∧ x.current = none)) ∧
    (p.kind = 0x47 → packetOk p 24 = true →
      let ok : Prop := f 2 1 ≤ 1 ∧ f 3 5 = 0 ∧ f 8 8 < 2 ^ 48 ∧ f 8 8 + f 16 8 ≤ 2 ^ 48 ∧ pagesWithin pages (f 8 8) (f 16 8) = true ∧
        pagesMapped s (f 0 2) pages = true
      (¬ ok → exec (.pin (.command packet)) s = .next (done (some .illegalOperand) s0)) ∧
      (ok → frozenWithin s (f 0 2) pages = true → exec (.pin (.command packet)) s =
        .next (State.retry { s0 with adminCmds := s0.adminCmds ++ [⟨c.index, packet, .running⟩] } (.pin (.command packet)))) ∧
      ∀ x e pa level n, ok → frozenWithin s (f 0 2) pages = false → pages = [x] →
        (walk s (f 0 2) x.1 pairMaster).1 = .leaf e → e.remote = none → leafOf s (f 0 2) x.1 = some (pa, level, n) →
        isLocal n = true → lpddrAllowed s pairMaster pa 8 false true = true → ∃ u : State,
          exec (.pin (.command packet)) s = .next (done none u) ∧ u.host = s.host ∧
          (f 2 1 = 0 → u.bytes pa 8 = leBytes 8 (if pteBit n 46 then n else n + 2 ^ 46)) ∧
          (f 2 1 = 1 → otherCovers s (f 0 2) 256 x.1 x.2 = true → u.mem = s.mem) ∧
          (f 2 1 = 1 → otherCovers s (f 0 2) 256 x.1 x.2 = false →
            u.bytes pa 8 = leBytes 8 (if pteBit n 46 then n - 2 ^ 46 else n))) ∧
    (p.kind = 0x4B → packetOk p 24 = true → ∀ x, pages = [x] → f 2 1 = 0 → f 3 5 = 0 → f 8 8 % 2 ^ 16 = 0 →
      f 16 8 % 2 ^ 16 = 0 → f 8 8 + f 16 8 ≤ 2 ^ 48 → pagesWithin pages (f 8 8) (f 16 8) = true →
      (s.context? (f 0 2)).isSome → pagesLocal s (f 0 2) pages = true →
      let k := pageKey (f 0 2) (pageCode x.2) x.1
      ∃ (u : State) (o : Op), exec (.owner (.command packet)) s =
        .next (u.send (homeOf s k) (.owner (.record ⟨s.accid, s.nextOp⟩ k (some s.accid)))) ∧ SameMemory s u ∧
        u.ops = s.ops ++ [o] ∧ o.id = s.nextOp ∧ o.kind = .ownerCmd c.index 1 ∧
        u.adminCmds = s0.adminCmds ++ [⟨c.index, packet, .issued⟩])) ∧
  ∀ s : State, CanonMem s →
    (∀ src page a, s.mig.rebuilding = [] → ∃ (u : State) (e : HomeEntry), exec (.owner (.record src page (some a))) s =
      .next (u.sendOn (pagePlane s.accid page) .rsp 1 none src.acc (.owner (.recorded src.op))) ∧ SameMemory s u ∧ homeEntry u page = some e ∧ e.owner = a ∧
      e.state = .stable ∧ e.epoch = ((homeEntry s page).map HomeEntry.epoch).getD 0) ∧
    (∀ op o n e, s.op? op = some o → o.kind = .ownerCmd n 1 → s.adminCmds.find? (fun c => c.index == n) = some e →
      let p := packetOf (leBytes 64 e.packet.toNat)
      ∃ u : State, exec (.owner (.recorded op)) s = .next u ∧ u.op? op = none ∧
        u.admin = s.admin ++ [⟨p.tag, p.kind, none, n⟩]) ∧
    (∀ asid n c, s.context? asid = some c → ∃ (u : State) (x : Context), exec (.serviceRingFreed asid n) s = .next u ∧
      SameButService asid s u ∧ u.context? asid = some x ∧ x.service = c.service ++ c.serviceHeld.take (c.serviceFree + n) ∧
      x.serviceHeld = c.serviceHeld.drop (c.serviceFree + n) ∧
      x.serviceFree = c.serviceFree + n - min (c.serviceFree + n) c.serviceHeld.length) ∧
    (exec (.schedulerMemoryError .correctable) s = .next (s.ras 0)) ∧
    (∃ u : State, exec (.schedulerMemoryError .instruction) s = .next u ∧
      u.sys.ras.getD 1 0 = min (2 ^ 32 - 1) (s.sys.ras.getD 1 0 + 1) ∧
      (s.sys.boot = .running ∨ s.sys.boot = .ready → u.sys.boot = .fatal)) ∧
    (∀ qid q, s.queues.get? qid = some q → ∃ u : State, exec (.schedulerMemoryError (.queueTable [qid])) s = .next u ∧
      SameButService q.asid s u ∧ u.queues.get? qid = some { q with state := .halted, status := some .eccUe } ∧
      ∀ n, n ≠ qid → u.queues.get? n = s.queues.get? n) ∧
    (∀ w : Fin 8, (w.val ∈ s.sys.workersOut → exec (.workerFailure w) s = .next s) ∧
      (w.val ∉ s.sys.workersOut → ∃ u : State, exec (.workerFailure w) s = .next u ∧ SameMemory s u ∧
        u.sys.workersOut = s.sys.workersOut ++ [w.val] ∧
        u.sys.ras.getD 8 0 = min (2 ^ 32 - 1) (s.sys.ras.getD 8 0 + 1) ∧ u.queues = s.queues ∧ u.ops = s.ops)) ∧
    (s.sys.boot = .running ∨ s.sys.boot = .ready → ∃ u : State, exec .fwFatal s = .next u ∧ SameMemory s u ∧
      u.sys.boot = .fatal ∧ u.msix = s.msix ++ [0])

/-- DEVICE_RESET, BOOT_RESET, BOOT_GO, REGISTER_WRITE, FIRMWARE_READY, CXL_IDE_KEY_EXCHANGE, STAGING_WINDOW_WRITE,
CXL_MEM_ACCESS, STORAGE_WINDOW_ACCESS, STORAGE_WINDOW_ENTRY_SET, ACCESS_TABLE_CHANGE, FREEZE, TAP_READOUT, RAS_COUNTER_CLEAR,
CORE_OFFLINE, THERMAL_STEP_DOWN, THERMAL_STEP_UP, THERMAL_TRIP, POWER_CAP_SET (17_system R391–R407): what the host and the
pins do to the device. What BOOT_GO checks in the image, the fields of a window entry, how often the clock steps, that an access
from outside waits for a granule that is being copied, and what a read leaves of an error are the model's choices
(notes/assumptions/31, 32, 44, 45, 47, 53). -/
def Obligations.SystemEventResults : Prop :=
  ∀ s : State, CanonMem s →
    let fresh (t : State) : Prop := t.mem = [] ∧ t.cores = [] ∧ t.tasks = [] ∧ t.ctxs = [] ∧ t.queues = [] ∧ t.ops = [] ∧ t.own = [] ∧
      t.sys.boot = .init ∧ t.host = s.host
    (∃ t : State, exec .deviceReset s = .next t ∧ fresh t ∧ t.sys = {}) ∧
    (s.sys.frozen = false → ∃ t : State, exec .bootReset s = .next t ∧ fresh t ∧ t.sys = {}) ∧
    (s.sys.frozen = true → exec .bootReset s = .next s) ∧
    (∃ t : State, exec .thermalTrip s = .next t ∧ fresh t ∧ t.sys.thermtrip = true) ∧
    (mailboxOpen s = true → ∃ t : State, exec .bootGo s = .next t ∧ t.mem = s.mem ∧ t.sys.err = bootCheck s ∧
      t.sys.boot = (if bootCheck s = 0 then .running else .waitImage) ∧
      t.sys.version = (if bootCheck s = 0 then leNat (s.bytes (stagingKey 4) 4) else s.sys.version)) ∧
    (mailboxOpen s = false → exec .bootGo s = .next s) ∧
    (∀ v : Word, s.sys.boot = .waitImage → ∃ t : State, exec (.registerWrite .bootCtl v) s = .next t ∧
      t.sys.len = (v.extractLsb' 8 24).toNat ∧ t.sys.cfgoff = (v.extractLsb' 32 24).toNat ∧ SameMemory s t) ∧
    (∀ v : Word, s.sys.boot ≠ .waitImage → exec (.registerWrite .bootCtl v) s = .next s) ∧
    (∀ v : Word, exec (.registerWrite .bootSts v) s = .next s) ∧
    (s.sys.boot = .running → ∃ t : State, exec .firmwareReady s = .next t ∧ t.sys.boot = .ready ∧ SameMemory s t) ∧
    (exec .cxlIdeKeyExchange s = .next { s with sys := { s.sys with ide := true } }) ∧
    (∀ off data, mailboxOpen s = true → off + data.length ≤ 2 ^ 24 → ∃ t : State,
      exec (.stagingWindowWrite off data) s = .next t ∧ t.host = s.host ∧
      (∀ j, j < data.length → Memory.get t.mem (stagingKey (off + j)) = data.getD j 0) ∧
      ∀ k, k < stagingKey off ∨ stagingKey off + data.length ≤ k → Memory.get t.mem k = Memory.get s.mem k) ∧
    (∀ off data, mailboxOpen s = false → exec (.stagingWindowWrite off data) s = .next s) ∧
    (∀ pa act, s.sys.boot = .fatal → exec (.cxlMemAccess pa act) s =
      .next (match act with | .read _ => { s with answers := s.answers ++ [.poisoned] } | .write _ => s)) ∧
    (∀ pa act, s.sys.boot ≠ .fatal → pa % 64 = 0 → pa + 64 ≤ lpddrBytes → actBytes act = 64 → portFree s pa act = false →
      exec (.cxlMemAccess pa act) s = .next (s.retry (.cxlMemAccess pa act))) ∧
    (∀ pa, s.sys.boot ≠ .fatal → pa % 64 = 0 → pa + 64 ≤ lpddrBytes → granBusy s pa 64 = false →
      (lpddrAllowed s 0x151 pa 64 true false = false → ∃ t : State, exec (.cxlMemAccess pa (.read 64)) s = .next t ∧
        t.answers = s.answers ++ [.poisoned] ∧ SameMemory s t) ∧
      (lpddrAllowed s 0x151 pa 64 true false = true → readFault s.sys pa 64 = none →
        exec (.cxlMemAccess pa (.read 64)) s = .next { s with
          answers := s.answers ++ [.data (s.viewBytes 0 pa 64)], sys := afterRead s.sys pa 64 }) ∧
      ∀ d, d.length = 64 → portFree s pa (.write d) = true →
        (lpddrAllowed s 0x151 pa 64 false true = false ∨ copiesFail s 0 (granules4k pa 64) = some .accessTable →
          ∃ t : State, exec (.cxlMemAccess pa (.write d)) s = .next t ∧
          SameMemory s t ∧ t.answers = s.answers) ∧
        (lpddrAllowed s 0x151 pa 64 false true = true → s.revs = [] → s.copies = [] → ∃ t : State,
          exec (.cxlMemAccess pa (.write d)) s = .next t ∧ t.answers = s.answers ∧ t.bytes pa 64 = d ∧
          ∀ k, k < pa ∨ pa + 64 ≤ k → Memory.get t.mem k = Memory.get s.mem k)) ∧
    (∀ rq off act, s.sys.requesters.get? rq = none ∨ windowEntry s off (actBytes act) = none →
      exec (.storageWindowAccess rq off act) s = .next { s with answers := s.answers ++ [.abort] }) ∧
    (∀ rq off n m e, s.sys.requesters.get? rq = some m → windowEntry s off n = some e →
      granBusy s (e.pa + (off - e.off)) n = false → lpddrAllowed s m (e.pa + (off - e.off)) n true false = true →
      readFault s.sys (e.pa + (off - e.off)) n = none → exec (.storageWindowAccess rq off (.read n)) s =
        .next { s with answers := s.answers ++ [.data (s.viewBytes 0 (e.pa + (off - e.off)) n)]
                       sys := afterRead s.sys (e.pa + (off - e.off)) n }) ∧
    (∀ rq off d m e, s.sys.requesters.get? rq = some m → windowEntry s off d.length = some e →
      let pa := e.pa + (off - e.off)
      portFree s pa (.write d) = true → lpddrAllowed s m pa d.length false true = true → s.revs = [] → s.copies = [] →
      ∃ t : State, exec (.storageWindowAccess rq off (.write d)) s = .next t ∧ t.answers = s.answers ∧
        t.bytes pa d.length = d ∧ ∀ k, k < pa ∨ pa + d.length ≤ k → Memory.get t.mem k = Memory.get s.mem k) ∧
    (∀ (i : Fin 64) off pa len rq m, (windowOk s off pa len rq m = false →
        exec (.storageWindowEntrySet i off pa len rq m) s = .next s) ∧
      (windowOk s off pa len rq m = true → ∃ t : State, exec (.storageWindowEntrySet i off pa len rq m) s = .next t ∧
        t.sys.windows.get? i.val = some ⟨off, pa, len⟩ ∧ t.sys.requesters.get? rq = some m ∧ SameMemory s t)) ∧
    (∀ (g : Guard) (i : Fin 64) (e : BitVec 128), ∃ t : State, exec (.accessTableChange g i e) s = .next t ∧ SameMemory s t ∧
      (guardTable t g).get? i.val = (if e.getLsbD 127 then some
        { wr := e.getLsbD 124, rd := e.getLsbD 123, mhi := (e.extractLsb' 113 10).toNat, mlo := (e.extractLsb' 103 10).toNat
          limit := (e.extractLsb' 32 32).toNat, base := (e.extractLsb' 0 32).toNat } else none) ∧
      ∀ h, h ≠ g → guardTable t h = guardTable s h) ∧
    (exec .freeze s = .next { s with sys := { s.sys with frozen := true } }) ∧
    (s.sys.frozen = true → exec .tapReadout s = .next { s with sys := { s.sys with readout := true } }) ∧
    (s.sys.frozen = false → exec .tapReadout s = .next s) ∧
    (∀ i : Fin 11, ∃ t : State, exec (.rasCounterClear i) s = .next t ∧ t.sys.ras.getD i.val 0 = 0 ∧
      ∀ k, k ≠ i.val → t.sys.ras.getD k 0 = s.sys.ras.getD k 0) ∧
    (∀ n, n < 256 → ∃ t : State, exec (.coreOffline n) s = .next t ∧ SameMemory s t ∧ t.coreAt n =
      { s.coreAt n with offline := true }) ∧
    (stepDue s = true →
      (9 < s.sys.clock → ∃ t : State, exec .thermalStepDown s = .next t ∧ t.sys.clock = s.sys.clock - 1 ∧
        t.sys.steppedU = some s.timeU) ∧
      (s.sys.clock < 18 → ∃ t : State, exec .thermalStepUp s = .next t ∧ t.sys.clock = s.sys.clock + 1 ∧
        t.sys.steppedU = some s.timeU)) ∧
    (stepDue s = false ∨ s.sys.clock ≤ 9 → exec .thermalStepDown s = .next s) ∧
    (stepDue s = false ∨ 18 ≤ s.sys.clock → exec .thermalStepUp s = .next s) ∧
    ∀ w, (800 ≤ w → w ≤ 1600 → exec (.powerCapSet w) s = .next { s with sys := { s.sys with cap := w } }) ∧
      (w < 800 ∨ 1600 < w → exec (.powerCapSet w) s = .next s)

/-! ### The bundle, the step, reset, and the encoding -/

/-- The boundary after a bundle that issues and transfers nowhere (02_bundles R28, R31, R48; 05_scalar R127; 06_sequencer R139,
R147, R149, R151): the counts NBUN and of issue cycles rise, every pending push and format write comes one issue cycle nearer,
the next bundle follows or the top loop closes, and nothing else of the task's state changes; after a bundle of one slot that
pushes a value nothing else changes at all: no byte of memory, no register, no predicate, no other core. The frames of the
bundles that write predicates, branch targets, the mask stack, system registers and tiles are stated with their results, over
the same boundary. -/
def Obligations.ResultFrame : Prop :=
  (∀ (w : Nat) (c : Ctx),
    let d := nextCtx w c
    d = { c with
      pc := d.pc, p := d.p, lc := d.lc, loops := d.loops, nbun := c.nbun + 1, icyc := c.icyc + 1
      pushes := c.pushes.map (fun x => { x with count := x.count - 1 })
      fmts := c.fmts.map (fun x => { x with count := x.count - 1 }) } ∧
    (c.loops = [] → d.pc = c.pc + w ∧ d.p = c.p ∧ d.lc = c.lc ∧ d.loops = []) ∧
    ∀ e rest, c.loops = e :: rest →
      let closes : Prop := c.pc = e.close ∧ c.ret.length = e.retDepth
      (¬ closes → d.pc = c.pc + w ∧ d.p = c.p ∧ d.lc = c.lc ∧ d.loops = c.loops) ∧
      (closes → 1 < (c.lc.getD e.lc 0).toNat → d.pc = e.first ∧ d.loops = c.loops ∧
        d.lc.getD e.lc 0 = c.lc.getD e.lc 0 - 1) ∧
      (closes → (c.lc.getD e.lc 0).toNat ≤ 1 → d.pc = c.pc + w ∧ d.loops = rest ∧ d.lc.getD e.lc 0 = 0) ∧
      (∀ k, k ≠ e.lc → d.lc.getD k 0 = c.lc.getD k 0) ∧
      (e.loops = false → d.p = c.p) ∧
      (closes → e.loops = true → ∀ k : Fin 16, d.p.getLsbD k.val =
        if k.val < 8 then c.p.getLsbD k.val
        else if k.val = 8 then decide (e.stages ≤ (c.lc.getD e.lc 0).toNat - 1) else c.p.getLsbD (k.val - 1))) ∧
  ∀ (s : State) (p : Push), Alone s →
    LeavesCore (.next (finishBundle (s.addPush p)))
      (rested (nextCtx s.iss.words { s.ctx with pushes := s.ctx.pushes ++ [p] }) s.core) s

/-- One step: an event of the agenda that is due; else one that the package sent itself; else the next event of the engines;
else the core whose turn it is issues the bundle at its program counter, one slot as `exec` of it, several by their checks and
then their effects; else the clock (02_bundles R28, R31, R38; 06_sequencer R139). A word with a stop bit that decodes to an instruction other than a prefix is
a bundle by itself. The order of these is the model's choice (notes/assumptions/1). -/
def Obligations.StepRunsDecoded : Prop :=
  (∀ (s : State) (i : Instr) (r : List (Nat × Instr)), clockStopped s = false → s.agenda = (0, i) :: r →
    let t : State := { s with agenda := r }
    (adminWaits t i = false → step s = exec i t) ∧
    ∀ u, adminWaits t i = true → exec i t = .next u → step s = .next (u.retry i)) ∧
  (∀ (s : State) (i : Instr) (r : List (Nat × Instr)), clockStopped s = false → (∀ j q, s.agenda ≠ (0, j) :: q) →
    s.own = (0, i) :: r →
    let t : State := { s with own := r }
    (adminWaits t i = false → step s = exec i t) ∧
    ∀ u, adminWaits t i = true → exec i t = .next u → step s = .next (u.retry i)) ∧
  (∀ (c : Core) (w : SlotWord) (i : Instr), c.ctx.pc < 65536 → c.imem.get? c.ctx.pc = some w →
    w.getLsbD 31 = true → decodeSlot w.toNat = .ok i → i.isLimm = false → i.isRepeat = false →
    immInRange none i = true → bundleRules (atClose c.ctx) [i] = none →
    decodeBundle (atClose c.ctx) (imemWords c c.ctx.pc 8) = .ok [i] ∧ fetchLen c = 1) ∧
  ∀ s : State, clockStopped s = false → (∀ i r, s.agenda ≠ (0, i) :: r) →
    (∀ i r, s.own ≠ (0, i) :: r) →
    (∀ i, engineNext s = some i → step s = exec i s) ∧
    (engineNext s = none →
      (s.turn = [] → s.sys.boot ≠ .init → step s = .next (tick s)) ∧
      ∀ n rest, s.turn = n :: rest →
        let c := s.coreAt n
        let turned (o : Out) : Out := match o with
          | .next t => .next { t with turn := t.turn.tail }
          | o => o
        (c.mode ≠ .running → step s = .next { s with cur := n, turn := rest }) ∧
        (c.mode = .running → (c.ctx.rep.map RepState.adv).getD false = false → c.ctx.fmts.any (·.count == 0) = false →
          c.stopReq = none → c.bubble = 0 → c.fences = [] → (∀ p ∈ c.ctx.pushes, p.count ≠ 0) →
          (∀ i, decodeBundle (atClose c.ctx) (imemWords c c.ctx.pc 8) = .ok [i] →
            step s = turned (exec i { s with cur := n, iss := { words := fetchLen c } })) ∧
          ∀ i j is, decodeBundle (atClose c.ctx) (imemWords c c.ctx.pc 8) = .ok (i :: j :: is) →
            let at_ (p : Phase) : State := { s with cur := n, iss := { phase := p, words := fetchLen c } }
            ∀ noted acted, runSlots 0 (i :: j :: is) (at_ .check) = .next noted →
              runSlots 0 (i :: j :: is) (at_ .commit) = .next acted →
              step s = turned (.next (match bundleVerdict noted with
                | .ok => finishBundle acted
                | v => settle v noted))))

/-- What reset leaves (17_system R394, R407 and Table 17-2): the boot ROM runs, no context, task, queue, revision or ring
exists, every class count is 0, the arithmetic clock stands at 1,800 MHz, and both memories are canonical; the first step
zeroes memory and waits for an image. The values of the registers of a core are those of notes/assumptions/3. -/
def Obligations.ResetLeaves : Prop :=
  State.reset.sys.boot = .init ∧ State.reset.sys.err = 0 ∧ State.reset.sys.ide = false ∧ State.reset.sys.clock = 18 ∧
  State.reset.ctxs = [] ∧ State.reset.tasks = [] ∧ State.reset.queues = [] ∧ State.reset.revs = [] ∧
  State.reset.ops = [] ∧ CanonMem State.reset ∧ State.reset.sys.frozen = false ∧
  (∀ n, (State.reset.coreAt n).mode = .idle ∧ (State.reset.coreAt n).ctx.mask = [] ∧
    (State.reset.coreAt n).ctx.nbun = 0 ∧ (State.reset.coreAt n).ctx.satf = 0 ∧ (State.reset.coreAt n).ctx.loops = [] ∧
    (State.reset.coreAt n).ctx.cnt = ⟨0, 0, 0, 0⟩) ∧
  ∃ t, step State.reset = .next t ∧ t.sys.boot = .waitImage ∧ t.mem = []

/-- Words written out from Tables 2-1 to 2-13 (02_bundles R27, R32–R36) decode to the instructions that they stand for. -/
def Obligations.WordsDecode : Prop :=
  decodeSlot 0b1_000_000000_00011_000001_100000_00000 = .ok (.add 3 (.g 1) (.q 0)) ∧
  decodeSlot 0b1_000_011111_00101_00000000000000111 = .ok (.lih 5 7) ∧
  decodeSlot 0b1_000_100000_00010_000001_000010_00100 = .ok (.cmp 2 (.g 1) (.g 2) .ltu) ∧
  decodeSlot 0b1_000_100100_00100_000001_000000_10100 = .ok (.ld 4 (.g 1) (.g 0) .b32 true) ∧
  decodeSlot 0b1_001_000000_00001_000010_100001_010_01 = .ok (.vadd 1 (.v 2) (.vq 1) .i16 .keepA) ∧
  decodeSlot 0b1_001_010110_00000_000000_000000_000_00 = .ok (.vbcast 0 (.g 0) .i8 .all) ∧
  decodeSlot 0b1_001_100001_00111_00001001_000011_001 = .ok (.vld 7 (.tile 9 true) (.g 3)) ∧
  decodeSlot 0b1_010_000000_000101_00000010_00000011 = .ok (.mma 5 2 3) ∧
  decodeSlot 0b1_011_000000_1_000001_000010_000011_000 = .ok (.copy 1 (.g 1) (.g 2) (.g 3) .plain) ∧
  decodeSlot 0b1_100_000011_010_0011_1_0_0000000000000 = .ok (.br 2 3 true false) ∧
  decodeSlot 0b0_101_000000_0000000000000000000001 = .ok (.limm 1) ∧
  decodeSlot 0b0_101_000001_000000000100_00_10_01_00_00 = .ok (.rept 4 .hold .hold .add .sub) ∧
  decodeSlot 0b1_110_000100_00110_000111_00000000000 = .ok (.spawn 6 (.g 7)) ∧
  decodeSlot 0b1_110_001000_0000000000000000000000 = .ok .endTask ∧
  decodeSlot 0b1_111_000000_0000000000000000000000 = .error .slot ∧
  decodeSlot 0b1_000_000000_00000_111100_000000_00000 = .error .operand

/-- Decode after encode (02_bundles R27, R32–R36): every well-formed instruction has a slot word, which decodes to it with
every operand, whatever its stop bit. -/
def Obligations.EncodeDecodes : Prop :=
  ∀ i : Instr, i.wf = true → ∃ w, encode i = some w ∧ w < 2 ^ 31 ∧ decodeSlot w = .ok i ∧ decodeSlot (w + 2 ^ 31) = .ok i

/-- Encode after decode (02_bundles R27, R32–R37): a word that decodes gives a well-formed instruction whose slot word it is;
so no two words but for the stop bit stand for one instruction, and no reserved bit is ignored. -/
def Obligations.DecodeEncodes : Prop :=
  ∀ (w : Nat) (i : Instr), w < 2 ^ 32 → decodeSlot w = .ok i → i.wf = true ∧ encode i = some (w % 2 ^ 31)

/-- Both memories keep their canonical form: addresses strictly rising, no byte listed that an unlisted address reads as,
whatever the step does (the model's form of memory; 04_memory_model R79, 17_system R394). -/
def Obligations.StepKeepsCanonMem : Prop := ∀ s : State, CanonMem s → CanonOut (step s)

/-- The layout of a save area (06_sequencer R167, R168): the header, the registers and the queues of a saved member stand
at the offsets of Table 6-5, each little-endian, and TILES, which ends with its END record, stands at 0x6100. That the
model computes the area from the saved state and writes it nowhere is its choice (notes/assumptions/19). -/
def Obligations.SaveAreaLayout : Prop :=
  ∀ (s : State) (t : Task) (v : Saved),
    let a := saveAreaBytes s t v
    let part (off len : Nat) : List Byte := (a.drop off).take len
    part 0 2 = leBytes 2 v.ctx.pc ∧ part 4 8 = leBytes 8 v.ctx.nbun.toNat ∧
    (∀ i < 32, part (0x40 + 8 * i) 8 = leBytes 8 (v.ctx.g.getD i 0).toNat ∧
      part (0x900 + 256 * i) 256 = leBytes 256 (v.ctx.v.getD i 0).toNat) ∧
    (∀ i < 16, part (0x140 + 8 * i) 8 = leBytes 8 (v.ctx.q.getD i 0).toNat ∧
      part (0x2900 + 256 * i) 256 = leBytes 256 (v.ctx.vq.getD i 0).toNat) ∧
    (∀ i < 8, part (0x1C0 + 8 * i) 8 = leBytes 8 (v.ctx.tx.getD i 0).toNat) ∧
    part 0x3C0 64 = leBytes 64 v.ctx.rmask.toNat ∧
    a.drop 0x6100 = tilesBytes s t v ∧ 0x6100 + 128 ≤ a.length ∧
    (a.drop (a.length - 64)).take 8 = leBytes 8 0xFF
end

