-- ==== Sys2Proof/Laws/Memory.lean ====
section
/-! SUPPORT. The laws of memory and of finite maps: what a read finds after a write, and that every operation keeps
the canonical form of memory. -/

namespace Sys2Proof.Machine

open Sys2Proof

/-! ### The canonical form -/

theorem Memory.wfFrom_mono {m : List Host.Cell} {lo lo' : Nat} (h : lo' ≤ lo) (w : Memory.wfFrom lo m = true) :
    Memory.wfFrom lo' m = true := by
  cases m with
  | nil => rfl
  | cons c m =>
    simp only [Memory.wfFrom, Bool.and_eq_true, decide_eq_true_eq, bne_iff_ne] at w ⊢
    exact ⟨⟨by omega, w.1.2⟩, w.2⟩

/-- Every listed key is at or above the bound, and no listed byte is zero. -/
theorem Memory.wfFrom_mem {m : List Host.Cell} {lo : Nat} (w : Memory.wfFrom lo m = true) :
    ∀ c ∈ m, lo ≤ c.1 ∧ c.2 ≠ 0 := by
  induction m generalizing lo with
  | nil => simp
  | cons c m ih =>
    simp only [Memory.wfFrom, Bool.and_eq_true, decide_eq_true_eq, bne_iff_ne] at w
    intro d hd
    rcases List.mem_cons.1 hd with rfl | hd
    · exact w.1
    · have := ih w.2 d hd
      exact ⟨by omega, this.2⟩

/-- Below the bound nothing is listed. -/
theorem Memory.get_below {m : List Host.Cell} {lo k : Nat} (w : Memory.wfFrom lo m = true) (h : k < lo) :
    Memory.get m k = 0 := by
  induction m generalizing lo with
  | nil => rfl
  | cons c m ih =>
    simp only [Memory.wfFrom, Bool.and_eq_true, decide_eq_true_eq, bne_iff_ne] at w
    have hk : c.1 ≠ k := by omega
    simp only [Memory.get, hk, if_false]
    exact ih w.2 (by omega)

theorem Memory.wfFrom_cons {lo a : Nat} {x : Byte} {m : List Host.Cell} :
    Memory.wfFrom lo ((a, x) :: m) = true ↔ (lo ≤ a ∧ x ≠ 0) ∧ Memory.wfFrom (a + 1) m = true := by
  simp only [Memory.wfFrom, Bool.and_eq_true, decide_eq_true_eq, bne_iff_ne]

theorem Memory.wfFrom_set {m : List Host.Cell} {lo k : Nat} (b : Byte) (w : Memory.wfFrom lo m = true) (h : lo ≤ k) :
    Memory.wfFrom lo (Memory.set m k b) = true := by
  induction m generalizing lo with
  | nil =>
    simp only [Memory.set]
    split_ifs with h1
    · rfl
    · exact Memory.wfFrom_cons.2 ⟨⟨h, h1⟩, rfl⟩
  | cons c m ih =>
    obtain ⟨a, x⟩ := c
    have w' := Memory.wfFrom_cons.1 w
    simp only [Memory.set]
    split_ifs with h1 h2 h2 h3
    · exact w
    · exact Memory.wfFrom_cons.2 ⟨⟨h, h2⟩, Memory.wfFrom_cons.2 ⟨⟨h1, w'.1.2⟩, w'.2⟩⟩
    · exact Memory.wfFrom_mono (by omega) w'.2
    · subst h2
      exact Memory.wfFrom_cons.2 ⟨⟨h, h3⟩, w'.2⟩
    · exact Memory.wfFrom_cons.2 ⟨w'.1, ih w'.2 (by omega)⟩

/-- A write keeps the canonical form. -/
theorem Memory.wf_set {m : List Host.Cell} (k : Nat) (b : Byte) (w : Memory.wf m = true) :
    Memory.wf (Memory.set m k b) = true := Memory.wfFrom_set b w (Nat.zero_le k)

/-- A write of several bytes keeps the canonical form. -/
theorem Memory.wf_setN {m : List Host.Cell} (k : Nat) (bs : List Byte) (w : Memory.wf m = true) :
    Memory.wf (Memory.setN m k bs) = true := by
  induction bs generalizing m k with
  | nil => exact w
  | cons b bs ih => exact ih (k + 1) (Memory.wf_set k b w)

theorem Memory.wfFrom_filter {m : List Host.Cell} {lo : Nat} (f : Host.Cell → Bool) (w : Memory.wfFrom lo m = true) :
    Memory.wfFrom lo (m.filter f) = true := by
  induction m generalizing lo with
  | nil => rfl
  | cons c m ih =>
    simp only [Memory.wfFrom, Bool.and_eq_true, decide_eq_true_eq, bne_iff_ne] at w
    rw [List.filter_cons]
    split
    · exact Memory.wfFrom_cons.2 ⟨w.1, ih w.2⟩
    · exact Memory.wfFrom_mono (by omega) (ih w.2)

/-- Clearing a range keeps the canonical form. -/
theorem Memory.wf_clear {m : List Host.Cell} (k n : Nat) (w : Memory.wf m = true) :
    Memory.wf (Memory.clear m k n) = true := Memory.wfFrom_filter _ w

/-! ### Reads after writes -/

theorem Memory.get_set_same_from {m : List Host.Cell} {lo k : Nat} (b : Byte) (w : Memory.wfFrom lo m = true) :
    Memory.get (Memory.set m k b) k = b := by
  induction m generalizing lo with
  | nil =>
    simp only [Memory.set]
    split_ifs with h
    · simp [Memory.get, h]
    · simp [Memory.get]
  | cons c m ih =>
    obtain ⟨a, x⟩ := c
    simp only [Memory.wfFrom, Bool.and_eq_true, decide_eq_true_eq, bne_iff_ne] at w
    simp only [Memory.set]
    split_ifs with h1 h2 h2 h3
    · have : a ≠ k := by omega
      simp only [Memory.get, this, if_false, h2]
      exact Memory.get_below w.2 (by omega)
    · simp [Memory.get]
    · rw [h3]
      exact Memory.get_below w.2 (by omega)
    · simp [Memory.get]
    · have : a ≠ k := by omega
      simp only [Memory.get, this, if_false]
      exact ih w.2

/-- A read of the byte just written finds it. -/
theorem Memory.get_set_same {m : List Host.Cell} (k : Nat) (b : Byte) (w : Memory.wf m = true) :
    Memory.get (Memory.set m k b) k = b := Memory.get_set_same_from b w

/-- A read of any other byte finds what it found before. -/
theorem Memory.get_set_other (m : List Host.Cell) {k j : Nat} (b : Byte) (h : j ≠ k) :
    Memory.get (Memory.set m k b) j = Memory.get m j := by
  induction m with
  | nil =>
    simp only [Memory.set]
    split_ifs
    · rfl
    · simp [Memory.get, h.symm]
  | cons c m ih =>
    obtain ⟨a, x⟩ := c
    simp only [Memory.set]
    split_ifs with h1 h2 h2 h3
    · rfl
    · simp [Memory.get, h.symm]
    · subst h2
      simp [Memory.get, h.symm]
    · subst h2
      simp [Memory.get, h.symm]
    · simp only [Memory.get, ih]

/-- A read outside the bytes written finds what it found before. -/
theorem Memory.get_setN_other (m : List Host.Cell) {k j : Nat} (bs : List Byte) (h : j < k ∨ k + bs.length ≤ j) :
    Memory.get (Memory.setN m k bs) j = Memory.get m j := by
  induction bs generalizing m k with
  | nil => rfl
  | cons b bs ih =>
    simp only [List.length_cons] at h
    simp only [Memory.setN]
    rw [ih _ (by omega), Memory.get_set_other _ _ (by omega)]

/-- A read inside the bytes written finds them. -/
theorem Memory.get_setN_same {m : List Host.Cell} (k : Nat) (bs : List Byte) (w : Memory.wf m = true) {j : Nat}
    (h : j < bs.length) : Memory.get (Memory.setN m k bs) (k + j) = bs.getD j 0 := by
  induction bs generalizing m k j with
  | nil => simp at h
  | cons b bs ih =>
    simp only [Memory.setN]
    cases j with
    | zero =>
      rw [Memory.get_setN_other _ _ (by omega)]
      simpa using Memory.get_set_same k b w
    | succ j =>
      have := ih (k + 1) (Memory.wf_set k b w) (j := j) (by simpa using h)
      rw [show k + (j + 1) = k + 1 + j by omega, this]
      simp

/-- A cleared byte reads as zero, any other as before. -/
theorem Memory.get_clear (m : List Host.Cell) (k n j : Nat) :
    Memory.get (Memory.clear m k n) j = if k ≤ j ∧ j < k + n then 0 else Memory.get m j := by
  induction m with
  | nil => simp [Memory.clear, Memory.get]
  | cons c m ih =>
    obtain ⟨a, x⟩ := c
    simp only [Memory.clear] at ih
    simp only [Memory.clear, List.filter_cons]
    by_cases hc : k ≤ a ∧ a < k + n
    · simp only [hc.1, hc.2, decide_true, Bool.and_self, Bool.not_true, Bool.false_eq_true, if_false, ih]
      by_cases ha : a = j
      · subst ha
        simp [hc]
      · simp [Memory.get, ha]
    · have : (!(decide (k ≤ a) && decide (a < k + n))) = true := by simp; omega
      simp only [this, if_true, Memory.get, ih]
      by_cases ha : a = j
      · subst ha
        simp [hc]
      · simp [ha]

/-- A ring offset is found again from its stop and its address within the stop (01_engines R13): no two offsets share
both. -/
theorem ringOffset_of_stop (off : Nat) :
    stopAddress off / 4096 * 65536 + ringStop off * 4096 + stopAddress off % 4096 = off := by
  unfold stopAddress ringStop; omega

@[simp] theorem Memory.length_getN (m : List Host.Cell) (k n : Nat) : (Memory.getN m k n).length = n := by
  induction n generalizing k with
  | zero => rfl
  | succ n ih => simp [Memory.getN, ih]

/-- A byte of several read. -/
theorem Memory.getN_getD (m : List Host.Cell) (k n : Nat) {j : Nat} (h : j < n) :
    (Memory.getN m k n).getD j 0 = Memory.get m (k + j) := by
  induction n generalizing k j with
  | zero => omega
  | succ n ih =>
    cases j with
    | zero => simp [Memory.getN]
    | succ j =>
      have := ih (k + 1) (j := j) (by omega)
      rw [show k + (j + 1) = k + 1 + j by omega, ← this]
      simp [Memory.getN]

/-- What was written is read. -/
theorem Memory.getN_setN {m : List Host.Cell} (k : Nat) (bs : List Byte) (w : Memory.wf m = true) :
    Memory.getN (Memory.setN m k bs) k bs.length = bs := by
  induction bs generalizing m k with
  | nil => rfl
  | cons b bs ih =>
    simp only [List.length_cons, Memory.getN, Memory.setN]
    rw [ih (k + 1) (Memory.wf_set k b w), Memory.get_setN_other _ _ (by omega), Memory.get_set_same k b w]

/-! ### Finite maps -/

/-- The entry just given is found. -/
@[simp] theorem FMap.get?_set_same {β : Type} (m : FMap β) (n : Nat) (x : β) : (m.set n x).get? n = some x := by
  induction m with
  | nil => simp [FMap.set, FMap.get?]
  | cons c m ih =>
    obtain ⟨k, v⟩ := c
    simp only [FMap.set]
    split_ifs with h1 h2
    · simp [FMap.get?]
    · simp [FMap.get?]
    · have : k ≠ n := fun e => h2 e.symm
      simp [FMap.get?, this, ih]

/-- Any other entry is found as before. -/
theorem FMap.get?_set_other {β : Type} (m : FMap β) {n k : Nat} (x : β) (h : k ≠ n) :
    (m.set n x).get? k = m.get? k := by
  induction m with
  | nil => simp [FMap.set, FMap.get?, h.symm]
  | cons c m ih =>
    obtain ⟨a, v⟩ := c
    simp only [FMap.set]
    split_ifs with h1 h2
    · simp [FMap.get?, h.symm]
    · subst h2
      simp [FMap.get?, h.symm]
    · simp only [FMap.get?, ih]

@[simp] theorem FMap.getD_set_same {β : Type} (m : FMap β) (n : Nat) (x d : β) : (m.set n x).getD n d = x := by
  simp [FMap.getD]

theorem FMap.getD_set_other {β : Type} (m : FMap β) {n k : Nat} (x d : β) (h : k ≠ n) :
    (m.set n x).getD k d = m.getD k d := by
  simp [FMap.getD, FMap.get?_set_other m x h]

/-- An entry removed is not found. -/
@[simp] theorem FMap.get?_erase_same {β : Type} (m : FMap β) (n : Nat) : (m.erase n).get? n = none := by
  induction m with
  | nil => rfl
  | cons c m ih =>
    obtain ⟨a, v⟩ := c
    simp only [FMap.erase]
    split_ifs with h
    · exact ih
    · simp [FMap.get?, h, ih]

theorem FMap.get?_erase_other {β : Type} (m : FMap β) {n k : Nat} (h : k ≠ n) :
    (m.erase n).get? k = m.get? k := by
  induction m with
  | nil => rfl
  | cons c m ih =>
    obtain ⟨a, v⟩ := c
    simp only [FMap.erase]
    split_ifs with h1
    · subst h1
      simp [FMap.get?, h.symm, ih]
    · simp only [FMap.get?, ih]

end Sys2Proof.Machine
end

