-- ==== Sys2Proof/Laws/Ops.lean ====
section
/-! SUPPORT. What shared operations can do: the packets of a run, the cycle's bits of SATF, the count of a denial, and
where a loop closes. -/

namespace Sys2Proof.Machine

/-- The packets of a run carry each of its bytes once. -/
theorem packetsFrom_length (f : Nat) (p : Place) (len : Nat) (h : len ≤ f) :
    ((packetsFrom f p len).map Prod.snd).sum = len := by
  induction f generalizing p len with
  | zero => simp only [packetsFrom, List.map_nil, List.sum_nil]; omega
  | succ f ih =>
    unfold packetsFrom
    split
    · simp_all
    · have : 0 < min (256 - placeOffset p % 8) (4096 - placeOffset p % 4096) := by omega
      simp only [List.map_cons, List.sum_cons]
      rw [ih _ _ (by omega)]
      omega

/-- The packets of a run carry each of its bytes once. -/
theorem packetsOf_length (r : Run) : ((packetsOf r).map Prod.snd).sum = r.len := packetsFrom_length _ _ _ le_rfl

/-- No packet is longer than 256 bytes (15_fabric R359). -/
theorem packetsFrom_le (f : Nat) (p : Place) (len : Nat) : ∀ x ∈ packetsFrom f p len, x.2 ≤ 256 := by
  induction f generalizing p len with
  | zero => simp [packetsFrom]
  | succ f ih =>
    unfold packetsFrom
    split
    · simp
    · intro x hx
      rcases List.mem_cons.mp hx with rfl | hx
      · dsimp only; omega
      · exact ih _ _ x hx

/-- A completion sets its bits of SATF and clears none. -/
@[simp] theorem Ctx.setSatf_satf (c : Ctx) (now : Nat) (f : BitVec 6) : (c.setSatf now f).satf = c.satf ||| f := rfl

/-- What a completion sets in a cycle is kept in that cycle, with what earlier ones set. -/
@[simp] theorem Ctx.satKept_setSatf (c : Ctx) (now : Nat) (f : BitVec 6) :
    (c.setSatf now f).satKept now = c.satKept now ||| f := by simp [Ctx.setSatf, Ctx.satKept]

/-- A denial is counted, and nothing else changes. -/
theorem noteErr_denied (s : State) : s.noteErr (some .accessTable) = { s with sys := s.sys.count 9 1 } := rfl

/-- No error changes nothing. -/
@[simp] theorem noteErr_none (s : State) : s.noteErr none = s := rfl

/-- A loop closes at its close address and at the depth at which it began. -/
theorem closesAt_iff (e : LoopEntry) (c : Ctx) : e.closesAt c = true ↔ c.pc = e.close ∧ e.retDepth = c.ret.length := by
  simp [LoopEntry.closesAt]

/-- A bundle outside a REPEAT run raises T. -/
@[simp] theorem startsRun_none {c : Ctx} (h : c.rep = none) : startsRun c = true := by simp [startsRun, h]

end Sys2Proof.Machine
end

