-- ==== Sys2Proof/Laws/PerInstr.lean ====
section
/-! SUPPORT. Facts stated for each row of the table by itself. WordRange: the slot word of an instruction, its stop
bit aside, fits the 31 bits below the stop bit (02_bundles R27). -/

namespace Sys2Proof

theorem bitOf_lt (b : Bool) : bitOf b < 2 := by cases b <;> decide

theorem SSrc.code_lt (x : SSrc) : x.code < 60 := by
  cases x <;> simp only [SSrc.code] <;> omega

theorem VSrc.code_lt (x : VSrc) : x.code < 48 := by
  cases x <;> simp only [VSrc.code] <;> omega

theorem ElemTy.code_lt (x : ElemTy) : x.code < 8 := by cases x <;> decide

theorem MaskMode.code_lt (x : MaskMode) : x.code < 3 := by cases x <;> decide

theorem Cond.code_lt (x : Cond) : x.code < 6 := by cases x <;> decide

theorem VCond.code_lt (x : VCond) : x.code < 4 := by cases x <;> decide

theorem Size.code_lt (x : Size) : x.code < 4 := by cases x <;> decide

theorem Scope.code_lt (x : Scope) : x.code < 6 := by cases x <;> decide

theorem PlogOp.code_lt (x : PlogOp) : x.code < 8 := by cases x <;> decide

theorem CastKind.code_lt (x : CastKind) : x.code < 3 := by cases x <;> decide

theorem TinfoSel.code_lt (x : TinfoSel) : x.code < 8 := by cases x <;> decide

theorem TidSel.code_lt (x : TidSel) : x.code < 6 := by cases x <;> decide

theorem CopyMode.code_lt (x : CopyMode) : x.code < 5 := by cases x <;> decide

theorem RedOp.code_lt (x : RedOp) : x.code < 4 := by cases x <;> decide

theorem SaeOp.code_lt (x : SaeOp) : x.code < 5 := by cases x <;> decide

theorem AtomOp.code_lt (x : AtomOp) : x.code < 8 := by cases x <;> decide

theorem RepSel.code_lt (x : RepSel) : x.code < 3 := by cases x <;> decide

theorem SysReg.number_lt (x : SysReg) : x.number < 201 := by
  cases x <;> simp only [SysReg.number] <;> omega

theorem VAddr.bits_lt (x : VAddr) : x.bits < 131072 := by
  cases x with
  | tile h m =>
    have h0 := h.isLt
    have h1 := bitOf_lt m
    simp only [VAddr.bits]
    omega
  | generic m =>
    have h1 := bitOf_lt m
    simp only [VAddr.bits]
    omega

namespace Laws.WordRange

/-- The slot word of an instruction, if it has one, lies below the stop bit. -/
def Statement (i : Instr) : Prop := ∀ w, encode i = some w → w < 2 ^ 31

theorem of_some {i : Instr} {n : Nat} (h : encode i = some n) (hn : n < 2 ^ 31) : Statement i := fun w hw => by
  rw [h] at hw
  cases hw
  exact hn

theorem of_none {i : Instr} (h : encode i = none) : Statement i := fun w hw => by
  rw [h] at hw
  cases hw

theorem add (d : Fin 32) (a : SSrc) (b : SSrc) : Statement (.add d a b) := by
  refine of_some rfl ?_
  have h0 := d.isLt
  have h1 := SSrc.code_lt a
  have h2 := SSrc.code_lt b
  simp only [head, ops3]
  omega

theorem sub (d : Fin 32) (a : SSrc) (b : SSrc) : Statement (.sub d a b) := by
  refine of_some rfl ?_
  have h0 := d.isLt
  have h1 := SSrc.code_lt a
  have h2 := SSrc.code_lt b
  simp only [head, ops3]
  omega

theorem and (d : Fin 32) (a : SSrc) (b : SSrc) : Statement (.and d a b) := by
  refine of_some rfl ?_
  have h0 := d.isLt
  have h1 := SSrc.code_lt a
  have h2 := SSrc.code_lt b
  simp only [head, ops3]
  omega

theorem or (d : Fin 32) (a : SSrc) (b : SSrc) : Statement (.or d a b) := by
  refine of_some rfl ?_
  have h0 := d.isLt
  have h1 := SSrc.code_lt a
  have h2 := SSrc.code_lt b
  simp only [head, ops3]
  omega

theorem xor (d : Fin 32) (a : SSrc) (b : SSrc) : Statement (.xor d a b) := by
  refine of_some rfl ?_
  have h0 := d.isLt
  have h1 := SSrc.code_lt a
  have h2 := SSrc.code_lt b
  simp only [head, ops3]
  omega

theorem andn (d : Fin 32) (a : SSrc) (b : SSrc) : Statement (.andn d a b) := by
  refine of_some rfl ?_
  have h0 := d.isLt
  have h1 := SSrc.code_lt a
  have h2 := SSrc.code_lt b
  simp only [head, ops3]
  omega

theorem shl (d : Fin 32) (a : SSrc) (b : SSrc) : Statement (.shl d a b) := by
  refine of_some rfl ?_
  have h0 := d.isLt
  have h1 := SSrc.code_lt a
  have h2 := SSrc.code_lt b
  simp only [head, ops3]
  omega

theorem shr (d : Fin 32) (a : SSrc) (b : SSrc) : Statement (.shr d a b) := by
  refine of_some rfl ?_
  have h0 := d.isLt
  have h1 := SSrc.code_lt a
  have h2 := SSrc.code_lt b
  simp only [head, ops3]
  omega

theorem sar (d : Fin 32) (a : SSrc) (b : SSrc) : Statement (.sar d a b) := by
  refine of_some rfl ?_
  have h0 := d.isLt
  have h1 := SSrc.code_lt a
  have h2 := SSrc.code_lt b
  simp only [head, ops3]
  omega

theorem mul (d : Fin 32) (a : SSrc) (b : SSrc) : Statement (.mul d a b) := by
  refine of_some rfl ?_
  have h0 := d.isLt
  have h1 := SSrc.code_lt a
  have h2 := SSrc.code_lt b
  simp only [head, ops3]
  omega

theorem mulh (d : Fin 32) (a : SSrc) (b : SSrc) : Statement (.mulh d a b) := by
  refine of_some rfl ?_
  have h0 := d.isLt
  have h1 := SSrc.code_lt a
  have h2 := SSrc.code_lt b
  simp only [head, ops3]
  omega

theorem mulhu (d : Fin 32) (a : SSrc) (b : SSrc) : Statement (.mulhu d a b) := by
  refine of_some rfl ?_
  have h0 := d.isLt
  have h1 := SSrc.code_lt a
  have h2 := SSrc.code_lt b
  simp only [head, ops3]
  omega

theorem div (d : Fin 32) (a : SSrc) (b : SSrc) : Statement (.div d a b) := by
  refine of_some rfl ?_
  have h0 := d.isLt
  have h1 := SSrc.code_lt a
  have h2 := SSrc.code_lt b
  simp only [head, ops3]
  omega

theorem divu (d : Fin 32) (a : SSrc) (b : SSrc) : Statement (.divu d a b) := by
  refine of_some rfl ?_
  have h0 := d.isLt
  have h1 := SSrc.code_lt a
  have h2 := SSrc.code_lt b
  simp only [head, ops3]
  omega

theorem rem (d : Fin 32) (a : SSrc) (b : SSrc) : Statement (.rem d a b) := by
  refine of_some rfl ?_
  have h0 := d.isLt
  have h1 := SSrc.code_lt a
  have h2 := SSrc.code_lt b
  simp only [head, ops3]
  omega

theorem remu (d : Fin 32) (a : SSrc) (b : SSrc) : Statement (.remu d a b) := by
  refine of_some rfl ?_
  have h0 := d.isLt
  have h1 := SSrc.code_lt a
  have h2 := SSrc.code_lt b
  simp only [head, ops3]
  omega

theorem min (d : Fin 32) (a : SSrc) (b : SSrc) : Statement (.min d a b) := by
  refine of_some rfl ?_
  have h0 := d.isLt
  have h1 := SSrc.code_lt a
  have h2 := SSrc.code_lt b
  simp only [head, ops3]
  omega

theorem max (d : Fin 32) (a : SSrc) (b : SSrc) : Statement (.max d a b) := by
  refine of_some rfl ?_
  have h0 := d.isLt
  have h1 := SSrc.code_lt a
  have h2 := SSrc.code_lt b
  simp only [head, ops3]
  omega

theorem minu (d : Fin 32) (a : SSrc) (b : SSrc) : Statement (.minu d a b) := by
  refine of_some rfl ?_
  have h0 := d.isLt
  have h1 := SSrc.code_lt a
  have h2 := SSrc.code_lt b
  simp only [head, ops3]
  omega

theorem maxu (d : Fin 32) (a : SSrc) (b : SSrc) : Statement (.maxu d a b) := by
  refine of_some rfl ?_
  have h0 := d.isLt
  have h1 := SSrc.code_lt a
  have h2 := SSrc.code_lt b
  simp only [head, ops3]
  omega

theorem clz (d : Fin 32) (a : SSrc) : Statement (.clz d a) := by
  refine of_some rfl ?_
  have h0 := d.isLt
  have h1 := SSrc.code_lt a
  simp only [head, ops3]
  omega

theorem cls (d : Fin 32) (a : SSrc) : Statement (.cls d a) := by
  refine of_some rfl ?_
  have h0 := d.isLt
  have h1 := SSrc.code_lt a
  simp only [head, ops3]
  omega

theorem popc (d : Fin 32) (a : SSrc) : Statement (.popc d a) := by
  refine of_some rfl ?_
  have h0 := d.isLt
  have h1 := SSrc.code_lt a
  simp only [head, ops3]
  omega

theorem ext (d : Fin 32) (a : SSrc) (b : SSrc) (sgn : Bool) : Statement (.ext d a b sgn) := by
  refine of_some rfl ?_
  have h0 := d.isLt
  have h1 := SSrc.code_lt a
  have h2 := SSrc.code_lt b
  have h3 := bitOf_lt sgn
  simp only [head, ops3]
  omega

theorem addi (d : Fin 32) (a : SSrc) (imm : BitVec 11) : Statement (.addi d a imm) := by
  refine of_some rfl ?_
  have h0 := d.isLt
  have h1 := SSrc.code_lt a
  have h2 := imm.isLt
  simp only [head, opsI]
  omega

theorem andi (d : Fin 32) (a : SSrc) (imm : BitVec 11) : Statement (.andi d a imm) := by
  refine of_some rfl ?_
  have h0 := d.isLt
  have h1 := SSrc.code_lt a
  have h2 := imm.isLt
  simp only [head, opsI]
  omega

theorem ori (d : Fin 32) (a : SSrc) (imm : BitVec 11) : Statement (.ori d a imm) := by
  refine of_some rfl ?_
  have h0 := d.isLt
  have h1 := SSrc.code_lt a
  have h2 := imm.isLt
  simp only [head, opsI]
  omega

theorem xori (d : Fin 32) (a : SSrc) (imm : BitVec 11) : Statement (.xori d a imm) := by
  refine of_some rfl ?_
  have h0 := d.isLt
  have h1 := SSrc.code_lt a
  have h2 := imm.isLt
  simp only [head, opsI]
  omega

theorem shli (d : Fin 32) (a : SSrc) (imm : BitVec 11) : Statement (.shli d a imm) := by
  refine of_some rfl ?_
  have h0 := d.isLt
  have h1 := SSrc.code_lt a
  have h2 := imm.isLt
  simp only [head, opsI]
  omega

theorem shri (d : Fin 32) (a : SSrc) (imm : BitVec 11) : Statement (.shri d a imm) := by
  refine of_some rfl ?_
  have h0 := d.isLt
  have h1 := SSrc.code_lt a
  have h2 := imm.isLt
  simp only [head, opsI]
  omega

theorem sari (d : Fin 32) (a : SSrc) (imm : BitVec 11) : Statement (.sari d a imm) := by
  refine of_some rfl ?_
  have h0 := d.isLt
  have h1 := SSrc.code_lt a
  have h2 := imm.isLt
  simp only [head, opsI]
  omega

theorem lih (d : Fin 32) (imm : BitVec 17) : Statement (.lih d imm) := by
  refine of_some rfl ?_
  have h0 := d.isLt
  have h1 := imm.isLt
  simp only [head, opsI]
  omega

theorem cmp (p : Fin 16) (a : SSrc) (b : SSrc) (c : Cond) : Statement (.cmp p a b c) := by
  refine of_some rfl ?_
  have h0 := p.isLt
  have h1 := SSrc.code_lt a
  have h2 := SSrc.code_lt b
  have h3 := Cond.code_lt c
  simp only [head, ops3]
  omega

theorem cmpi (p : Fin 16) (a : SSrc) (c : Cond) (imm : BitVec 8) : Statement (.cmpi p a c imm) := by
  refine of_some rfl ?_
  have h0 := p.isLt
  have h1 := SSrc.code_lt a
  have h2 := Cond.code_lt c
  have h3 := imm.isLt
  simp only [head, opsI]
  omega

theorem sel (d : Fin 32) (a : SSrc) (b : SSrc) (neg : Bool) (p : Fin 16) : Statement (.sel d a b neg p) := by
  refine of_some rfl ?_
  have h0 := d.isLt
  have h1 := SSrc.code_lt a
  have h2 := SSrc.code_lt b
  have h3 := bitOf_lt neg
  have h4 := p.isLt
  simp only [head, ops3]
  omega

theorem plog (d : Fin 16) (a : Fin 16) (b : Fin 16) (o : PlogOp) : Statement (.plog d a b o) := by
  refine of_some rfl ?_
  have h0 := d.isLt
  have h1 := a.isLt
  have h2 := b.isLt
  have h3 := PlogOp.code_lt o
  simp only [head, ops3]
  omega

theorem ld (d : Fin 32) (a : SSrc) (b : SSrc) (z : Size) (sgn : Bool) : Statement (.ld d a b z sgn) := by
  refine of_some rfl ?_
  have h0 := d.isLt
  have h1 := SSrc.code_lt a
  have h2 := SSrc.code_lt b
  have h3 := Size.code_lt z
  have h4 := bitOf_lt sgn
  simp only [head, ops3]
  omega

theorem st (d : Fin 32) (a : SSrc) (b : SSrc) (z : Size) : Statement (.st d a b z) := by
  refine of_some rfl ?_
  have h0 := d.isLt
  have h1 := SSrc.code_lt a
  have h2 := SSrc.code_lt b
  have h3 := Size.code_lt z
  simp only [head, ops3]
  omega

theorem ldAcq (d : Fin 32) (a : SSrc) (b : SSrc) (z : Size) (o : Scope) : Statement (.ldAcq d a b z o) := by
  refine of_some rfl ?_
  have h0 := d.isLt
  have h1 := SSrc.code_lt a
  have h2 := SSrc.code_lt b
  have h3 := Size.code_lt z
  have h4 := Scope.code_lt o
  simp only [head, ops3]
  omega

theorem stRel (d : Fin 32) (a : SSrc) (b : SSrc) (z : Size) (o : Scope) : Statement (.stRel d a b z o) := by
  refine of_some rfl ?_
  have h0 := d.isLt
  have h1 := SSrc.code_lt a
  have h2 := SSrc.code_lt b
  have h3 := Size.code_lt z
  have h4 := Scope.code_lt o
  simp only [head, ops3]
  omega

theorem spcq (d : Fin 32) (a : SSrc) : Statement (.spcq d a) := by
  refine of_some rfl ?_
  have h0 := d.isLt
  have h1 := SSrc.code_lt a
  simp only [head, ops3]
  omega

theorem spcast (d : Fin 32) (a : SSrc) (b : SSrc) (k : CastKind) : Statement (.spcast d a b k) := by
  refine of_some rfl ?_
  have h0 := d.isLt
  have h1 := SSrc.code_lt a
  have h2 := SSrc.code_lt b
  have h3 := CastKind.code_lt k
  simp only [head, ops3]
  omega

theorem xlt (x : Fin 8) (a : SSrc) (w : Bool) : Statement (.xlt x a w) := by
  refine of_some rfl ?_
  have h0 := x.isLt
  have h1 := SSrc.code_lt a
  have h2 := bitOf_lt w
  simp only [head, ops3]
  omega

theorem setmf (a : SSrc) (b : SSrc) : Statement (.setmf a b) := by
  refine of_some rfl ?_
  have h0 := SSrc.code_lt a
  have h1 := SSrc.code_lt b
  simp only [head, ops3]
  omega

theorem setvf (a : SSrc) (b : SSrc) : Statement (.setvf a b) := by
  refine of_some rfl ?_
  have h0 := SSrc.code_lt a
  have h1 := SSrc.code_lt b
  simp only [head, ops3]
  omega

theorem mfs (d : Fin 32) (n : SysReg) : Statement (.mfs d n) := by
  refine of_some rfl ?_
  have h0 := d.isLt
  have h1 := SysReg.number_lt n
  simp only [head, opsI]
  omega

theorem mts (a : SSrc) (n : SysReg) : Statement (.mts a n) := by
  refine of_some rfl ?_
  have h0 := SSrc.code_lt a
  have h1 := SysReg.number_lt n
  simp only [head, opsI]
  omega

theorem chk (a : SSrc) (b : SSrc) : Statement (.chk a b) := by
  refine of_some rfl ?_
  have h0 := SSrc.code_lt a
  have h1 := SSrc.code_lt b
  simp only [head, ops3]
  omega

theorem tinfo (d : Fin 32) (a : SSrc) (f : TinfoSel) : Statement (.tinfo d a f) := by
  refine of_some rfl ?_
  have h0 := d.isLt
  have h1 := SSrc.code_lt a
  have h2 := TinfoSel.code_lt f
  simp only [head, ops3]
  omega

theorem tsets (a : SSrc) (b : SSrc) : Statement (.tsets a b) := by
  refine of_some rfl ?_
  have h0 := SSrc.code_lt a
  have h1 := SSrc.code_lt b
  simp only [head, ops3]
  omega

theorem rng (d : Fin 32) (a : SSrc) (b : SSrc) : Statement (.rng d a b) := by
  refine of_some rfl ?_
  have h0 := d.isLt
  have h1 := SSrc.code_lt a
  have h2 := SSrc.code_lt b
  simp only [head, ops3]
  omega

theorem vadd (d : Fin 32) (a : VSrc) (b : VSrc) (t : ElemTy) (m : MaskMode) : Statement (.vadd d a b t m) := by
  refine of_some rfl ?_
  have h0 := d.isLt
  have h1 := VSrc.code_lt a
  have h2 := VSrc.code_lt b
  have h3 := ElemTy.code_lt t
  have h4 := MaskMode.code_lt m
  simp only [head, ops3, tm]
  omega

theorem vsub (d : Fin 32) (a : VSrc) (b : VSrc) (t : ElemTy) (m : MaskMode) : Statement (.vsub d a b t m) := by
  refine of_some rfl ?_
  have h0 := d.isLt
  have h1 := VSrc.code_lt a
  have h2 := VSrc.code_lt b
  have h3 := ElemTy.code_lt t
  have h4 := MaskMode.code_lt m
  simp only [head, ops3, tm]
  omega

theorem vadds (d : Fin 32) (a : VSrc) (b : VSrc) (t : ElemTy) (m : MaskMode) : Statement (.vadds d a b t m) := by
  refine of_some rfl ?_
  have h0 := d.isLt
  have h1 := VSrc.code_lt a
  have h2 := VSrc.code_lt b
  have h3 := ElemTy.code_lt t
  have h4 := MaskMode.code_lt m
  simp only [head, ops3, tm]
  omega

theorem vsubs (d : Fin 32) (a : VSrc) (b : VSrc) (t : ElemTy) (m : MaskMode) : Statement (.vsubs d a b t m) := by
  refine of_some rfl ?_
  have h0 := d.isLt
  have h1 := VSrc.code_lt a
  have h2 := VSrc.code_lt b
  have h3 := ElemTy.code_lt t
  have h4 := MaskMode.code_lt m
  simp only [head, ops3, tm]
  omega

theorem vmul (d : Fin 32) (a : VSrc) (b : VSrc) (t : ElemTy) (m : MaskMode) : Statement (.vmul d a b t m) := by
  refine of_some rfl ?_
  have h0 := d.isLt
  have h1 := VSrc.code_lt a
  have h2 := VSrc.code_lt b
  have h3 := ElemTy.code_lt t
  have h4 := MaskMode.code_lt m
  simp only [head, ops3, tm]
  omega

theorem vmulhr (d : Fin 32) (a : VSrc) (b : VSrc) (t : ElemTy) (m : MaskMode) : Statement (.vmulhr d a b t m) := by
  refine of_some rfl ?_
  have h0 := d.isLt
  have h1 := VSrc.code_lt a
  have h2 := VSrc.code_lt b
  have h3 := ElemTy.code_lt t
  have h4 := MaskMode.code_lt m
  simp only [head, ops3, tm]
  omega

theorem vmin (d : Fin 32) (a : VSrc) (b : VSrc) (t : ElemTy) (m : MaskMode) : Statement (.vmin d a b t m) := by
  refine of_some rfl ?_
  have h0 := d.isLt
  have h1 := VSrc.code_lt a
  have h2 := VSrc.code_lt b
  have h3 := ElemTy.code_lt t
  have h4 := MaskMode.code_lt m
  simp only [head, ops3, tm]
  omega

theorem vmax (d : Fin 32) (a : VSrc) (b : VSrc) (t : ElemTy) (m : MaskMode) : Statement (.vmax d a b t m) := by
  refine of_some rfl ?_
  have h0 := d.isLt
  have h1 := VSrc.code_lt a
  have h2 := VSrc.code_lt b
  have h3 := ElemTy.code_lt t
  have h4 := MaskMode.code_lt m
  simp only [head, ops3, tm]
  omega

theorem vabs (d : Fin 32) (a : VSrc) (t : ElemTy) (m : MaskMode) : Statement (.vabs d a t m) := by
  refine of_some rfl ?_
  have h0 := d.isLt
  have h1 := VSrc.code_lt a
  have h2 := ElemTy.code_lt t
  have h3 := MaskMode.code_lt m
  simp only [head, ops3, tm]
  omega

theorem vneg (d : Fin 32) (a : VSrc) (t : ElemTy) (m : MaskMode) : Statement (.vneg d a t m) := by
  refine of_some rfl ?_
  have h0 := d.isLt
  have h1 := VSrc.code_lt a
  have h2 := ElemTy.code_lt t
  have h3 := MaskMode.code_lt m
  simp only [head, ops3, tm]
  omega

theorem vand (d : Fin 32) (a : VSrc) (b : VSrc) (t : ElemTy) (m : MaskMode) : Statement (.vand d a b t m) := by
  refine of_some rfl ?_
  have h0 := d.isLt
  have h1 := VSrc.code_lt a
  have h2 := VSrc.code_lt b
  have h3 := ElemTy.code_lt t
  have h4 := MaskMode.code_lt m
  simp only [head, ops3, tm]
  omega

theorem vor (d : Fin 32) (a : VSrc) (b : VSrc) (t : ElemTy) (m : MaskMode) : Statement (.vor d a b t m) := by
  refine of_some rfl ?_
  have h0 := d.isLt
  have h1 := VSrc.code_lt a
  have h2 := VSrc.code_lt b
  have h3 := ElemTy.code_lt t
  have h4 := MaskMode.code_lt m
  simp only [head, ops3, tm]
  omega

theorem vxor (d : Fin 32) (a : VSrc) (b : VSrc) (t : ElemTy) (m : MaskMode) : Statement (.vxor d a b t m) := by
  refine of_some rfl ?_
  have h0 := d.isLt
  have h1 := VSrc.code_lt a
  have h2 := VSrc.code_lt b
  have h3 := ElemTy.code_lt t
  have h4 := MaskMode.code_lt m
  simp only [head, ops3, tm]
  omega

theorem vshl (d : Fin 32) (a : VSrc) (b : VSrc) (t : ElemTy) (m : MaskMode) : Statement (.vshl d a b t m) := by
  refine of_some rfl ?_
  have h0 := d.isLt
  have h1 := VSrc.code_lt a
  have h2 := VSrc.code_lt b
  have h3 := ElemTy.code_lt t
  have h4 := MaskMode.code_lt m
  simp only [head, ops3, tm]
  omega

theorem vshr (d : Fin 32) (a : VSrc) (b : VSrc) (t : ElemTy) (m : MaskMode) : Statement (.vshr d a b t m) := by
  refine of_some rfl ?_
  have h0 := d.isLt
  have h1 := VSrc.code_lt a
  have h2 := VSrc.code_lt b
  have h3 := ElemTy.code_lt t
  have h4 := MaskMode.code_lt m
  simp only [head, ops3, tm]
  omega

theorem vsar (d : Fin 32) (a : VSrc) (b : VSrc) (t : ElemTy) (m : MaskMode) : Statement (.vsar d a b t m) := by
  refine of_some rfl ?_
  have h0 := d.isLt
  have h1 := VSrc.code_lt a
  have h2 := VSrc.code_lt b
  have h3 := ElemTy.code_lt t
  have h4 := MaskMode.code_lt m
  simp only [head, ops3, tm]
  omega

theorem vshli (d : Fin 32) (a : VSrc) (imm : BitVec 6) (t : ElemTy) (m : MaskMode) : Statement (.vshli d a imm t m) := by
  refine of_some rfl ?_
  have h0 := d.isLt
  have h1 := VSrc.code_lt a
  have h2 := imm.isLt
  have h3 := ElemTy.code_lt t
  have h4 := MaskMode.code_lt m
  simp only [head, ops3, tm]
  omega

theorem vsari (d : Fin 32) (a : VSrc) (imm : BitVec 6) (t : ElemTy) (m : MaskMode) : Statement (.vsari d a imm t m) := by
  refine of_some rfl ?_
  have h0 := d.isLt
  have h1 := VSrc.code_lt a
  have h2 := imm.isLt
  have h3 := ElemTy.code_lt t
  have h4 := MaskMode.code_lt m
  simp only [head, ops3, tm]
  omega

theorem vrshr (d : Fin 32) (a : VSrc) (b : SSrc) (t : ElemTy) (m : MaskMode) : Statement (.vrshr d a b t m) := by
  refine of_some rfl ?_
  have h0 := d.isLt
  have h1 := VSrc.code_lt a
  have h2 := SSrc.code_lt b
  have h3 := ElemTy.code_lt t
  have h4 := MaskMode.code_lt m
  simp only [head, ops3, tm]
  omega

theorem vcvt (d : Fin 32) (a : VSrc) (b : SSrc) (t : ElemTy) (m : MaskMode) : Statement (.vcvt d a b t m) := by
  refine of_some rfl ?_
  have h0 := d.isLt
  have h1 := VSrc.code_lt a
  have h2 := SSrc.code_lt b
  have h3 := ElemTy.code_lt t
  have h4 := MaskMode.code_lt m
  simp only [head, ops3, tm]
  omega

theorem vcmp (d : Fin 32) (a : VSrc) (b : VSrc) (t : ElemTy) (c : VCond) : Statement (.vcmp d a b t c) := by
  refine of_some rfl ?_
  have h0 := d.isLt
  have h1 := VSrc.code_lt a
  have h2 := VSrc.code_lt b
  have h3 := ElemTy.code_lt t
  have h4 := VCond.code_lt c
  simp only [head, ops3]
  omega

theorem vsel (d : Fin 32) (a : VSrc) (b : VSrc) (t : ElemTy) : Statement (.vsel d a b t) := by
  refine of_some rfl ?_
  have h0 := d.isLt
  have h1 := VSrc.code_lt a
  have h2 := VSrc.code_lt b
  have h3 := ElemTy.code_lt t
  simp only [head, ops3]
  omega

theorem vbcast (d : Fin 32) (a : SSrc) (t : ElemTy) (m : MaskMode) : Statement (.vbcast d a t m) := by
  refine of_some rfl ?_
  have h0 := d.isLt
  have h1 := SSrc.code_lt a
  have h2 := ElemTy.code_lt t
  have h3 := MaskMode.code_lt m
  simp only [head, ops3, tm]
  omega

theorem vextr (d : Fin 32) (a : VSrc) (b : SSrc) (t : ElemTy) : Statement (.vextr d a b t) := by
  refine of_some rfl ?_
  have h0 := d.isLt
  have h1 := VSrc.code_lt a
  have h2 := SSrc.code_lt b
  have h3 := ElemTy.code_lt t
  simp only [head, ops3]
  omega

theorem vperm (d : Fin 32) (a : VSrc) (b : VSrc) (t : ElemTy) (m : MaskMode) : Statement (.vperm d a b t m) := by
  refine of_some rfl ?_
  have h0 := d.isLt
  have h1 := VSrc.code_lt a
  have h2 := VSrc.code_lt b
  have h3 := ElemTy.code_lt t
  have h4 := MaskMode.code_lt m
  simp only [head, ops3, tm]
  omega

theorem vslide (d : Fin 32) (a : VSrc) (b : SSrc) (t : ElemTy) (m : MaskMode) : Statement (.vslide d a b t m) := by
  refine of_some rfl ?_
  have h0 := d.isLt
  have h1 := VSrc.code_lt a
  have h2 := SSrc.code_lt b
  have h3 := ElemTy.code_lt t
  have h4 := MaskMode.code_lt m
  simp only [head, ops3, tm]
  omega

theorem vrsum (d : Fin 32) (a : VSrc) (t : ElemTy) (m : MaskMode) : Statement (.vrsum d a t m) := by
  refine of_some rfl ?_
  have h0 := d.isLt
  have h1 := VSrc.code_lt a
  have h2 := ElemTy.code_lt t
  have h3 := MaskMode.code_lt m
  simp only [head, ops3, tm]
  omega

theorem vrmax (d : Fin 32) (a : VSrc) (t : ElemTy) (m : MaskMode) : Statement (.vrmax d a t m) := by
  refine of_some rfl ?_
  have h0 := d.isLt
  have h1 := VSrc.code_lt a
  have h2 := ElemTy.code_lt t
  have h3 := MaskMode.code_lt m
  simp only [head, ops3, tm]
  omega

theorem vrmin (d : Fin 32) (a : VSrc) (t : ElemTy) (m : MaskMode) : Statement (.vrmin d a t m) := by
  refine of_some rfl ?_
  have h0 := d.isLt
  have h1 := VSrc.code_lt a
  have h2 := ElemTy.code_lt t
  have h3 := MaskMode.code_lt m
  simp only [head, ops3, tm]
  omega

theorem vscan (d : Fin 32) (a : VSrc) (t : ElemTy) (m : MaskMode) : Statement (.vscan d a t m) := by
  refine of_some rfl ?_
  have h0 := d.isLt
  have h1 := VSrc.code_lt a
  have h2 := ElemTy.code_lt t
  have h3 := MaskMode.code_lt m
  simp only [head, ops3, tm]
  omega

theorem vdot (d : Fin 32) (a : VSrc) (b : VSrc) (t : ElemTy) (m : MaskMode) : Statement (.vdot d a b t m) := by
  refine of_some rfl ?_
  have h0 := d.isLt
  have h1 := VSrc.code_lt a
  have h2 := VSrc.code_lt b
  have h3 := ElemTy.code_lt t
  have h4 := MaskMode.code_lt m
  simp only [head, ops3, tm]
  omega

theorem vcls (d : Fin 32) (a : VSrc) (t : ElemTy) (m : MaskMode) : Statement (.vcls d a t m) := by
  refine of_some rfl ?_
  have h0 := d.isLt
  have h1 := VSrc.code_lt a
  have h2 := ElemTy.code_lt t
  have h3 := MaskMode.code_lt m
  simp only [head, ops3, tm]
  omega

theorem vcensus (d : Fin 32) (a : VSrc) (t : ElemTy) (m : MaskMode) : Statement (.vcensus d a t m) := by
  refine of_some rfl ?_
  have h0 := d.isLt
  have h1 := VSrc.code_lt a
  have h2 := ElemTy.code_lt t
  have h3 := MaskMode.code_lt m
  simp only [head, ops3, tm]
  omega

theorem vld (x : Fin 32) (k : VAddr) (a : SSrc) : Statement (.vld x k a) := by
  refine of_some rfl ?_
  have h0 := x.isLt
  have h1 := VAddr.bits_lt k
  have h2 := SSrc.code_lt a
  simp only [head]
  omega

theorem vst (x : Fin 32) (k : VAddr) (a : SSrc) : Statement (.vst x k a) := by
  refine of_some rfl ?_
  have h0 := x.isLt
  have h1 := VAddr.bits_lt k
  have h2 := SSrc.code_lt a
  simp only [head]
  omega

theorem vldx (x : Fin 32) (h : BitVec 8) (a : VSrc) (masked : Bool) : Statement (.vldx x h a masked) := by
  refine of_some rfl ?_
  have h0 := x.isLt
  have h1 := h.isLt
  have h2 := VSrc.code_lt a
  have h3 := bitOf_lt masked
  simp only [head]
  omega

theorem vstx (x : Fin 32) (h : BitVec 8) (a : VSrc) (masked : Bool) : Statement (.vstx x h a masked) := by
  refine of_some rfl ?_
  have h0 := x.isLt
  have h1 := h.isLt
  have h2 := VSrc.code_lt a
  have h3 := bitOf_lt masked
  simp only [head]
  omega

theorem mpush (a : VSrc) (t : ElemTy) : Statement (.mpush a t) := by
  refine of_some rfl ?_
  have h0 := VSrc.code_lt a
  have h1 := ElemTy.code_lt t
  simp only [head, ops3]
  omega

theorem mget (d : Fin 32) (t : ElemTy) : Statement (.mget d t) := by
  refine of_some rfl ?_
  have h0 := d.isLt
  have h1 := ElemTy.code_lt t
  simp only [head, ops3]
  omega

theorem vfn (d : Fin 32) (a : VSrc) (b : Fin 16) (t : ElemTy) (m : MaskMode) : Statement (.vfn d a b t m) := by
  refine of_some rfl ?_
  have h0 := d.isLt
  have h1 := VSrc.code_lt a
  have h2 := b.isLt
  have h3 := ElemTy.code_lt t
  have h4 := MaskMode.code_lt m
  simp only [head, ops3, tm]
  omega

theorem vfnld (x : Fin 8) (k : VfAddr) (a : SSrc) : Statement (.vfnld x k a) := by
  have h0 := x.isLt
  have h1 := SSrc.code_lt a
  cases k with
  | tile h8 =>
    have h2 := h8.isLt
    exact of_some rfl (by simp only [head]; omega)
  | generic => exact of_some rfl (by simp only [head]; omega)

theorem vdiv (d : Fin 32) (a : VSrc) (b : VSrc) (t : ElemTy) (m : MaskMode) : Statement (.vdiv d a b t m) := by
  refine of_some rfl ?_
  have h0 := d.isLt
  have h1 := VSrc.code_lt a
  have h2 := VSrc.code_lt b
  have h3 := ElemTy.code_lt t
  have h4 := MaskMode.code_lt m
  simp only [head, ops3, tm]
  omega

theorem vopt (r : OptRule) (h : BitVec 8) (a : SSrc) : Statement (.vopt r h a) := by
  have h1 := SSrc.code_lt a
  have h2 := h.isLt
  cases r <;> exact of_some rfl (by simp only [head]; omega)

theorem vchk (a : VSrc) (b : VSrc) : Statement (.vchk a b) := by
  refine of_some rfl ?_
  have h0 := VSrc.code_lt a
  have h1 := VSrc.code_lt b
  simp only [head, ops3]
  omega

theorem vres (d : Fin 32) : Statement (.vres d) := by
  refine of_some rfl ?_
  have h0 := d.isLt
  simp only [head, ops3]
  omega

theorem mma (x : Fin 64) (h : BitVec 8) (k : BitVec 8) : Statement (.mma x h k) := by
  refine of_some rfl ?_
  have h0 := x.isLt
  have h1 := h.isLt
  have h2 := k.isLt
  simp only [head, opsT]
  omega

theorem mmaz (x : Fin 64) (h : BitVec 8) (k : BitVec 8) : Statement (.mmaz x h k) := by
  refine of_some rfl ?_
  have h0 := x.isLt
  have h1 := h.isLt
  have h2 := k.isLt
  simp only [head, opsT]
  omega

theorem mmat (x : Fin 64) (h : BitVec 8) (k : BitVec 8) : Statement (.mmat x h k) := by
  refine of_some rfl ?_
  have h0 := x.isLt
  have h1 := h.isLt
  have h2 := k.isLt
  simp only [head, opsT]
  omega

theorem mmbt (x : Fin 64) (h : BitVec 8) (k : BitVec 8) : Statement (.mmbt x h k) := by
  refine of_some rfl ?_
  have h0 := x.isLt
  have h1 := h.isLt
  have h2 := k.isLt
  simp only [head, opsT]
  omega

theorem mmac (x : Fin 64) (h : BitVec 8) (y : Fin 64) : Statement (.mmac x h y) := by
  refine of_some rfl ?_
  have h0 := x.isLt
  have h1 := h.isLt
  have h2 := y.isLt
  simp only [head, opsT]
  omega

theorem mout (x : Fin 64) (h : BitVec 8) (sh : Fin 41) : Statement (.mout x h sh) := by
  refine of_some rfl ?_
  have h0 := x.isLt
  have h1 := h.isLt
  have h2 := sh.isLt
  simp only [head, opsT]
  omega

theorem mload (x : Fin 64) (h : BitVec 8) (sh : BitVec 8) : Statement (.mload x h sh) := by
  refine of_some rfl ?_
  have h0 := x.isLt
  have h1 := h.isLt
  have h2 := sh.isLt
  simp only [head, opsT]
  omega

theorem madd (x : Fin 64) (h : BitVec 8) (sh : BitVec 8) : Statement (.madd x h sh) := by
  refine of_some rfl ?_
  have h0 := x.isLt
  have h1 := h.isLt
  have h2 := sh.isLt
  simp only [head, opsT]
  omega

theorem mzero (x : Fin 64) (r : Fin 128) (c : Fin 128) : Statement (.mzero x r c) := by
  refine of_some rfl ?_
  have h0 := x.isLt
  have h1 := r.isLt
  have h2 := c.isLt
  simp only [head, opsT]
  omega

theorem mcens (x : Fin 64) : Statement (.mcens x) := by
  refine of_some rfl ?_
  have h0 := x.isLt
  simp only [head, opsT]
  omega

theorem mbias (x : Fin 64) (h : BitVec 8) (col : Bool) : Statement (.mbias x h col) := by
  refine of_some rfl ?_
  have h0 := x.isLt
  have h1 := h.isLt
  have h2 := bitOf_lt col
  simp only [head, opsT]
  omega

theorem copy (n : Fin 2) (a : SSrc) (b : SSrc) (c : SSrc) (f : CopyMode) : Statement (.copy n a b c f) := by
  refine of_some rfl ?_
  have h0 := n.isLt
  have h1 := SSrc.code_lt a
  have h2 := SSrc.code_lt b
  have h3 := SSrc.code_lt c
  have h4 := CopyMode.code_lt f
  simp only [head, opsC]
  omega

theorem copyg (n : Fin 2) (a : SSrc) (b : SSrc) (c : SSrc) : Statement (.copyg n a b c) := by
  refine of_some rfl ?_
  have h0 := n.isLt
  have h1 := SSrc.code_lt a
  have h2 := SSrc.code_lt b
  have h3 := SSrc.code_lt c
  simp only [head, opsC]
  omega

theorem copys (n : Fin 2) (a : SSrc) (b : SSrc) (c : SSrc) : Statement (.copys n a b c) := by
  refine of_some rfl ?_
  have h0 := n.isLt
  have h1 := SSrc.code_lt a
  have h2 := SSrc.code_lt b
  have h3 := SSrc.code_lt c
  simp only [head, opsC]
  omega

theorem copyr (n : Fin 2) (a : SSrc) (b : SSrc) (c : SSrc) (f : RedOp) : Statement (.copyr n a b c f) := by
  refine of_some rfl ?_
  have h0 := n.isLt
  have h1 := SSrc.code_lt a
  have h2 := SSrc.code_lt b
  have h3 := SSrc.code_lt c
  have h4 := RedOp.code_lt f
  simp only [head, opsC]
  omega

theorem saeq (n : Fin 2) (a : SSrc) (b : SSrc) (c : SSrc) (f : SaeOp) : Statement (.saeq n a b c f) := by
  refine of_some rfl ?_
  have h0 := n.isLt
  have h1 := SSrc.code_lt a
  have h2 := SSrc.code_lt b
  have h3 := SSrc.code_lt c
  have h4 := SaeOp.code_lt f
  simp only [head, opsC]
  omega

theorem saef (n : Fin 2) (a : SSrc) (b : SSrc) (c : SSrc) (f : SaeOp) : Statement (.saef n a b c f) := by
  refine of_some rfl ?_
  have h0 := n.isLt
  have h1 := SSrc.code_lt a
  have h2 := SSrc.code_lt b
  have h3 := SSrc.code_lt c
  have h4 := SaeOp.code_lt f
  simp only [head, opsC]
  omega

theorem atom (n : Fin 2) (a : SSrc) (b : SSrc) (c : SSrc) (f : AtomOp) : Statement (.atom n a b c f) := by
  refine of_some rfl ?_
  have h0 := n.isLt
  have h1 := SSrc.code_lt a
  have h2 := SSrc.code_lt b
  have h3 := SSrc.code_lt c
  have h4 := AtomOp.code_lt f
  simp only [head, opsC]
  omega

theorem signal (n : Fin 2) (a : SSrc) (b : SSrc) (plus : Bool) (f : Scope) : Statement (.signal n a b plus f) := by
  refine of_some rfl ?_
  have h0 := n.isLt
  have h1 := SSrc.code_lt a
  have h2 := SSrc.code_lt b
  have h3 := bitOf_lt plus
  have h4 := Scope.code_lt f
  simp only [head, opsC]
  omega

theorem pgreq (n : Fin 2) (a : SSrc) (b : SSrc) (w : Bool) : Statement (.pgreq n a b w) := by
  refine of_some rfl ?_
  have h0 := n.isLt
  have h1 := SSrc.code_lt a
  have h2 := SSrc.code_lt b
  have h3 := bitOf_lt w
  simp only [head, opsC]
  omega

theorem migr (n : Fin 2) (a : SSrc) (b : SSrc) (c : SSrc) : Statement (.migr n a b c) := by
  refine of_some rfl ?_
  have h0 := n.isLt
  have h1 := SSrc.code_lt a
  have h2 := SSrc.code_lt b
  have h3 := SSrc.code_lt c
  simp only [head, opsC]
  omega

theorem cgld (n : Fin 2) (a : SSrc) (b : SSrc) (clr : Bool) : Statement (.cgld n a b clr) := by
  refine of_some rfl ?_
  have h0 := n.isLt
  have h1 := SSrc.code_lt a
  have h2 := SSrc.code_lt b
  have h3 := bitOf_lt clr
  simp only [head, opsC]
  omega

theorem prep (b : Fin 8) (off : BitVec 19) : Statement (.prep b off) := by
  refine of_some rfl ?_
  have h0 := b.isLt
  have h1 := off.isLt
  simp only [head]
  omega

theorem prepr (b : Fin 8) (a : SSrc) : Statement (.prepr b a) := by
  refine of_some rfl ?_
  have h0 := b.isLt
  have h1 := SSrc.code_lt a
  simp only [head]
  omega

theorem br (b : Fin 8) (p : Fin 16) (neg : Bool) (always : Bool) : Statement (.br b p neg always) := by
  refine of_some rfl ?_
  have h0 := b.isLt
  have h1 := p.isLt
  have h2 := bitOf_lt neg
  have h3 := bitOf_lt always
  simp only [head]
  omega

theorem bru (b : Fin 8) : Statement (.bru b) := by
  refine of_some rfl ?_
  have h0 := b.isLt
  simp only [head]
  omega

theorem call (b : Fin 8) : Statement (.call b) := by
  refine of_some rfl ?_
  have h0 := b.isLt
  simp only [head]
  omega

theorem loop (l : Fin 4) (a : SSrc) (len : Fin 64) : Statement (.loop l a len) := by
  refine of_some rfl ?_
  have h0 := l.isLt
  have h1 := SSrc.code_lt a
  have h2 := len.isLt
  simp only [head]
  omega

theorem loops (l : Fin 4) (a : SSrc) (len : Fin 64) (stages : Fin 8) : Statement (.loops l a len stages) := by
  refine of_some rfl ?_
  have h0 := l.isLt
  have h1 := SSrc.code_lt a
  have h2 := len.isLt
  have h3 := stages.isLt
  simp only [head]
  omega

theorem wait (w : Fin 16) (x : Fin 16) (y : Fin 16) (z : Fin 16) : Statement (.wait w x y z) := by
  refine of_some rfl ?_
  have h0 := w.isLt
  have h1 := x.isLt
  have h2 := y.isLt
  have h3 := z.isLt
  simp only [head]
  omega

theorem sync (l : Fin 4) : Statement (.sync l) := by
  refine of_some rfl ?_
  have h0 := l.isLt
  simp only [head]
  omega

theorem fence (o : Scope) : Statement (.fence o) := by
  refine of_some rfl ?_
  have h0 := Scope.code_lt o
  simp only [head]
  omega

theorem fenceHeavy (o : Scope) : Statement (.fenceHeavy o) := by
  refine of_some rfl ?_
  have h0 := Scope.code_lt o
  simp only [head]
  omega

theorem brk (c : BitVec 16) : Statement (.brk c) := by
  refine of_some rfl ?_
  have h0 := c.isLt
  simp only [head]
  omega

theorem limm (p : BitVec 22) : Statement (.limm p) := by
  refine of_some rfl ?_
  have h0 := p.isLt
  simp only [head]
  omega

theorem rept (c : BitVec 12) (e0 : RepSel) (e1 : RepSel) (e2 : RepSel) (e3 : RepSel) : Statement (.rept c e0 e1 e2 e3) := by
  refine of_some rfl ?_
  have h0 := c.isLt
  have h1 := RepSel.code_lt e0
  have h2 := RepSel.code_lt e1
  have h3 := RepSel.code_lt e2
  have h4 := RepSel.code_lt e3
  simp only [head]
  omega

theorem talloc (d : Fin 32) (a : SSrc) (b : SSrc) (l : Level) (t : ElemTy) : Statement (.talloc d a b l t) := by
  refine of_some rfl ?_
  have h0 := d.isLt
  have h1 := SSrc.code_lt a
  have h2 := SSrc.code_lt b
  have h3 := ElemTy.code_lt t
  simp only [head, ops3]
  split <;> omega

theorem tfree (a : SSrc) : Statement (.tfree a) := by
  refine of_some rfl ?_
  have h0 := SSrc.code_lt a
  simp only [head, ops3]
  omega

theorem tlink (a : SSrc) (b : SSrc) : Statement (.tlink a b) := by
  refine of_some rfl ?_
  have h0 := SSrc.code_lt a
  have h1 := SSrc.code_lt b
  simp only [head, ops3]
  omega

theorem tid (d : Fin 32) (f : TidSel) : Statement (.tid d f) := by
  refine of_some rfl ?_
  have h0 := d.isLt
  have h1 := TidSel.code_lt f
  simp only [head, ops3]
  omega

theorem spawn (d : Fin 32) (a : SSrc) : Statement (.spawn d a) := by
  refine of_some rfl ?_
  have h0 := d.isLt
  have h1 := SSrc.code_lt a
  simp only [head, ops3]
  omega

theorem fork (d : Fin 32) (a : SSrc) : Statement (.fork d a) := by
  refine of_some rfl ?_
  have h0 := d.isLt
  have h1 := SSrc.code_lt a
  simp only [head, ops3]
  omega

theorem join (d : Fin 32) (a : SSrc) : Statement (.join d a) := by
  refine of_some rfl ?_
  have h0 := d.isLt
  have h1 := SSrc.code_lt a
  simp only [head, ops3]
  omega

theorem trap (c : BitVec 17) : Statement (.trap c) := by
  refine of_some rfl ?_
  have h0 := c.isLt
  simp only [head]
  omega

theorem pipew (a : SSrc) (p : Fin 16) : Statement (.pipew a p) := by
  refine of_some rfl ?_
  have h0 := SSrc.code_lt a
  have h1 := p.isLt
  simp only [head, ops3]
  omega

theorem piper (d : Fin 32) (p : Fin 16) : Statement (.piper d p) := by
  refine of_some rfl ?_
  have h0 := d.isLt
  have h1 := p.isLt
  simp only [head, ops3]
  omega

theorem rvset (a : SSrc) (b : SSrc) (clr : Bool) : Statement (.rvset a b clr) := by
  refine of_some rfl ?_
  have h0 := SSrc.code_lt a
  have h1 := SSrc.code_lt b
  have h2 := bitOf_lt clr
  simp only [head, ops3]
  omega

theorem resultPush (core : Nat) : Statement (.resultPush core) := of_none rfl

theorem formatWriteApply (core : Nat) : Statement (.formatWriteApply core) := of_none rfl

theorem storePerformAtHome (op : Nat) : Statement (.storePerformAtHome op) := of_none rfl

theorem releaseStorePerform (op : Nat) : Statement (.releaseStorePerform op) := of_none rfl

theorem postedWriteAcknowledge (op : Nat) (err : Option FaultCode) : Statement (.postedWriteAcknowledge op err) := of_none rfl

theorem remoteLoadResponse (op : Nat) (data : ReadData) (err : Option FaultCode) : Statement (.remoteLoadResponse op data err) := of_none rfl

theorem fabricRequestTimeout (op : Nat) : Statement (.fabricRequestTimeout op) := of_none rfl

theorem fenceHeavySerialisation (ask : FenceAsk) (core : Option Nat) : Statement (.fenceHeavySerialisation ask core) := of_none rfl

theorem fenceHeavyAcknowledge (op : Nat) (acc : Nat) (core : Nat) : Statement (.fenceHeavyAcknowledge op acc core) := of_none rfl

theorem firmwareStopRequest (core : Nat) : Statement (.firmwareStopRequest core) := of_none rfl

theorem taskSave (core : Nat) : Statement (.taskSave core) := of_none rfl

theorem taskRestore (core : Nat) : Statement (.taskRestore core) := of_none rfl

theorem lazyRestoreFill (op : Nat) : Statement (.lazyRestoreFill op) := of_none rfl

theorem timeSliceExpiry (core : Nat) : Statement (.timeSliceExpiry core) := of_none rfl

theorem joinBlockSwitch (core : Nat) : Statement (.joinBlockSwitch core) := of_none rfl

theorem clampLineRelease (task : Nat) (line : Nat) : Statement (.clampLineRelease task line) := of_none rfl

theorem vfnldComplete (op : Nat) (n : Unit) : Statement (.vfnldComplete op n) := of_none rfl

theorem voptComplete (op : Nat) : Statement (.voptComplete op) := of_none rfl

theorem matrixInstructionStart (op : Nat) : Statement (.matrixInstructionStart op) := of_none rfl

theorem matrixInstructionComplete (op : Nat) : Statement (.matrixInstructionComplete op) := of_none rfl

theorem repeatRepetition (core : Nat) : Statement (.repeatRepetition core) := of_none rfl

theorem copyOperationComplete (op : Nat) (n : Unit) : Statement (.copyOperationComplete op n) := of_none rfl

theorem atomPerform (op : Nat) : Statement (.atomPerform op) := of_none rfl

theorem signalPerform (op : Nat) : Statement (.signalPerform op) := of_none rfl

theorem farOperationAcknowledge (op : Nat) (old : Word) (sat : Bool) (err : Option FaultCode) : Statement (.farOperationAcknowledge op old sat err) := of_none rfl

theorem pageWalkComplete (op : Nat) : Statement (.pageWalkComplete op) := of_none rfl

theorem xltResult (op : Nat) : Statement (.xltResult op) := of_none rfl

theorem pgreqComplete (op : Nat) : Statement (.pgreqComplete op) := of_none rfl

theorem invalidationDrainComplete (op : Nat) : Statement (.invalidationDrainComplete op) := of_none rfl

theorem remoteRequestReceive (req : RemoteReq) : Statement (.remoteRequestReceive req) := of_none rfl

theorem requestRefused (op : Nat) (why : Refused) : Statement (.requestRefused op why) := of_none rfl

theorem homeConsult (src : ReqId) (page : PageKey) : Statement (.homeConsult src page) := of_none rfl

theorem homeAnswer (op : Nat) (page : PageKey) (ans : HomeAns) : Statement (.homeAnswer op page ans) := of_none rfl

theorem requesterHoldRelease (page : PageKey) : Statement (.requesterHoldRelease page) := of_none rfl

theorem redirect (page : PageKey) (owner : Nat) (epoch : Nat) : Statement (.redirect page owner epoch) := of_none rfl

theorem ownerCacheExpiry (page : PageKey) : Statement (.ownerCacheExpiry page) := of_none rfl

theorem migrationRequestAtHome (m : MoveReq) : Statement (.migrationRequestAtHome m) := of_none rfl

theorem migrationForwardAtOwner (m : MoveReq) (home : Nat) : Statement (.migrationForwardAtOwner m home) := of_none rfl

theorem reserve (m : MoveReq) (owner : Nat) (home : Nat) (frame : Option PageData) : Statement (.reserve m owner home frame) := of_none rfl

theorem reserveAccept (page : PageKey) (accept : Bool) : Statement (.reserveAccept page accept) := of_none rfl

theorem transferAcknowledge (page : PageKey) : Statement (.transferAcknowledge page) := of_none rfl

theorem migrationAbort (page : PageKey) : Statement (.migrationAbort page) := of_none rfl

theorem commit (page : PageKey) (owner : Nat) : Statement (.commit page owner) := of_none rfl

theorem commitAcknowledge (page : PageKey) (epoch : Nat) : Statement (.commitAcknowledge page epoch) := of_none rfl

theorem endForward (page : PageKey) (rd : Bool) (w : Bool) (epoch : Nat) (queue : List RemoteReq) : Statement (.endForward page rd w epoch queue) := of_none rfl

theorem migrComplete (op : Nat) (status : MigrStatus) (owner : Nat) : Statement (.migrComplete op status owner) := of_none rfl

theorem stubLifetimeEnd (page : PageKey) : Statement (.stubLifetimeEnd page) := of_none rfl

theorem stubRetire (page : PageKey) (src : Nat) : Statement (.stubRetire page src) := of_none rfl

theorem stubRetireAcknowledge (page : PageKey) : Statement (.stubRetireAcknowledge page) := of_none rfl

theorem stubRetireTimeout (page : PageKey) : Statement (.stubRetireTimeout page) := of_none rfl

theorem taskAdmission (task : Nat) : Statement (.taskAdmission task) := of_none rfl

theorem taskDispatch (core : Nat) : Statement (.taskDispatch core) := of_none rfl

theorem gangRelease (die : Nat) : Statement (.gangRelease die) := of_none rfl

theorem pipewFill (op : Nat) : Statement (.pipewFill op) := of_none rfl

theorem proxyBatchSend (acc : Nat) : Statement (.proxyBatchSend acc) := of_none rfl

theorem taskRecordBatch (src : Nat) (tasks : List SentTask) : Statement (.taskRecordBatch src tasks) := of_none rfl

theorem jobCardTileArrival (src : Nat) (task : Nat) (tile : SentTile) : Statement (.jobCardTileArrival src task tile) := of_none rfl

theorem stealRequest (die : Nat) : Statement (.stealRequest die) := of_none rfl

theorem stolenRecordArrival (task : Nat) (thief : Nat) (epoch : Nat) : Statement (.stolenRecordArrival task thief epoch) := of_none rfl

theorem stealAck (task : Nat) (thief : Nat) : Statement (.stealAck task thief) := of_none rfl

theorem stealConfirm (task : Nat) (thief : Nat) : Statement (.stealConfirm task thief) := of_none rfl

theorem stealTimerExpiry (cause : TransitEnd) : Statement (.stealTimerExpiry cause) := of_none rfl

theorem stealCancel (task : Nat) (thief : Nat) : Statement (.stealCancel task thief) := of_none rfl

theorem snapshotEstablish (rev : Nat) : Statement (.snapshotEstablish rev) := of_none rfl

theorem cowCopyComplete (op : Nat) : Statement (.cowCopyComplete op) := of_none rfl

theorem childMerge (rev : Nat) : Statement (.childMerge rev) := of_none rfl

theorem granuleMergeComplete (op : Nat) : Statement (.granuleMergeComplete op) := of_none rfl

theorem creditToken (station : Nat) (peer : Nat) (ch : Channel) (reserved : Bool) : Statement (.creditToken station peer ch reserved) := of_none rfl

theorem chunkOpRun (asid : Nat) (slot : Nat) (i : Nat) : Statement (.chunkOpRun asid slot i) := of_none rfl

theorem chunkOpComplete (op : Nat) (n : Unit) : Statement (.chunkOpComplete op n) := of_none rfl

theorem chunkReceive (c : Chunk) : Statement (.chunkReceive c) := of_none rfl

theorem cgldComplete (op : Nat) (n : Unit) : Statement (.cgldComplete op n) := of_none rfl

theorem workRingPoll (asid : Nat) (ring : Nat) : Statement (.workRingPoll asid ring) := of_none rfl

theorem runArm (asid : Nat) (ring : Nat) : Statement (.runArm asid ring) := of_none rfl

theorem runComplete (asid : Nat) (ring : Nat) : Statement (.runComplete asid ring) := of_none rfl

theorem collectiveTimeout (asid : Nat) (ring : Nat) : Statement (.collectiveTimeout asid ring) := of_none rfl

theorem earlyChunkTimeout (station : Nat) (i : Nat) : Statement (.earlyChunkTimeout station i) := of_none rfl

theorem launch (qid : Nat) (n : Unit) : Statement (.launch qid n) := of_none rfl

theorem waitPacket (qid : Nat) (n : Unit) : Statement (.waitPacket qid n) := of_none rfl

theorem signalPacket (qid : Nat) (n : Unit) : Statement (.signalPacket qid n) := of_none rfl

theorem copyPacket (qid : Nat) (n : Unit) : Statement (.copyPacket qid n) := of_none rfl

theorem publishPacket (qid : Nat) (n : Unit) : Statement (.publishPacket qid n) := of_none rfl

theorem packetComplete (op : Nat) (n : Unit) : Statement (.packetComplete op n) := of_none rfl

theorem coalescingTimerExpiry (qid : Nat) : Statement (.coalescingTimerExpiry qid) := of_none rfl

theorem queueMap (qid : Nat) : Statement (.queueMap qid) := of_none rfl

theorem queueSliceEnd (qid : Nat) : Statement (.queueSliceEnd qid) := of_none rfl

theorem queueAgeingStep (qid : Nat) : Statement (.queueAgeingStep qid) := of_none rfl

theorem signalUnitPoll (qid : Nat) (n : Unit) : Statement (.signalUnitPoll qid n) := of_none rfl

theorem ctxEnd (packet : BitVec 512) : Statement (.ctxEnd packet) := of_none rfl

theorem queueRemoveComplete (qid : Nat) : Statement (.queueRemoveComplete qid) := of_none rfl

theorem pin (msg : PinMsg) : Statement (.pin msg) := of_none rfl

theorem owner (msg : OwnerMsg) : Statement (.owner msg) := of_none rfl

theorem illegalSlotWord (core : Nat) : Statement (.illegalSlotWord core) := of_none rfl

theorem loadPerformAtHome (op : Nat) : Statement (.loadPerformAtHome op) := of_none rfl

theorem taskAgeingStep (task : Nat) : Statement (.taskAgeingStep task) := of_none rfl

theorem minv : Statement .minv := of_some rfl (by decide)

theorem mpop : Statement .mpop := of_some rfl (by decide)

theorem nop : Statement .nop := of_some rfl (by decide)

theorem ret : Statement .ret := of_some rfl (by decide)

theorem fenceLite : Statement .fenceLite := of_some rfl (by decide)

theorem yield : Statement .yield := of_some rfl (by decide)

theorem endTask : Statement .endTask := of_some rfl (by decide)

theorem publish : Statement .publish := of_some rfl (by decide)

theorem invalidate (packet : BitVec 512) : Statement (.invalidate packet) := of_none rfl

theorem policyMove (page : PageKey) (target : Nat) : Statement (.policyMove page target) := of_none rfl

theorem flitReceive (station : Nat) (src : Nat) (ch : Channel) (mark : FlitMark) : Statement (.flitReceive station src ch mark) := of_none rfl

theorem stationLinkFailure (station : Nat) : Statement (.stationLinkFailure station) := of_none rfl

theorem kick (qid : Nat) (head : Word) : Statement (.kick qid head) := of_none rfl

theorem publishAcknowledge (op : Nat) : Statement (.publishAcknowledge op) := of_none rfl

theorem ctxSet (packet : BitVec 512) : Statement (.ctxSet packet) := of_none rfl

theorem queueSet (packet : BitVec 512) : Statement (.queueSet packet) := of_none rfl

theorem queueReset (packet : BitVec 512) : Statement (.queueReset packet) := of_none rfl

theorem pool (packet : BitVec 512) : Statement (.pool packet) := of_none rfl

theorem wring (packet : BitVec 512) : Statement (.wring packet) := of_none rfl

theorem pageReply (packet : BitVec 512) : Statement (.pageReply packet) := of_none rfl

theorem migrPolicy (packet : BitVec 512) : Statement (.migrPolicy packet) := of_none rfl

theorem timing (packet : BitVec 512) : Statement (.timing packet) := of_none rfl

theorem schedulerMemoryError (e : FwError) : Statement (.schedulerMemoryError e) := of_none rfl

theorem workerFailure (worker : Fin 8) : Statement (.workerFailure worker) := of_none rfl

theorem fwFatal : Statement .fwFatal := of_none rfl

theorem deviceReset : Statement .deviceReset := of_none rfl

theorem bootGo : Statement .bootGo := of_none rfl

theorem bootReset : Statement .bootReset := of_none rfl

theorem registerWrite (r : HostReg) (v : Word) : Statement (.registerWrite r v) := of_none rfl

theorem firmwareReady : Statement .firmwareReady := of_none rfl

theorem cxlMemAccess (pa : Nat) (act : PortAct) : Statement (.cxlMemAccess pa act) := of_none rfl

theorem storageWindowAccess (requester : Nat) (off : Nat) (act : PortAct) : Statement (.storageWindowAccess requester off act) := of_none rfl

theorem accessTableChange (target : Guard) (i : Fin 64) (e : BitVec 128) : Statement (.accessTableChange target i e) := of_none rfl

theorem freeze : Statement .freeze := of_none rfl

theorem tapReadout : Statement .tapReadout := of_none rfl

theorem rasCounterClear (i : Fin 11) : Statement (.rasCounterClear i) := of_none rfl

theorem coreOffline (core : Nat) : Statement (.coreOffline core) := of_none rfl

theorem thermalStepDown : Statement .thermalStepDown := of_none rfl

theorem thermalStepUp : Statement .thermalStepUp := of_none rfl

theorem thermalTrip : Statement .thermalTrip := of_none rfl

theorem peerPackageReset (acc : Nat) : Statement (.peerPackageReset acc) := of_none rfl

theorem serviceRingFreed (asid : Nat) (n : Nat) : Statement (.serviceRingFreed asid n) := of_none rfl

theorem cxlIdeKeyExchange : Statement .cxlIdeKeyExchange := of_none rfl

theorem stagingWindowWrite (off : Nat) (data : List Byte) : Statement (.stagingWindowWrite off data) := of_none rfl

theorem mappingRequest (asid : Nat) (va : Nat) (size : Fin 3) : Statement (.mappingRequest asid va size) := of_none rfl

theorem storageWindowEntrySet (i : Fin 64) (winOff : Nat) (pa : Nat) (len : Nat) (requester : Nat) (master : Nat) : Statement (.storageWindowEntrySet i winOff pa len requester master) := of_none rfl

theorem powerCapSet (watts : Nat) : Statement (.powerCapSet watts) := of_none rfl

end Laws.WordRange

end Sys2Proof
end

