-- ==== Sys2Proof/Laws/SaveArea.lean ====
section
/-! SUPPORT. The lengths of the parts of a save area, and where a register of a file stands in its part. -/

namespace Sys2Proof.Machine

open Sys2Proof

@[simp] theorem part_length (n : Nat) (bs : List Byte) : (part n bs).length = n := by simp [part]

/-- A part that its contents fill is those contents. -/
theorem part_full {n : Nat} {bs : List Byte} (h : bs.length = n) : part n bs = bs := by simp [part, ← h]

@[simp] theorem leBytes_length (n x : Nat) : (leBytes n x).length = n := by
  induction n generalizing x with
  | zero => rfl
  | succ n ih => simp [leBytes, ih]

@[simp] theorem fileBytes_length (n w : Nat) (f : Nat → Nat) : (fileBytes n w f).length = n * w := by
  simp [fileBytes, List.length_flatMap]

/-- A register of a file stands at its number times the width. -/
theorem fileBytes_at {w : Nat} {f : Nat → Nat} {n i : Nat} (h : i < n) :
    ((fileBytes n w f).drop (w * i)).take w = leBytes w (f i) := by
  induction n with
  | zero => omega
  | succ n ih =>
    have e : fileBytes (n + 1) w f = fileBytes n w f ++ leBytes w (f n) := by
      simp [fileBytes, List.range_succ]
    have hl := fileBytes_length n w f
    rw [e]
    by_cases hi : i = n
    · subst hi
      rw [List.drop_append_of_le_length (by rw [hl, Nat.mul_comm]),
        List.drop_eq_nil_of_le (by rw [hl, Nat.mul_comm]), List.nil_append, List.take_of_length_le (by simp)]
    · have hm : w * i + w ≤ n * w := by
        calc w * i + w = w * (i + 1) := by ring
          _ ≤ w * n := Nat.mul_le_mul_left _ (by omega)
          _ = n * w := Nat.mul_comm _ _
      rw [List.drop_append_of_le_length (by omega), List.take_append_of_le_length (by simp; omega), ih (by omega)]

/-- TILES stands at 0x6100. -/
theorem savedRegs_length (s : State) (t : Task) (v : Saved) : (savedRegs s t v).length = 0x6100 := by
  simp only [savedRegs, List.length_append, part_length]

end Sys2Proof.Machine
end

