-- ==== Sys2Proof/Laws/Slot.lean ====
section
/-! SUPPORT. What one slot does by itself: it issues, or it faults. -/

namespace Sys2Proof.Machine

open Sys2Proof

theorem Need.add_zero_left (n : Need) : Need.add {} n = n := by
  cases n; simp [Need.add]

/-- A slot alone whose checks pass, with room for it, issues. -/
theorem slot_issues {n : Need} {chk : State → Verdict} {eff : State → State} {s : State} (ha : Alone s)
    (hr : RoomFor s n) (hc : chk s = .ok) : Issues (slot n chk eff s) (eff s) := by
  have hi : s.iss = { words := s.iss.words } := ha
  have hp : s.iss.phase = .whole := by rw [hi]
  have hn : s.iss.need = {} := by rw [hi]
  have hv : s.iss.verdict = .ok := by rw [hi]
  have hl : pushLimit s n .ok = .ok := by
    unfold pushLimit
    rw [hn, Need.add_zero_left]
    split
    · rename_i h; have := hr.2; omega
    · rfl
  have hx : exceeds (noteSlot n .ok s) n = false := by
    have := hr.1
    simp only [noteSlot, exceeds] at this ⊢
    split <;> exact this
  simp only [Issues, slot, hp, hc]
  have hb : bundleVerdict (noteSlot n .ok s) = .ok := by
    have hy : (noteSlot n .ok s).iss.verdict = .ok := by
      simp only [noteSlot, hl, hv, Verdict.givesWay, if_true]
    have hz : (noteSlot n .ok s).iss.need = n := by
      simp only [noteSlot, hl, hv, Verdict.givesWay, if_true, hn, Need.add_zero_left]
    simp only [bundleVerdict, hy, hz, hx]
    rfl
  simp only [conclude, hb]

/-- A meaning that is one slot issues with its effect when its checks pass. -/
theorem issues_of {o : Out} {n : Need} {chk : State → Verdict} {eff : State → State} {s t : State}
    (ho : o = slot n chk eff s) (ha : Alone s) (hr : RoomFor s n) (hc : chk s = .ok) (ht : eff s = t) :
    Issues o t := by
  subst ho ht
  exact slot_issues ha hr hc

/-- A slot alone whose checks find a fault takes it, with no other effect. -/
theorem slot_faults {n : Need} {chk : State → Verdict} {eff : State → State} {s : State} {code : FaultCode}
    {faddr : Word} {aux : Nat} (ha : Alone s) (hc : chk s = .fault code faddr aux false none) :
    Faults (slot n chk eff s) code faddr aux s := by
  have hi : s.iss = { words := s.iss.words } := ha
  have hp : s.iss.phase = .whole := by rw [hi]
  have hv : s.iss.verdict = .ok := by rw [hi]
  have hs : s.iss.slot = 0 := by rw [hi]
  have hr : s.iss.rep = none := by rw [hi]
  have hl : pushLimit s n (.fault code faddr aux false none) = .fault code faddr aux false none := by
    unfold pushLimit
    split <;> rfl
  simp only [Faults, slot, hp, hc, conclude, noteSlot, hl, hv, Verdict.givesWay, if_true, bundleVerdict, settle, hs, hr, openRun]

/-- A meaning that is one slot takes the fault that its checks find. -/
theorem faults_of {o : Out} {n : Need} {chk : State → Verdict} {eff : State → State} {s : State} {code : FaultCode}
    {faddr : Word} {aux : Nat} (ho : o = slot n chk eff s) (ha : Alone s)
    (hc : chk s = .fault code faddr aux false none) : Faults o code faddr aux s := by
  subst ho
  exact slot_faults ha hc

/-- Two verdicts that are ok. -/
@[simp] theorem Verdict.seq_ok (w : Verdict) : Verdict.ok.seq w = w := rfl

/-- A check that holds. -/
@[simp] theorem require_true (code : FaultCode) (faddr : Word) : require true code faddr = .ok := rfl

/-- A check that fails. -/
@[simp] theorem require_false (code : FaultCode) (faddr : Word) :
    require false code faddr = .fault code faddr 0 false none := rfl

theorem needS_left {s : State} {a b : SSrc} (h : needSS s a b = .ok) : needS s a = .ok := by
  unfold needSS Verdict.seq at h
  split at h
  · assumption
  · exact h

theorem needS_right {s : State} {a b : SSrc} (h : needSS s a b = .ok) : needS s b = .ok := by
  have := needS_left h
  simpa [needSS, this] using h

theorem needV_left {s : State} {a b : VSrc} (h : needVV s a b = .ok) : needV s a = .ok := by
  unfold needVV Verdict.seq at h
  split at h
  · assumption
  · exact h

theorem needV_right {s : State} {a b : VSrc} (h : needVV s a b = .ok) : needV s b = .ok := by
  have := needV_left h
  simpa [needVV, this] using h

theorem scalar2_issues {lat : Nat} {f : Word → Word → Word} {d : Fin 32} {a b : SSrc} {s : State} (ha : Alone s)
    (hr : RoomFor s Need.push) (hn : needSS s a b = .ok) :
    Issues (scalar2 lat f d a b s) (pushS d lat (f (s.rs a) (s.rs b)) s) :=
  slot_issues (chk := fun s => needSS s a b) (eff := fun s => pushS d lat (f (s.rs a) (s.rs b)) s) ha hr hn

theorem scalar1_issues {lat : Nat} {f : Word → Word} {d : Fin 32} {a : SSrc} {s : State} (ha : Alone s)
    (hr : RoomFor s Need.push) (hn : needS s a = .ok) :
    Issues (scalar1 lat f d a s) (pushS d lat (f (s.rs a)) s) :=
  slot_issues (chk := fun s => needS s a) (eff := fun s => pushS d lat (f (s.rs a)) s) ha hr hn

theorem scalarI_issues {f : Word → Int → Word} {d : Fin 32} {a : SSrc} {imm : BitVec 11} {s : State} (ha : Alone s)
    (hr : RoomFor s Need.push) (hn : needS s a = .ok) :
    Issues (scalarI f d a imm s) (pushS d 1 (f (s.rs a) (immSI s.iss.limm imm)) s) :=
  slot_issues (chk := fun s => needS s a) (eff := fun s => pushS d 1 (f (s.rs a) (immSI s.iss.limm imm)) s) ha hr hn

theorem divide_issues {f : Word → Word → Word} {d : Fin 32} {a b : SSrc} {s : State} (ha : Alone s)
    (hr : RoomFor s Need.push) (hn : needSS s a b = .ok) :
    Issues (divide f d a b s) (pushSF d 18 (f (s.rs a) (s.rs b)) (flagIf (s.rs b == 0) satDiv) s) :=
  slot_issues (chk := fun s => needSS s a b)
    (eff := fun s => pushSF d 18 (f (s.rs a) (s.rs b)) (flagIf (s.rs b == 0) satDiv) s) ha hr hn

end Sys2Proof.Machine
end

