-- ==== Sys2Proof/Laws/State.lean ====
section
/-! SUPPORT. What each update of the state does to each field: one lemma a field. -/

namespace Sys2Proof.Machine

open Sys2Proof

/-! ### State.setCore -/

@[simp] theorem State.setCore_accid (s : State) (n : Nat) (c : Core) : (s.setCore n c).accid = s.accid := rfl
@[simp] theorem State.setCore_cyc (s : State) (n : Nat) (c : Core) : (s.setCore n c).cyc = s.cyc := rfl
@[simp] theorem State.setCore_timeU (s : State) (n : Nat) (c : Core) : (s.setCore n c).timeU = s.timeU := rfl
@[simp] theorem State.setCore_lastU (s : State) (n : Nat) (c : Core) : (s.setCore n c).lastU = s.lastU := rfl
@[simp] theorem State.setCore_mem (s : State) (n : Nat) (c : Core) : (s.setCore n c).mem = s.mem := rfl
@[simp] theorem State.setCore_host (s : State) (n : Nat) (c : Core) : (s.setCore n c).host = s.host := rfl
@[simp] theorem State.setCore_cores (s : State) (n : Nat) (c : Core) : (s.setCore n c).cores = s.cores.set n c := rfl
@[simp] theorem State.setCore_dies (s : State) (n : Nat) (c : Core) : (s.setCore n c).dies = s.dies := rfl
@[simp] theorem State.setCore_tasks (s : State) (n : Nat) (c : Core) : (s.setCore n c).tasks = s.tasks := rfl
@[simp] theorem State.setCore_poolOrder (s : State) (n : Nat) (c : Core) :
    (s.setCore n c).poolOrder = s.poolOrder := rfl
@[simp] theorem State.setCore_admitOrder (s : State) (n : Nat) (c : Core) :
    (s.setCore n c).admitOrder = s.admitOrder := rfl
@[simp] theorem State.setCore_batches (s : State) (n : Nat) (c : Core) : (s.setCore n c).batches = s.batches := rfl
@[simp] theorem State.setCore_away (s : State) (n : Nat) (c : Core) : (s.setCore n c).away = s.away := rfl
@[simp] theorem State.setCore_ctxs (s : State) (n : Nat) (c : Core) : (s.setCore n c).ctxs = s.ctxs := rfl
@[simp] theorem State.setCore_revs (s : State) (n : Nat) (c : Core) : (s.setCore n c).revs = s.revs := rfl
@[simp] theorem State.setCore_nextRev (s : State) (n : Nat) (c : Core) : (s.setCore n c).nextRev = s.nextRev := rfl
@[simp] theorem State.setCore_copies (s : State) (n : Nat) (c : Core) : (s.setCore n c).copies = s.copies := rfl
@[simp] theorem State.setCore_nextCopy (s : State) (n : Nat) (c : Core) : (s.setCore n c).nextCopy = s.nextCopy := rfl
@[simp] theorem State.setCore_ops (s : State) (n : Nat) (c : Core) : (s.setCore n c).ops = s.ops := rfl
@[simp] theorem State.setCore_nextOp (s : State) (n : Nat) (c : Core) : (s.setCore n c).nextOp = s.nextOp := rfl
@[simp] theorem State.setCore_nextBundle (s : State) (n : Nat) (c : Core) :
    (s.setCore n c).nextBundle = s.nextBundle := rfl
@[simp] theorem State.setCore_queues (s : State) (n : Nat) (c : Core) : (s.setCore n c).queues = s.queues := rfl
@[simp] theorem State.setCore_admin (s : State) (n : Nat) (c : Core) : (s.setCore n c).admin = s.admin := rfl
@[simp] theorem State.setCore_adminCount (s : State) (n : Nat) (c : Core) :
    (s.setCore n c).adminCount = s.adminCount := rfl
@[simp] theorem State.setCore_adminCmds (s : State) (n : Nat) (c : Core) :
    (s.setCore n c).adminCmds = s.adminCmds := rfl
@[simp] theorem State.setCore_msix (s : State) (n : Nat) (c : Core) : (s.setCore n c).msix = s.msix := rfl
@[simp] theorem State.setCore_stations (s : State) (n : Nat) (c : Core) : (s.setCore n c).stations = s.stations := rfl
@[simp] theorem State.setCore_mig (s : State) (n : Nat) (c : Core) : (s.setCore n c).mig = s.mig := rfl
@[simp] theorem State.setCore_sys (s : State) (n : Nat) (c : Core) : (s.setCore n c).sys = s.sys := rfl
@[simp] theorem State.setCore_cfg (s : State) (n : Nat) (c : Core) : (s.setCore n c).cfg = s.cfg := rfl
@[simp] theorem State.setCore_agenda (s : State) (n : Nat) (c : Core) : (s.setCore n c).agenda = s.agenda := rfl
@[simp] theorem State.setCore_own (s : State) (n : Nat) (c : Core) : (s.setCore n c).own = s.own := rfl
@[simp] theorem State.setCore_outbox (s : State) (n : Nat) (c : Core) : (s.setCore n c).outbox = s.outbox := rfl
@[simp] theorem State.setCore_answers (s : State) (n : Nat) (c : Core) : (s.setCore n c).answers = s.answers := rfl
@[simp] theorem State.setCore_cur (s : State) (n : Nat) (c : Core) : (s.setCore n c).cur = s.cur := rfl
@[simp] theorem State.setCore_turn (s : State) (n : Nat) (c : Core) : (s.setCore n c).turn = s.turn := rfl
@[simp] theorem State.setCore_iss (s : State) (n : Nat) (c : Core) : (s.setCore n c).iss = s.iss := rfl
@[simp] theorem State.setCore_freeCount (s : State) (n : Nat) (c : Core) :
    (s.setCore n c).freeCount = s.freeCount := rfl

/-! ### State.modCore -/

@[simp] theorem State.modCore_accid (s : State) (n : Nat) (f : Core → Core) : (s.modCore n f).accid = s.accid := rfl
@[simp] theorem State.modCore_cyc (s : State) (n : Nat) (f : Core → Core) : (s.modCore n f).cyc = s.cyc := rfl
@[simp] theorem State.modCore_timeU (s : State) (n : Nat) (f : Core → Core) : (s.modCore n f).timeU = s.timeU := rfl
@[simp] theorem State.modCore_lastU (s : State) (n : Nat) (f : Core → Core) : (s.modCore n f).lastU = s.lastU := rfl
@[simp] theorem State.modCore_mem (s : State) (n : Nat) (f : Core → Core) : (s.modCore n f).mem = s.mem := rfl
@[simp] theorem State.modCore_host (s : State) (n : Nat) (f : Core → Core) : (s.modCore n f).host = s.host := rfl
@[simp] theorem State.modCore_cores (s : State) (n : Nat) (f : Core → Core) :
    (s.modCore n f).cores = s.cores.set n (f (s.coreAt n)) := rfl
@[simp] theorem State.modCore_dies (s : State) (n : Nat) (f : Core → Core) : (s.modCore n f).dies = s.dies := rfl
@[simp] theorem State.modCore_tasks (s : State) (n : Nat) (f : Core → Core) : (s.modCore n f).tasks = s.tasks := rfl
@[simp] theorem State.modCore_poolOrder (s : State) (n : Nat) (f : Core → Core) :
    (s.modCore n f).poolOrder = s.poolOrder := rfl
@[simp] theorem State.modCore_admitOrder (s : State) (n : Nat) (f : Core → Core) :
    (s.modCore n f).admitOrder = s.admitOrder := rfl
@[simp] theorem State.modCore_batches (s : State) (n : Nat) (f : Core → Core) :
    (s.modCore n f).batches = s.batches := rfl
@[simp] theorem State.modCore_away (s : State) (n : Nat) (f : Core → Core) : (s.modCore n f).away = s.away := rfl
@[simp] theorem State.modCore_ctxs (s : State) (n : Nat) (f : Core → Core) : (s.modCore n f).ctxs = s.ctxs := rfl
@[simp] theorem State.modCore_revs (s : State) (n : Nat) (f : Core → Core) : (s.modCore n f).revs = s.revs := rfl
@[simp] theorem State.modCore_nextRev (s : State) (n : Nat) (f : Core → Core) :
    (s.modCore n f).nextRev = s.nextRev := rfl
@[simp] theorem State.modCore_copies (s : State) (n : Nat) (f : Core → Core) :
    (s.modCore n f).copies = s.copies := rfl
@[simp] theorem State.modCore_nextCopy (s : State) (n : Nat) (f : Core → Core) :
    (s.modCore n f).nextCopy = s.nextCopy := rfl
@[simp] theorem State.modCore_ops (s : State) (n : Nat) (f : Core → Core) : (s.modCore n f).ops = s.ops := rfl
@[simp] theorem State.modCore_nextOp (s : State) (n : Nat) (f : Core → Core) :
    (s.modCore n f).nextOp = s.nextOp := rfl
@[simp] theorem State.modCore_nextBundle (s : State) (n : Nat) (f : Core → Core) :
    (s.modCore n f).nextBundle = s.nextBundle := rfl
@[simp] theorem State.modCore_queues (s : State) (n : Nat) (f : Core → Core) :
    (s.modCore n f).queues = s.queues := rfl
@[simp] theorem State.modCore_admin (s : State) (n : Nat) (f : Core → Core) : (s.modCore n f).admin = s.admin := rfl
@[simp] theorem State.modCore_adminCount (s : State) (n : Nat) (f : Core → Core) :
    (s.modCore n f).adminCount = s.adminCount := rfl
@[simp] theorem State.modCore_adminCmds (s : State) (n : Nat) (f : Core → Core) :
    (s.modCore n f).adminCmds = s.adminCmds := rfl
@[simp] theorem State.modCore_msix (s : State) (n : Nat) (f : Core → Core) : (s.modCore n f).msix = s.msix := rfl
@[simp] theorem State.modCore_stations (s : State) (n : Nat) (f : Core → Core) :
    (s.modCore n f).stations = s.stations := rfl
@[simp] theorem State.modCore_mig (s : State) (n : Nat) (f : Core → Core) : (s.modCore n f).mig = s.mig := rfl
@[simp] theorem State.modCore_sys (s : State) (n : Nat) (f : Core → Core) : (s.modCore n f).sys = s.sys := rfl
@[simp] theorem State.modCore_cfg (s : State) (n : Nat) (f : Core → Core) : (s.modCore n f).cfg = s.cfg := rfl
@[simp] theorem State.modCore_agenda (s : State) (n : Nat) (f : Core → Core) :
    (s.modCore n f).agenda = s.agenda := rfl
@[simp] theorem State.modCore_own (s : State) (n : Nat) (f : Core → Core) : (s.modCore n f).own = s.own := rfl
@[simp] theorem State.modCore_outbox (s : State) (n : Nat) (f : Core → Core) :
    (s.modCore n f).outbox = s.outbox := rfl
@[simp] theorem State.modCore_answers (s : State) (n : Nat) (f : Core → Core) :
    (s.modCore n f).answers = s.answers := rfl
@[simp] theorem State.modCore_cur (s : State) (n : Nat) (f : Core → Core) : (s.modCore n f).cur = s.cur := rfl
@[simp] theorem State.modCore_turn (s : State) (n : Nat) (f : Core → Core) : (s.modCore n f).turn = s.turn := rfl
@[simp] theorem State.modCore_iss (s : State) (n : Nat) (f : Core → Core) : (s.modCore n f).iss = s.iss := rfl
@[simp] theorem State.modCore_freeCount (s : State) (n : Nat) (f : Core → Core) :
    (s.modCore n f).freeCount = s.freeCount := rfl

/-! ### State.modCtxAt -/

@[simp] theorem State.modCtxAt_accid (s : State) (n : Nat) (f : Ctx → Ctx) : (s.modCtxAt n f).accid = s.accid := rfl
@[simp] theorem State.modCtxAt_cyc (s : State) (n : Nat) (f : Ctx → Ctx) : (s.modCtxAt n f).cyc = s.cyc := rfl
@[simp] theorem State.modCtxAt_timeU (s : State) (n : Nat) (f : Ctx → Ctx) : (s.modCtxAt n f).timeU = s.timeU := rfl
@[simp] theorem State.modCtxAt_lastU (s : State) (n : Nat) (f : Ctx → Ctx) : (s.modCtxAt n f).lastU = s.lastU := rfl
@[simp] theorem State.modCtxAt_mem (s : State) (n : Nat) (f : Ctx → Ctx) : (s.modCtxAt n f).mem = s.mem := rfl
@[simp] theorem State.modCtxAt_host (s : State) (n : Nat) (f : Ctx → Ctx) : (s.modCtxAt n f).host = s.host := rfl
@[simp] theorem State.modCtxAt_dies (s : State) (n : Nat) (f : Ctx → Ctx) : (s.modCtxAt n f).dies = s.dies := rfl
@[simp] theorem State.modCtxAt_tasks (s : State) (n : Nat) (f : Ctx → Ctx) : (s.modCtxAt n f).tasks = s.tasks := rfl
@[simp] theorem State.modCtxAt_poolOrder (s : State) (n : Nat) (f : Ctx → Ctx) :
    (s.modCtxAt n f).poolOrder = s.poolOrder := rfl
@[simp] theorem State.modCtxAt_admitOrder (s : State) (n : Nat) (f : Ctx → Ctx) :
    (s.modCtxAt n f).admitOrder = s.admitOrder := rfl
@[simp] theorem State.modCtxAt_batches (s : State) (n : Nat) (f : Ctx → Ctx) :
    (s.modCtxAt n f).batches = s.batches := rfl
@[simp] theorem State.modCtxAt_away (s : State) (n : Nat) (f : Ctx → Ctx) : (s.modCtxAt n f).away = s.away := rfl
@[simp] theorem State.modCtxAt_ctxs (s : State) (n : Nat) (f : Ctx → Ctx) : (s.modCtxAt n f).ctxs = s.ctxs := rfl
@[simp] theorem State.modCtxAt_revs (s : State) (n : Nat) (f : Ctx → Ctx) : (s.modCtxAt n f).revs = s.revs := rfl
@[simp] theorem State.modCtxAt_nextRev (s : State) (n : Nat) (f : Ctx → Ctx) :
    (s.modCtxAt n f).nextRev = s.nextRev := rfl
@[simp] theorem State.modCtxAt_copies (s : State) (n : Nat) (f : Ctx → Ctx) :
    (s.modCtxAt n f).copies = s.copies := rfl
@[simp] theorem State.modCtxAt_nextCopy (s : State) (n : Nat) (f : Ctx → Ctx) :
    (s.modCtxAt n f).nextCopy = s.nextCopy := rfl
@[simp] theorem State.modCtxAt_ops (s : State) (n : Nat) (f : Ctx → Ctx) : (s.modCtxAt n f).ops = s.ops := rfl
@[simp] theorem State.modCtxAt_nextOp (s : State) (n : Nat) (f : Ctx → Ctx) :
    (s.modCtxAt n f).nextOp = s.nextOp := rfl
@[simp] theorem State.modCtxAt_nextBundle (s : State) (n : Nat) (f : Ctx → Ctx) :
    (s.modCtxAt n f).nextBundle = s.nextBundle := rfl
@[simp] theorem State.modCtxAt_queues (s : State) (n : Nat) (f : Ctx → Ctx) :
    (s.modCtxAt n f).queues = s.queues := rfl
@[simp] theorem State.modCtxAt_admin (s : State) (n : Nat) (f : Ctx → Ctx) : (s.modCtxAt n f).admin = s.admin := rfl
@[simp] theorem State.modCtxAt_adminCount (s : State) (n : Nat) (f : Ctx → Ctx) :
    (s.modCtxAt n f).adminCount = s.adminCount := rfl
@[simp] theorem State.modCtxAt_adminCmds (s : State) (n : Nat) (f : Ctx → Ctx) :
    (s.modCtxAt n f).adminCmds = s.adminCmds := rfl
@[simp] theorem State.modCtxAt_msix (s : State) (n : Nat) (f : Ctx → Ctx) : (s.modCtxAt n f).msix = s.msix := rfl
@[simp] theorem State.modCtxAt_stations (s : State) (n : Nat) (f : Ctx → Ctx) :
    (s.modCtxAt n f).stations = s.stations := rfl
@[simp] theorem State.modCtxAt_mig (s : State) (n : Nat) (f : Ctx → Ctx) : (s.modCtxAt n f).mig = s.mig := rfl
@[simp] theorem State.modCtxAt_sys (s : State) (n : Nat) (f : Ctx → Ctx) : (s.modCtxAt n f).sys = s.sys := rfl
@[simp] theorem State.modCtxAt_cfg (s : State) (n : Nat) (f : Ctx → Ctx) : (s.modCtxAt n f).cfg = s.cfg := rfl
@[simp] theorem State.modCtxAt_agenda (s : State) (n : Nat) (f : Ctx → Ctx) :
    (s.modCtxAt n f).agenda = s.agenda := rfl
@[simp] theorem State.modCtxAt_own (s : State) (n : Nat) (f : Ctx → Ctx) : (s.modCtxAt n f).own = s.own := rfl
@[simp] theorem State.modCtxAt_outbox (s : State) (n : Nat) (f : Ctx → Ctx) :
    (s.modCtxAt n f).outbox = s.outbox := rfl
@[simp] theorem State.modCtxAt_answers (s : State) (n : Nat) (f : Ctx → Ctx) :
    (s.modCtxAt n f).answers = s.answers := rfl
@[simp] theorem State.modCtxAt_cur (s : State) (n : Nat) (f : Ctx → Ctx) : (s.modCtxAt n f).cur = s.cur := rfl
@[simp] theorem State.modCtxAt_turn (s : State) (n : Nat) (f : Ctx → Ctx) : (s.modCtxAt n f).turn = s.turn := rfl
@[simp] theorem State.modCtxAt_iss (s : State) (n : Nat) (f : Ctx → Ctx) : (s.modCtxAt n f).iss = s.iss := rfl
@[simp] theorem State.modCtxAt_freeCount (s : State) (n : Nat) (f : Ctx → Ctx) :
    (s.modCtxAt n f).freeCount = s.freeCount := rfl

/-! ### State.modCtx -/

@[simp] theorem State.modCtx_accid (s : State) (f : Ctx → Ctx) : (s.modCtx f).accid = s.accid := rfl
@[simp] theorem State.modCtx_cyc (s : State) (f : Ctx → Ctx) : (s.modCtx f).cyc = s.cyc := rfl
@[simp] theorem State.modCtx_timeU (s : State) (f : Ctx → Ctx) : (s.modCtx f).timeU = s.timeU := rfl
@[simp] theorem State.modCtx_lastU (s : State) (f : Ctx → Ctx) : (s.modCtx f).lastU = s.lastU := rfl
@[simp] theorem State.modCtx_mem (s : State) (f : Ctx → Ctx) : (s.modCtx f).mem = s.mem := rfl
@[simp] theorem State.modCtx_host (s : State) (f : Ctx → Ctx) : (s.modCtx f).host = s.host := rfl
@[simp] theorem State.modCtx_dies (s : State) (f : Ctx → Ctx) : (s.modCtx f).dies = s.dies := rfl
@[simp] theorem State.modCtx_tasks (s : State) (f : Ctx → Ctx) : (s.modCtx f).tasks = s.tasks := rfl
@[simp] theorem State.modCtx_poolOrder (s : State) (f : Ctx → Ctx) : (s.modCtx f).poolOrder = s.poolOrder := rfl
@[simp] theorem State.modCtx_admitOrder (s : State) (f : Ctx → Ctx) : (s.modCtx f).admitOrder = s.admitOrder := rfl
@[simp] theorem State.modCtx_batches (s : State) (f : Ctx → Ctx) : (s.modCtx f).batches = s.batches := rfl
@[simp] theorem State.modCtx_away (s : State) (f : Ctx → Ctx) : (s.modCtx f).away = s.away := rfl
@[simp] theorem State.modCtx_ctxs (s : State) (f : Ctx → Ctx) : (s.modCtx f).ctxs = s.ctxs := rfl
@[simp] theorem State.modCtx_revs (s : State) (f : Ctx → Ctx) : (s.modCtx f).revs = s.revs := rfl
@[simp] theorem State.modCtx_nextRev (s : State) (f : Ctx → Ctx) : (s.modCtx f).nextRev = s.nextRev := rfl
@[simp] theorem State.modCtx_copies (s : State) (f : Ctx → Ctx) : (s.modCtx f).copies = s.copies := rfl
@[simp] theorem State.modCtx_nextCopy (s : State) (f : Ctx → Ctx) : (s.modCtx f).nextCopy = s.nextCopy := rfl
@[simp] theorem State.modCtx_ops (s : State) (f : Ctx → Ctx) : (s.modCtx f).ops = s.ops := rfl
@[simp] theorem State.modCtx_nextOp (s : State) (f : Ctx → Ctx) : (s.modCtx f).nextOp = s.nextOp := rfl
@[simp] theorem State.modCtx_nextBundle (s : State) (f : Ctx → Ctx) : (s.modCtx f).nextBundle = s.nextBundle := rfl
@[simp] theorem State.modCtx_queues (s : State) (f : Ctx → Ctx) : (s.modCtx f).queues = s.queues := rfl
@[simp] theorem State.modCtx_admin (s : State) (f : Ctx → Ctx) : (s.modCtx f).admin = s.admin := rfl
@[simp] theorem State.modCtx_adminCount (s : State) (f : Ctx → Ctx) : (s.modCtx f).adminCount = s.adminCount := rfl
@[simp] theorem State.modCtx_adminCmds (s : State) (f : Ctx → Ctx) : (s.modCtx f).adminCmds = s.adminCmds := rfl
@[simp] theorem State.modCtx_msix (s : State) (f : Ctx → Ctx) : (s.modCtx f).msix = s.msix := rfl
@[simp] theorem State.modCtx_stations (s : State) (f : Ctx → Ctx) : (s.modCtx f).stations = s.stations := rfl
@[simp] theorem State.modCtx_mig (s : State) (f : Ctx → Ctx) : (s.modCtx f).mig = s.mig := rfl
@[simp] theorem State.modCtx_sys (s : State) (f : Ctx → Ctx) : (s.modCtx f).sys = s.sys := rfl
@[simp] theorem State.modCtx_cfg (s : State) (f : Ctx → Ctx) : (s.modCtx f).cfg = s.cfg := rfl
@[simp] theorem State.modCtx_agenda (s : State) (f : Ctx → Ctx) : (s.modCtx f).agenda = s.agenda := rfl
@[simp] theorem State.modCtx_own (s : State) (f : Ctx → Ctx) : (s.modCtx f).own = s.own := rfl
@[simp] theorem State.modCtx_outbox (s : State) (f : Ctx → Ctx) : (s.modCtx f).outbox = s.outbox := rfl
@[simp] theorem State.modCtx_answers (s : State) (f : Ctx → Ctx) : (s.modCtx f).answers = s.answers := rfl
@[simp] theorem State.modCtx_cur (s : State) (f : Ctx → Ctx) : (s.modCtx f).cur = s.cur := rfl
@[simp] theorem State.modCtx_turn (s : State) (f : Ctx → Ctx) : (s.modCtx f).turn = s.turn := rfl
@[simp] theorem State.modCtx_iss (s : State) (f : Ctx → Ctx) : (s.modCtx f).iss = s.iss := rfl
@[simp] theorem State.modCtx_freeCount (s : State) (f : Ctx → Ctx) : (s.modCtx f).freeCount = s.freeCount := rfl

/-! ### State.modTask -/

@[simp] theorem State.modTask_accid (s : State) (n : Nat) (f : Task → Task) : (s.modTask n f).accid = s.accid := rfl
@[simp] theorem State.modTask_cyc (s : State) (n : Nat) (f : Task → Task) : (s.modTask n f).cyc = s.cyc := rfl
@[simp] theorem State.modTask_timeU (s : State) (n : Nat) (f : Task → Task) : (s.modTask n f).timeU = s.timeU := rfl
@[simp] theorem State.modTask_lastU (s : State) (n : Nat) (f : Task → Task) : (s.modTask n f).lastU = s.lastU := rfl
@[simp] theorem State.modTask_mem (s : State) (n : Nat) (f : Task → Task) : (s.modTask n f).mem = s.mem := rfl
@[simp] theorem State.modTask_host (s : State) (n : Nat) (f : Task → Task) : (s.modTask n f).host = s.host := rfl
@[simp] theorem State.modTask_cores (s : State) (n : Nat) (f : Task → Task) : (s.modTask n f).cores = s.cores := rfl
@[simp] theorem State.modTask_dies (s : State) (n : Nat) (f : Task → Task) : (s.modTask n f).dies = s.dies := rfl
@[simp] theorem State.modTask_tasks (s : State) (n : Nat) (f : Task → Task) :
    (s.modTask n f).tasks = s.tasks.map fun t => if t.id = n then f t else t := rfl
@[simp] theorem State.modTask_poolOrder (s : State) (n : Nat) (f : Task → Task) :
    (s.modTask n f).poolOrder = s.poolOrder := rfl
@[simp] theorem State.modTask_admitOrder (s : State) (n : Nat) (f : Task → Task) :
    (s.modTask n f).admitOrder = s.admitOrder := rfl
@[simp] theorem State.modTask_batches (s : State) (n : Nat) (f : Task → Task) :
    (s.modTask n f).batches = s.batches := rfl
@[simp] theorem State.modTask_away (s : State) (n : Nat) (f : Task → Task) : (s.modTask n f).away = s.away := rfl
@[simp] theorem State.modTask_ctxs (s : State) (n : Nat) (f : Task → Task) : (s.modTask n f).ctxs = s.ctxs := rfl
@[simp] theorem State.modTask_revs (s : State) (n : Nat) (f : Task → Task) : (s.modTask n f).revs = s.revs := rfl
@[simp] theorem State.modTask_nextRev (s : State) (n : Nat) (f : Task → Task) :
    (s.modTask n f).nextRev = s.nextRev := rfl
@[simp] theorem State.modTask_copies (s : State) (n : Nat) (f : Task → Task) :
    (s.modTask n f).copies = s.copies := rfl
@[simp] theorem State.modTask_nextCopy (s : State) (n : Nat) (f : Task → Task) :
    (s.modTask n f).nextCopy = s.nextCopy := rfl
@[simp] theorem State.modTask_ops (s : State) (n : Nat) (f : Task → Task) : (s.modTask n f).ops = s.ops := rfl
@[simp] theorem State.modTask_nextOp (s : State) (n : Nat) (f : Task → Task) :
    (s.modTask n f).nextOp = s.nextOp := rfl
@[simp] theorem State.modTask_nextBundle (s : State) (n : Nat) (f : Task → Task) :
    (s.modTask n f).nextBundle = s.nextBundle := rfl
@[simp] theorem State.modTask_queues (s : State) (n : Nat) (f : Task → Task) :
    (s.modTask n f).queues = s.queues := rfl
@[simp] theorem State.modTask_admin (s : State) (n : Nat) (f : Task → Task) : (s.modTask n f).admin = s.admin := rfl
@[simp] theorem State.modTask_adminCount (s : State) (n : Nat) (f : Task → Task) :
    (s.modTask n f).adminCount = s.adminCount := rfl
@[simp] theorem State.modTask_adminCmds (s : State) (n : Nat) (f : Task → Task) :
    (s.modTask n f).adminCmds = s.adminCmds := rfl
@[simp] theorem State.modTask_msix (s : State) (n : Nat) (f : Task → Task) : (s.modTask n f).msix = s.msix := rfl
@[simp] theorem State.modTask_stations (s : State) (n : Nat) (f : Task → Task) :
    (s.modTask n f).stations = s.stations := rfl
@[simp] theorem State.modTask_mig (s : State) (n : Nat) (f : Task → Task) : (s.modTask n f).mig = s.mig := rfl
@[simp] theorem State.modTask_sys (s : State) (n : Nat) (f : Task → Task) : (s.modTask n f).sys = s.sys := rfl
@[simp] theorem State.modTask_cfg (s : State) (n : Nat) (f : Task → Task) : (s.modTask n f).cfg = s.cfg := rfl
@[simp] theorem State.modTask_agenda (s : State) (n : Nat) (f : Task → Task) :
    (s.modTask n f).agenda = s.agenda := rfl
@[simp] theorem State.modTask_own (s : State) (n : Nat) (f : Task → Task) : (s.modTask n f).own = s.own := rfl
@[simp] theorem State.modTask_outbox (s : State) (n : Nat) (f : Task → Task) :
    (s.modTask n f).outbox = s.outbox := rfl
@[simp] theorem State.modTask_answers (s : State) (n : Nat) (f : Task → Task) :
    (s.modTask n f).answers = s.answers := rfl
@[simp] theorem State.modTask_cur (s : State) (n : Nat) (f : Task → Task) : (s.modTask n f).cur = s.cur := rfl
@[simp] theorem State.modTask_turn (s : State) (n : Nat) (f : Task → Task) : (s.modTask n f).turn = s.turn := rfl
@[simp] theorem State.modTask_iss (s : State) (n : Nat) (f : Task → Task) : (s.modTask n f).iss = s.iss := rfl
@[simp] theorem State.modTask_freeCount (s : State) (n : Nat) (f : Task → Task) :
    (s.modTask n f).freeCount = s.freeCount := rfl

/-! ### State.modDie -/

@[simp] theorem State.modDie_accid (s : State) (n : Nat) (f : DieState → DieState) :
    (s.modDie n f).accid = s.accid := rfl
@[simp] theorem State.modDie_cyc (s : State) (n : Nat) (f : DieState → DieState) : (s.modDie n f).cyc = s.cyc := rfl
@[simp] theorem State.modDie_timeU (s : State) (n : Nat) (f : DieState → DieState) :
    (s.modDie n f).timeU = s.timeU := rfl
@[simp] theorem State.modDie_lastU (s : State) (n : Nat) (f : DieState → DieState) :
    (s.modDie n f).lastU = s.lastU := rfl
@[simp] theorem State.modDie_mem (s : State) (n : Nat) (f : DieState → DieState) : (s.modDie n f).mem = s.mem := rfl
@[simp] theorem State.modDie_host (s : State) (n : Nat) (f : DieState → DieState) :
    (s.modDie n f).host = s.host := rfl
@[simp] theorem State.modDie_cores (s : State) (n : Nat) (f : DieState → DieState) :
    (s.modDie n f).cores = s.cores := rfl
@[simp] theorem State.modDie_dies (s : State) (n : Nat) (f : DieState → DieState) :
    (s.modDie n f).dies = s.dies.set n (f (s.dieAt n)) := rfl
@[simp] theorem State.modDie_tasks (s : State) (n : Nat) (f : DieState → DieState) :
    (s.modDie n f).tasks = s.tasks := rfl
@[simp] theorem State.modDie_poolOrder (s : State) (n : Nat) (f : DieState → DieState) :
    (s.modDie n f).poolOrder = s.poolOrder := rfl
@[simp] theorem State.modDie_admitOrder (s : State) (n : Nat) (f : DieState → DieState) :
    (s.modDie n f).admitOrder = s.admitOrder := rfl
@[simp] theorem State.modDie_batches (s : State) (n : Nat) (f : DieState → DieState) :
    (s.modDie n f).batches = s.batches := rfl
@[simp] theorem State.modDie_away (s : State) (n : Nat) (f : DieState → DieState) :
    (s.modDie n f).away = s.away := rfl
@[simp] theorem State.modDie_ctxs (s : State) (n : Nat) (f : DieState → DieState) :
    (s.modDie n f).ctxs = s.ctxs := rfl
@[simp] theorem State.modDie_revs (s : State) (n : Nat) (f : DieState → DieState) :
    (s.modDie n f).revs = s.revs := rfl
@[simp] theorem State.modDie_nextRev (s : State) (n : Nat) (f : DieState → DieState) :
    (s.modDie n f).nextRev = s.nextRev := rfl
@[simp] theorem State.modDie_copies (s : State) (n : Nat) (f : DieState → DieState) :
    (s.modDie n f).copies = s.copies := rfl
@[simp] theorem State.modDie_nextCopy (s : State) (n : Nat) (f : DieState → DieState) :
    (s.modDie n f).nextCopy = s.nextCopy := rfl
@[simp] theorem State.modDie_ops (s : State) (n : Nat) (f : DieState → DieState) : (s.modDie n f).ops = s.ops := rfl
@[simp] theorem State.modDie_nextOp (s : State) (n : Nat) (f : DieState → DieState) :
    (s.modDie n f).nextOp = s.nextOp := rfl
@[simp] theorem State.modDie_nextBundle (s : State) (n : Nat) (f : DieState → DieState) :
    (s.modDie n f).nextBundle = s.nextBundle := rfl
@[simp] theorem State.modDie_queues (s : State) (n : Nat) (f : DieState → DieState) :
    (s.modDie n f).queues = s.queues := rfl
@[simp] theorem State.modDie_admin (s : State) (n : Nat) (f : DieState → DieState) :
    (s.modDie n f).admin = s.admin := rfl
@[simp] theorem State.modDie_adminCount (s : State) (n : Nat) (f : DieState → DieState) :
    (s.modDie n f).adminCount = s.adminCount := rfl
@[simp] theorem State.modDie_adminCmds (s : State) (n : Nat) (f : DieState → DieState) :
    (s.modDie n f).adminCmds = s.adminCmds := rfl
@[simp] theorem State.modDie_msix (s : State) (n : Nat) (f : DieState → DieState) :
    (s.modDie n f).msix = s.msix := rfl
@[simp] theorem State.modDie_stations (s : State) (n : Nat) (f : DieState → DieState) :
    (s.modDie n f).stations = s.stations := rfl
@[simp] theorem State.modDie_mig (s : State) (n : Nat) (f : DieState → DieState) : (s.modDie n f).mig = s.mig := rfl
@[simp] theorem State.modDie_sys (s : State) (n : Nat) (f : DieState → DieState) : (s.modDie n f).sys = s.sys := rfl
@[simp] theorem State.modDie_cfg (s : State) (n : Nat) (f : DieState → DieState) : (s.modDie n f).cfg = s.cfg := rfl
@[simp] theorem State.modDie_agenda (s : State) (n : Nat) (f : DieState → DieState) :
    (s.modDie n f).agenda = s.agenda := rfl
@[simp] theorem State.modDie_own (s : State) (n : Nat) (f : DieState → DieState) : (s.modDie n f).own = s.own := rfl
@[simp] theorem State.modDie_outbox (s : State) (n : Nat) (f : DieState → DieState) :
    (s.modDie n f).outbox = s.outbox := rfl
@[simp] theorem State.modDie_answers (s : State) (n : Nat) (f : DieState → DieState) :
    (s.modDie n f).answers = s.answers := rfl
@[simp] theorem State.modDie_cur (s : State) (n : Nat) (f : DieState → DieState) : (s.modDie n f).cur = s.cur := rfl
@[simp] theorem State.modDie_turn (s : State) (n : Nat) (f : DieState → DieState) :
    (s.modDie n f).turn = s.turn := rfl
@[simp] theorem State.modDie_iss (s : State) (n : Nat) (f : DieState → DieState) : (s.modDie n f).iss = s.iss := rfl
@[simp] theorem State.modDie_freeCount (s : State) (n : Nat) (f : DieState → DieState) :
    (s.modDie n f).freeCount = s.freeCount := rfl

/-! ### State.modContext -/

@[simp] theorem State.modContext_accid (s : State) (n : Nat) (f : Context → Context) :
    (s.modContext n f).accid = s.accid := by unfold State.modContext; split <;> rfl
@[simp] theorem State.modContext_cyc (s : State) (n : Nat) (f : Context → Context) :
    (s.modContext n f).cyc = s.cyc := by unfold State.modContext; split <;> rfl
@[simp] theorem State.modContext_timeU (s : State) (n : Nat) (f : Context → Context) :
    (s.modContext n f).timeU = s.timeU := by unfold State.modContext; split <;> rfl
@[simp] theorem State.modContext_lastU (s : State) (n : Nat) (f : Context → Context) :
    (s.modContext n f).lastU = s.lastU := by unfold State.modContext; split <;> rfl
@[simp] theorem State.modContext_mem (s : State) (n : Nat) (f : Context → Context) :
    (s.modContext n f).mem = s.mem := by unfold State.modContext; split <;> rfl
@[simp] theorem State.modContext_host (s : State) (n : Nat) (f : Context → Context) :
    (s.modContext n f).host = s.host := by unfold State.modContext; split <;> rfl
@[simp] theorem State.modContext_cores (s : State) (n : Nat) (f : Context → Context) :
    (s.modContext n f).cores = s.cores := by unfold State.modContext; split <;> rfl
@[simp] theorem State.modContext_dies (s : State) (n : Nat) (f : Context → Context) :
    (s.modContext n f).dies = s.dies := by unfold State.modContext; split <;> rfl
@[simp] theorem State.modContext_tasks (s : State) (n : Nat) (f : Context → Context) :
    (s.modContext n f).tasks = s.tasks := by unfold State.modContext; split <;> rfl
@[simp] theorem State.modContext_poolOrder (s : State) (n : Nat) (f : Context → Context) :
    (s.modContext n f).poolOrder = s.poolOrder := by unfold State.modContext; split <;> rfl
@[simp] theorem State.modContext_admitOrder (s : State) (n : Nat) (f : Context → Context) :
    (s.modContext n f).admitOrder = s.admitOrder := by unfold State.modContext; split <;> rfl
@[simp] theorem State.modContext_batches (s : State) (n : Nat) (f : Context → Context) :
    (s.modContext n f).batches = s.batches := by unfold State.modContext; split <;> rfl
@[simp] theorem State.modContext_away (s : State) (n : Nat) (f : Context → Context) :
    (s.modContext n f).away = s.away := by unfold State.modContext; split <;> rfl
@[simp] theorem State.modContext_revs (s : State) (n : Nat) (f : Context → Context) :
    (s.modContext n f).revs = s.revs := by unfold State.modContext; split <;> rfl
@[simp] theorem State.modContext_nextRev (s : State) (n : Nat) (f : Context → Context) :
    (s.modContext n f).nextRev = s.nextRev := by unfold State.modContext; split <;> rfl
@[simp] theorem State.modContext_copies (s : State) (n : Nat) (f : Context → Context) :
    (s.modContext n f).copies = s.copies := by unfold State.modContext; split <;> rfl
@[simp] theorem State.modContext_nextCopy (s : State) (n : Nat) (f : Context → Context) :
    (s.modContext n f).nextCopy = s.nextCopy := by unfold State.modContext; split <;> rfl
@[simp] theorem State.modContext_ops (s : State) (n : Nat) (f : Context → Context) :
    (s.modContext n f).ops = s.ops := by unfold State.modContext; split <;> rfl
@[simp] theorem State.modContext_nextOp (s : State) (n : Nat) (f : Context → Context) :
    (s.modContext n f).nextOp = s.nextOp := by unfold State.modContext; split <;> rfl
@[simp] theorem State.modContext_nextBundle (s : State) (n : Nat) (f : Context → Context) :
    (s.modContext n f).nextBundle = s.nextBundle := by unfold State.modContext; split <;> rfl
@[simp] theorem State.modContext_queues (s : State) (n : Nat) (f : Context → Context) :
    (s.modContext n f).queues = s.queues := by unfold State.modContext; split <;> rfl
@[simp] theorem State.modContext_admin (s : State) (n : Nat) (f : Context → Context) :
    (s.modContext n f).admin = s.admin := by unfold State.modContext; split <;> rfl
@[simp] theorem State.modContext_adminCount (s : State) (n : Nat) (f : Context → Context) :
    (s.modContext n f).adminCount = s.adminCount := by unfold State.modContext; split <;> rfl
@[simp] theorem State.modContext_adminCmds (s : State) (n : Nat) (f : Context → Context) :
    (s.modContext n f).adminCmds = s.adminCmds := by unfold State.modContext; split <;> rfl
@[simp] theorem State.modContext_msix (s : State) (n : Nat) (f : Context → Context) :
    (s.modContext n f).msix = s.msix := by unfold State.modContext; split <;> rfl
@[simp] theorem State.modContext_stations (s : State) (n : Nat) (f : Context → Context) :
    (s.modContext n f).stations = s.stations := by unfold State.modContext; split <;> rfl
@[simp] theorem State.modContext_mig (s : State) (n : Nat) (f : Context → Context) :
    (s.modContext n f).mig = s.mig := by unfold State.modContext; split <;> rfl
@[simp] theorem State.modContext_sys (s : State) (n : Nat) (f : Context → Context) :
    (s.modContext n f).sys = s.sys := by unfold State.modContext; split <;> rfl
@[simp] theorem State.modContext_cfg (s : State) (n : Nat) (f : Context → Context) :
    (s.modContext n f).cfg = s.cfg := by unfold State.modContext; split <;> rfl
@[simp] theorem State.modContext_agenda (s : State) (n : Nat) (f : Context → Context) :
    (s.modContext n f).agenda = s.agenda := by unfold State.modContext; split <;> rfl
@[simp] theorem State.modContext_own (s : State) (n : Nat) (f : Context → Context) :
    (s.modContext n f).own = s.own := by unfold State.modContext; split <;> rfl
@[simp] theorem State.modContext_outbox (s : State) (n : Nat) (f : Context → Context) :
    (s.modContext n f).outbox = s.outbox := by unfold State.modContext; split <;> rfl
@[simp] theorem State.modContext_answers (s : State) (n : Nat) (f : Context → Context) :
    (s.modContext n f).answers = s.answers := by unfold State.modContext; split <;> rfl
@[simp] theorem State.modContext_cur (s : State) (n : Nat) (f : Context → Context) :
    (s.modContext n f).cur = s.cur := by unfold State.modContext; split <;> rfl
@[simp] theorem State.modContext_turn (s : State) (n : Nat) (f : Context → Context) :
    (s.modContext n f).turn = s.turn := by unfold State.modContext; split <;> rfl
@[simp] theorem State.modContext_iss (s : State) (n : Nat) (f : Context → Context) :
    (s.modContext n f).iss = s.iss := by unfold State.modContext; split <;> rfl
@[simp] theorem State.modContext_freeCount (s : State) (n : Nat) (f : Context → Context) :
    (s.modContext n f).freeCount = s.freeCount := by unfold State.modContext; split <;> rfl

/-! ### State.modOwner -/

@[simp] theorem State.modOwner_accid (s : State) (n m : Nat) (f : Ctx → Ctx) :
    (s.modOwner n m f).accid = s.accid := by unfold State.modOwner; split <;> rfl
@[simp] theorem State.modOwner_cyc (s : State) (n m : Nat) (f : Ctx → Ctx) :
    (s.modOwner n m f).cyc = s.cyc := by unfold State.modOwner; split <;> rfl
@[simp] theorem State.modOwner_timeU (s : State) (n m : Nat) (f : Ctx → Ctx) :
    (s.modOwner n m f).timeU = s.timeU := by unfold State.modOwner; split <;> rfl
@[simp] theorem State.modOwner_lastU (s : State) (n m : Nat) (f : Ctx → Ctx) :
    (s.modOwner n m f).lastU = s.lastU := by unfold State.modOwner; split <;> rfl
@[simp] theorem State.modOwner_mem (s : State) (n m : Nat) (f : Ctx → Ctx) :
    (s.modOwner n m f).mem = s.mem := by unfold State.modOwner; split <;> rfl
@[simp] theorem State.modOwner_host (s : State) (n m : Nat) (f : Ctx → Ctx) :
    (s.modOwner n m f).host = s.host := by unfold State.modOwner; split <;> rfl
@[simp] theorem State.modOwner_dies (s : State) (n m : Nat) (f : Ctx → Ctx) :
    (s.modOwner n m f).dies = s.dies := by unfold State.modOwner; split <;> rfl
@[simp] theorem State.modOwner_poolOrder (s : State) (n m : Nat) (f : Ctx → Ctx) :
    (s.modOwner n m f).poolOrder = s.poolOrder := by unfold State.modOwner; split <;> rfl
@[simp] theorem State.modOwner_admitOrder (s : State) (n m : Nat) (f : Ctx → Ctx) :
    (s.modOwner n m f).admitOrder = s.admitOrder := by unfold State.modOwner; split <;> rfl
@[simp] theorem State.modOwner_batches (s : State) (n m : Nat) (f : Ctx → Ctx) :
    (s.modOwner n m f).batches = s.batches := by unfold State.modOwner; split <;> rfl
@[simp] theorem State.modOwner_away (s : State) (n m : Nat) (f : Ctx → Ctx) :
    (s.modOwner n m f).away = s.away := by unfold State.modOwner; split <;> rfl
@[simp] theorem State.modOwner_ctxs (s : State) (n m : Nat) (f : Ctx → Ctx) :
    (s.modOwner n m f).ctxs = s.ctxs := by unfold State.modOwner; split <;> rfl
@[simp] theorem State.modOwner_revs (s : State) (n m : Nat) (f : Ctx → Ctx) :
    (s.modOwner n m f).revs = s.revs := by unfold State.modOwner; split <;> rfl
@[simp] theorem State.modOwner_nextRev (s : State) (n m : Nat) (f : Ctx → Ctx) :
    (s.modOwner n m f).nextRev = s.nextRev := by unfold State.modOwner; split <;> rfl
@[simp] theorem State.modOwner_copies (s : State) (n m : Nat) (f : Ctx → Ctx) :
    (s.modOwner n m f).copies = s.copies := by unfold State.modOwner; split <;> rfl
@[simp] theorem State.modOwner_nextCopy (s : State) (n m : Nat) (f : Ctx → Ctx) :
    (s.modOwner n m f).nextCopy = s.nextCopy := by unfold State.modOwner; split <;> rfl
@[simp] theorem State.modOwner_ops (s : State) (n m : Nat) (f : Ctx → Ctx) :
    (s.modOwner n m f).ops = s.ops := by unfold State.modOwner; split <;> rfl
@[simp] theorem State.modOwner_nextOp (s : State) (n m : Nat) (f : Ctx → Ctx) :
    (s.modOwner n m f).nextOp = s.nextOp := by unfold State.modOwner; split <;> rfl
@[simp] theorem State.modOwner_nextBundle (s : State) (n m : Nat) (f : Ctx → Ctx) :
    (s.modOwner n m f).nextBundle = s.nextBundle := by unfold State.modOwner; split <;> rfl
@[simp] theorem State.modOwner_queues (s : State) (n m : Nat) (f : Ctx → Ctx) :
    (s.modOwner n m f).queues = s.queues := by unfold State.modOwner; split <;> rfl
@[simp] theorem State.modOwner_admin (s : State) (n m : Nat) (f : Ctx → Ctx) :
    (s.modOwner n m f).admin = s.admin := by unfold State.modOwner; split <;> rfl
@[simp] theorem State.modOwner_adminCount (s : State) (n m : Nat) (f : Ctx → Ctx) :
    (s.modOwner n m f).adminCount = s.adminCount := by unfold State.modOwner; split <;> rfl
@[simp] theorem State.modOwner_adminCmds (s : State) (n m : Nat) (f : Ctx → Ctx) :
    (s.modOwner n m f).adminCmds = s.adminCmds := by unfold State.modOwner; split <;> rfl
@[simp] theorem State.modOwner_msix (s : State) (n m : Nat) (f : Ctx → Ctx) :
    (s.modOwner n m f).msix = s.msix := by unfold State.modOwner; split <;> rfl
@[simp] theorem State.modOwner_stations (s : State) (n m : Nat) (f : Ctx → Ctx) :
    (s.modOwner n m f).stations = s.stations := by unfold State.modOwner; split <;> rfl
@[simp] theorem State.modOwner_mig (s : State) (n m : Nat) (f : Ctx → Ctx) :
    (s.modOwner n m f).mig = s.mig := by unfold State.modOwner; split <;> rfl
@[simp] theorem State.modOwner_sys (s : State) (n m : Nat) (f : Ctx → Ctx) :
    (s.modOwner n m f).sys = s.sys := by unfold State.modOwner; split <;> rfl
@[simp] theorem State.modOwner_cfg (s : State) (n m : Nat) (f : Ctx → Ctx) :
    (s.modOwner n m f).cfg = s.cfg := by unfold State.modOwner; split <;> rfl
@[simp] theorem State.modOwner_agenda (s : State) (n m : Nat) (f : Ctx → Ctx) :
    (s.modOwner n m f).agenda = s.agenda := by unfold State.modOwner; split <;> rfl
@[simp] theorem State.modOwner_own (s : State) (n m : Nat) (f : Ctx → Ctx) :
    (s.modOwner n m f).own = s.own := by unfold State.modOwner; split <;> rfl
@[simp] theorem State.modOwner_outbox (s : State) (n m : Nat) (f : Ctx → Ctx) :
    (s.modOwner n m f).outbox = s.outbox := by unfold State.modOwner; split <;> rfl
@[simp] theorem State.modOwner_answers (s : State) (n m : Nat) (f : Ctx → Ctx) :
    (s.modOwner n m f).answers = s.answers := by unfold State.modOwner; split <;> rfl
@[simp] theorem State.modOwner_cur (s : State) (n m : Nat) (f : Ctx → Ctx) :
    (s.modOwner n m f).cur = s.cur := by unfold State.modOwner; split <;> rfl
@[simp] theorem State.modOwner_turn (s : State) (n m : Nat) (f : Ctx → Ctx) :
    (s.modOwner n m f).turn = s.turn := by unfold State.modOwner; split <;> rfl
@[simp] theorem State.modOwner_iss (s : State) (n m : Nat) (f : Ctx → Ctx) :
    (s.modOwner n m f).iss = s.iss := by unfold State.modOwner; split <;> rfl
@[simp] theorem State.modOwner_freeCount (s : State) (n m : Nat) (f : Ctx → Ctx) :
    (s.modOwner n m f).freeCount = s.freeCount := by unfold State.modOwner; split <;> rfl

/-! ### State.addPush -/

@[simp] theorem State.addPush_accid (s : State) (p : Push) : (s.addPush p).accid = s.accid := rfl
@[simp] theorem State.addPush_cyc (s : State) (p : Push) : (s.addPush p).cyc = s.cyc := rfl
@[simp] theorem State.addPush_timeU (s : State) (p : Push) : (s.addPush p).timeU = s.timeU := rfl
@[simp] theorem State.addPush_lastU (s : State) (p : Push) : (s.addPush p).lastU = s.lastU := rfl
@[simp] theorem State.addPush_mem (s : State) (p : Push) : (s.addPush p).mem = s.mem := rfl
@[simp] theorem State.addPush_host (s : State) (p : Push) : (s.addPush p).host = s.host := rfl
@[simp] theorem State.addPush_dies (s : State) (p : Push) : (s.addPush p).dies = s.dies := rfl
@[simp] theorem State.addPush_tasks (s : State) (p : Push) : (s.addPush p).tasks = s.tasks := rfl
@[simp] theorem State.addPush_poolOrder (s : State) (p : Push) : (s.addPush p).poolOrder = s.poolOrder := rfl
@[simp] theorem State.addPush_admitOrder (s : State) (p : Push) : (s.addPush p).admitOrder = s.admitOrder := rfl
@[simp] theorem State.addPush_batches (s : State) (p : Push) : (s.addPush p).batches = s.batches := rfl
@[simp] theorem State.addPush_away (s : State) (p : Push) : (s.addPush p).away = s.away := rfl
@[simp] theorem State.addPush_ctxs (s : State) (p : Push) : (s.addPush p).ctxs = s.ctxs := rfl
@[simp] theorem State.addPush_revs (s : State) (p : Push) : (s.addPush p).revs = s.revs := rfl
@[simp] theorem State.addPush_nextRev (s : State) (p : Push) : (s.addPush p).nextRev = s.nextRev := rfl
@[simp] theorem State.addPush_copies (s : State) (p : Push) : (s.addPush p).copies = s.copies := rfl
@[simp] theorem State.addPush_nextCopy (s : State) (p : Push) : (s.addPush p).nextCopy = s.nextCopy := rfl
@[simp] theorem State.addPush_ops (s : State) (p : Push) : (s.addPush p).ops = s.ops := rfl
@[simp] theorem State.addPush_nextOp (s : State) (p : Push) : (s.addPush p).nextOp = s.nextOp := rfl
@[simp] theorem State.addPush_nextBundle (s : State) (p : Push) : (s.addPush p).nextBundle = s.nextBundle := rfl
@[simp] theorem State.addPush_queues (s : State) (p : Push) : (s.addPush p).queues = s.queues := rfl
@[simp] theorem State.addPush_admin (s : State) (p : Push) : (s.addPush p).admin = s.admin := rfl
@[simp] theorem State.addPush_adminCount (s : State) (p : Push) : (s.addPush p).adminCount = s.adminCount := rfl
@[simp] theorem State.addPush_adminCmds (s : State) (p : Push) : (s.addPush p).adminCmds = s.adminCmds := rfl
@[simp] theorem State.addPush_msix (s : State) (p : Push) : (s.addPush p).msix = s.msix := rfl
@[simp] theorem State.addPush_stations (s : State) (p : Push) : (s.addPush p).stations = s.stations := rfl
@[simp] theorem State.addPush_mig (s : State) (p : Push) : (s.addPush p).mig = s.mig := rfl
@[simp] theorem State.addPush_sys (s : State) (p : Push) : (s.addPush p).sys = s.sys := rfl
@[simp] theorem State.addPush_cfg (s : State) (p : Push) : (s.addPush p).cfg = s.cfg := rfl
@[simp] theorem State.addPush_agenda (s : State) (p : Push) : (s.addPush p).agenda = s.agenda := rfl
@[simp] theorem State.addPush_own (s : State) (p : Push) : (s.addPush p).own = s.own := rfl
@[simp] theorem State.addPush_outbox (s : State) (p : Push) : (s.addPush p).outbox = s.outbox := rfl
@[simp] theorem State.addPush_answers (s : State) (p : Push) : (s.addPush p).answers = s.answers := rfl
@[simp] theorem State.addPush_cur (s : State) (p : Push) : (s.addPush p).cur = s.cur := rfl
@[simp] theorem State.addPush_turn (s : State) (p : Push) : (s.addPush p).turn = s.turn := rfl
@[simp] theorem State.addPush_iss (s : State) (p : Push) : (s.addPush p).iss = s.iss := rfl
@[simp] theorem State.addPush_freeCount (s : State) (p : Push) : (s.addPush p).freeCount = s.freeCount := rfl

/-! ### State.dropOp -/

@[simp] theorem State.dropOp_accid (s : State) (n : Nat) : (s.dropOp n).accid = s.accid := rfl
@[simp] theorem State.dropOp_cyc (s : State) (n : Nat) : (s.dropOp n).cyc = s.cyc := rfl
@[simp] theorem State.dropOp_timeU (s : State) (n : Nat) : (s.dropOp n).timeU = s.timeU := rfl
@[simp] theorem State.dropOp_lastU (s : State) (n : Nat) : (s.dropOp n).lastU = s.lastU := rfl
@[simp] theorem State.dropOp_mem (s : State) (n : Nat) : (s.dropOp n).mem = s.mem := rfl
@[simp] theorem State.dropOp_host (s : State) (n : Nat) : (s.dropOp n).host = s.host := rfl
@[simp] theorem State.dropOp_cores (s : State) (n : Nat) : (s.dropOp n).cores = s.cores := rfl
@[simp] theorem State.dropOp_dies (s : State) (n : Nat) : (s.dropOp n).dies = s.dies := rfl
@[simp] theorem State.dropOp_tasks (s : State) (n : Nat) : (s.dropOp n).tasks = s.tasks := rfl
@[simp] theorem State.dropOp_poolOrder (s : State) (n : Nat) : (s.dropOp n).poolOrder = s.poolOrder := rfl
@[simp] theorem State.dropOp_admitOrder (s : State) (n : Nat) : (s.dropOp n).admitOrder = s.admitOrder := rfl
@[simp] theorem State.dropOp_batches (s : State) (n : Nat) : (s.dropOp n).batches = s.batches := rfl
@[simp] theorem State.dropOp_away (s : State) (n : Nat) : (s.dropOp n).away = s.away := rfl
@[simp] theorem State.dropOp_ctxs (s : State) (n : Nat) : (s.dropOp n).ctxs = s.ctxs := rfl
@[simp] theorem State.dropOp_revs (s : State) (n : Nat) : (s.dropOp n).revs = s.revs := rfl
@[simp] theorem State.dropOp_nextRev (s : State) (n : Nat) : (s.dropOp n).nextRev = s.nextRev := rfl
@[simp] theorem State.dropOp_copies (s : State) (n : Nat) : (s.dropOp n).copies = s.copies := rfl
@[simp] theorem State.dropOp_nextCopy (s : State) (n : Nat) : (s.dropOp n).nextCopy = s.nextCopy := rfl
@[simp] theorem State.dropOp_ops (s : State) (n : Nat) : (s.dropOp n).ops = s.ops.filter fun o => o.id != n := rfl
@[simp] theorem State.dropOp_nextOp (s : State) (n : Nat) : (s.dropOp n).nextOp = s.nextOp := rfl
@[simp] theorem State.dropOp_nextBundle (s : State) (n : Nat) : (s.dropOp n).nextBundle = s.nextBundle := rfl
@[simp] theorem State.dropOp_queues (s : State) (n : Nat) : (s.dropOp n).queues = s.queues := rfl
@[simp] theorem State.dropOp_admin (s : State) (n : Nat) : (s.dropOp n).admin = s.admin := rfl
@[simp] theorem State.dropOp_adminCount (s : State) (n : Nat) : (s.dropOp n).adminCount = s.adminCount := rfl
@[simp] theorem State.dropOp_adminCmds (s : State) (n : Nat) : (s.dropOp n).adminCmds = s.adminCmds := rfl
@[simp] theorem State.dropOp_msix (s : State) (n : Nat) : (s.dropOp n).msix = s.msix := rfl
@[simp] theorem State.dropOp_stations (s : State) (n : Nat) : (s.dropOp n).stations = s.stations := rfl
@[simp] theorem State.dropOp_mig (s : State) (n : Nat) : (s.dropOp n).mig = s.mig := rfl
@[simp] theorem State.dropOp_sys (s : State) (n : Nat) : (s.dropOp n).sys = s.sys := rfl
@[simp] theorem State.dropOp_cfg (s : State) (n : Nat) : (s.dropOp n).cfg = s.cfg := rfl
@[simp] theorem State.dropOp_agenda (s : State) (n : Nat) : (s.dropOp n).agenda = s.agenda := rfl
@[simp] theorem State.dropOp_own (s : State) (n : Nat) : (s.dropOp n).own = s.own := rfl
@[simp] theorem State.dropOp_outbox (s : State) (n : Nat) : (s.dropOp n).outbox = s.outbox := rfl
@[simp] theorem State.dropOp_answers (s : State) (n : Nat) : (s.dropOp n).answers = s.answers := rfl
@[simp] theorem State.dropOp_cur (s : State) (n : Nat) : (s.dropOp n).cur = s.cur := rfl
@[simp] theorem State.dropOp_turn (s : State) (n : Nat) : (s.dropOp n).turn = s.turn := rfl
@[simp] theorem State.dropOp_iss (s : State) (n : Nat) : (s.dropOp n).iss = s.iss := rfl
@[simp] theorem State.dropOp_freeCount (s : State) (n : Nat) : (s.dropOp n).freeCount = s.freeCount := rfl

/-! ### State.modOp -/

@[simp] theorem State.modOp_accid (s : State) (n : Nat) (f : Op → Op) : (s.modOp n f).accid = s.accid := rfl
@[simp] theorem State.modOp_cyc (s : State) (n : Nat) (f : Op → Op) : (s.modOp n f).cyc = s.cyc := rfl
@[simp] theorem State.modOp_timeU (s : State) (n : Nat) (f : Op → Op) : (s.modOp n f).timeU = s.timeU := rfl
@[simp] theorem State.modOp_lastU (s : State) (n : Nat) (f : Op → Op) : (s.modOp n f).lastU = s.lastU := rfl
@[simp] theorem State.modOp_mem (s : State) (n : Nat) (f : Op → Op) : (s.modOp n f).mem = s.mem := rfl
@[simp] theorem State.modOp_host (s : State) (n : Nat) (f : Op → Op) : (s.modOp n f).host = s.host := rfl
@[simp] theorem State.modOp_cores (s : State) (n : Nat) (f : Op → Op) : (s.modOp n f).cores = s.cores := rfl
@[simp] theorem State.modOp_dies (s : State) (n : Nat) (f : Op → Op) : (s.modOp n f).dies = s.dies := rfl
@[simp] theorem State.modOp_tasks (s : State) (n : Nat) (f : Op → Op) : (s.modOp n f).tasks = s.tasks := rfl
@[simp] theorem State.modOp_poolOrder (s : State) (n : Nat) (f : Op → Op) :
    (s.modOp n f).poolOrder = s.poolOrder := rfl
@[simp] theorem State.modOp_admitOrder (s : State) (n : Nat) (f : Op → Op) :
    (s.modOp n f).admitOrder = s.admitOrder := rfl
@[simp] theorem State.modOp_batches (s : State) (n : Nat) (f : Op → Op) : (s.modOp n f).batches = s.batches := rfl
@[simp] theorem State.modOp_away (s : State) (n : Nat) (f : Op → Op) : (s.modOp n f).away = s.away := rfl
@[simp] theorem State.modOp_ctxs (s : State) (n : Nat) (f : Op → Op) : (s.modOp n f).ctxs = s.ctxs := rfl
@[simp] theorem State.modOp_revs (s : State) (n : Nat) (f : Op → Op) : (s.modOp n f).revs = s.revs := rfl
@[simp] theorem State.modOp_nextRev (s : State) (n : Nat) (f : Op → Op) : (s.modOp n f).nextRev = s.nextRev := rfl
@[simp] theorem State.modOp_copies (s : State) (n : Nat) (f : Op → Op) : (s.modOp n f).copies = s.copies := rfl
@[simp] theorem State.modOp_nextCopy (s : State) (n : Nat) (f : Op → Op) : (s.modOp n f).nextCopy = s.nextCopy := rfl
@[simp] theorem State.modOp_ops (s : State) (n : Nat) (f : Op → Op) :
    (s.modOp n f).ops = s.ops.map fun o => if o.id = n then f o else o := rfl
@[simp] theorem State.modOp_nextOp (s : State) (n : Nat) (f : Op → Op) : (s.modOp n f).nextOp = s.nextOp := rfl
@[simp] theorem State.modOp_nextBundle (s : State) (n : Nat) (f : Op → Op) :
    (s.modOp n f).nextBundle = s.nextBundle := rfl
@[simp] theorem State.modOp_queues (s : State) (n : Nat) (f : Op → Op) : (s.modOp n f).queues = s.queues := rfl
@[simp] theorem State.modOp_admin (s : State) (n : Nat) (f : Op → Op) : (s.modOp n f).admin = s.admin := rfl
@[simp] theorem State.modOp_adminCount (s : State) (n : Nat) (f : Op → Op) :
    (s.modOp n f).adminCount = s.adminCount := rfl
@[simp] theorem State.modOp_adminCmds (s : State) (n : Nat) (f : Op → Op) :
    (s.modOp n f).adminCmds = s.adminCmds := rfl
@[simp] theorem State.modOp_msix (s : State) (n : Nat) (f : Op → Op) : (s.modOp n f).msix = s.msix := rfl
@[simp] theorem State.modOp_stations (s : State) (n : Nat) (f : Op → Op) : (s.modOp n f).stations = s.stations := rfl
@[simp] theorem State.modOp_mig (s : State) (n : Nat) (f : Op → Op) : (s.modOp n f).mig = s.mig := rfl
@[simp] theorem State.modOp_sys (s : State) (n : Nat) (f : Op → Op) : (s.modOp n f).sys = s.sys := rfl
@[simp] theorem State.modOp_cfg (s : State) (n : Nat) (f : Op → Op) : (s.modOp n f).cfg = s.cfg := rfl
@[simp] theorem State.modOp_agenda (s : State) (n : Nat) (f : Op → Op) : (s.modOp n f).agenda = s.agenda := rfl
@[simp] theorem State.modOp_own (s : State) (n : Nat) (f : Op → Op) : (s.modOp n f).own = s.own := rfl
@[simp] theorem State.modOp_outbox (s : State) (n : Nat) (f : Op → Op) : (s.modOp n f).outbox = s.outbox := rfl
@[simp] theorem State.modOp_answers (s : State) (n : Nat) (f : Op → Op) : (s.modOp n f).answers = s.answers := rfl
@[simp] theorem State.modOp_cur (s : State) (n : Nat) (f : Op → Op) : (s.modOp n f).cur = s.cur := rfl
@[simp] theorem State.modOp_turn (s : State) (n : Nat) (f : Op → Op) : (s.modOp n f).turn = s.turn := rfl
@[simp] theorem State.modOp_iss (s : State) (n : Nat) (f : Op → Op) : (s.modOp n f).iss = s.iss := rfl
@[simp] theorem State.modOp_freeCount (s : State) (n : Nat) (f : Op → Op) :
    (s.modOp n f).freeCount = s.freeCount := rfl

/-! ### State.startOp -/

@[simp] theorem State.startOp_accid (s : State) (n : Nat) (r : List Range) (k : OpKind) :
    (s.startOp n r k).accid = s.accid := rfl
@[simp] theorem State.startOp_cyc (s : State) (n : Nat) (r : List Range) (k : OpKind) :
    (s.startOp n r k).cyc = s.cyc := rfl
@[simp] theorem State.startOp_timeU (s : State) (n : Nat) (r : List Range) (k : OpKind) :
    (s.startOp n r k).timeU = s.timeU := rfl
@[simp] theorem State.startOp_lastU (s : State) (n : Nat) (r : List Range) (k : OpKind) :
    (s.startOp n r k).lastU = s.lastU := rfl
@[simp] theorem State.startOp_mem (s : State) (n : Nat) (r : List Range) (k : OpKind) :
    (s.startOp n r k).mem = s.mem := rfl
@[simp] theorem State.startOp_host (s : State) (n : Nat) (r : List Range) (k : OpKind) :
    (s.startOp n r k).host = s.host := rfl
@[simp] theorem State.startOp_cores (s : State) (n : Nat) (r : List Range) (k : OpKind) :
    (s.startOp n r k).cores = s.cores := rfl
@[simp] theorem State.startOp_dies (s : State) (n : Nat) (r : List Range) (k : OpKind) :
    (s.startOp n r k).dies = s.dies := rfl
@[simp] theorem State.startOp_tasks (s : State) (n : Nat) (r : List Range) (k : OpKind) :
    (s.startOp n r k).tasks = s.tasks := rfl
@[simp] theorem State.startOp_poolOrder (s : State) (n : Nat) (r : List Range) (k : OpKind) :
    (s.startOp n r k).poolOrder = s.poolOrder := rfl
@[simp] theorem State.startOp_admitOrder (s : State) (n : Nat) (r : List Range) (k : OpKind) :
    (s.startOp n r k).admitOrder = s.admitOrder := rfl
@[simp] theorem State.startOp_batches (s : State) (n : Nat) (r : List Range) (k : OpKind) :
    (s.startOp n r k).batches = s.batches := rfl
@[simp] theorem State.startOp_away (s : State) (n : Nat) (r : List Range) (k : OpKind) :
    (s.startOp n r k).away = s.away := rfl
@[simp] theorem State.startOp_ctxs (s : State) (n : Nat) (r : List Range) (k : OpKind) :
    (s.startOp n r k).ctxs = s.ctxs := rfl
@[simp] theorem State.startOp_revs (s : State) (n : Nat) (r : List Range) (k : OpKind) :
    (s.startOp n r k).revs = s.revs := rfl
@[simp] theorem State.startOp_nextRev (s : State) (n : Nat) (r : List Range) (k : OpKind) :
    (s.startOp n r k).nextRev = s.nextRev := rfl
@[simp] theorem State.startOp_copies (s : State) (n : Nat) (r : List Range) (k : OpKind) :
    (s.startOp n r k).copies = s.copies := rfl
@[simp] theorem State.startOp_nextCopy (s : State) (n : Nat) (r : List Range) (k : OpKind) :
    (s.startOp n r k).nextCopy = s.nextCopy := rfl
@[simp] theorem State.startOp_nextOp (s : State) (n : Nat) (r : List Range) (k : OpKind) :
    (s.startOp n r k).nextOp = s.nextOp + 1 := rfl
@[simp] theorem State.startOp_nextBundle (s : State) (n : Nat) (r : List Range) (k : OpKind) :
    (s.startOp n r k).nextBundle = s.nextBundle := rfl
@[simp] theorem State.startOp_queues (s : State) (n : Nat) (r : List Range) (k : OpKind) :
    (s.startOp n r k).queues = s.queues := rfl
@[simp] theorem State.startOp_admin (s : State) (n : Nat) (r : List Range) (k : OpKind) :
    (s.startOp n r k).admin = s.admin := rfl
@[simp] theorem State.startOp_adminCount (s : State) (n : Nat) (r : List Range) (k : OpKind) :
    (s.startOp n r k).adminCount = s.adminCount := rfl
@[simp] theorem State.startOp_adminCmds (s : State) (n : Nat) (r : List Range) (k : OpKind) :
    (s.startOp n r k).adminCmds = s.adminCmds := rfl
@[simp] theorem State.startOp_msix (s : State) (n : Nat) (r : List Range) (k : OpKind) :
    (s.startOp n r k).msix = s.msix := rfl
@[simp] theorem State.startOp_stations (s : State) (n : Nat) (r : List Range) (k : OpKind) :
    (s.startOp n r k).stations = s.stations := rfl
@[simp] theorem State.startOp_mig (s : State) (n : Nat) (r : List Range) (k : OpKind) :
    (s.startOp n r k).mig = s.mig := rfl
@[simp] theorem State.startOp_sys (s : State) (n : Nat) (r : List Range) (k : OpKind) :
    (s.startOp n r k).sys = s.sys := rfl
@[simp] theorem State.startOp_cfg (s : State) (n : Nat) (r : List Range) (k : OpKind) :
    (s.startOp n r k).cfg = s.cfg := rfl
@[simp] theorem State.startOp_agenda (s : State) (n : Nat) (r : List Range) (k : OpKind) :
    (s.startOp n r k).agenda = s.agenda := rfl
@[simp] theorem State.startOp_own (s : State) (n : Nat) (r : List Range) (k : OpKind) :
    (s.startOp n r k).own = s.own := rfl
@[simp] theorem State.startOp_outbox (s : State) (n : Nat) (r : List Range) (k : OpKind) :
    (s.startOp n r k).outbox = s.outbox := rfl
@[simp] theorem State.startOp_answers (s : State) (n : Nat) (r : List Range) (k : OpKind) :
    (s.startOp n r k).answers = s.answers := rfl
@[simp] theorem State.startOp_cur (s : State) (n : Nat) (r : List Range) (k : OpKind) :
    (s.startOp n r k).cur = s.cur := rfl
@[simp] theorem State.startOp_turn (s : State) (n : Nat) (r : List Range) (k : OpKind) :
    (s.startOp n r k).turn = s.turn := rfl
@[simp] theorem State.startOp_iss (s : State) (n : Nat) (r : List Range) (k : OpKind) :
    (s.startOp n r k).iss = s.iss := rfl
@[simp] theorem State.startOp_freeCount (s : State) (n : Nat) (r : List Range) (k : OpKind) :
    (s.startOp n r k).freeCount = s.freeCount := rfl

/-! ### State.startDieOp -/

@[simp] theorem State.startDieOp_accid (s : State) (d a n : Nat) (k : OpKind) :
    (s.startDieOp d a n k).accid = s.accid := rfl
@[simp] theorem State.startDieOp_cyc (s : State) (d a n : Nat) (k : OpKind) :
    (s.startDieOp d a n k).cyc = s.cyc := rfl
@[simp] theorem State.startDieOp_timeU (s : State) (d a n : Nat) (k : OpKind) :
    (s.startDieOp d a n k).timeU = s.timeU := rfl
@[simp] theorem State.startDieOp_lastU (s : State) (d a n : Nat) (k : OpKind) :
    (s.startDieOp d a n k).lastU = s.lastU := rfl
@[simp] theorem State.startDieOp_mem (s : State) (d a n : Nat) (k : OpKind) :
    (s.startDieOp d a n k).mem = s.mem := rfl
@[simp] theorem State.startDieOp_host (s : State) (d a n : Nat) (k : OpKind) :
    (s.startDieOp d a n k).host = s.host := rfl
@[simp] theorem State.startDieOp_cores (s : State) (d a n : Nat) (k : OpKind) :
    (s.startDieOp d a n k).cores = s.cores := rfl
@[simp] theorem State.startDieOp_dies (s : State) (d a n : Nat) (k : OpKind) :
    (s.startDieOp d a n k).dies = s.dies := rfl
@[simp] theorem State.startDieOp_tasks (s : State) (d a n : Nat) (k : OpKind) :
    (s.startDieOp d a n k).tasks = s.tasks := rfl
@[simp] theorem State.startDieOp_poolOrder (s : State) (d a n : Nat) (k : OpKind) :
    (s.startDieOp d a n k).poolOrder = s.poolOrder := rfl
@[simp] theorem State.startDieOp_admitOrder (s : State) (d a n : Nat) (k : OpKind) :
    (s.startDieOp d a n k).admitOrder = s.admitOrder := rfl
@[simp] theorem State.startDieOp_batches (s : State) (d a n : Nat) (k : OpKind) :
    (s.startDieOp d a n k).batches = s.batches := rfl
@[simp] theorem State.startDieOp_away (s : State) (d a n : Nat) (k : OpKind) :
    (s.startDieOp d a n k).away = s.away := rfl
@[simp] theorem State.startDieOp_ctxs (s : State) (d a n : Nat) (k : OpKind) :
    (s.startDieOp d a n k).ctxs = s.ctxs := rfl
@[simp] theorem State.startDieOp_revs (s : State) (d a n : Nat) (k : OpKind) :
    (s.startDieOp d a n k).revs = s.revs := rfl
@[simp] theorem State.startDieOp_nextRev (s : State) (d a n : Nat) (k : OpKind) :
    (s.startDieOp d a n k).nextRev = s.nextRev := rfl
@[simp] theorem State.startDieOp_copies (s : State) (d a n : Nat) (k : OpKind) :
    (s.startDieOp d a n k).copies = s.copies := rfl
@[simp] theorem State.startDieOp_nextCopy (s : State) (d a n : Nat) (k : OpKind) :
    (s.startDieOp d a n k).nextCopy = s.nextCopy := rfl
@[simp] theorem State.startDieOp_nextOp (s : State) (d a n : Nat) (k : OpKind) :
    (s.startDieOp d a n k).nextOp = s.nextOp + 1 := rfl
@[simp] theorem State.startDieOp_nextBundle (s : State) (d a n : Nat) (k : OpKind) :
    (s.startDieOp d a n k).nextBundle = s.nextBundle := rfl
@[simp] theorem State.startDieOp_queues (s : State) (d a n : Nat) (k : OpKind) :
    (s.startDieOp d a n k).queues = s.queues := rfl
@[simp] theorem State.startDieOp_admin (s : State) (d a n : Nat) (k : OpKind) :
    (s.startDieOp d a n k).admin = s.admin := rfl
@[simp] theorem State.startDieOp_adminCount (s : State) (d a n : Nat) (k : OpKind) :
    (s.startDieOp d a n k).adminCount = s.adminCount := rfl
@[simp] theorem State.startDieOp_adminCmds (s : State) (d a n : Nat) (k : OpKind) :
    (s.startDieOp d a n k).adminCmds = s.adminCmds := rfl
@[simp] theorem State.startDieOp_msix (s : State) (d a n : Nat) (k : OpKind) :
    (s.startDieOp d a n k).msix = s.msix := rfl
@[simp] theorem State.startDieOp_stations (s : State) (d a n : Nat) (k : OpKind) :
    (s.startDieOp d a n k).stations = s.stations := rfl
@[simp] theorem State.startDieOp_mig (s : State) (d a n : Nat) (k : OpKind) :
    (s.startDieOp d a n k).mig = s.mig := rfl
@[simp] theorem State.startDieOp_sys (s : State) (d a n : Nat) (k : OpKind) :
    (s.startDieOp d a n k).sys = s.sys := rfl
@[simp] theorem State.startDieOp_cfg (s : State) (d a n : Nat) (k : OpKind) :
    (s.startDieOp d a n k).cfg = s.cfg := rfl
@[simp] theorem State.startDieOp_agenda (s : State) (d a n : Nat) (k : OpKind) :
    (s.startDieOp d a n k).agenda = s.agenda := rfl
@[simp] theorem State.startDieOp_own (s : State) (d a n : Nat) (k : OpKind) :
    (s.startDieOp d a n k).own = s.own := rfl
@[simp] theorem State.startDieOp_outbox (s : State) (d a n : Nat) (k : OpKind) :
    (s.startDieOp d a n k).outbox = s.outbox := rfl
@[simp] theorem State.startDieOp_answers (s : State) (d a n : Nat) (k : OpKind) :
    (s.startDieOp d a n k).answers = s.answers := rfl
@[simp] theorem State.startDieOp_cur (s : State) (d a n : Nat) (k : OpKind) :
    (s.startDieOp d a n k).cur = s.cur := rfl
@[simp] theorem State.startDieOp_turn (s : State) (d a n : Nat) (k : OpKind) :
    (s.startDieOp d a n k).turn = s.turn := rfl
@[simp] theorem State.startDieOp_iss (s : State) (d a n : Nat) (k : OpKind) :
    (s.startDieOp d a n k).iss = s.iss := rfl
@[simp] theorem State.startDieOp_freeCount (s : State) (d a n : Nat) (k : OpKind) :
    (s.startDieOp d a n k).freeCount = s.freeCount := rfl

/-! ### State.startEngineOp -/

@[simp] theorem State.startEngineOp_accid (s : State) (a n : Nat) (k : OpKind) :
    (s.startEngineOp a n k).accid = s.accid := rfl
@[simp] theorem State.startEngineOp_cyc (s : State) (a n : Nat) (k : OpKind) :
    (s.startEngineOp a n k).cyc = s.cyc := rfl
@[simp] theorem State.startEngineOp_timeU (s : State) (a n : Nat) (k : OpKind) :
    (s.startEngineOp a n k).timeU = s.timeU := rfl
@[simp] theorem State.startEngineOp_lastU (s : State) (a n : Nat) (k : OpKind) :
    (s.startEngineOp a n k).lastU = s.lastU := rfl
@[simp] theorem State.startEngineOp_mem (s : State) (a n : Nat) (k : OpKind) :
    (s.startEngineOp a n k).mem = s.mem := rfl
@[simp] theorem State.startEngineOp_host (s : State) (a n : Nat) (k : OpKind) :
    (s.startEngineOp a n k).host = s.host := rfl
@[simp] theorem State.startEngineOp_cores (s : State) (a n : Nat) (k : OpKind) :
    (s.startEngineOp a n k).cores = s.cores := rfl
@[simp] theorem State.startEngineOp_dies (s : State) (a n : Nat) (k : OpKind) :
    (s.startEngineOp a n k).dies = s.dies := rfl
@[simp] theorem State.startEngineOp_tasks (s : State) (a n : Nat) (k : OpKind) :
    (s.startEngineOp a n k).tasks = s.tasks := rfl
@[simp] theorem State.startEngineOp_poolOrder (s : State) (a n : Nat) (k : OpKind) :
    (s.startEngineOp a n k).poolOrder = s.poolOrder := rfl
@[simp] theorem State.startEngineOp_admitOrder (s : State) (a n : Nat) (k : OpKind) :
    (s.startEngineOp a n k).admitOrder = s.admitOrder := rfl
@[simp] theorem State.startEngineOp_batches (s : State) (a n : Nat) (k : OpKind) :
    (s.startEngineOp a n k).batches = s.batches := rfl
@[simp] theorem State.startEngineOp_away (s : State) (a n : Nat) (k : OpKind) :
    (s.startEngineOp a n k).away = s.away := rfl
@[simp] theorem State.startEngineOp_ctxs (s : State) (a n : Nat) (k : OpKind) :
    (s.startEngineOp a n k).ctxs = s.ctxs := rfl
@[simp] theorem State.startEngineOp_revs (s : State) (a n : Nat) (k : OpKind) :
    (s.startEngineOp a n k).revs = s.revs := rfl
@[simp] theorem State.startEngineOp_nextRev (s : State) (a n : Nat) (k : OpKind) :
    (s.startEngineOp a n k).nextRev = s.nextRev := rfl
@[simp] theorem State.startEngineOp_copies (s : State) (a n : Nat) (k : OpKind) :
    (s.startEngineOp a n k).copies = s.copies := rfl
@[simp] theorem State.startEngineOp_nextCopy (s : State) (a n : Nat) (k : OpKind) :
    (s.startEngineOp a n k).nextCopy = s.nextCopy := rfl
@[simp] theorem State.startEngineOp_nextOp (s : State) (a n : Nat) (k : OpKind) :
    (s.startEngineOp a n k).nextOp = s.nextOp + 1 := rfl
@[simp] theorem State.startEngineOp_nextBundle (s : State) (a n : Nat) (k : OpKind) :
    (s.startEngineOp a n k).nextBundle = s.nextBundle := rfl
@[simp] theorem State.startEngineOp_queues (s : State) (a n : Nat) (k : OpKind) :
    (s.startEngineOp a n k).queues = s.queues := rfl
@[simp] theorem State.startEngineOp_admin (s : State) (a n : Nat) (k : OpKind) :
    (s.startEngineOp a n k).admin = s.admin := rfl
@[simp] theorem State.startEngineOp_adminCount (s : State) (a n : Nat) (k : OpKind) :
    (s.startEngineOp a n k).adminCount = s.adminCount := rfl
@[simp] theorem State.startEngineOp_adminCmds (s : State) (a n : Nat) (k : OpKind) :
    (s.startEngineOp a n k).adminCmds = s.adminCmds := rfl
@[simp] theorem State.startEngineOp_msix (s : State) (a n : Nat) (k : OpKind) :
    (s.startEngineOp a n k).msix = s.msix := rfl
@[simp] theorem State.startEngineOp_stations (s : State) (a n : Nat) (k : OpKind) :
    (s.startEngineOp a n k).stations = s.stations := rfl
@[simp] theorem State.startEngineOp_mig (s : State) (a n : Nat) (k : OpKind) :
    (s.startEngineOp a n k).mig = s.mig := rfl
@[simp] theorem State.startEngineOp_sys (s : State) (a n : Nat) (k : OpKind) :
    (s.startEngineOp a n k).sys = s.sys := rfl
@[simp] theorem State.startEngineOp_cfg (s : State) (a n : Nat) (k : OpKind) :
    (s.startEngineOp a n k).cfg = s.cfg := rfl
@[simp] theorem State.startEngineOp_agenda (s : State) (a n : Nat) (k : OpKind) :
    (s.startEngineOp a n k).agenda = s.agenda := rfl
@[simp] theorem State.startEngineOp_own (s : State) (a n : Nat) (k : OpKind) :
    (s.startEngineOp a n k).own = s.own := rfl
@[simp] theorem State.startEngineOp_outbox (s : State) (a n : Nat) (k : OpKind) :
    (s.startEngineOp a n k).outbox = s.outbox := rfl
@[simp] theorem State.startEngineOp_answers (s : State) (a n : Nat) (k : OpKind) :
    (s.startEngineOp a n k).answers = s.answers := rfl
@[simp] theorem State.startEngineOp_cur (s : State) (a n : Nat) (k : OpKind) :
    (s.startEngineOp a n k).cur = s.cur := rfl
@[simp] theorem State.startEngineOp_turn (s : State) (a n : Nat) (k : OpKind) :
    (s.startEngineOp a n k).turn = s.turn := rfl
@[simp] theorem State.startEngineOp_iss (s : State) (a n : Nat) (k : OpKind) :
    (s.startEngineOp a n k).iss = s.iss := rfl
@[simp] theorem State.startEngineOp_freeCount (s : State) (a n : Nat) (k : OpKind) :
    (s.startEngineOp a n k).freeCount = s.freeCount := rfl

/-! ### State.noteErr -/

@[simp] theorem State.noteErr_accid (s : State) (e : Option FaultCode) : (s.noteErr e).accid = s.accid := rfl
@[simp] theorem State.noteErr_cyc (s : State) (e : Option FaultCode) : (s.noteErr e).cyc = s.cyc := rfl
@[simp] theorem State.noteErr_timeU (s : State) (e : Option FaultCode) : (s.noteErr e).timeU = s.timeU := rfl
@[simp] theorem State.noteErr_lastU (s : State) (e : Option FaultCode) : (s.noteErr e).lastU = s.lastU := rfl
@[simp] theorem State.noteErr_mem (s : State) (e : Option FaultCode) : (s.noteErr e).mem = s.mem := rfl
@[simp] theorem State.noteErr_host (s : State) (e : Option FaultCode) : (s.noteErr e).host = s.host := rfl
@[simp] theorem State.noteErr_cores (s : State) (e : Option FaultCode) : (s.noteErr e).cores = s.cores := rfl
@[simp] theorem State.noteErr_dies (s : State) (e : Option FaultCode) : (s.noteErr e).dies = s.dies := rfl
@[simp] theorem State.noteErr_tasks (s : State) (e : Option FaultCode) : (s.noteErr e).tasks = s.tasks := rfl
@[simp] theorem State.noteErr_poolOrder (s : State) (e : Option FaultCode) :
    (s.noteErr e).poolOrder = s.poolOrder := rfl
@[simp] theorem State.noteErr_admitOrder (s : State) (e : Option FaultCode) :
    (s.noteErr e).admitOrder = s.admitOrder := rfl
@[simp] theorem State.noteErr_batches (s : State) (e : Option FaultCode) : (s.noteErr e).batches = s.batches := rfl
@[simp] theorem State.noteErr_away (s : State) (e : Option FaultCode) : (s.noteErr e).away = s.away := rfl
@[simp] theorem State.noteErr_ctxs (s : State) (e : Option FaultCode) : (s.noteErr e).ctxs = s.ctxs := rfl
@[simp] theorem State.noteErr_revs (s : State) (e : Option FaultCode) : (s.noteErr e).revs = s.revs := rfl
@[simp] theorem State.noteErr_nextRev (s : State) (e : Option FaultCode) : (s.noteErr e).nextRev = s.nextRev := rfl
@[simp] theorem State.noteErr_copies (s : State) (e : Option FaultCode) : (s.noteErr e).copies = s.copies := rfl
@[simp] theorem State.noteErr_nextCopy (s : State) (e : Option FaultCode) : (s.noteErr e).nextCopy = s.nextCopy := rfl
@[simp] theorem State.noteErr_ops (s : State) (e : Option FaultCode) : (s.noteErr e).ops = s.ops := rfl
@[simp] theorem State.noteErr_nextOp (s : State) (e : Option FaultCode) : (s.noteErr e).nextOp = s.nextOp := rfl
@[simp] theorem State.noteErr_nextBundle (s : State) (e : Option FaultCode) :
    (s.noteErr e).nextBundle = s.nextBundle := rfl
@[simp] theorem State.noteErr_queues (s : State) (e : Option FaultCode) : (s.noteErr e).queues = s.queues := rfl
@[simp] theorem State.noteErr_admin (s : State) (e : Option FaultCode) : (s.noteErr e).admin = s.admin := rfl
@[simp] theorem State.noteErr_adminCount (s : State) (e : Option FaultCode) :
    (s.noteErr e).adminCount = s.adminCount := rfl
@[simp] theorem State.noteErr_adminCmds (s : State) (e : Option FaultCode) :
    (s.noteErr e).adminCmds = s.adminCmds := rfl
@[simp] theorem State.noteErr_msix (s : State) (e : Option FaultCode) : (s.noteErr e).msix = s.msix := rfl
@[simp] theorem State.noteErr_stations (s : State) (e : Option FaultCode) : (s.noteErr e).stations = s.stations := rfl
@[simp] theorem State.noteErr_mig (s : State) (e : Option FaultCode) : (s.noteErr e).mig = s.mig := rfl
@[simp] theorem State.noteErr_sys (s : State) (e : Option FaultCode) :
    (s.noteErr e).sys = if e = some .accessTable then s.sys.count 9 1 else s.sys := rfl
@[simp] theorem State.noteErr_cfg (s : State) (e : Option FaultCode) : (s.noteErr e).cfg = s.cfg := rfl
@[simp] theorem State.noteErr_agenda (s : State) (e : Option FaultCode) : (s.noteErr e).agenda = s.agenda := rfl
@[simp] theorem State.noteErr_own (s : State) (e : Option FaultCode) : (s.noteErr e).own = s.own := rfl
@[simp] theorem State.noteErr_outbox (s : State) (e : Option FaultCode) : (s.noteErr e).outbox = s.outbox := rfl
@[simp] theorem State.noteErr_answers (s : State) (e : Option FaultCode) : (s.noteErr e).answers = s.answers := rfl
@[simp] theorem State.noteErr_cur (s : State) (e : Option FaultCode) : (s.noteErr e).cur = s.cur := rfl
@[simp] theorem State.noteErr_turn (s : State) (e : Option FaultCode) : (s.noteErr e).turn = s.turn := rfl
@[simp] theorem State.noteErr_iss (s : State) (e : Option FaultCode) : (s.noteErr e).iss = s.iss := rfl
@[simp] theorem State.noteErr_freeCount (s : State) (e : Option FaultCode) :
    (s.noteErr e).freeCount = s.freeCount := rfl

/-! ### State.endOp -/

@[simp] theorem State.endOp_accid (s : State) (o : Op) (k : Cls) (e : Option (FaultCode × Word)) :
    (s.endOp o k e).accid = s.accid := by simp [State.endOp]
@[simp] theorem State.endOp_cyc (s : State) (o : Op) (k : Cls) (e : Option (FaultCode × Word)) :
    (s.endOp o k e).cyc = s.cyc := by simp [State.endOp]
@[simp] theorem State.endOp_timeU (s : State) (o : Op) (k : Cls) (e : Option (FaultCode × Word)) :
    (s.endOp o k e).timeU = s.timeU := by simp [State.endOp]
@[simp] theorem State.endOp_lastU (s : State) (o : Op) (k : Cls) (e : Option (FaultCode × Word)) :
    (s.endOp o k e).lastU = s.lastU := by simp [State.endOp]
@[simp] theorem State.endOp_mem (s : State) (o : Op) (k : Cls) (e : Option (FaultCode × Word)) :
    (s.endOp o k e).mem = s.mem := by simp [State.endOp]
@[simp] theorem State.endOp_host (s : State) (o : Op) (k : Cls) (e : Option (FaultCode × Word)) :
    (s.endOp o k e).host = s.host := by simp [State.endOp]
@[simp] theorem State.endOp_dies (s : State) (o : Op) (k : Cls) (e : Option (FaultCode × Word)) :
    (s.endOp o k e).dies = s.dies := by simp [State.endOp]
@[simp] theorem State.endOp_poolOrder (s : State) (o : Op) (k : Cls) (e : Option (FaultCode × Word)) :
    (s.endOp o k e).poolOrder = s.poolOrder := by simp [State.endOp]
@[simp] theorem State.endOp_admitOrder (s : State) (o : Op) (k : Cls) (e : Option (FaultCode × Word)) :
    (s.endOp o k e).admitOrder = s.admitOrder := by simp [State.endOp]
@[simp] theorem State.endOp_batches (s : State) (o : Op) (k : Cls) (e : Option (FaultCode × Word)) :
    (s.endOp o k e).batches = s.batches := by simp [State.endOp]
@[simp] theorem State.endOp_away (s : State) (o : Op) (k : Cls) (e : Option (FaultCode × Word)) :
    (s.endOp o k e).away = s.away := by simp [State.endOp]
@[simp] theorem State.endOp_ctxs (s : State) (o : Op) (k : Cls) (e : Option (FaultCode × Word)) :
    (s.endOp o k e).ctxs = s.ctxs := by simp [State.endOp]
@[simp] theorem State.endOp_revs (s : State) (o : Op) (k : Cls) (e : Option (FaultCode × Word)) :
    (s.endOp o k e).revs = s.revs := by simp [State.endOp]
@[simp] theorem State.endOp_nextRev (s : State) (o : Op) (k : Cls) (e : Option (FaultCode × Word)) :
    (s.endOp o k e).nextRev = s.nextRev := by simp [State.endOp]
@[simp] theorem State.endOp_copies (s : State) (o : Op) (k : Cls) (e : Option (FaultCode × Word)) :
    (s.endOp o k e).copies = s.copies := by simp [State.endOp]
@[simp] theorem State.endOp_nextCopy (s : State) (o : Op) (k : Cls) (e : Option (FaultCode × Word)) :
    (s.endOp o k e).nextCopy = s.nextCopy := by simp [State.endOp]
@[simp] theorem State.endOp_ops (s : State) (o : Op) (k : Cls) (e : Option (FaultCode × Word)) :
    (s.endOp o k e).ops = s.ops.filter fun p => p.id != o.id := by simp [State.endOp]
@[simp] theorem State.endOp_nextOp (s : State) (o : Op) (k : Cls) (e : Option (FaultCode × Word)) :
    (s.endOp o k e).nextOp = s.nextOp := by simp [State.endOp]
@[simp] theorem State.endOp_nextBundle (s : State) (o : Op) (k : Cls) (e : Option (FaultCode × Word)) :
    (s.endOp o k e).nextBundle = s.nextBundle := by simp [State.endOp]
@[simp] theorem State.endOp_queues (s : State) (o : Op) (k : Cls) (e : Option (FaultCode × Word)) :
    (s.endOp o k e).queues = s.queues := by simp [State.endOp]
@[simp] theorem State.endOp_admin (s : State) (o : Op) (k : Cls) (e : Option (FaultCode × Word)) :
    (s.endOp o k e).admin = s.admin := by simp [State.endOp]
@[simp] theorem State.endOp_adminCount (s : State) (o : Op) (k : Cls) (e : Option (FaultCode × Word)) :
    (s.endOp o k e).adminCount = s.adminCount := by simp [State.endOp]
@[simp] theorem State.endOp_adminCmds (s : State) (o : Op) (k : Cls) (e : Option (FaultCode × Word)) :
    (s.endOp o k e).adminCmds = s.adminCmds := by simp [State.endOp]
@[simp] theorem State.endOp_msix (s : State) (o : Op) (k : Cls) (e : Option (FaultCode × Word)) :
    (s.endOp o k e).msix = s.msix := by simp [State.endOp]
@[simp] theorem State.endOp_stations (s : State) (o : Op) (k : Cls) (e : Option (FaultCode × Word)) :
    (s.endOp o k e).stations = s.stations := by simp [State.endOp]
@[simp] theorem State.endOp_mig (s : State) (o : Op) (k : Cls) (e : Option (FaultCode × Word)) :
    (s.endOp o k e).mig = s.mig := by simp [State.endOp]
@[simp] theorem State.endOp_cfg (s : State) (o : Op) (k : Cls) (e : Option (FaultCode × Word)) :
    (s.endOp o k e).cfg = s.cfg := by simp [State.endOp]
@[simp] theorem State.endOp_agenda (s : State) (o : Op) (k : Cls) (e : Option (FaultCode × Word)) :
    (s.endOp o k e).agenda = s.agenda := by simp [State.endOp]
@[simp] theorem State.endOp_own (s : State) (o : Op) (k : Cls) (e : Option (FaultCode × Word)) :
    (s.endOp o k e).own = s.own := by simp [State.endOp]
@[simp] theorem State.endOp_outbox (s : State) (o : Op) (k : Cls) (e : Option (FaultCode × Word)) :
    (s.endOp o k e).outbox = s.outbox := by simp [State.endOp]
@[simp] theorem State.endOp_answers (s : State) (o : Op) (k : Cls) (e : Option (FaultCode × Word)) :
    (s.endOp o k e).answers = s.answers := by simp [State.endOp]
@[simp] theorem State.endOp_cur (s : State) (o : Op) (k : Cls) (e : Option (FaultCode × Word)) :
    (s.endOp o k e).cur = s.cur := by simp [State.endOp]
@[simp] theorem State.endOp_turn (s : State) (o : Op) (k : Cls) (e : Option (FaultCode × Word)) :
    (s.endOp o k e).turn = s.turn := by simp [State.endOp]
@[simp] theorem State.endOp_iss (s : State) (o : Op) (k : Cls) (e : Option (FaultCode × Word)) :
    (s.endOp o k e).iss = s.iss := by simp [State.endOp]
@[simp] theorem State.endOp_freeCount (s : State) (o : Op) (k : Cls) (e : Option (FaultCode × Word)) :
    (s.endOp o k e).freeCount = s.freeCount := by simp [State.endOp]

/-! ### State.modStation -/

@[simp] theorem State.modStation_accid (s : State) (n : Nat) (f : Station → Station) :
    (s.modStation n f).accid = s.accid := rfl
@[simp] theorem State.modStation_cyc (s : State) (n : Nat) (f : Station → Station) :
    (s.modStation n f).cyc = s.cyc := rfl
@[simp] theorem State.modStation_timeU (s : State) (n : Nat) (f : Station → Station) :
    (s.modStation n f).timeU = s.timeU := rfl
@[simp] theorem State.modStation_lastU (s : State) (n : Nat) (f : Station → Station) :
    (s.modStation n f).lastU = s.lastU := rfl
@[simp] theorem State.modStation_mem (s : State) (n : Nat) (f : Station → Station) :
    (s.modStation n f).mem = s.mem := rfl
@[simp] theorem State.modStation_host (s : State) (n : Nat) (f : Station → Station) :
    (s.modStation n f).host = s.host := rfl
@[simp] theorem State.modStation_cores (s : State) (n : Nat) (f : Station → Station) :
    (s.modStation n f).cores = s.cores := rfl
@[simp] theorem State.modStation_dies (s : State) (n : Nat) (f : Station → Station) :
    (s.modStation n f).dies = s.dies := rfl
@[simp] theorem State.modStation_tasks (s : State) (n : Nat) (f : Station → Station) :
    (s.modStation n f).tasks = s.tasks := rfl
@[simp] theorem State.modStation_poolOrder (s : State) (n : Nat) (f : Station → Station) :
    (s.modStation n f).poolOrder = s.poolOrder := rfl
@[simp] theorem State.modStation_admitOrder (s : State) (n : Nat) (f : Station → Station) :
    (s.modStation n f).admitOrder = s.admitOrder := rfl
@[simp] theorem State.modStation_batches (s : State) (n : Nat) (f : Station → Station) :
    (s.modStation n f).batches = s.batches := rfl
@[simp] theorem State.modStation_away (s : State) (n : Nat) (f : Station → Station) :
    (s.modStation n f).away = s.away := rfl
@[simp] theorem State.modStation_ctxs (s : State) (n : Nat) (f : Station → Station) :
    (s.modStation n f).ctxs = s.ctxs := rfl
@[simp] theorem State.modStation_revs (s : State) (n : Nat) (f : Station → Station) :
    (s.modStation n f).revs = s.revs := rfl
@[simp] theorem State.modStation_nextRev (s : State) (n : Nat) (f : Station → Station) :
    (s.modStation n f).nextRev = s.nextRev := rfl
@[simp] theorem State.modStation_copies (s : State) (n : Nat) (f : Station → Station) :
    (s.modStation n f).copies = s.copies := rfl
@[simp] theorem State.modStation_nextCopy (s : State) (n : Nat) (f : Station → Station) :
    (s.modStation n f).nextCopy = s.nextCopy := rfl
@[simp] theorem State.modStation_ops (s : State) (n : Nat) (f : Station → Station) :
    (s.modStation n f).ops = s.ops := rfl
@[simp] theorem State.modStation_nextOp (s : State) (n : Nat) (f : Station → Station) :
    (s.modStation n f).nextOp = s.nextOp := rfl
@[simp] theorem State.modStation_nextBundle (s : State) (n : Nat) (f : Station → Station) :
    (s.modStation n f).nextBundle = s.nextBundle := rfl
@[simp] theorem State.modStation_queues (s : State) (n : Nat) (f : Station → Station) :
    (s.modStation n f).queues = s.queues := rfl
@[simp] theorem State.modStation_admin (s : State) (n : Nat) (f : Station → Station) :
    (s.modStation n f).admin = s.admin := rfl
@[simp] theorem State.modStation_adminCount (s : State) (n : Nat) (f : Station → Station) :
    (s.modStation n f).adminCount = s.adminCount := rfl
@[simp] theorem State.modStation_adminCmds (s : State) (n : Nat) (f : Station → Station) :
    (s.modStation n f).adminCmds = s.adminCmds := rfl
@[simp] theorem State.modStation_msix (s : State) (n : Nat) (f : Station → Station) :
    (s.modStation n f).msix = s.msix := rfl
@[simp] theorem State.modStation_stations (s : State) (n : Nat) (f : Station → Station) :
    (s.modStation n f).stations = s.stations.set n (f (s.stationAt n)) := rfl
@[simp] theorem State.modStation_mig (s : State) (n : Nat) (f : Station → Station) :
    (s.modStation n f).mig = s.mig := rfl
@[simp] theorem State.modStation_sys (s : State) (n : Nat) (f : Station → Station) :
    (s.modStation n f).sys = s.sys := rfl
@[simp] theorem State.modStation_cfg (s : State) (n : Nat) (f : Station → Station) :
    (s.modStation n f).cfg = s.cfg := rfl
@[simp] theorem State.modStation_agenda (s : State) (n : Nat) (f : Station → Station) :
    (s.modStation n f).agenda = s.agenda := rfl
@[simp] theorem State.modStation_own (s : State) (n : Nat) (f : Station → Station) :
    (s.modStation n f).own = s.own := rfl
@[simp] theorem State.modStation_outbox (s : State) (n : Nat) (f : Station → Station) :
    (s.modStation n f).outbox = s.outbox := rfl
@[simp] theorem State.modStation_answers (s : State) (n : Nat) (f : Station → Station) :
    (s.modStation n f).answers = s.answers := rfl
@[simp] theorem State.modStation_cur (s : State) (n : Nat) (f : Station → Station) :
    (s.modStation n f).cur = s.cur := rfl
@[simp] theorem State.modStation_turn (s : State) (n : Nat) (f : Station → Station) :
    (s.modStation n f).turn = s.turn := rfl
@[simp] theorem State.modStation_iss (s : State) (n : Nat) (f : Station → Station) :
    (s.modStation n f).iss = s.iss := rfl
@[simp] theorem State.modStation_freeCount (s : State) (n : Nat) (f : Station → Station) :
    (s.modStation n f).freeCount = s.freeCount := rfl

/-! ### State.retry -/

@[simp] theorem State.retry_accid (s : State) (i : Instr) : (s.retry i).accid = s.accid := rfl
@[simp] theorem State.retry_cyc (s : State) (i : Instr) : (s.retry i).cyc = s.cyc := rfl
@[simp] theorem State.retry_timeU (s : State) (i : Instr) : (s.retry i).timeU = s.timeU := rfl
@[simp] theorem State.retry_lastU (s : State) (i : Instr) : (s.retry i).lastU = s.lastU := rfl
@[simp] theorem State.retry_mem (s : State) (i : Instr) : (s.retry i).mem = s.mem := rfl
@[simp] theorem State.retry_host (s : State) (i : Instr) : (s.retry i).host = s.host := rfl
@[simp] theorem State.retry_cores (s : State) (i : Instr) : (s.retry i).cores = s.cores := rfl
@[simp] theorem State.retry_dies (s : State) (i : Instr) : (s.retry i).dies = s.dies := rfl
@[simp] theorem State.retry_tasks (s : State) (i : Instr) : (s.retry i).tasks = s.tasks := rfl
@[simp] theorem State.retry_poolOrder (s : State) (i : Instr) : (s.retry i).poolOrder = s.poolOrder := rfl
@[simp] theorem State.retry_admitOrder (s : State) (i : Instr) : (s.retry i).admitOrder = s.admitOrder := rfl
@[simp] theorem State.retry_batches (s : State) (i : Instr) : (s.retry i).batches = s.batches := rfl
@[simp] theorem State.retry_away (s : State) (i : Instr) : (s.retry i).away = s.away := rfl
@[simp] theorem State.retry_ctxs (s : State) (i : Instr) : (s.retry i).ctxs = s.ctxs := rfl
@[simp] theorem State.retry_revs (s : State) (i : Instr) : (s.retry i).revs = s.revs := rfl
@[simp] theorem State.retry_nextRev (s : State) (i : Instr) : (s.retry i).nextRev = s.nextRev := rfl
@[simp] theorem State.retry_copies (s : State) (i : Instr) : (s.retry i).copies = s.copies := rfl
@[simp] theorem State.retry_nextCopy (s : State) (i : Instr) : (s.retry i).nextCopy = s.nextCopy := rfl
@[simp] theorem State.retry_ops (s : State) (i : Instr) : (s.retry i).ops = s.ops := rfl
@[simp] theorem State.retry_nextOp (s : State) (i : Instr) : (s.retry i).nextOp = s.nextOp := rfl
@[simp] theorem State.retry_nextBundle (s : State) (i : Instr) : (s.retry i).nextBundle = s.nextBundle := rfl
@[simp] theorem State.retry_queues (s : State) (i : Instr) : (s.retry i).queues = s.queues := rfl
@[simp] theorem State.retry_admin (s : State) (i : Instr) : (s.retry i).admin = s.admin := rfl
@[simp] theorem State.retry_adminCount (s : State) (i : Instr) : (s.retry i).adminCount = s.adminCount := rfl
@[simp] theorem State.retry_adminCmds (s : State) (i : Instr) : (s.retry i).adminCmds = s.adminCmds := rfl
@[simp] theorem State.retry_msix (s : State) (i : Instr) : (s.retry i).msix = s.msix := rfl
@[simp] theorem State.retry_stations (s : State) (i : Instr) : (s.retry i).stations = s.stations := rfl
@[simp] theorem State.retry_mig (s : State) (i : Instr) : (s.retry i).mig = s.mig := rfl
@[simp] theorem State.retry_sys (s : State) (i : Instr) : (s.retry i).sys = s.sys := rfl
@[simp] theorem State.retry_cfg (s : State) (i : Instr) : (s.retry i).cfg = s.cfg := rfl
@[simp] theorem State.retry_agenda (s : State) (i : Instr) : (s.retry i).agenda = s.agenda := rfl
@[simp] theorem State.retry_own (s : State) (i : Instr) : (s.retry i).own = insertAt 1 i s.own := rfl
@[simp] theorem State.retry_outbox (s : State) (i : Instr) : (s.retry i).outbox = s.outbox := rfl
@[simp] theorem State.retry_answers (s : State) (i : Instr) : (s.retry i).answers = s.answers := rfl
@[simp] theorem State.retry_cur (s : State) (i : Instr) : (s.retry i).cur = s.cur := rfl
@[simp] theorem State.retry_turn (s : State) (i : Instr) : (s.retry i).turn = s.turn := rfl
@[simp] theorem State.retry_iss (s : State) (i : Instr) : (s.retry i).iss = s.iss := rfl
@[simp] theorem State.retry_freeCount (s : State) (i : Instr) : (s.retry i).freeCount = s.freeCount := rfl

/-! ### State.ras -/

@[simp] theorem State.ras_accid (s : State) (n : Nat) : (s.ras n).accid = s.accid := rfl
@[simp] theorem State.ras_cyc (s : State) (n : Nat) : (s.ras n).cyc = s.cyc := rfl
@[simp] theorem State.ras_timeU (s : State) (n : Nat) : (s.ras n).timeU = s.timeU := rfl
@[simp] theorem State.ras_lastU (s : State) (n : Nat) : (s.ras n).lastU = s.lastU := rfl
@[simp] theorem State.ras_mem (s : State) (n : Nat) : (s.ras n).mem = s.mem := rfl
@[simp] theorem State.ras_host (s : State) (n : Nat) : (s.ras n).host = s.host := rfl
@[simp] theorem State.ras_cores (s : State) (n : Nat) : (s.ras n).cores = s.cores := rfl
@[simp] theorem State.ras_dies (s : State) (n : Nat) : (s.ras n).dies = s.dies := rfl
@[simp] theorem State.ras_tasks (s : State) (n : Nat) : (s.ras n).tasks = s.tasks := rfl
@[simp] theorem State.ras_poolOrder (s : State) (n : Nat) : (s.ras n).poolOrder = s.poolOrder := rfl
@[simp] theorem State.ras_admitOrder (s : State) (n : Nat) : (s.ras n).admitOrder = s.admitOrder := rfl
@[simp] theorem State.ras_batches (s : State) (n : Nat) : (s.ras n).batches = s.batches := rfl
@[simp] theorem State.ras_away (s : State) (n : Nat) : (s.ras n).away = s.away := rfl
@[simp] theorem State.ras_ctxs (s : State) (n : Nat) : (s.ras n).ctxs = s.ctxs := rfl
@[simp] theorem State.ras_revs (s : State) (n : Nat) : (s.ras n).revs = s.revs := rfl
@[simp] theorem State.ras_nextRev (s : State) (n : Nat) : (s.ras n).nextRev = s.nextRev := rfl
@[simp] theorem State.ras_copies (s : State) (n : Nat) : (s.ras n).copies = s.copies := rfl
@[simp] theorem State.ras_nextCopy (s : State) (n : Nat) : (s.ras n).nextCopy = s.nextCopy := rfl
@[simp] theorem State.ras_ops (s : State) (n : Nat) : (s.ras n).ops = s.ops := rfl
@[simp] theorem State.ras_nextOp (s : State) (n : Nat) : (s.ras n).nextOp = s.nextOp := rfl
@[simp] theorem State.ras_nextBundle (s : State) (n : Nat) : (s.ras n).nextBundle = s.nextBundle := rfl
@[simp] theorem State.ras_queues (s : State) (n : Nat) : (s.ras n).queues = s.queues := rfl
@[simp] theorem State.ras_admin (s : State) (n : Nat) : (s.ras n).admin = s.admin := rfl
@[simp] theorem State.ras_adminCount (s : State) (n : Nat) : (s.ras n).adminCount = s.adminCount := rfl
@[simp] theorem State.ras_adminCmds (s : State) (n : Nat) : (s.ras n).adminCmds = s.adminCmds := rfl
@[simp] theorem State.ras_msix (s : State) (n : Nat) : (s.ras n).msix = s.msix := rfl
@[simp] theorem State.ras_stations (s : State) (n : Nat) : (s.ras n).stations = s.stations := rfl
@[simp] theorem State.ras_mig (s : State) (n : Nat) : (s.ras n).mig = s.mig := rfl
@[simp] theorem State.ras_sys (s : State) (n : Nat) : (s.ras n).sys = s.sys.count n 1 := rfl
@[simp] theorem State.ras_cfg (s : State) (n : Nat) : (s.ras n).cfg = s.cfg := rfl
@[simp] theorem State.ras_agenda (s : State) (n : Nat) : (s.ras n).agenda = s.agenda := rfl
@[simp] theorem State.ras_own (s : State) (n : Nat) : (s.ras n).own = s.own := rfl
@[simp] theorem State.ras_outbox (s : State) (n : Nat) : (s.ras n).outbox = s.outbox := rfl
@[simp] theorem State.ras_answers (s : State) (n : Nat) : (s.ras n).answers = s.answers := rfl
@[simp] theorem State.ras_cur (s : State) (n : Nat) : (s.ras n).cur = s.cur := rfl
@[simp] theorem State.ras_turn (s : State) (n : Nat) : (s.ras n).turn = s.turn := rfl
@[simp] theorem State.ras_iss (s : State) (n : Nat) : (s.ras n).iss = s.iss := rfl
@[simp] theorem State.ras_freeCount (s : State) (n : Nat) : (s.ras n).freeCount = s.freeCount := rfl

/-! ### State.tickFree -/

@[simp] theorem State.tickFree_accid (s : State) : (s.tickFree).accid = s.accid := rfl
@[simp] theorem State.tickFree_cyc (s : State) : (s.tickFree).cyc = s.cyc := rfl
@[simp] theorem State.tickFree_timeU (s : State) : (s.tickFree).timeU = s.timeU := rfl
@[simp] theorem State.tickFree_lastU (s : State) : (s.tickFree).lastU = s.lastU := rfl
@[simp] theorem State.tickFree_mem (s : State) : (s.tickFree).mem = s.mem := rfl
@[simp] theorem State.tickFree_host (s : State) : (s.tickFree).host = s.host := rfl
@[simp] theorem State.tickFree_cores (s : State) : (s.tickFree).cores = s.cores := rfl
@[simp] theorem State.tickFree_dies (s : State) : (s.tickFree).dies = s.dies := rfl
@[simp] theorem State.tickFree_tasks (s : State) : (s.tickFree).tasks = s.tasks := rfl
@[simp] theorem State.tickFree_poolOrder (s : State) : (s.tickFree).poolOrder = s.poolOrder := rfl
@[simp] theorem State.tickFree_admitOrder (s : State) : (s.tickFree).admitOrder = s.admitOrder := rfl
@[simp] theorem State.tickFree_batches (s : State) : (s.tickFree).batches = s.batches := rfl
@[simp] theorem State.tickFree_away (s : State) : (s.tickFree).away = s.away := rfl
@[simp] theorem State.tickFree_ctxs (s : State) : (s.tickFree).ctxs = s.ctxs := rfl
@[simp] theorem State.tickFree_revs (s : State) : (s.tickFree).revs = s.revs := rfl
@[simp] theorem State.tickFree_nextRev (s : State) : (s.tickFree).nextRev = s.nextRev := rfl
@[simp] theorem State.tickFree_copies (s : State) : (s.tickFree).copies = s.copies := rfl
@[simp] theorem State.tickFree_nextCopy (s : State) : (s.tickFree).nextCopy = s.nextCopy := rfl
@[simp] theorem State.tickFree_ops (s : State) : (s.tickFree).ops = s.ops := rfl
@[simp] theorem State.tickFree_nextOp (s : State) : (s.tickFree).nextOp = s.nextOp := rfl
@[simp] theorem State.tickFree_nextBundle (s : State) : (s.tickFree).nextBundle = s.nextBundle := rfl
@[simp] theorem State.tickFree_queues (s : State) : (s.tickFree).queues = s.queues := rfl
@[simp] theorem State.tickFree_admin (s : State) : (s.tickFree).admin = s.admin := rfl
@[simp] theorem State.tickFree_adminCount (s : State) : (s.tickFree).adminCount = s.adminCount := rfl
@[simp] theorem State.tickFree_adminCmds (s : State) : (s.tickFree).adminCmds = s.adminCmds := rfl
@[simp] theorem State.tickFree_msix (s : State) : (s.tickFree).msix = s.msix := rfl
@[simp] theorem State.tickFree_stations (s : State) : (s.tickFree).stations = s.stations := rfl
@[simp] theorem State.tickFree_mig (s : State) : (s.tickFree).mig = s.mig := rfl
@[simp] theorem State.tickFree_sys (s : State) : (s.tickFree).sys = s.sys := rfl
@[simp] theorem State.tickFree_cfg (s : State) : (s.tickFree).cfg = s.cfg := rfl
@[simp] theorem State.tickFree_agenda (s : State) : (s.tickFree).agenda = s.agenda := rfl
@[simp] theorem State.tickFree_own (s : State) : (s.tickFree).own = s.own := rfl
@[simp] theorem State.tickFree_outbox (s : State) : (s.tickFree).outbox = s.outbox := rfl
@[simp] theorem State.tickFree_answers (s : State) : (s.tickFree).answers = s.answers := rfl
@[simp] theorem State.tickFree_cur (s : State) : (s.tickFree).cur = s.cur := rfl
@[simp] theorem State.tickFree_turn (s : State) : (s.tickFree).turn = s.turn := rfl
@[simp] theorem State.tickFree_iss (s : State) : (s.tickFree).iss = s.iss := rfl
@[simp] theorem State.tickFree_freeCount (s : State) : (s.tickFree).freeCount = s.freeCount + 1 := rfl

/-! ### State.defer -/

@[simp] theorem State.defer_accid (s : State) (d : Deferred) : (s.defer d).accid = s.accid := rfl
@[simp] theorem State.defer_cyc (s : State) (d : Deferred) : (s.defer d).cyc = s.cyc := rfl
@[simp] theorem State.defer_timeU (s : State) (d : Deferred) : (s.defer d).timeU = s.timeU := rfl
@[simp] theorem State.defer_lastU (s : State) (d : Deferred) : (s.defer d).lastU = s.lastU := rfl
@[simp] theorem State.defer_mem (s : State) (d : Deferred) : (s.defer d).mem = s.mem := rfl
@[simp] theorem State.defer_host (s : State) (d : Deferred) : (s.defer d).host = s.host := rfl
@[simp] theorem State.defer_cores (s : State) (d : Deferred) : (s.defer d).cores = s.cores := rfl
@[simp] theorem State.defer_dies (s : State) (d : Deferred) : (s.defer d).dies = s.dies := rfl
@[simp] theorem State.defer_tasks (s : State) (d : Deferred) : (s.defer d).tasks = s.tasks := rfl
@[simp] theorem State.defer_poolOrder (s : State) (d : Deferred) : (s.defer d).poolOrder = s.poolOrder := rfl
@[simp] theorem State.defer_admitOrder (s : State) (d : Deferred) : (s.defer d).admitOrder = s.admitOrder := rfl
@[simp] theorem State.defer_batches (s : State) (d : Deferred) : (s.defer d).batches = s.batches := rfl
@[simp] theorem State.defer_away (s : State) (d : Deferred) : (s.defer d).away = s.away := rfl
@[simp] theorem State.defer_ctxs (s : State) (d : Deferred) : (s.defer d).ctxs = s.ctxs := rfl
@[simp] theorem State.defer_revs (s : State) (d : Deferred) : (s.defer d).revs = s.revs := rfl
@[simp] theorem State.defer_nextRev (s : State) (d : Deferred) : (s.defer d).nextRev = s.nextRev := rfl
@[simp] theorem State.defer_copies (s : State) (d : Deferred) : (s.defer d).copies = s.copies := rfl
@[simp] theorem State.defer_nextCopy (s : State) (d : Deferred) : (s.defer d).nextCopy = s.nextCopy := rfl
@[simp] theorem State.defer_ops (s : State) (d : Deferred) : (s.defer d).ops = s.ops := rfl
@[simp] theorem State.defer_nextOp (s : State) (d : Deferred) : (s.defer d).nextOp = s.nextOp := rfl
@[simp] theorem State.defer_nextBundle (s : State) (d : Deferred) : (s.defer d).nextBundle = s.nextBundle := rfl
@[simp] theorem State.defer_queues (s : State) (d : Deferred) : (s.defer d).queues = s.queues := rfl
@[simp] theorem State.defer_admin (s : State) (d : Deferred) : (s.defer d).admin = s.admin := rfl
@[simp] theorem State.defer_adminCount (s : State) (d : Deferred) : (s.defer d).adminCount = s.adminCount := rfl
@[simp] theorem State.defer_adminCmds (s : State) (d : Deferred) : (s.defer d).adminCmds = s.adminCmds := rfl
@[simp] theorem State.defer_msix (s : State) (d : Deferred) : (s.defer d).msix = s.msix := rfl
@[simp] theorem State.defer_stations (s : State) (d : Deferred) : (s.defer d).stations = s.stations := rfl
@[simp] theorem State.defer_mig (s : State) (d : Deferred) : (s.defer d).mig = s.mig := rfl
@[simp] theorem State.defer_sys (s : State) (d : Deferred) : (s.defer d).sys = s.sys := rfl
@[simp] theorem State.defer_cfg (s : State) (d : Deferred) : (s.defer d).cfg = s.cfg := rfl
@[simp] theorem State.defer_agenda (s : State) (d : Deferred) : (s.defer d).agenda = s.agenda := rfl
@[simp] theorem State.defer_own (s : State) (d : Deferred) : (s.defer d).own = s.own := rfl
@[simp] theorem State.defer_outbox (s : State) (d : Deferred) : (s.defer d).outbox = s.outbox := rfl
@[simp] theorem State.defer_answers (s : State) (d : Deferred) : (s.defer d).answers = s.answers := rfl
@[simp] theorem State.defer_cur (s : State) (d : Deferred) : (s.defer d).cur = s.cur := rfl
@[simp] theorem State.defer_turn (s : State) (d : Deferred) : (s.defer d).turn = s.turn := rfl
@[simp] theorem State.defer_iss (s : State) (d : Deferred) :
    (s.defer d).iss = { s.iss with deferred := s.iss.deferred ++ [d] } := rfl
@[simp] theorem State.defer_freeCount (s : State) (d : Deferred) : (s.defer d).freeCount = s.freeCount := rfl

/-! ### State.putBytes -/

@[simp] theorem State.putBytes_accid (s : State) (k : Nat) (bs : List Byte) : (s.putBytes k bs).accid = s.accid := rfl
@[simp] theorem State.putBytes_cyc (s : State) (k : Nat) (bs : List Byte) : (s.putBytes k bs).cyc = s.cyc := rfl
@[simp] theorem State.putBytes_timeU (s : State) (k : Nat) (bs : List Byte) : (s.putBytes k bs).timeU = s.timeU := rfl
@[simp] theorem State.putBytes_lastU (s : State) (k : Nat) (bs : List Byte) : (s.putBytes k bs).lastU = s.lastU := rfl
@[simp] theorem State.putBytes_mem (s : State) (k : Nat) (bs : List Byte) :
    (s.putBytes k bs).mem = Memory.setN s.mem k bs := rfl
@[simp] theorem State.putBytes_host (s : State) (k : Nat) (bs : List Byte) : (s.putBytes k bs).host = s.host := rfl
@[simp] theorem State.putBytes_cores (s : State) (k : Nat) (bs : List Byte) : (s.putBytes k bs).cores = s.cores := rfl
@[simp] theorem State.putBytes_dies (s : State) (k : Nat) (bs : List Byte) : (s.putBytes k bs).dies = s.dies := rfl
@[simp] theorem State.putBytes_tasks (s : State) (k : Nat) (bs : List Byte) : (s.putBytes k bs).tasks = s.tasks := rfl
@[simp] theorem State.putBytes_poolOrder (s : State) (k : Nat) (bs : List Byte) :
    (s.putBytes k bs).poolOrder = s.poolOrder := rfl
@[simp] theorem State.putBytes_admitOrder (s : State) (k : Nat) (bs : List Byte) :
    (s.putBytes k bs).admitOrder = s.admitOrder := rfl
@[simp] theorem State.putBytes_batches (s : State) (k : Nat) (bs : List Byte) :
    (s.putBytes k bs).batches = s.batches := rfl
@[simp] theorem State.putBytes_away (s : State) (k : Nat) (bs : List Byte) : (s.putBytes k bs).away = s.away := rfl
@[simp] theorem State.putBytes_ctxs (s : State) (k : Nat) (bs : List Byte) : (s.putBytes k bs).ctxs = s.ctxs := rfl
@[simp] theorem State.putBytes_revs (s : State) (k : Nat) (bs : List Byte) : (s.putBytes k bs).revs = s.revs := rfl
@[simp] theorem State.putBytes_nextRev (s : State) (k : Nat) (bs : List Byte) :
    (s.putBytes k bs).nextRev = s.nextRev := rfl
@[simp] theorem State.putBytes_copies (s : State) (k : Nat) (bs : List Byte) :
    (s.putBytes k bs).copies = s.copies := rfl
@[simp] theorem State.putBytes_nextCopy (s : State) (k : Nat) (bs : List Byte) :
    (s.putBytes k bs).nextCopy = s.nextCopy := rfl
@[simp] theorem State.putBytes_ops (s : State) (k : Nat) (bs : List Byte) : (s.putBytes k bs).ops = s.ops := rfl
@[simp] theorem State.putBytes_nextOp (s : State) (k : Nat) (bs : List Byte) :
    (s.putBytes k bs).nextOp = s.nextOp := rfl
@[simp] theorem State.putBytes_nextBundle (s : State) (k : Nat) (bs : List Byte) :
    (s.putBytes k bs).nextBundle = s.nextBundle := rfl
@[simp] theorem State.putBytes_queues (s : State) (k : Nat) (bs : List Byte) :
    (s.putBytes k bs).queues = s.queues := rfl
@[simp] theorem State.putBytes_admin (s : State) (k : Nat) (bs : List Byte) : (s.putBytes k bs).admin = s.admin := rfl
@[simp] theorem State.putBytes_adminCount (s : State) (k : Nat) (bs : List Byte) :
    (s.putBytes k bs).adminCount = s.adminCount := rfl
@[simp] theorem State.putBytes_adminCmds (s : State) (k : Nat) (bs : List Byte) :
    (s.putBytes k bs).adminCmds = s.adminCmds := rfl
@[simp] theorem State.putBytes_msix (s : State) (k : Nat) (bs : List Byte) : (s.putBytes k bs).msix = s.msix := rfl
@[simp] theorem State.putBytes_stations (s : State) (k : Nat) (bs : List Byte) :
    (s.putBytes k bs).stations = s.stations := rfl
@[simp] theorem State.putBytes_mig (s : State) (k : Nat) (bs : List Byte) : (s.putBytes k bs).mig = s.mig := rfl
@[simp] theorem State.putBytes_sys (s : State) (k : Nat) (bs : List Byte) :
    (s.putBytes k bs).sys = afterWrite s.sys k bs.length := rfl
@[simp] theorem State.putBytes_cfg (s : State) (k : Nat) (bs : List Byte) : (s.putBytes k bs).cfg = s.cfg := rfl
@[simp] theorem State.putBytes_agenda (s : State) (k : Nat) (bs : List Byte) :
    (s.putBytes k bs).agenda = s.agenda := rfl
@[simp] theorem State.putBytes_own (s : State) (k : Nat) (bs : List Byte) : (s.putBytes k bs).own = s.own := rfl
@[simp] theorem State.putBytes_outbox (s : State) (k : Nat) (bs : List Byte) :
    (s.putBytes k bs).outbox = s.outbox := rfl
@[simp] theorem State.putBytes_answers (s : State) (k : Nat) (bs : List Byte) :
    (s.putBytes k bs).answers = s.answers := rfl
@[simp] theorem State.putBytes_cur (s : State) (k : Nat) (bs : List Byte) : (s.putBytes k bs).cur = s.cur := rfl
@[simp] theorem State.putBytes_turn (s : State) (k : Nat) (bs : List Byte) : (s.putBytes k bs).turn = s.turn := rfl
@[simp] theorem State.putBytes_iss (s : State) (k : Nat) (bs : List Byte) : (s.putBytes k bs).iss = s.iss := rfl
@[simp] theorem State.putBytes_freeCount (s : State) (k : Nat) (bs : List Byte) :
    (s.putBytes k bs).freeCount = s.freeCount := rfl

end Sys2Proof.Machine
end

