-- ==== Sys2Proof/Tests/Slice0.lean ====
section
/-! SUPPORT. Tests: words of the encoding, refused terms, single steps with results from the spec, and for each
statement concrete states that meet its hypotheses. -/

namespace Sys2Proof.Tests

set_option Elab.async false

open Sys2Proof Sys2Proof.Machine

/-! ### Small states -/

/-- A task record. -/
def rec0 : TaskRec := ⟨0x10000, 3, false, 0, 0, false, 0, false, 0, 0, 11, 13, 0, 0, [], []⟩

/-- A task of context 1 on core 0. -/
def task1 : Task :=
  { id := 1, asid := 1, depth := 2, view := 0, origin := .packet 0 0, homeDie := 0, spec := rec0, order := 0,
    state := .running, admitted := some 0, cores := [0] }

/-- A context with a heap of 1 MiB and a window over packages 0 to 3. -/
def cx1 : Context :=
  { ptroot := 0x20000, hb := 0x100000, hl := 0x100000, ho := 0, pubcnt := 0, frec := 0, frecn := 0, frecNext := 0, quota := 16,
    mode := 0, ctimeout := 1000, defHandler := 0, wins := [0x00003F0000000008], serviceFree := 2 }

/-- A core that runs task 1 with some registers. -/
def coreWith (c : Ctx) : Core := { mode := .running, task := 1, ctx := c }

/-- A running system whose access tables allow everything. -/
def sysOpen : Machine.System :=
  { boot := .ready
    access := (List.range 96).map (fun k => (Guard.controller k, [(0, AccessEntry.mk true true 1023 0 (2 ^ 32 - 1) 0)])) ++
      (List.range 64).map fun k => (Guard.ringStop (k / 16) (k % 16), [(0, AccessEntry.mk true true 1023 0 (2 ^ 32 - 1) 0)]) }

/-- A package whose core 0 is as given, ready to issue a bundle of one word. -/
def onCore (c : Core) : State :=
  { State.reset with cores := [(0, c)], tasks := [task1], ctxs := [(1, cx1)], nextOp := 5, sys := sysOpen }

/-- Core 0 runs task 1 with some task state. -/
def st (c : Ctx) : State := onCore (coreWith c)

/-- Scalar registers g1 and g2. -/
def regs (x y : Word) : Ctx := { g := [(1, x), (2, y)] }

/-- An operation of task 1 on core 0. -/
def opOf (n : Nat) (k : OpKind) : Op :=
  { id := n, core := 0, task := 1, member := 0, asid := 1, view := 0, stamp := 0, bundle := 0, issued := 0
    issuedU := 0, due := 0, slot := 0, ranges := [], kind := k }


/-! ### Scalar unit -/

/-- ScalarBinaryResults. -/
theorem wit_scalar_binary : Alone (st (regs 7 3)) ∧ RoomFor (st (regs 7 3)) Need.push ∧
    needSS (st (regs 7 3)) (.g 1) (.g 2) = .ok := by
  unfold Alone RoomFor; decide +kernel

/-- The most pushes that still leave room, and one more. -/
theorem wit_room_edge :
    RoomFor (st { pushes := List.replicate 31 (scalarPush 1 1 0 0) }) Need.push ∧
    ¬ RoomFor (st { pushes := List.replicate 32 (scalarPush 1 1 0 0) }) Need.push := by
  unfold RoomFor; decide +kernel

/-- ScalarDivideAndBitResults: a divisor other than 0; 0 under a dividend of each sign; EXT's field below and at half
its range, and of the whole width. -/
theorem wit_scalar_divide :
    (∀ x ∈ [regs 7 3, regs 7 0, regs 0 0, regs (-7) 0, regs 0x70 0x304, regs 0x7F 0x304, regs 5 0],
      Alone (st x) ∧ RoomFor (st x) Need.push ∧ needSS (st x) (.g 1) (.g 2) = .ok) ∧
    (st (regs 7 3)).rs (.g 2) ≠ 0 ∧ (st (regs 7 0)).rs (.g 2) = 0 ∧ 0 ≤ ((st (regs 0 0)).rs (.g 1)).toInt ∧
    ((st (regs (-7) 0)).rs (.g 1)).toInt < 0 ∧
    (0x30 : Nat) / 2 ^ bits (0x304 : Word) 0 6 % 2 ^ 3 < 2 ^ (3 - 1) ∧
    2 ^ (3 - 1) ≤ (0x70 : Nat) / 2 ^ bits (0x304 : Word) 0 6 % 2 ^ 3 := by
  unfold Alone RoomFor; decide +kernel

/-- ScalarImmediateResults: a slot after its LIMM. -/
theorem wit_scalar_immediate :
    Alone (st (regs 7 3)) ∧ RoomFor (st (regs 7 3)) Need.push ∧ needS (st (regs 7 3)) (.g 1) = .ok ∧
    ({ st (regs 7 3) with iss := { phase := .commit, limm := some 0 } } : State).iss.limm = some 0 ∧
    (63 : BitVec 11).toNat < 64 ∧ 0 ≤ (0 : BitVec 22).toInt * 2 ^ 11 + (63 : BitVec 11).toNat ∧
    (0 : BitVec 22).toInt * 2 ^ 11 + (63 : BitVec 11).toNat < 64 := by
  unfold Alone RoomFor; decide +kernel

/-- PredicateAndPointerResults: each cast that is made, and each that fails, at the ends of its ranges. -/
theorem wit_casts :
    (∀ x ∈ [regs 255 0x3FFFFF, regs 256 0, regs 0 0x400000, regs 0x9000000000000000 1023, regs 0xA000000000000000 0,
        regs 0x9000000000000000 1024, regs 0x8000000000000000 0, regs 0xB000000000000000 0, regs 0xC000000000000000 0,
        regs 0xB004000000000000 0],
      Alone (st x) ∧ RoomFor (st x) Need.push ∧ needSS (st x) (.g 1) (.g 2) = .ok) ∧
    spaceOk 0x9000000000000000 1 = true ∧ spaceOk 0xA000000000000000 1 = true ∧ spaceOk 0xA00000000C000000 1 = false ∧
    spaceOk 0xB000000000000000 1 = true ∧ spaceOk 0xC000000000000000 1 = true ∧ spaceOk 0x8000000000000000 1 = true ∧
    0xB004000000000000 / 2 ^ 50 % 1024 ≠ (st (regs 0 0)).accid ∧
    0xB000000000000000 / 2 ^ 50 % 1024 = (st (regs 0 0)).accid := by
  unfold Alone RoomFor; decide +kernel

/-- SystemRegisterResults: merged words that are legal and not, equal and unequal values. -/
theorem wit_system_register :
    (∀ x ∈ [regs 0 0, regs 7 7, regs (-1) (-1), regs 7 3], Alone (st x) ∧ RoomFor (st x) Need.push ∧
      needSS (st x) (.g 1) (.g 2) = .ok ∧ needVV (st x) (.v 1) (.v 2) = .ok) ∧
    mfLegal 0 = true ∧ mfLegal (-1) = false ∧ vfLegal 0 = true ∧ vfLegal (-1) = false ∧
    (st { v := [(1, 5)] }).rv (.v 1) = (st { v := [(1, 5)] }).rv (.v 1) ∧
    (st { v := [(1, 5)] }).rv (.v 1) ≠ (st { v := [(1, 5)] }).rv (.v 2) := by
  unfold Alone RoomFor; decide +kernel


/-! ### Vector unit -/

/-- A vector register file of v1 and v2. -/
def vregs (x y : VWord) : Ctx := { v := [(1, x), (2, y)] }

/-- VectorArithmeticResults, VectorUnaryResults, VectorCodeResults, VectorReductionResults, VectorWideResults: every
element type under every mask mode, an empty and a full mask. -/
theorem wit_vector :
    (∀ c ∈ [vregs 0x7F01 0x0203, { vregs 0x7F01 0x0203 with mask := [0] }],
      Alone (st c) ∧ RoomFor (st c) Need.push ∧ needVV (st c) (.v 1) (.v 2) = .ok ∧ needS (st c) (.g 1) = .ok ∧
      ∀ t ∈ [ElemTy.i8, .n8, .i16, .n16, .i32, .n32, .i4, .n4], ∀ m ∈ [MaskMode.all, .keepA, .zero],
        checkReserved (st c) t m [.v 1, .v 2] = .ok ∧ checkReserved (st c) t m [.v 1] = .ok) := by
  unfold Alone RoomFor; decide +kernel

/-- VRSHR's greatest count and the next; VEXTR's last lane and the next; the greatest counts of VSHLI and VSARI, alone
and after a LIMM; a mask mode that VBCAST takes, and a type that VPERM takes. -/
theorem wit_vector_bounds :
    (31 : BitVec 6).toNat < 32 ∧ (31 : BitVec 6).toNat ≤ ElemTy.width .i32 ∧
    (0 : BitVec 22).toInt * 2 ^ 6 + (32 : BitVec 6).toNat = ElemTy.width .i32 ∧ MaskMode.zero ≠ .keepA ∧
    ElemTy.isNibble .i8 = false ∧
    bits (8 : Word) 0 6 ≤ ElemTy.width .i8 ∧ ElemTy.width .i8 < bits (9 : Word) 0 6 ∧
    ((st (regs 255 0)).rs (.g 1)).toNat < laneCount (ElemTy.width .i8) ∧
    laneCount (ElemTy.width .i8) ≤ ((st (regs 256 0)).rs (.g 1)).toNat := by decide +kernel

/-- SelectAndMaskResults: the mask stack empty, with one entry, with 15 and with 16. -/
theorem wit_mask_stack :
    (∀ n ∈ [0, 1, 15, 16], Alone (st { mask := List.replicate n 0 }) ∧ RoomFor (st { mask := List.replicate n 0 }) {} ∧
      needV (st { mask := List.replicate n 0 }) (.v 1) = .ok) ∧
    (st { mask := List.replicate 15 0 }).ctx.mask.length < 16 ∧ (st { mask := List.replicate 16 0 }).ctx.mask.length = 16 ∧
    (st { mask := List.replicate 1 0 }).ctx.mask ≠ [] ∧ (st {}).ctx.mask = [] := by
  unfold Alone RoomFor; decide +kernel

/-- VectorWideResults: VDOT's types, VCVT widening and narrowing, its last part and the next, its greatest shift and the
next. -/
theorem wit_vector_wide :
    (∀ t ∈ [ElemTy.i8, .n8, .i16, .n16, .i4, .n4], t.width < 32) ∧
    fmtAuto (st (regs 0 0)).ctx.vf = false ∧ vfCvt (st (regs 0 0)).ctx.vf = .i8 ∧
    checkCvt (st (regs 0xC0 0)) .all .i32 0 0xC0 = .ok ∧ checkCvt (st (regs 8 0)) .all .i4 0 8 = .ok ∧
    ElemTy.width .i8 < ElemTy.width .i32 ∧ ElemTy.width .i32 / ElemTy.width .i8 ≤ bits (0x100 : Word) 6 3 ∧
    ¬(ElemTy.width .i8 < ElemTy.width .i32 ∧ ElemTy.width .i32 / ElemTy.width .i8 ≤ bits (9 : Word) 6 3) ∧
    ElemTy.width .i8 < bits (9 : Word) 0 6 := by decide +kernel

/-- FunctionResults: a built-in table and an absent one, a reciprocal of 0, a zero and another divisor, both signs, and
the two roundings. -/
theorem wit_function :
    (fnTable (st {}).ctx 1).isSome = true ∧ ((fnTable (st {}).ctx 1).map FnTable.kind) = some 2 ∧
    fnTable (st {}).ctx 15 = none ∧ loadingTable (st {}) 15 = false ∧
    (rdLane 0 .i8 ((st (vregs 0x80FF05 0x000200)).rv (.v 1)) 3).1 = 0 ∧
    (rdLane 0 .i8 ((st (vregs 0x80FF05 0x000200)).rv (.v 2)) 0).1 = 0 ∧
    0 ≤ (rdLane 0 .i8 ((st (vregs 0x80FF05 0x000200)).rv (.v 1)) 0).1 ∧
    (rdLane 0 .i8 ((st (vregs 0x80FF05 0x000200)).rv (.v 1)) 1).1 < 0 ∧
    (rdLane 0 .i8 ((st (vregs 0x80FF05 0x000200)).rv (.v 2)) 1).1 ≠ 0 ∧
    [8, 0, 16, 24, 32].map (fun v : Word => fmtRnd v) = [Round.ofCode 1, Round.ofCode 0, Round.ofCode 2, Round.ofCode 3,
      Round.ofCode 4] ∧ Round.rtz ∈ [0, 8, 16, 24, 32].map (fun v : Word => fmtRnd v) ∧
    Round.rdn ∈ [0, 8, 16, 24, 32].map (fun v : Word => fmtRnd v) := by decide +kernel

/-! ### Function unit, matrix engine, copy engines -/

/-- A tile of tile memory. -/
def tl (rows cols base : Nat) (ty : ElemTy) (comp : Nat) : TileEntry :=
  { owner := 1, comp := comp, ver := 0, rows := rows, cols := cols, ty := ty, level := .tile, exp := 0, census := 0,
    dirty := false, inuse := true, prev := none, base := base }

/-- A core with tiles of one type under handles 3, 4 and 5, the first with the second as its companion. -/
def coreT (rows cols : Nat) (ty : ElemTy) (c : Ctx) : Core :=
  { coreWith { c with hmap := [(3, 0), (4, 1), (5, 2)], priv := 4096 } with
    tiles := [(0, tl rows cols 0 ty 4), (1, tl rows cols 64 ty 3), (2, tl rows cols 128 ty 5)]
    handles := [(3, 0), (4, 1), (5, 2)] }

/-- FunctionStarts: a table in a tile; a VOPT of three tiles, and one whose gradient is its weight. -/
theorem wit_function_starts :
    (let s := onCore (coreT 16 64 .i8 (regs 64 5))
     Alone s ∧ RoomFor s { t := 1 } ∧ needS s (.g 1) = .ok ∧ vfCheck s (.tile 3) (s.rs (.g 1)) = .ok ∧
     functionBusy s = false ∧ accessHeld s false (vfRuns s (.tile 3) (s.rs (.g 1))) = false ∧
     voptTiles s 3 (s.rs (.g 2)) = (some (0, tl 16 64 0 .i8 4), some (1, tl 16 64 64 .i8 3), some (2, tl 16 64 128 .i8 5)) ∧
     checkVopt s 3 (s.rs (.g 2)) = .ok ∧
     voptTiles s 3 3 = (some (0, tl 16 64 0 .i8 4), some (1, tl 16 64 64 .i8 3), some (0, tl 16 64 0 .i8 4))) := by
  unfold Alone RoomFor; decide +kernel

/-- MatrixStarts: accumulators whose words have the shapes that each instruction needs. -/
theorem wit_matrix_starts :
    (let w : AccWord := { rows := 16, cols := 16, exp := 0, free := false }
     let s := onCore (coreT 16 16 .i8 { acc :=
       [(0, { done := w, issued := w }), (1, { done := w, issued := w }), (2, { issued := { w with free := true } })] })
     Alone s ∧ RoomFor s (matrixNeed s) ∧ mtxTile s 3 = some (0, tl 16 16 0 .i8 4) ∧ mtxTile s 4 = some (1, tl 16 16 64 .i8 3) ∧
     checkProduct false false false 0 3 4 s = .ok ∧ checkProduct true false false 0 3 4 s = .ok ∧
     checkProduct false true false 0 3 4 s = .ok ∧ checkProduct false false true 0 3 4 s = .ok ∧
     checkMmac 0 3 1 s = .ok ∧ checkMout 0 3 s = .ok ∧ checkLoadAcc true none 0 3 (-40) s = .ok ∧
     checkLoadAcc false none 0 3 0 s = .ok ∧ checkLoadAcc false none 2 3 40 s = .ok ∧ checkLoadAcc false (some false) 0 3 0 s = .ok ∧
     queuedMatrix s s.cur < 8 ∧ acqPending s = false ∧ RoomFor s Need.push ∧ s.ctx.rep = none) ∧
    (let s := st { mo := [(0, 1)] }
     Alone s ∧ 64 ≤ (63 : Fin 64).val + bits (s.ctx.mo.getD 0 0) 0 16) := by
  unfold Alone RoomFor; decide +kernel

/-- A tile address of core 0. -/
def tileAddr (h off : Nat) : Word := BitVec.ofNat 64 (0x9 * 2 ^ 60 + h * 2 ^ 44 + off)

/-- The sources g1, g2 and g3. -/
def regs3 (a b c : Word) : Ctx := { g := [(1, a), (2, b), (3, c)] }

/-- CopyStarts: each operation with checks that pass, and one that faults. -/
theorem wit_copy_starts :
    (let c : Word := BitVec.ofNat 64 64
     let g : Word := BitVec.ofNat 64 (5 * 2 ^ 46 + 64 * 2 ^ 28 + 1 * 2 ^ 16 + 64)
     let e : Word := BitVec.ofNat 64 (5 * 2 ^ 46)
     let k := coreT 16 64 .i8 (regs3 (tileAddr 3 0) (tileAddr 4 0) c)
     let s := onCore { k with tiles := k.tiles.set 2 (tl 1 64 128 .n32 5) }
     Alone s ∧ needSSS s (.g 1) (.g 2) (.g 3) = .ok ∧
     RoomFor s { c0 := 1, ranges := 3 } ∧ RoomFor s { c1 := 1, ranges := 3 } ∧
     checkCopy s .plain (tileAddr 3 0) (tileAddr 4 0) c = .ok ∧ checkCopy s .fill (tileAddr 3 0) 5 c = .ok ∧
     checkGather s true (tileAddr 3 0) (tileAddr 4 0) g = .ok ∧ checkGather s false (tileAddr 3 0) (tileAddr 4 0) g = .ok ∧
     checkCopyr s (tileAddr 3 0) (tileAddr 4 0) c = .ok ∧ checkSae s false (tileAddr 3 0) (tileAddr 4 0) g = .ok ∧
     checkSae s true (tileAddr 3 0) (tileAddr 4 0) e = .ok ∧
     checkCopy s .plain (tileAddr 9 0) (tileAddr 4 0) c = .fault .tileHandle (tileAddr 9 0) 0 false none ∧
     checkGather s true (tileAddr 3 0) (tileAddr 4 0) c = .fault .tileHandle 0 0 false none ∧
     checkCopyr s 0 (tileAddr 4 0) c = .fault .space 0 0 false none ∧
     checkSae s false 0 (tileAddr 4 0) g = .fault .space 0 0 false none) := by
  unfold Alone RoomFor; decide +kernel


/-- FarStarts: an atomic of a ring here, of a ring of another package, and one whose address is no far space; the bounds
of PGREQ's length; a move of a page of the heap and of another; a load and a clear of a graph slot. -/
theorem wit_far_starts :
    (let s := onCore (coreWith { regs3 0xA000000000000000 1 0xC00000 with priv := 4096 })
     Alone s ∧ needSSS s (.g 1) (.g 2) (.g 3) = .ok ∧ checkAtom s .add (s.rs (.g 1)) (s.rs (.g 3)) = .ok ∧
     RoomFor s { s := 1, ranges := (resultRange s (atomWord (s.rs (.g 3)))).length } ∧ RoomFor s { s := 1 } ∧
     RoomFor s { s := 1, ranges := 1 } ∧ RoomFor s { c0 := 1 } ∧ RoomFor s { c1 := 1 } ∧
     farPlace s (s.rs (.g 1)) 8 true = .here (ringKey 0 0) ∧
     checkAtom s .cas 0xC004000000000000 0xC00000 = .ok ∧
     farPlace s 0xC004000000000000 8 true = .far 1 0 (.peerRing 0 0) ∧ farPlace s 0xC000000000000000 8 true = .here (ringKey 0 0) ∧
     checkAtom s .add 0x8000000000000000 0xC00000 = .fault .space 0x8000000000000000 0 false none ∧
     checkSignal s 0xA00000000BFFFFF8 true = .ok ∧
     spaceOk 0x10000 1 = true ∧ (0x10000 : Nat) / 2 ^ 60 = 0 ∧
     checkMigr s 0x100000 0 4088 = .ok ∧ heapVa s 0x100000 = true ∧ checkMigr s 0x20000 0 0 = .ok ∧
     heapVa s 0x20000 = false ∧ checkCgld s 0x100000 31 false = .ok ∧ checkCgld s 0 0 true = .ok) := by
  unfold Alone RoomFor; decide +kernel


/-! ### Loads and stores -/

/-- A core with tiles whose first byte holds 0xFF, and its memory. -/
def sMem (c : Ctx) : State :=
  { onCore (coreT 16 64 .i8 c) with mem := [(0x100000, 5), (ringKey 0 0, 9), (tileKey 0 0, 0xFF)] }

/-- The hypotheses of ScalarLoadResults for a load of 8 bytes at an address. -/
def LoadMeets (x : Word) : Prop :=
  let s := sMem (regs x 0)
  Alone s ∧ CanonMem s ∧ RoomFor s Need.push ∧ needSS s (.g 1) (.g 2) = .ok ∧ checkLoad s 8 x 8 = .ok ∧
    (takeRuns s s.cur s.nextOp 0 (accessRuns s x 8)).2 = none

/-- ScalarLoadResults: the last word of a tile. -/
theorem wit_load_tile : LoadMeets (tileAddr 3 1016) := by
  unfold LoadMeets Alone RoomFor CanonMem; decide +kernel

/-- ScalarLoadResults: a die ring. -/
theorem wit_load_ring : LoadMeets 0xA000000000000000 := by
  unfold LoadMeets Alone RoomFor CanonMem; decide +kernel

/-- ScalarLoadResults: the heap. -/
theorem wit_load_heap : LoadMeets 0x100000 := by
  unfold LoadMeets Alone RoomFor CanonMem; decide +kernel

/-- ScalarLoadResults: a ring of another package. -/
theorem wit_load_peer : LoadMeets 0xC000000000000000 := by
  unfold LoadMeets Alone RoomFor CanonMem; decide +kernel

/-- ScalarLoadResults: private space. -/
theorem wit_load_private : LoadMeets 0x8000000000000ff8 := by
  unfold LoadMeets Alone RoomFor CanonMem; decide +kernel

/-- ScalarLoadResults: the runs of a tile; an address misaligned, and one out of bounds; bytes that fail their check. -/
theorem wit_load_checks :
    (let s := sMem (regs (tileAddr 3 1016) 0)
     spaceOf s (tileAddr 3 1016) = .tile ∧ accessRuns s (tileAddr 3 1016) 8 = [⟨.here (tileKey 0 1016), 8⟩] ∧
     spaceOf s 0xA000000000000000 = .ring ∧ spaceOf s 0x100000 = .global ∧
     checkLoad s 8 (tileAddr 3 1017) 8 = .fault .align (tileAddr 3 1017) 0 false none ∧
     checkLoad s 8 (tileAddr 3 1024) 8 = .fault .tileBounds (tileAddr 3 1024) 0 false none ∧
     let b := { s with sys := { s.sys with badEcc := [tileKey 0 1016 / 64] } }
     (takeRuns b b.cur b.nextOp 0 (accessRuns b (tileAddr 3 1016) 8)).2 = some .eccUe) := by decide +kernel

/-- The hypotheses of ScalarStoreResults for a store of 8 bytes at an address. -/
def StoreMeets (x : Word) : Prop :=
  let s := sMem (regs x 0)
  Alone s ∧ CanonMem s ∧ RoomFor s (storeNeed s x 8) ∧ needS s (.g 1) = .ok ∧ checkStore s 8 x 8 = .ok

/-- ScalarStoreResults: the last word of a tile. -/
theorem wit_store_tile : StoreMeets (tileAddr 3 1016) := by
  unfold StoreMeets Alone RoomFor CanonMem; decide +kernel

/-- ScalarStoreResults: a die ring. -/
theorem wit_store_ring : StoreMeets 0xA000000000000000 := by
  unfold StoreMeets Alone RoomFor CanonMem; decide +kernel

/-- ScalarStoreResults: the heap. -/
theorem wit_store_heap : StoreMeets 0x100000 := by
  unfold StoreMeets Alone RoomFor CanonMem; decide +kernel

/-- ScalarStoreResults: a ring of another package. -/
theorem wit_store_peer : StoreMeets 0xC000000000000000 := by
  unfold StoreMeets Alone RoomFor CanonMem; decide +kernel

/-- ScalarStoreResults, VectorMemoryResults, IndexedMemoryResults: a tile without a store under way, and with one. -/
theorem wit_store_waits :
    (let s := sMem (regs (tileAddr 3 1016) 0)
     let w : StoreOp := { place := .here (tileKey 0 1016), data := wholeBytes 0 [1], len := 1, queued := false, posted := false
                          window := none, rel := some .sys, faddr := 0, sent := false }
     storeWaits s (tileKey 0 1016) 8 = false ∧ storeWaits s (tileKey 0 768) 256 = false ∧
     storeWaits { s with ops := [opOf 1 (.store w)] } (tileKey 0 1016) 8 = true ∧
     storeWaits { s with ops := [opOf 1 (.store w)] } (tileKey 0 768) 256 = true ∧
     storeWaits s (tileByteKey s.cur (tl 16 64 0 .i8 4) 0) (tileBytes (tl 16 64 0 .i8 4)) = false) := by decide +kernel

/-- ScalarStoreResults: the runs stored to, and a tile that is not the task's. -/
theorem wit_store_checks :
    (let s := sMem (regs 0 0)
     accessRuns s 0xA000000000000000 8 = [⟨.here (ringKey 0 0), 8⟩] ∧ accessRuns s 0x100000 8 = [⟨.here 0x100000, 8⟩] ∧
     accessRuns s 0xC000000000000000 8 = [⟨.far 0 0 (.peerRing 0 0), 8⟩] ∧
     checkStore s 8 (tileAddr 9 0) 8 = .fault .tileHandle (tileAddr 9 0) 0 false none) := by decide +kernel

/-- VectorMemoryResults: the last 256 bytes of a tile, a ring; an absent handle, a misaligned offset, one out of
bounds. -/
theorem wit_vector_memory :
    (let s := sMem (regs 768 0xA000000000000000)
     Alone s ∧ CanonMem s ∧ RoomFor s Need.push ∧ needS s (.g 1) = .ok ∧ needV s (.v 1) = .ok ∧
     (∀ b ∈ [false, true], vmCheck s b (.tile 3 false) 768 = .ok ∧ vmCheck s b (.generic true) 0xA000000000000000 = .ok) ∧
     accessHeld s false (vmRuns s (.tile 3 false) 768) = false ∧ vmSpace s (.tile 3 false) 768 = .tile ∧
     (takeRuns s s.cur s.nextOp 0 (vmRuns s (.tile 3 false) 768)).2 = none ∧
     accessHeld s false (vmRuns s (.generic true) 0xA000000000000000) = false ∧
     vmSpace s (.generic true) 0xA000000000000000 = .ring ∧
     vmRuns s (.generic true) 0xA000000000000000 = [⟨.here (ringKey 0 0), 256⟩] ∧
     vmRuns s (.tile 3 false) 768 = [⟨.here (tileKey 0 768), 256⟩] ∧
     holdStore s (.tile 3 false) 768 = .ok ∧ holdStore s (.generic true) 0xA000000000000000 = .ok ∧
     RoomFor s (postedNeed s 768 (farWrites 0 (vmRuns s (.tile 3 false) 768) (maskedBytes 0 0))) ∧
     s.tileAt s.cur 9 = none ∧ s.tileAt s.cur 3 = some (0, tl 16 64 0 .i8 4) ∧ tileBytes (tl 16 64 0 .i8 4) < 776 + 256) := by
  unfold Alone RoomFor CanonMem; decide +kernel

/-- IndexedMemoryResults: lanes 0 and 63 of an index vector, in tile memory and in a ring. -/
theorem wit_indexed_memory :
    (let v : VWord := 1020#2048 <<< 2016
     let s := sMem { vregs v 7 with mask := [0] }
     Alone s ∧ CanonMem s ∧ RoomFor s Need.push ∧ RoomFor s {} ∧ needV s (.v 1) = .ok ∧ needV s (.v 2) = .ok ∧
     vmTile s 3 = some (0, tl 16 64 0 .i8 4) ∧ laneOf 32 (s.rv (.v 1)) 63 = 1020 ∧
     (∀ l ∈ List.range 64, laneOf 32 (s.rv (.v 1)) l % 4 = 0 ∧ laneOf 32 (s.rv (.v 1)) l + 4 ≤ tileBytes (tl 16 64 0 .i8 4)) ∧
     (∀ b ∈ [false, true], ∀ w ∈ [false, true], holdIndexed s 3 (s.rv (.v 1)) b w = .ok) ∧
     (takeRuns s s.cur s.nextOp 0 (gatherRuns s (tl 16 64 0 .i8 4) (s.rv (.v 1)) false)).2 = none ∧
     let r := { s with cores := s.cores.set 0 { s.core with tiles := [(0, { tl 16 64 0 .i8 4 with level := .ring })] } }
     (vmTile r 3).map (fun x => x.2.level) = some .ring ∧ ∀ w ∈ [false, true], holdIndexed r 3 (s.rv (.v 1)) false w = .ok) := by
  unfold Alone RoomFor CanonMem; decide +kernel

/-- TileResults: an allocation that is made, one that is not, one of an illegal shape; a free, an idle and a busy tile;
companions of one shape and of two; the ends of an exponent. -/
theorem wit_tiles :
    (let s := sMem (regs (BitVec.ofNat 64 (4096 + 2 ^ 16)) 9)
     Alone s ∧ RoomFor s Need.push ∧ needSS s (.g 1) (.g 2) = .ok ∧
     (tallocPlan s .tile .i8 (s.rs (.g 1)) (s.rs (.g 2))).isSome = true ∧
     tallocShape .tile .i8 (s.rs (.g 1)) 3 ≠ none ∧ tallocPlan s .tile .i8 (s.rs (.g 1)) 3 = none ∧
     tallocShape .tile .i8 (BitVec.ofNat 64 (4097 + 2 ^ 16)) 9 = none ∧
     s.tileOfReg 3 = some (0, tl 16 64 0 .i8 4) ∧ s.tileOfReg 4 = some (1, tl 16 64 64 .i8 3) ∧ s.tileOfReg 9 = none ∧
     tileBusy s s.cur 0 = false ∧ (-64 : Int) ≤ (-64 : Word).toInt ∧ (63 : Word).toInt ≤ 63 ∧ (-65 : Word).toInt < -64 ∧
     63 < (64 : Word).toInt ∧
     tileBusy { s with ops := [opOf 1 (.pipew 0 0 9 64)] } 0 0 = true ∧
     (s.taskAt s.cur).isSome = true ∧ (s.context? 1).isSome = true) ∧
    (let k := coreT 16 64 .i8 {}
     let s := onCore { k with tiles := k.tiles.set 1 (tl 8 64 64 .i8 3) }
     s.tileOfReg 4 = some (1, tl 8 64 64 .i8 3) ∧ (tl 8 64 64 .i8 3).rows ≠ (tl 16 64 0 .i8 4).rows) := by
  unfold Alone RoomFor; decide +kernel


/-! ### Control and tasks -/

/-- BranchResults: targets at the ends of instruction memory, a branch taken and one not, a full and an empty return
stack. -/
theorem wit_branch :
    (∀ c ∈ [{ regs 65535 65536 with pc := 100, bt := [(1, 7)], btAt := [(1, 0)], p := 2 },
        { regs 0 0 with ret := List.replicate 15 (5, 0), mask := [0] }, { regs 0 0 with ret := List.replicate 16 (5, 0) }],
      Alone (st c) ∧ RoomFor (st c) {} ∧ needS (st c) (.g 1) = .ok) ∧
    (let s := st { regs 65535 65536 with pc := 100, bt := [(1, 7)], btAt := [(1, 0)], p := 2 }
     (0 : Int) ≤ (s.ctx.pc : Int) + (-100 : BitVec 19).toInt ∧ (s.ctx.pc : Int) + (65435 : BitVec 19).toInt < 65536 ∧
     (s.ctx.pc : Int) + (-101 : BitVec 19).toInt < 0 ∧ 65536 ≤ (s.ctx.pc : Int) + (65436 : BitVec 19).toInt ∧
     (s.rs (.g 1)).toNat < 65536 ∧ 65536 ≤ (s.rs (.g 2)).toNat ∧ s.ctx.btAt.get? 1 = some 0 ∧
     s.ctx.p.getLsbD 1 ≠ false ∧ s.ctx.p.getLsbD 2 = false ∧ s.ctx.maskTop ≠ 0 ∧ s.ctx.ret = []) ∧
    (st { regs 0 0 with ret := List.replicate 15 (5, 0), mask := [0] }).ctx.maskTop = 0 ∧
    (st { regs 0 0 with ret := List.replicate 15 (5, 0) }).ctx.ret.length < 16 ∧
    16 ≤ (st { regs 0 0 with ret := List.replicate 16 (5, 0) }).ctx.ret.length := by
  unfold Alone RoomFor; decide +kernel

/-- The hypotheses of LoopResults for a count with some loops open. -/
def LoopMeets (n : Nat) (x : Word) : Prop :=
  let s := st { regs x 0 with loops := List.replicate n ⟨0, 1, 9, false, 1, 0⟩ }
  Alone s ∧ RoomFor s {} ∧ needS s (.g 1) = .ok

/-- LoopResults: no pass. -/
theorem wit_loop_none : LoopMeets 0 0 := by unfold LoopMeets Alone RoomFor; decide +kernel

/-- LoopResults: the largest count in the last free entry. -/
theorem wit_loop_last : LoopMeets 3 0xFFFFFFFF := by unfold LoopMeets Alone RoomFor; decide +kernel

/-- LoopResults: a count that is too large. -/
theorem wit_loop_count : LoopMeets 0 0x100000000 := by unfold LoopMeets Alone RoomFor; decide +kernel

/-- LoopResults: no entry is free. -/
theorem wit_loop_full : LoopMeets 4 1 := by unfold LoopMeets Alone RoomFor; decide +kernel

/-- LoopResults: a count that reaches the limit with its stages and one that does not; a body of which the last bundle is
found. -/
theorem wit_loop_total :
    (0xFFFFFFF8 : Word).toNat + (7 : Fin 8).val < 2 ^ 32 ∧ 2 ^ 32 ≤ (0xFFFFFFF9 : Word).toNat + (7 : Fin 8).val ∧
    (let k : Core := { coreWith {} with imem := [(0, 0x84E00000), (1, 0x84E00000), (2, 0x84000000)] }
     skipBundles k 1 1 = some 2) := by decide +kernel

/-- A gang task with a clamp line and a pipe. -/
def task2 : Task :=
  { task1 with
    width := 2, lineMap := [(1, 0)]
    pipes := [(0, { src := 0, dst := 0, order := [6, 5]
                    slots := [⟨5, .claimed, 0, some 1⟩, ⟨6, .filled, 0, some 2⟩, ⟨7, .empty, 0, none⟩, ⟨8, .empty, 0, none⟩] })] }

/-- A load that has not taken its value. -/
def loadOp : LoadOp :=
  { runs := [⟨.here (ringKey 0 0), 8⟩], nbytes := 8, sgn := false, vec := false, mask := 0, acq := none, got := [], next := 1
    taken := false }

/-- WaitAndStopResults: limits met with and without a mark and not met; a release that waits and one that does not; a gang
member released and one without its line; a heavy fence answered, and one still waiting. -/
theorem wit_wait :
    (let m : Mark := ⟨.remoteError, 0, 3, 0⟩
     let busy := st { cnt := ⟨15, 0, 2, 0⟩, marks := ⟨[], [], [], [m]⟩ }
     let late := { st {} with ops := [opOf 1 (.load loadOp)], nextBundle := 3 }
     let core (k : Core) : State := { onCore k with cyc := 6 }
     let gang (k : Core) : State := { onCore k with tasks := [task2] }
     (∀ s ∈ [st {}, busy, late, core { coreWith {} with waitSince := some 0 }, core { coreWith {} with waitSince := some 1 },
         gang (coreWith {}), gang { coreWith {} with released := true },
         { st {} with ops := [opOf 1 (.fenceHeavy .sys [(3, 256)] none)] }], Alone s ∧ RoomFor s {}) ∧
     firstMark busy.ctx.marks (fun k => k == .s) = some (.s, m) ∧ firstMark busy.ctx.marks (fun k => k == .t) = none ∧
     busy.ctx.cnt.get .t ≤ 2 ∧ ¬ busy.ctx.cnt.get .t ≤ 1 ∧ busy.ctx.cnt.get .c0 = 15 ∧ busy.ctx.cnt ≠ ⟨0, 0, 0, 0⟩ ∧
     releaseReady (st {}) 0 .sys 0 5 = true ∧ releaseReady late 0 .sys 3 5 = false ∧
     heavyAsked (st {}) = false ∧ heavyRecipients (st {}) .sys = [] ∧
     heavyAsked { st {} with ops := [opOf 1 (.fenceHeavy .sys [(3, 256)] none)] } = true ∧
     (st {}).widthAt 0 = 1 ∧ (gang (coreWith {})).widthAt 0 ≠ 1 ∧ task2.lineMap.get? 1 ≠ none ∧ task2.lineMap.get? 0 = none ∧
     (gang (coreWith {})).taskAt 0 = some task2 ∧ checkEnd (st {}) = .ok) := by
  unfold Alone RoomFor; decide +kernel

/-- A revision of a child task 9 of task 1, in a state. -/
def childOf (st : RevState) : FMap Rev := [(7, ⟨1, 0, 9, 1, 1, st, none, 4, none⟩)]

/-- TaskResults: a record in a tile, one whose bytes fail, one in the heap, one in a ring; a child that is live, merged,
discarded and unknown. -/
theorem wit_task :
    (let s := sMem (regs (tileAddr 3 768) 0x100000)
     Alone s ∧ RoomFor s Need.push ∧ needS s (.g 1) = .ok ∧ checkRecord s 64 (tileAddr 3 768) 256 = .ok ∧
     spaceOf s (tileAddr 3 768) = .tile ∧ (takeRuns s s.cur s.nextOp 0 (accessRuns s (tileAddr 3 768) 256)).2 = none ∧
     (let b := { s with sys := { s.sys with badEcc := [tileKey 0 768 / 64] } }
      (takeRuns b b.cur b.nextOp 0 (accessRuns b (tileAddr 3 768) 256)).2 = some .eccUe) ∧
     checkRecord s 64 0x100000 256 = .ok ∧ spaceOf s 0x100000 ≠ .tile ∧
     checkRecord s 64 0xA000000000000000 256 = .fault .space 0xA000000000000000 0 false none ∧
     childRev s 9 = none ∧
     (∀ x ∈ [RevState.live, .merged 4, .discarded],
       (childRev { s with revs := childOf x } 9).map (fun v => v.2.state) = some x) ∧
     mergeStuck { s with revs := childOf .live } 1 = none) := by
  unfold Alone RoomFor; decide +kernel

/-- Page tables at 0x20000: VA 0x30000 LOCAL, 0x40000 REMOTE at package 2, 0x50000 non-resident, 0x60000 LOCAL and pinned,
1 GiB a LOCAL page of 1 GiB; then a region's descriptor in private space. -/
def tables : List Host.Cell :=
  [(0x20000, 0x01), (0x20001, 0x10), (0x20002, 0x02), (0x21000, 0x01), (0x21001, 0x20), (0x21002, 0x02),
   (0x21008, 0x02), (0x2100B, 0x40), (0x2100D, 0x0C), (0x22000, 0x01), (0x22001, 0x30), (0x22002, 0x02)] ++
  [(0x23018, 0x02), (0x2301A, 0x30), (0x2301D, 0x0C), (0x23020, 0x03), (0x23022, 0x02), (0x23025, 0x0C),
   (0x23028, 0x04), (0x2302D, 0x0C), (0x23030, 0x02), (0x23032, 0x31), (0x23035, 0x4C)] ++
  [(privKey 1 0 0, 3), (privKey 1 0 4, 1), (privKey 1 0 14, 2)]

/-- PipeResults: a pipe's slot claimed, one filled, one of a member without; a region defined, and one removed. -/
theorem wit_pipe :
    (let s := { onCore (coreT 16 64 .i8 (regs 3 0)) with tasks := [task2] }
     Alone s ∧ needSS s (.g 1) (.g 2) = .ok ∧ RoomFor s { t := 1, ranges := 1 } ∧ RoomFor s Need.push ∧ RoomFor s {} ∧
     checkPipew 0 3 s = .ok ∧ (pipeAt s 0).isSome = true ∧ (pipeAt s 0).bind emptyPipeSlot = some 8 ∧
     s.tileOfReg 3 = some (0, tl 16 64 0 .i8 4) ∧ (pipeAt s 0).map Pipe.dst = some s.core.member ∧
     (pipeAt s 0).bind filledSlot = some (6, 2) ∧ pipeAt s 1 = none ∧
     ((pipeAt s 0).map fun p => filledSlot { p with order := [5] }) = some none ∧
     releaseReady s s.cur .sys s.nextBundle s.nextOp = true ∧ pubcntNow s = 0 ∧ s.viewAt s.cur = 0 ∧ revisionLive s = false) ∧
    (let s := { onCore { coreWith { regs 0x8000000000000000 63 with priv := 4096 } with waitSince := some 0 } with
                mem := tables, cyc := 220 }
     Alone s ∧ CanonMem s ∧ needSS s (.g 1) (.g 2) = .ok ∧ RoomFor s {} ∧
     checkRvset false (s.rs (.g 1)) (s.rs (.g 2)) s = .ok ∧
     (readDescriptor s (s.rs (.g 1))).toOption.isSome = true ∧
     (s.context? (s.asidAt s.cur)).isSome = true) := by
  unfold Alone RoomFor CanonMem; decide +kernel


/-! ### Events of cores and of their accesses -/

/-- The slot word of an instruction with a stop bit. -/
def wordOf (i : Instr) : SlotWord := BitVec.ofNat 32 ((encodeWord i true).getD 0)

/-- PushEventResults: a push due behind one that is not, of registers 0 and 31; one that failed; a format write; a bundle
that cannot be fetched. -/
theorem wit_push_event :
    (∀ d ∈ [(0 : Fin 32), 31], pushGranule (coreWith {}).ctx (scalarPush d 0 5 0) = none ∧
      pushGranule (coreWith {}).ctx (vectorPush d 0 5 0) = none) ∧
    (let p : Push := { scalarPush 1 0 5 0 with state := .failed .poison 0 }
     let c : Ctx := { pushes := [scalarPush 2 2 7 0, p], fmts := [⟨false, 0, 1⟩, ⟨true, 0, 0⟩] }
     ((onCore (coreWith c)).coreAt 0).ctx.pushes = [scalarPush 2 2 7 0] ++ p :: [] ∧ p.count = 0 ∧ p.state ≠ .ready ∧
     (∀ x ∈ [scalarPush 2 2 7 0], x.count ≠ 0) ∧ c.fmts = [⟨false, 0, 1⟩] ++ ⟨true, 0, 0⟩ :: []) ∧
    (fetchBundle (coreWith {})).toOption = none := by decide +kernel

/-- CoreEventResults: a repetition that advances with one and with two left; an absent granule; a pending XLT of an address
with a tag; a gang whose line is to be released. -/
theorem wit_core_event :
    (∀ n ∈ [1, 2], (onCore (coreWith { rep := some ⟨[.add, .sub, .hold, .hold], n, 0, 0, 0, true⟩ })).ctx.rep.map
      RepState.adv = some true) ∧
    (let s := { onCore (coreWith { gAbsent := [3], vAbsent := [7] }) with
                ops := [opOf 1 (.fill false 3), opOf 2 (.fill true 7), opOf 3 (.xlt 7 0xF000000000000000 false)] }
     (∀ n ∈ [1, 2, 3], (s.op? n).isSome = true) ∧ s.coreOf 1 0 = some 0 ∧ tagOf (0xF000000000000000 : Word).toNat ≠ 0) ∧
    (let cl : Clamp := ⟨1, 1, [0], some 6⟩
     let s := { onCore (coreWith {}) with tasks := [task2], dies := [(0, { clamps := [(0, cl)] })] }
     s.task? 1 = some task2 ∧ task2.lineMap.get? 1 = some 0 ∧
     (s.cores.findSome? fun (m, e) => if e.task = 1 ∧ e.mode ≠ .idle then some (dieOf m) else none) = some 0 ∧
     (s.dieAt 0).clamps.get? 0 = some cl ∧ cl.task = 1 ∧ cl.releaseAt ≠ none ∧ (s.coreAt 0).task = 1 ∧
     s.cores.get? 0 ≠ none ∧ (s.coreAt 0).member ∈ cl.arrived) := by decide +kernel

/-- A store of two bytes to the ring of die 0. -/
def storeOp : StoreOp :=
  { place := .here (ringKey 0 0), data := wholeBytes 0 [1, 2], len := 2, queued := true, posted := false, window := none
    rel := none, faddr := 0, sent := false }

/-- AccessEventResults: a load that may take its bytes; a store that may perform, and one behind an earlier one; a release
that is ready and one that is not. -/
theorem wit_access_event :
    (let s := { sMem {} with ops := [opOf 1 (.load loadOp)] }
     CanonMem s ∧ s.op? 1 = some (opOf 1 (.load loadOp)) ∧ loadOp.runs = [⟨.here (ringKey 0 0), loadOp.nbytes⟩] ∧
     s.coreOf 1 0 = some 0 ∧ liveRun s ⟨.here (ringKey 0 0), 8⟩ = ⟨.here (ringKey 0 0), 8⟩ ∧
     loadReady s (opOf 1 (.load loadOp)) loadOp.runs = true ∧ readFault s.sys (ringKey 0 0) 8 = none ∧
     readFault { s.sys with poison := [ringKey 0 0 / 64] } (ringKey 0 0) 8 = some .poison) ∧
    (let w := storeOp
     let r := { storeOp with rel := some .sys }
     let s := { sMem {} with ops := [opOf 1 (.store w), opOf 2 (.store w), { opOf 3 (.store r) with stamp := 1 }] }
     CanonMem s ∧ s.op? 1 = some (opOf 1 (.store w)) ∧ w.len = [(1 : Byte), 2].length ∧
     storeReady s (opOf 1 (.store w)) w (ringKey 0 0) = true ∧ storeReady s (opOf 2 (.store w)) w (ringKey 0 0) = false ∧
     movedAt s (ringKey 0 0) = none ∧ frozenAt s (ringKey 0 0) = none ∧ s.revs = [] ∧ s.copies = [] ∧
     releaseReady s 0 .sys 1 3 = false ∧ releaseReady s 0 .sys 0 0 = true) := by
  unfold CanonMem; decide +kernel

/-- RemoteEventResults: a load and a posted write at another package's ring; the last time unit before a time-out and the
first of it. -/
theorem wit_remote_event :
    (let l : LoadOp := { loadOp with runs := [⟨.far 3 0 (.peerRing 0 0), 8⟩], next := 0, taken := true }
     let w : StoreOp := { storeOp with place := .far 3 0 (.peerRing 0 0), posted := true, queued := false, sent := true }
     let s := { onCore (coreWith {}) with ops := [opOf 1 (.load l), opOf 2 (.store w)], timeU := 100 * microU }
     s.op? 1 = some (opOf 1 (.load l)) ∧ s.op? 2 = some (opOf 2 (.store w)) ∧ s.coreOf 1 0 = some 0 ∧
     l.runs = [⟨.far 3 0 (.peerRing 0 0), l.nbytes⟩] ∧ [(0 : Byte), 0, 0, 0, 0, 0, 0, 0].length = l.nbytes ∧
     (opOf 1 (.load l)).issuedU + s.cfg.ftimeout * microU ≤ s.timeU ∧
     100 * microU - 1 < (opOf 1 (.load l)).issuedU + s.cfg.ftimeout * microU ∧ w.window = none) := by decide +kernel

/-- HeavyFenceResults: a core that runs the context and one that does not; a fence that waits for one and for two. -/
theorem wit_heavy_fence :
    (let s := { onCore (coreWith {}) with
                ops := [opOf 1 (.fenceHeavy .sys [(3, 256)] none), opOf 2 (.fenceHeavy .sys [(3, 256), (4, 256)] none)] }
     0 ∈ coresRunning s 1 ∧ 1 ∉ coresRunning s 1 ∧ coresRunning s 2 = [] ∧ 3 ≠ s.accid ∧ (s.op? 1).isSome = true ∧
     (s.op? 2).isSome = true ∧ (∀ x ∈ [(3, 256)], x = (3, 256)) ∧ ∃ x ∈ [(3, 256), (4, 256)], x ≠ (3, 256)) := by
  decide +kernel

/-- StopAndSaveEventResults: a running core alone and beside one that has stopped; a stopped core; a slice at its end and one
cycle before; a JOIN that has waited 4,096 cycles; a task at rest and one that is not; a member to restore where it left. -/
theorem wit_stop_and_save :
    (let j : Core := { coreWith {} with imem := [(0, wordOf (.join 1 (.g 1)))], runq := [⟨2, 0⟩], waitSince := some 0 }
     let q : Task := { task1 with id := 2, state := .queued 0 }
     let s := { onCore j with tasks := [task1, q], cyc := 1048576 }
     (s.coreAt 0).mode = .running ∧ memberStopped s 1 = false ∧ sliceOver s 0 = true ∧
     sliceOver { s with cyc := 1048575 } 0 = false ∧
     ((s.cores.find? fun (_, c) => c.runq.any fun x => x.task == 2).map Prod.fst) = some 0 ∧
     s.widthAt 0 = 1 ∧ (s.coreAt 0).runq ≠ [] ∧ stalledInJoin (s.coreAt 0) = true ∧ (s.coreAt 0).waitSince = some 0 ∧
     0 + 4096 ≤ s.cyc ∧ ({ s with cyc := 4095 } : State).cyc < 0 + 4096) ∧
    (let s := { onCore (coreWith {}) with tasks := [task2], cores := [(0, coreWith {}), (1, { coreWith {} with
                  mode := .stopped .preempt, member := 1 })] }
     (s.coreAt 0).mode = .running ∧ memberStopped s 1 = true ∧ (s.coreAt 1).mode = .stopped .preempt) ∧
    (let s := onCore { coreWith {} with mode := .stopped .preempt }
     s.taskAt 0 = some task1 ∧ hasStopped (s.coreAt 0) = true ∧ atRest s 1 = true ∧
     atRest { s with ops := [opOf 1 (.load loadOp)] } 1 = false) ∧
    (let v : Saved := ⟨0, 0, 0, {}, false, none⟩
     let t : Task := { task1 with saved := [v] }
     let s := { onCore { coreWith {} with mode := .restoring } with tasks := [t] }
     s.taskAt 0 = some t ∧ (s.coreAt 0).mode = .restoring ∧ t.doomed = false ∧ serviceHolds s 1 = false ∧ t.saved = [v] ∧
     coreFor s 1 0 = some 0) := by decide +kernel

/-- A matrix instruction of tiles 0 and 1. -/
def mtxOp (i : Instr) : MtxOp :=
  { instr := i, acc := 0, klen := 16, m := 16, n := 16, a := 0, b := 1, ay := 0, ra := 0, ca := 0, rb := 0, cb := 0
    shift := 0, exp := 0, whole := true, mf := 0, rseed := 0, rstep := 0, started := none, census := 0, lastRep := true
    steps := 16 }

/-- MatrixEventResults: an instruction that may start and one behind it; one that has started. -/
theorem wit_matrix_event :
    (let m := mtxOp (.mma 0 3 4)
     let b := { m with started := some 0 }
     let s := { onCore (coreT 16 16 .i8 {}) with ops := [opOf 1 (.matrix m), opOf 2 (.matrix m)] }
     let r := { onCore (coreT 16 16 .i8 {}) with ops := [opOf 1 (.matrix b), opOf 2 (.matrix m)] }
     s.op? 1 = some (opOf 1 (.matrix m)) ∧ mayStart s (opOf 1 (.matrix m)) m = true ∧
     mayStart s (opOf 2 (.matrix m)) m = false ∧ b.started ≠ none ∧ (∀ p ∈ matrixOps r 0, 1 ≤ p.1.id) ∧
     r.coreOf 1 0 = some 0 ∧ (r.coreAt 0).tiles.get? m.a = some (tl 16 16 0 .i8 4) ∧
     (r.coreAt 0).tiles.get? m.b = some (tl 16 16 64 .i8 3) ∧ m.n ≤ 128) := by decide +kernel

/-- FunctionEventResults: an image that is valid and one that is not; three tiles that do not overlap. -/
theorem wit_function_event :
    (let f := opOf 1 (.vfnld 8 (.tile 0 0) 0)
     let v := opOf 2 (.vopt .sgdm 0 1 2 0 0 0 [0, 0, 0, 0, 0])
     let s := { sMem {} with ops := [f, v] }
     let z := { s with mem := [(tileKey 0 8, 0x54), (tileKey 0 9, 0x46)] }
     let rs : List Run := [⟨.here (tileKey 0 0), 832⟩]
     let p : List Run := [⟨.far 2 0 (.page 1 0x40000), 832⟩]
     let got (s : State) : Fetched := fetchRuns s 0 (.op 1) 0 rs
     CanonMem s ∧ CanonMem z ∧ s.op? 1 = some f ∧ s.op? 2 = some v ∧ s.coreOf 1 0 = some 0 ∧
     reach false s (sideRuns s f (.tile 0 0) 0 832) = some rs ∧ vfnldReady s f rs = true ∧ (got s).waits = false ∧
     (fetchRuns s 0 (.op 1) 0 p).waits = true ∧
     vfnldReady { s with ops := [opOf 0 (.store { storeOp with place := .here (tileKey 0 0) }), { f with stamp := 1 }] }
       { f with stamp := 1 } rs = false ∧
     tableFail s f (.tile 0 0) rs (got s) = some .illegalOperand ∧ tableFail z f (.tile 0 0) rs (got z) = none ∧
     (s.coreAt 0).tiles.get? 0 = some (tl 16 64 0 .i8 4) ∧ (s.coreAt 0).tiles.get? 1 = some (tl 16 64 64 .i8 3) ∧
     (s.coreAt 0).tiles.get? 2 = some (tl 16 64 128 .i8 5) ∧
     overlaps (tileByteKey 0 (tl 16 64 0 .i8 4) 0) 1024 (tileByteKey 0 (tl 16 64 64 .i8 3) 0) 1024 = false) := by
  unfold CanonMem; decide +kernel

/-- A plain copy of 64 bytes from tile 1 to tile 0. -/
def copyOp : CopyOp :=
  { ch := 0, act := .copy .plain 0, dst := .tile 0 0, src := .tile 1 0, dstAddr := tileAddr 3 0, srcAddr := tileAddr 4 0
    shape := 64, idx := none, whole := false, nonres := [], prog := {} }

/-- CopyEventResults: a fill and a copy that may perform, and one behind a copy that writes where it reads. -/
theorem wit_copy_event :
    (let c := copyOp
     let f := { copyOp with act := .copy .fill 0x0807060504030201, src := .none }
     let s := { sMem {} with ops := [opOf 1 (.copy c), opOf 2 (.copy f)] }
     CanonMem s ∧ s.op? 1 = some (opOf 1 (.copy c)) ∧ s.coreOf 1 0 = some 0 ∧ copyReady s (opOf 1 (.copy c)) c = true ∧
     copyReady { s with ops := [opOf 2 (.copy f)] } (opOf 2 (.copy f)) f = true ∧
     copyReady s (opOf 2 (.copy f)) f = false ∧ (shapeOf c.shape).rows = 1 ∧
     (s.coreAt 0).tiles.get? 0 = some (tl 16 64 0 .i8 4) ∧ (s.coreAt 0).tiles.get? 1 = some (tl 16 64 64 .i8 3) ∧
     s.mig.stubs = [] ∧ s.mig.moves = [] ∧ hardFault s 0 [⟨.here (tileByteKey 0 (tl 16 64 64 .i8 3) 0), 64⟩] = none) := by
  unfold CanonMem; decide +kernel

/-- FarEventResults: an ATOM and a SIGNAL that may perform; a SIGNAL behind its channel's copy; ones that have performed. -/
theorem wit_far_event :
    (let a : FarOp := { kind := .atom .add true false false 1 0 0, place := .here (ringKey 0 0), scope := .sys, rel := false
                        addr := 0xA000000000000000, performed := false, old := 0, sat := false, begun := false }
     let g : FarOp := { a with kind := .signal true 1 0, rel := true }
     let s := { sMem {} with ops := [opOf 1 (.far a), opOf 3 (.far g)] }
     let go := opOf 4 (.far { a with begun := true })
     let w := { sMem {} with ops := [go] }
     let b := { sMem {} with ops := [opOf 2 (.copy copyOp), opOf 3 (.far g)] }
     CanonMem s ∧ s.op? 1 = some (opOf 1 (.far a)) ∧ s.coreOf 1 0 = some 0 ∧ farReady s (opOf 1 (.far a)) a = true ∧
     farReady s (opOf 3 (.far g)) g = true ∧ farReady b (opOf 3 (.far g)) g = false ∧
     granBusy w (ringKey 0 0) 8 = false ∧ farFault w go { a with begun := true } (ringKey 0 0) = none ∧ w.revs = [] ∧
     w.copies = [] ∧ arrivesLater w go true (ringKey 0 0) 8 = false ∧ requestsBefore w 4 (ringKey 0 0) 8 = false ∧
     movedAt w (ringKey 0 0) = none ∧ frozenAt w (ringKey 0 0) = none) := by
  unfold CanonMem; decide +kernel


/-! ### Pages: requests, translation, migration -/

/-- The page of VA 0x30000 and that of 0x40000. -/
def page3 : PageKey := ⟨1, 3, 0⟩
/-- A REMOTE page. -/
def page4 : PageKey := ⟨1, 4, 0⟩

/-- A package with page tables. -/
def sPage : State := { onCore (coreWith {}) with mem := tables }

/-- A request of package 3. -/
def reqOf (t : RemoteTarget) (a : RemoteAct) : RemoteReq := ⟨⟨3, 7⟩, 1, t, a, 0⟩

/-- HomeEventResults: a station that denies and one that allows; the last bytes of a ring and one byte more; a page that is
not here; a directory with and without the page; epochs one later and 32,768 later. -/
theorem wit_home :
    (let r := reqOf (.peerRing 0 0x0BFFFFF8) (.read 8)
     let b := reqOf (.peerRing 0 0x0BFFFFF9) (.read 8)
     let g (n : Nat) : Guard × FMap AccessEntry := (Guard.station n, [(0, ⟨true, true, 1023, 0, 2 ^ 32 - 1, 0⟩)])
     let o := { sPage with sys := { sPage.sys with access := (List.range 64).map g ++ sPage.sys.access } }
     CanonMem o ∧ stationAllows sPage r = false ∧ stationAllows o r = true ∧ stationAllows o b = true ∧
     0x0BFFFFF8 + actLen r.act ≤ ringBytes ∧ ringBytes < 0x0BFFFFF9 + actLen b.act ∧ peerAllowed o r = true ∧
     granBusy o (ringKey 0 0x0BFFFFF8) 8 = false ∧ readFault o.sys (ringKey 0 0x0BFFFFF8) 8 = none ∧ o.copies = [] ∧
     badOffsets o (ringKey 0 0x0BFFFFF8) 8 = [] ∧ behindStalled o r = false ∧
     behindStalled { o with mig := { stalled := [r] } } r = true ∧
     o.revs = [] ∧ stationAllows o (reqOf (.peerRing 0 0) (.write (wholeBytes 0 [1, 2]) 2 [])) = true ∧
     stationAllows o (reqOf (.page 1 0x2000000) (.read 8)) = true ∧ ownerLeaf o 1 0x2000000 = .other ∧
     o.mig.incoming = []) ∧
    (let s := { sPage with mig := { home := [⟨page3, .stable, 0, 0, 9, none⟩, ⟨page4, .lost, 2, 0, 0, none⟩]
                                    cache := [⟨page4, 2, 5, 0⟩] } }
     s.mig.home.find? (fun e => e.page == page3) = some ⟨page3, .stable, 0, 0, 9, none⟩ ∧
     s.mig.home.find? (fun e => e.page == page4) = some ⟨page4, .lost, 2, 0, 0, none⟩ ∧
     s.mig.home.find? (fun e => e.page == ⟨1, 9, 0⟩) = none ∧ ownerEntry s page3 = none ∧
     ownerEntry s page4 = some ⟨page4, 2, 5, 0⟩ ∧ (6 + 2 ^ 16 - 5) % 2 ^ 16 = 1 ∧ (32773 + 2 ^ 16 - 5) % 2 ^ 16 = 32768) := by
  unfold CanonMem; decide +kernel

/-- A load from the REMOTE page. -/
def farLoad : Op :=
  opOf 1 (.load { loadOp with runs := [⟨.far 2 0 (.page 1 0x40000), 8⟩], next := 0, taken := true })

/-- RequesterEventResults: an access of a page before its time-out and at it; a hold with an unanswered consult, with a
request out, and with neither. -/
theorem wit_requester :
    (let s := { sPage with ops := [farLoad] }
     s.op? 1 = some farLoad ∧ opPage s 1 = some page4 ∧ s.timeU < farLoad.issuedU + s.cfg.ftimeout * microU ∧
     farLoad.issuedU + s.cfg.ftimeout * microU ≤ 100 * microU ∧ Refused.notOwner ≠ .auth ∧ s.mig.fails.getD 1 0 < 7 ∧
     7 ≤ ({ s with mig := { fails := [(1, 7)] } } : State).mig.fails.getD 1 0) ∧
    (let h (a : List Nat) : Hold := ⟨page4, a, [], []⟩
     let s (a : List Nat) (e : List (Nat × PageKey × Nat)) : State := { sPage with mig := { holds := [h a], sent := e } }
     holdOf (s [1] []) page4 = some (h [1]) ∧ sentFor (s [] [(1, page4, 2)]) page4 ≠ [] ∧ sentFor (s [] []) page4 = []) := by
  decide +kernel

/-- TranslationEventResults: a walk that finds a leaf; pages all resident, one invalid, one missing; a drain with nothing
before it and one behind a load; a mapping that is accepted and one that is not. -/
theorem wit_translation :
    (let w := opOf 1 (.walk 1 0x30000 0)
     let p (va len : Nat) : Op := opOf 2 (.pgreq va len false true false)
     let i := opOf 3 (.invalidate 1 0x30000 0x10000 (some 3) (some 4) none)
     let j := opOf 3 (.invalidate 1 0x30000 0x10000 none (some 4) none)
     let e : AdminCmd := ⟨4, 0x44, .issued⟩
     let s := { sPage with ops := [w, p 0x30000 1, i], adminCmds := [e] }
     s.adminCmds.find? (fun c => c.index == 4) = some e ∧ s.op? 1 = some w ∧ s.op? 2 = some (p 0x30000 1) ∧ s.op? 3 = some i ∧ s.coreOf 1 0 = some 0 ∧
     engineWalk s 0 1 0x30000 = .leaf ⟨1, 3, 0, none, 0x30, true, true, 0, true, true⟩ ∧
     (∀ x ∈ requestPages s 1 0x30000 1 false, x.2.2 = .resident) ∧
     (∃ x ∈ requestPages s 1 0x2000000 1 false, x.2.2 = .invalid) ∧
     (∃ x ∈ requestPages s 1 0x50000 0x10001 false, x.2.2 = .missing) ∧
     (∀ x ∈ requestPages s 1 0x50000 0x10001 false, x.2.2 ≠ .invalid) ∧
     drained s 1 0x30000 0x10000 3 = true ∧ moveWithin s 1 0x30000 0x10000 = false ∧
     (let k := { s with ops := [j], mig := { incoming := [⟨page3, 2, 0, 0x310000, []⟩] } }
      k.op? 3 = some j ∧ moveWithin k 1 0x30000 0x10000 = true) ∧
     (∃ q ∈ [opOf 1 (.load loadOp)], q.id < 3 ∧ q.asid = 1) ∧ (0x30000 : Nat) % pageBytes 0 = 0 ∧
     (0x30000 : Nat) % pageBytes 1 ≠ 0) := by decide +kernel

/-- MoveEventResults: the entries of the home and the pages of the owner that each outcome needs; a move in each stage, and
its time-out. -/
theorem wit_move :
    (let req (p : PageKey) (t : Nat) : MoveReq := ⟨p, t, none⟩
     let v (st : MoveStage) : Move := ⟨req page3 2, 0x300000, 0, st, [], 0, []⟩
     let s (st : MoveStage) : State := { sPage with mig := { moves := [v st] } }
     let h (st : HomeState) : State := { sPage with mig := { home := [⟨page3, st, 0, 0, 65535, none⟩] } }
     requestedEntry sPage page3 = none ∧ sPage.mig.rebuilding = [] ∧
     (∀ st ∈ [HomeState.stable, .moving, .lost], (requestedEntry (h st) page3).map HomeEntry.state = some st ∧
       (requestedEntry (h st) ⟨1, 3, 3⟩).map HomeEntry.page = some page3) ∧ homeEntry (h .moving) page3 ≠ none ∧
     leafOf sPage 1 0x2000000 = none ∧ leafOf sPage 1 (pageVa page3 0) = some (0x23018, 0, 2 + 0x30 * 2 ^ 16 + 3 * 2 ^ 42) ∧
     leafOf sPage 1 (pageVa page4 0) = some (0x23020, 0, 3 + 2 * 2 ^ 16 + 3 * 2 ^ 42) ∧
     isLocal (2 + 0x30 * 2 ^ 16 + 3 * 2 ^ 42) = true ∧ isLocal (3 + 2 * 2 ^ 16 + 3 * 2 ^ 42) = false ∧
     (leafOf sPage 1 0x40000000).map (fun x => x.2.1) = some 2 ∧
     (leafOf sPage 1 0x60000).map (fun x => pteBit x.2.2 46) = some true ∧ sPage.accid ≠ 2 ∧
     (∀ st ∈ [MoveStage.reserving, .frozen, .committing], moveOf (s st) page3 = some (v st)) ∧
     (s .frozen).timeU < 0 + (s .frozen).cfg.ftimeout * microU ∧
     0 + ({ s .frozen with timeU := 100 * microU } : State).cfg.ftimeout * microU ≤ 100 * microU) := by decide +kernel

/-- MoveEndResults, but for the frame that firmware is to find (a free value): a page INCOMING, a move that commits, a MIGR
in flight, a context with and without the policy. -/
theorem wit_move_end :
    (let m : MoveReq := ⟨page3, 2, none⟩
     let x : Incoming := ⟨page4, 2, 0, 0x310000, []⟩
     let v : Move := ⟨m, 0x300000, 0, .committing, [], 0, []⟩
     let g := opOf 1 (.migr 0x30000 2 8 none)
     let s := { sPage with mig := { moves := [v], incoming := [x] }, ops := [g] }
     CanonMem s ∧ incomingOf s page4 = some x ∧ moveOf s page3 = some v ∧ x.held = [] ∧
     (leafOf s 1 (pageVa page3 0)).isSome = true ∧ leafSlot s page4 = some 0x23020 ∧ s.op? 1 = some g ∧
     s.coreOf 1 0 = some 0 ∧ (s.context? 1).map Context.policy = some false ∧
     (s.context? 1).isSome = true ∧ incomingOf s page3 = none ∧ moveOf s page4 = none ∧
     (({ s with ctxs := [(1, { cx1 with policy := true })] } : State).context? 1).map Context.policy = some true) := by
  unfold CanonMem; decide +kernel

/-- StubResults: a stub before the end of its lifetime, at it, and one that retires before and at the time-out. -/
theorem wit_stub :
    (let s (r : Bool) (t : Nat) : State := { sPage with mig := { stubs := [⟨page3, none, 2, 1000 * microU, r, false⟩] }, timeU := t }
     stubOf (s false (1000 * microU)) page3 = some ⟨page3, none, 2, 1000 * microU, false, false⟩ ∧
     (s false (1000 * microU - 1)).timeU < 1000 * microU ∧
     stubOf (s true (1100 * microU)) page3 = some ⟨page3, none, 2, 1000 * microU, true, false⟩ ∧
     1000 * microU + (s true 0).cfg.ftimeout * microU ≤ (s true (1100 * microU)).timeU ∧
     (s true (1100 * microU - 1)).timeU < 1000 * microU + (s true 0).cfg.ftimeout * microU ∧
     (s true 0).mig.moves = [] ∧ (s true 0).mig.incoming = [] ∧ (s true 0).mig.home = [] ∧ (s true 0).mig.stalled = [] ∧
     (s true 0).away = [] ∧ (s true 0).mig.owned = [] ∧ (s true 0).mig.registered = [] ∧ (s true 0).mig.rebuilding = [] ∧
     (let r := { reqOf (.page 1 0x30000) (.read 8) with hops := 2 }
      relaysWait { s true 0 with mig := { stalled := [r] } } page3 = true)) := by decide +kernel


/-! ### Tasks between creation and launch, and between packages -/

/-- An image of one bundle and some width at VA 0x30000. -/
def imageCells (w : Byte) : List Host.Cell :=
  [(0x300000, 0x4D), (0x300001, 0x49), (0x300002, 0x34), (0x300003, 0x47), (0x300004, 1), (0x300006, w), (0x300008, 1),
   (0x300010, 0x40)] ++ (List.range 252).map (fun k => (0x300024 + k, 0xFF)) ++ [(0x300140, 1), (0x300143, 0xE2)]

/-- A package with page tables and some cells of pages. -/
def withCells (c : List Host.Cell) : State := { onCore (coreWith {}) with mem := tables.take 23 ++ c }

/-- A task of the image, in a state. -/
def imageTask (n : Nat) (x : TaskState) : Task := { task1 with id := n, state := x, spec := { rec0 with image := 0x30000 } }

/-- TaskEventResults: a pooled record that is first and one that is not; an idle core with a task to launch, with one to
restore, reserved, and with none. -/
theorem wit_task_event :
    (let p := imageTask 2 .pooled
     let q := { imageTask 3 .pooled with order := 1 }
     let s := { withCells [] with tasks := [p, q] }
     CanonMem s ∧ s.task? 2 = some p ∧ admissible s p = true ∧ admissible s q = false) ∧
    (let t := imageTask 2 (.queued 0)
     let k : Core := { runq := [⟨2, 0⟩] }
     let s := { withCells (imageCells 1) with tasks := [t], cores := [(0, k), (1, { reserved := true })] }
     CanonMem s ∧ (s.coreAt 0).mode = .idle ∧ (s.coreAt 0).reserved = false ∧ (s.coreAt 0).offline = false ∧
     bestEntry s 0 = some ⟨2, 0⟩ ∧ bestEntry s 1 = none ∧ (s.coreAt 1).reserved = true ∧ s.task? 2 = some t ∧
     t.saved = [] ∧ (match imageOfTask s t with
       | .got _ => true
       | _ => false) = true ∧ (launchTask t [0] s).toOption.isSome = true ∧
     ({ t with saved := [⟨0, 0, 0, {}, false, none⟩] } : Task).saved ≠ [] ∧ tokenCame s t 0 = true ∧
     (let u := { t with token := some (1, 1, 9) }
      tokenCame { s with ops := [{ opOf 1 (.load loadOp) with core := 1 }] } u 0 = false)) := by
  unfold CanonMem; decide +kernel

/-- TaskEventResults: a gang of 64 with 63 cores free, and no gang. -/
theorem wit_gang_binds :
    (let t := { imageTask 2 .ready with width := 64 }
     let s := { withCells [] with tasks := [t], cores := [(63, coreWith {})] }
     nextGang s 0 = some t ∧ nextGang { s with tasks := [] } 0 = none ∧ (s.dieAt 0).binding = none ∧
     bindingOf s 0 = some (t, []) ∧ 0 + (freeCores s 0).length < t.width) := by decide +kernel

/-- TaskEventResults: a gang of 2 that holds its cores, new and saved. -/
theorem wit_gang_runs :
    (let t := { imageTask 2 .ready with width := 2 }
     let s := { withCells (imageCells 2) with
                tasks := [t], cores := [(0, { reserved := true }), (1, { reserved := true })]
                dies := [(0, { binding := some (2, [0, 1]) })] }
     CanonMem s ∧ bindingOf s 0 = some (t, [0, 1]) ∧ [0, 1].length = t.width ∧
     (linesOf t.spec.lines).length ≤ (freeLines s 0).length ∧ t.saved = [] ∧ (∀ n ∈ [0, 1], tokenCame s t n = true) ∧
     (launchTask t [0, 1] (bindLines t 0 ((linesOf t.spec.lines).zip (freeLines s 0))
       (s.modDie 0 fun d => { d with binding := some (t.id, [0, 1]) }))).toOption.isSome = true) := by
  unfold CanonMem; decide +kernel

/-- The cores of that gang in order. -/
theorem wit_gang_order : [0, 1].mergeSort = [0, 1] := by simp [List.mergeSort]

/-- TaskEventResults: a fill that may be made and one whose slot is not claimed. -/
theorem wit_fill :
    (let o := opOf 1 (.pipew 0 0 5 1024)
     let x := opOf 2 (.pipew 0 0 8 1024)
     let s := { sMem {} with tasks := [task2], ops := [o, x] }
     CanonMem s ∧ s.op? 1 = some o ∧ (fillPlan s o 0 0 5).isSome = true ∧ (fillPlan s x 0 0 8).isSome = false) := by
  unfold CanonMem; decide +kernel

/-- RecordEventResults: a batch that is due and none; a record that has room; a tile whose task is bound to a core; a steal
that can be made, its record in transit before and at its timer, and one that is confirmed. -/
theorem wit_record :
    (let b : Batch := ⟨3, [⟨9, 1, 0, 0, 0, [0], none, none⟩], 0, false⟩
     let s := { withCells [] with batches := [b], timeU := 2 * microU }
     s.batches.find? (fun x => x.acc == 3 && batchDue s x) = some b ∧ s.batches.find? (fun x => x.acc == 2 && batchDue s x) = none ∧
     (∀ x ∈ b.tasks, x.mode = 0) ∧ s.task? (foreignId 3 9) = none ∧
     (parseRecord (List.replicate 256 0)).toOption.isSome = true ∧ List.replicate 256 (0 : Byte) ≠ [] ∧ poolFree s 0 ≠ 0 ∧
     (s.context? 1).isSome = true) ∧
    (let t := { task1 with id := foreignId 3 9, spec := { rec0 with reads := [.tile 1 7 7] } }
     let s := { withCells [] with tasks := [t, { task1 with id := foreignId 3 8 }] }
     s.task? (foreignId 3 9) = some t ∧ boundCore t = some 1 ∧ t.admitted.isSome = true ∧
     ({ t with admitted := none } : Task).admitted = none ∧ handleInUse s (admittedBefore t) t.id 1 7 = false ∧
     (s.coreAt 1).handles.get? 7 = none ∧ (planTile s 1 7 16 16 .i8 .tile 0).isSome = true ∧
     (s.task? (foreignId 3 8)).map boundCore = some none ∧ s.task? (foreignId 2 9) = none) ∧
    (let free := { task1 with id := 2, state := .queued 0, spec := { rec0 with die := 4 } }
     let s := { withCells [] with tasks := [free], cores := [(0, { coreWith {} with runq := [⟨2, 0⟩] })] }
     wantsSteal s 1 = true ∧ victimDie s 1 = some 0 ∧ stealTarget s 0 = some (0, ⟨2, 0⟩) ∧ s.task? 2 = some free ∧
     wantsSteal { s with tasks := [{ free with transit := some ⟨0, 0, 0, 1, 8 * microU⟩ }] } 1 = false) ∧
    (let x : Transit := ⟨0, 0, 0, 1, 8 * microU⟩
     let t := { task1 with id := 2, state := .queued 0, transit := some x }
     let s := { withCells [] with tasks := [t, { task1 with id := 3, state := .stealing, transit := some x }] }
     s.task? 2 = some t ∧ x.thief = 1 ∧ ((s.task? 3).bind Task.transit).map Transit.thief = some 1 ∧
     (s.coreAt x.core).runq.length < 64 ∧ t.state = .queued x.core ∧ (s.dieAt (dieOf x.core)).epoch = 0 ∧
     x.timerU ≤ 8 * microU ∧ 8 * microU - 1 < x.timerU ∧ (s.task? 3).map Task.state = some .stealing) := by decide +kernel

/-! ### Revisions, graphs and rings -/

/-- A region of 32-bit elements over the page at 0x300000. -/
def region0 (merge : Nat) : Region := ⟨0x30000, 0x10000, 32, false, merge, 0, [(0x30000, 0x300000, 0x10000)]⟩

/-- RevisionEventResults: a fork that is ready and one that waits; a child that is merge-ready with nothing and with one
granule written, and one that is not; the end of a copy and of a merge. -/
theorem wit_revision :
    (let f (st : RevState) : Rev := ⟨1, 0, 9, 1, 1, st, none, 0, none⟩
     let s (r : Rev) : State := { withCells [] with revs := [(7, r)], tasks := [{ task1 with mergeTo := 1 }] }
     let w := { s (f .forking) with tasks := [{ task1 with id := 9, token := some (0, 3, 5) }], ops := [opOf 1 (.load loadOp)] }
     CanonMem (s (f .forking)) ∧ (s (f .forking)).revs.get? 7 = some (f .forking) ∧
     (((s (f .forking)).task? 9).map (tokenReady (s (f .forking)) .pkg)).getD true = true ∧
     ((w.task? 9).map (tokenReady w .pkg)).getD true = false ∧
     mergeReady (s (f .live)) 7 (f .live) = true ∧ mergeReady (s (f .forking)) 7 (f .forking) = false ∧
     mergingRev (s (f .live)) 7 = false ∧
     poolHas (s (f .live)) (copiesNeeded (s (f .live)) 0 0x300).length = true ∧ granBusy (s (f .live)) (0x300 * 4096) 4096 = false) ∧
    (let k : GranCopy := ⟨1, 0x300, .ancestor 0 [7] false⟩
     let s := { withCells [] with
                revs := [(7, ⟨1, 0, 9, 1, 1, .live, some [0x300], 0, none⟩)], ctxs := [(1, { cx1 with regions := [(0, region0 0)] })]
                copies := [k, ⟨2, 0x300, .private_ 7⟩], ops := [opOf 1 (.cow 0x300), opOf 2 (.merge ⟨7, 0x300⟩)] }
     CanonMem s ∧ (s.op? 1).isSome = true ∧ (s.op? 2).isSome = true ∧ regionOf s 0x300 = some (1, region0 0) ∧
     (region0 0).merge ≠ 7 ∧ (region0 0).width ∈ [8, 16, 32, 64] ∧ (0x300 + 1) * 4096 ≤ lpddrBytes ∧
     copiesNeeded s 0 0x300 = [] ∧ privateCopy s 0 0x300 = none ∧ ancestorCopy s 7 0x300 = some k) := by
  unfold CanonMem; decide +kernel

/-- RevisionEventResults: the granules that a child wrote, none and one. -/
theorem wit_written :
    writtenGranules { withCells [] with copies := [⟨2, 0x300, .private_ 7⟩] } 7 = [0x300] ∧
    writtenGranules (withCells []) 7 = [] := by
  constructor <;> simp [writtenGranules, marksWritten, withCells, onCore, State.reset, List.eraseDups, List.eraseDupsBy,
    List.eraseDupsBy.loop]

/-- An op of a graph at station 0. -/
def chunkOp (op : Nat) : ChunkOp :=
  ⟨op, 0, 0, 0, 0, false, 0, 0, 0, 5, if op = 0 then 0 else 1, 0xFFF, 0xFFF, 0, 64, 64⟩

/-- A current entry of slot 2 whose buffers lie in a ring, and a work ring. -/
def entry0 (r : Option RunState) (j : Nat) : RingEntry :=
  ⟨2, 2, j, 1, [0xA000000000000000, 0, 0, 0], 64, 0, 0, r⟩
/-- A work ring. -/
def ring0 (e : Option RingEntry) : WorkRing := ⟨0x30000, 16, 0x60000, 4, 0, false, e, 0⟩

/-- A context with a graph slot and a ring. -/
def cxRing (os : List ChunkOp) (w : WorkRing) : Context :=
  { cx1 with slots := [(2, ⟨os, [(0, 128)], 6⟩)], rings := [(1, w)] }

/-- A run in progress. -/
def run0 (done : List Nat) : RunState := 
  ⟨[(0, [⟨.here (ringKey 0 0), 64⟩])], [0, 0], done, [], false, 0, 7, [], 0⟩

/-- RingEventResults: a slot in use and a free one, a clear and a load; a ring halted, empty, out of range, and with an
entry; an armed run that is done and one that is not; the collective timeout. -/
theorem wit_ring :
    (let g := opOf 2 (.cgld 0 false 3 0x30000 [(0x30000, 64, .here 0x300000)])
     let c := opOf 3 (.cgld 0 true 2 0 [])
     let cells : List Host.Cell := [(0x300000, 0x46), (0x300001, 0x52), (0x300002, 0x47), (0x300003, 0x43), (0x300004, 1),
       (0x300006, 1), (0x300040, 0xFF), (0x300041, 0xFF), (0x300042, 0xFF), (0x300050, 64)]
     let s := { withCells cells with ops := [g, c], ctxs := [(1, cxRing [chunkOp 0] (ring0 (some (entry0 none 0))))] }
     s.op? 2 = some g ∧ s.op? 3 = some c ∧ cgldReady s g 0 false [⟨.here 0x300000, 64⟩] = true ∧
     cgldReady s c 0 true [] = true ∧
     cgldReady { s with ops := [opOf 1 (.store storeOp), { g with stamp := 1 }] } { g with stamp := 1 } 0 false
       [⟨.here 0x300000, 64⟩] = false ∧
     slotInUse s 1 2 = true ∧ slotInUse s 1 3 = false ∧
     (match loadGraph s g 3 0x30000 [⟨.here 0x300000, 64⟩], loadGraph s g 3 0x40000 [⟨.far 2 0 (.page 1 0x40000), 64⟩] with
       | .ends _ (.ok _), .asks _ _ => true
       | _, _ => false) = true) ∧
    (let s (w : WorkRing) (h : Byte) : State :=
       { withCells [(0x300102, 2), (0x310000, h)] with ctxs := [(1, cxRing [chunkOp 0] w)], timeU := 1000 * microU }
     let r := ring0 none
     ringOf (s r 4) 1 0 = none ∧ ringOf (s r 4) 1 1 = some r ∧ controlWord (s r 4) 1 r 0 = some 4 ∧
     controlWord (s r 3) 1 r 0 = some 3 ∧ controlWord (s r 21) 1 r 0 = some 21 ∧ controlWord (s r 20) 1 r 0 = some 20 ∧
     (readVa (s r 5) pairMaster 1 (r.base + 64 * (r.tail % r.size)) 64).isSome = true ∧
     ((readVa (s r 5) pairMaster 1 (r.base + 64 * (r.tail % r.size)) 64).bind parseRingEntry).isSome = true ∧
     (slotOf (s r 5) 1 0).isSome = false ∧ (slotOf (s r 5) 1 2).isSome = true) ∧
    (let s (e : RingEntry) : State := { withCells [] with
       ctxs := [(1, cxRing [chunkOp 0] (ring0 (some e)))], timeU := 1000 * microU }
     armable (s (entry0 none 0)) 1 1 = some (entry0 none 0, ⟨[chunkOp 0], [(0, 128)], 6⟩) ∧
     armable (s (entry0 (some (run0 [])) 0)) 1 1 = none ∧
     (runBases (s (entry0 none 0)) 1 (entry0 none 0) [(chunkOp 0, 0)]).toOption.isSome = true ∧
     (runBases (s (entry0 none 0)) 1 { entry0 none 0 with bases := [0xF000000000000000] } [(chunkOp 0, 0)]).toOption.isSome = false ∧
     (run0 []).doneOps.length ≠ [chunkOp 0].length ∧ (run0 [0]).doneOps.length = [chunkOp 0].length ∧
     (run0 []).armedU + collTimeout (s (entry0 none 0)) 1 ≤ 1000 * microU ∧
     1000 * microU - 1 < (run0 []).armedU + collTimeout (s (entry0 none 0)) 1 ∧
     (entry0 none 1).j + 1 = (entry0 none 1).runs ∧ (entry0 none 0).j + 1 ≠ (entry0 none 0).runs ∧
     ringNaming (s (entry0 none 0)) 1 2 = some 1 ∧ ringNaming (s (entry0 none 0)) 1 3 = none) := by decide +kernel

/-- StationEventResults: an op that may run and one behind another; each op's chunk; a stale chunk; a full and an empty
early area; a station whose flits are out and one that holds some. -/
theorem wit_station :
    (let c : Chunk := ⟨0, 1, 2, 7, 5, 0, 1, List.replicate 64 1, []⟩
     let os := [chunkOp 0, chunkOp 1, chunkOp 2, chunkOp 3, chunkOp 4, chunkOp 5]
     let run : RunState := { run0 [] with bases := [(0, [⟨.here (ringKey 0 0), 64⟩]), (5, [⟨.here (ringKey 0 64), 64⟩])]
                                          counters := [0, 0, 0, 0, 0, 0] }
     let cx : Context := { cx1 with slots := [(2, ⟨os, [(0, 128)], 7⟩)], rings := [(1, ring0 (some (entry0 (some run) 0)))] }
     let x : Station := { early := [⟨c, 0⟩], queue := [(1, 2, 2), (1, 2, 0)] }
     let s := { withCells [] with ctxs := [(1, cx)], stations := [(0, x)], ops := [opOf 1 (.chunk 1 2 0), opOf 2 (.chunk 9 9 9)] }
     let i := { s with ops := [] }
     CanonMem s ∧ runOp s 9 9 9 = none ∧ runOp s 1 2 2 = some (1, run, chunkOp 2) ∧
     nextOpAt i 0 = some (1, 2, 2) ∧ sequencerBusy i 0 = false ∧
     sequencerBusy s 0 = true ∧ (chunkOp 2).takes = true ∧ chunkFor s 1 2 7 (chunkOp 2) = some ⟨c, 0⟩ ∧
     chunkFor s 1 2 7 (chunkOp 3) = some ⟨c, 0⟩ ∧ chunkFor s 1 2 7 (chunkOp 4) = some ⟨c, 0⟩ ∧ c.data.length = (chunkOp 2).len ∧
     flitsHeld s 1 0 = false ∧
     flitsHeld { s with stations := [(0, { x with held := [⟨3, .chk, 1, .chunkReceive c, some 1⟩] })] } 1 0 = true ∧
     FMap.getD run.bases 0 [] = [⟨.here (ringKey 0 0), 64⟩] ∧
     (∀ b ∈ [false, true], reach b s [⟨.here (ringKey 0 0), 64⟩] = some [⟨.here (ringKey 0 0), 64⟩]) ∧
     memBusy s (opOf 1 (.chunk 1 2 0)) run 0 (chunkOp 0) = false ∧ s.ops.any (isPartOf (.op 1) 1) = false ∧
     memBusy { s with ops := s.ops ++ [opOf 4 (.part ⟨.op 1, 0, .zero, .read 8, .waits⟩)] } (opOf 1 (.chunk 1 2 0)) run 0
       (chunkOp 0) = true ∧
     chunkFault s 0 true [⟨.here (ringKey 0 0), 64⟩] = none ∧ chunkFault s 0 false [⟨.here (ringKey 0 64), 64⟩] = none ∧
     hardFault s 0 [⟨.here (seqKey 1 2 0 0), 64⟩] = none ∧ granBusy s (ringKey 0 64) 64 = false ∧ s.copies = [] ∧ s.revs = [] ∧
     staleChunk s c = false ∧ staleChunk s { c with seq := 6 } = true ∧ (s.stationAt 0).held = []) ∧
    (let c : Chunk := ⟨0, 1, 2, 7, 5, 0, 0, [], []⟩
     let s : State := { withCells [] with cfg := { lx := 2 } }
     earlyFull s 0 1 = false ∧ Channel.chk ≠ .req ∧ earlyBytes s { early := [⟨c, 0⟩] } 0 0 = 0 ∧ queueFull s = false) := by
  unfold CanonMem; decide +kernel


/-! ### Packets and queues -/

/-- Host memory that holds some lists of bytes. -/
def hostOf (xs : List (Nat × List Byte)) : List Host.Cell := xs.foldl (fun m x => Memory.setN m x.1 x.2) []

/-- The bytes of a packet: kind, tag and body. -/
def pktBytes (kind : Byte) (body : List Byte) : List Byte := [kind, 0, 0, 0, 9, 0, 0, 0] ++ body

/-- Eight bytes of the host address `a` as a packet names it. -/
def hostAddr (a : Nat) : List Byte := leBytes 8 (2 ^ 63 + a)

/-- A mapped queue of context 1 with rings in host memory. -/
def queue0 : Queue :=
  { asid := 1, prio := 1, state := .mapped, logSize := 4, ring := 0x8000000000001000, cring := 0x8000000000002000, head := 1
    vector := 5, coal := 0 }

/-- A package with that queue as queue 0 and host memory as given. -/
def sQueue (q : Queue) (xs : List (Nat × List Byte)) : State :=
  { sPage with
    queues := [(0, q)], host := hostOf xs, timeU := 1000 * microU
    sys := { sPage.sys with access := (.hostPort, [(0, ⟨true, true, 1023, 0, 2 ^ 32 - 1, 0⟩)]) :: sPage.sys.access } }

/-- A state whose next packet is as given. -/
def nextPkt (kind : Byte) (body : List Byte) : State := sQueue queue0 [(0x1000, pktBytes kind body)]

/-- PacketEventResults: no packet, one that cannot be read, and a WAIT, a SIGNAL, a COPY and a PUBLISH that may start. -/
theorem wit_packet :
    (let s (k : Byte) (b : List Byte) := nextPkt k b
     let pk (k : Byte) (b : List Byte) : Packet := packetOf ((nextBytes (s k b) 0 queue0).data.map Prod.fst)
     let came (f : Fetched) : Bool := f.asks.isEmpty && !f.waits && f.fail.isNone
     let due (k : Byte) (b : List Byte) : Bool := mayStartPacket (s k b) 0 queue0 && came (nextBytes (s k b) 0 queue0) &&
       packetTurn queue0 (pk k b) && (pk k b).kind == k.toNat
     let host (a : Nat) (x : Except FaultCode PktSide) : Bool := match x with
       | .ok (.host b) => a == b
       | _ => false
     let w := hostAddr 0x3000 ++ leBytes 8 1
     let g := hostAddr 0x3000 ++ leBytes 8 5 ++ [1]
     let c := hostAddr 0x3000 ++ hostAddr 0x4000 ++ leBytes 8 4
     let word := fetchAddr (s 2 w) pairMaster (.start 0) 1 1 ((pk 2 w).word 0) 8 8
     CanonMem (s 5 []) ∧ mayStartPacket (sQueue { queue0 with head := 0 } []) 0 { queue0 with head := 0 } = false ∧
     (sQueue queue0 []).queues.get? 1 = none ∧
     due 2 w = true ∧ packetOk (pk 2 w) 16 = true ∧ came word = true ∧
     waitTrue (word.data.map Prod.fst) ((pk 2 w).word 8) = false ∧ waitTrue (word.data.map Prod.fst) 0 = true ∧
     packetTurn { queue0 with inflight := [0] } (pk 2 w) = false ∧
     due 3 g = true ∧ packetOk (pk 3 g) 17 = true ∧ ((pk 3 g).word 0).toNat % 8 = 0 ∧ fieldAt (pk 3 g).body 16 1 = 1 ∧
     host 0x3000 (pktSide (s 3 g) 1 ((pk 3 g).word 0) 8 8 true true) = true ∧
     due 4 c = true ∧ packetOk (pk 4 c) 24 = true ∧ ((pk 4 c).word 16).toNat = 4 ∧
     host 0x3000 (pktSide (s 4 c) 1 ((pk 4 c).word 0) 4 1 false true) = true ∧
     host 0x4000 (pktSide (s 4 c) 1 ((pk 4 c).word 8) 4 1 true false) = true ∧
     due 5 [] = true ∧ packetOk (pk 5 []) 0 = true ∧ due 6 [] = true ∧ due 0 [] = true) := by
  unfold CanonMem; decide +kernel

/-- PacketEventResults: a packet that cannot be read, one in another package that is asked for, and one that is awaited. -/
theorem wit_packet_read :
    (let q := { queue0 with ring := 0x40000 }
     let s := sQueue q []
     let w : Op := opOf 1 (.part ⟨.start 0, 0, .far 2 0 (.page 1 0x40000), .read 64, .waits⟩)
     let f := nextBytes { s with ops := [w] } 0 q
     let b := { queue0 with ring := 0x8010000000000000 }
     let e := nextBytes (sQueue b []) 0 b
     mayStartPacket s 0 q = true ∧ (nextBytes s 0 q).asks ≠ [] ∧ f.asks = [] ∧ f.waits = true ∧
     e.asks = [] ∧ e.waits = false ∧ e.fail = some .illegalOperand) := by decide +kernel

/-- PacketEventResults: a LAUNCH with a pool that has room, and one without. -/
theorem wit_launch :
    (let b := hostAddr 0x3000
     let s := nextPkt 1 b
     let p := packetOf ((nextBytes s 0 queue0).data.map Prod.fst)
     let g := fetchAddr s pairMaster (.start 0) 1 1 (p.word 0) 256 64
     p.kind = 1 ∧ packetOk p 8 = true ∧ g.asks = [] ∧ g.waits = false ∧ g.fail = none ∧
     (let r := launchRecord s 1 (g.data.map Prod.fst)
      (r.isSome && r.any fun r => !isAway s r) = true) ∧ poolFree s 0 ≠ 0) := by decide +kernel

/-- PacketEventResults: finished and unfinished packets in flight, and an acknowledged publication. -/
theorem wit_packet_done :
    (let f (k : PktKind) (fin : Bool) : Op := opOf 1 (.packet ⟨0, 0, 9, true, 4, k, none, 0, 0, fin, false⟩)
     let q : Queue := { queue0 with started := 1, inflight := [0] }
     let s (k : PktKind) (fin : Bool) : State := { sQueue q [] with ops := [f k fin] }
     let y := opOf 1 (.publish false)
     let p : State := { sQueue q [] with ops := [y], ctxs := [(1, { cx1 with pubcnt := 0x8000000000005000 })] }
     CanonMem (s .wait true) ∧ (s .wait true).op? 1 = some (f .wait true) ∧ (0 : Nat) ∈ q.inflight ∧
     (match pktSide (s .wait true) 1 (q.cring + BitVec.ofNat 64 (32 * (q.done % 2 ^ q.logSize))) 32 1 false true with
       | .ok (.host a) => a == 0x2000
       | _ => false) = true ∧
     (s (.signal (.host 8) true false 5) false).op? 1 = some (f (.signal (.host 8) true false 5) false) ∧
     (∀ b ∈ [false, true], (s (.copy (.host 8) (.host 16) 4 b) false).op? 1 = some (f (.copy (.host 8) (.host 16) 4 b) false)) ∧
     stepAnswers (s (.copy (.host 8) (.host 16) 4 true) false) (.op 1) 1 = (false, none) ∧
     stepAnswers { s .wait true with ops := [opOf 2 (.part ⟨.op 1, 1, .zero, .add 1, .waits⟩)] } (.op 1) 1 = (true, none) ∧
     p.op? 1 = some y ∧
     (match pktSide p 1 (((p.context? 1).map Context.pubcnt).getD 0) 8 8 true true with
       | .ok (.host a) => a == 0x5000
       | _ => false) = true) := by
  unfold CanonMem; decide +kernel

/-- QueueEventResults: an idle, a WAITING, a parked, a mapped and a halted queue; kicks at both ends of the range and just
outside it; a timer at and before its time; a mapped queue whose slice has ended; one that is removed. -/
theorem wit_queue :
    (let q : Queue := { queue0 with started := 2, done := 1, head := 3, state := .idle, coal := 4 }
     let t := 1000 * microU
     let w : Queue := { queue0 with state := .waiting }
     let m : Queue := { queue0 with state := .mapped, mapAt := 0, prio := 1 }
     let s : State := { sQueue m [] with queues := [(0, m), (1, w)], timeU := 10000000 * microU }
     let k : State := sQueue { queue0 with state := .parked, waddr := 0x8000000000003000, wval := 1 } [(0x3000, [1])]
     let read (a : Word) : Fetched := fetchAddr k signalMaster (.parked 0) 0 1 a 8 8
     let v := { w with asid := 2 }
     (sQueue q []).queues.get? 0 = some q ∧ ¬ (2 < q.started ∨ q.done + 2 ^ q.logSize < 2) ∧ 1 < q.started ∧
     ¬ (17 < q.started ∨ q.done + 2 ^ q.logSize < 17) ∧ q.done + 2 ^ q.logSize < 18 ∧
     (sQueue { q with armed := some t } []).timeU = t ∧ (sQueue q []).timeU < t + 1 ∧
     slotFree (sQueue w []) 1 = true ∧ nextMapped (giveWay w (sQueue w [])) = some 0 ∧
     nextMapped (giveWay q (sQueue q [])) ≠ some 0 ∧ slotFree (sQueue v []) 2 = false ∧ sliceEnded s m = true ∧
     sliceEnded (sQueue m []) m = false ∧
     s.queues.find? (fun x => x.2.asid == w.asid && sliceEnded s x.2) = some (0, m) ∧ s.queues.get? 0 = some m ∧
     (sQueue m []).queues.find? (fun x => x.2.asid == m.asid && sliceEnded (sQueue m []) x.2) = none ∧
     (read 0x8000000000003000).asks = [] ∧ (read 0x8000000000003000).waits = false ∧
     (read 0x8000000000003000).fail = none ∧ waitTrue ((read 0x8000000000003000).data.map Prod.fst) 1 = true ∧
     waitTrue ((read 0x8000000000003000).data.map Prod.fst) 2 = false ∧ (read 0x8000000000003001).fail = some .align ∧
     (read 0x40000).asks ≠ [] ∧
     ({ q with removing := some 4, inflight := [] } : Queue).removing = some 4 ∧ q.removing = none ∧
     [(⟨4, 0x42, .issued⟩ : AdminCmd)].find? (fun c => c.index == 4) = some ⟨4, 0x42, .issued⟩) := by decide +kernel

/-! ### Administration and the system -/

/-- An admin packet of a kind with tag 9 and some body. -/
def adm (kind : Nat) (body : List Byte) : BitVec 512 :=
  BitVec.ofNat 512 (leNat (leBytes 1 kind ++ [0, 0, 0, 9, 0, 0, 0] ++ body))

/-- What a row reads of a packet. -/
def admPkt (p : BitVec 512) : Packet := packetOf (leBytes 64 p.toNat)

/-- A context descriptor: page tables at 0x20000, no heap, one record, quota 16, and windows over one package each. -/
def descriptor : List Byte :=
  leBytes 8 0x20000 ++ leBytes 24 0 ++ leBytes 16 0 ++ leBytes 4 1 ++ leBytes 2 16 ++ leBytes 74 0 ++
    (List.range 16).flatMap fun _ => [1, 0, 0, 0, 0, 0, 0, 0]

/-- A package with page tables, the host memory given, and queue 3 and ring 1 of context 1. -/
def sAdm (xs : List (Nat × List Byte)) : State :=
  { sPage with host := hostOf xs, queues := [(3, queue0)], ctxs := [(1, cxRing [] (ring0 none))] }

/-- AdminCommandResults: a packet of each kind, one of good form and one not; a context that exists and one that does not;
fields in range at their ends and one beyond. -/
theorem wit_admin :
    (let s := sAdm [(0x3000, descriptor)]
     let k (p : BitVec 512) : Nat := (admPkt p).kind
     let f (p : BitVec 512) : Nat → Nat → Nat := (admPkt p).field
     let set (n op : Nat) := adm 0x40 (leBytes 2 n ++ leBytes 6 op ++ hostAddr 0x3000)
     s.sys.boot = .ready ∧ CanonMem s ∧
     (∀ n ∈ [(0x40, 16), (0x41, 2), (0x42, 28), (0x43, 2), (0x44, 24), (0x45, 1), (0x46, 24), (0x47, 24), (0x48, 24), (0x49, 3),
        (0x4A, 16), (0x4B, 24)],
       k (adm n.1 []) = n.1 ∧ packetOk (admPkt (adm n.1 [])) n.2 = true ∧
       packetOk (admPkt (adm n.1 (leBytes n.2 0 ++ [1]))) n.2 = false) ∧
     contextOk (Memory.getN s.host (abits (f (set 2 0) 8 8) 0 52) 256) = true ∧ f (set 2 0) 2 1 = 0 ∧ f (set 1 1) 2 1 = 1 ∧
     f (set 2 0) 3 5 = 0 ∧ abits (f (set 2 0) 8 8) 52 12 = 0x800 ∧ f (set 2 0) 8 8 % 64 = 0 ∧
     (s.context? (f (set 2 0) 0 2)).isSome = false ∧ (s.context? (f (set 1 1) 0 2)).isSome = true ∧
     packetOk (admPkt (set 2 0)) 16 = true ∧ f (set 1 2) 2 1 = 2) := by
  unfold CanonMem; decide +kernel

/-- AdminCommandResults: a new command and one that waits; the turn of a command behind one that is tried again, with
BARRIER and without; one whose turn comes first. -/
theorem wit_admin_turn :
    (let b := adm 0x45 [1]
     let bar : BitVec 512 := b + 256
     let s := { sAdm [] with adminCount := 5, adminCmds := [⟨4, adm 0x41 [1], .running⟩] }
     let w := { s with adminCmds := [⟨4, b, .waiting⟩] }
     commandOf s b = ⟨5, b, .waiting⟩ ∧ (∀ e ∈ s.adminCmds, e.packet ≠ b) ∧ commandTurn (takeCommand b s) (commandOf s b) = true ∧
     (admPkt bar).barrier = true ∧ (admPkt bar).kind = 0x45 ∧ commandTurn (takeCommand bar s) (commandOf s bar) = false ∧
     commandOf w b = ⟨4, b, .waiting⟩ ∧ (takeCommand b w).adminCmds = [] ∧ (takeCommand b w).adminCount = 5 ∧
     commandTurn (takeCommand b w) (commandOf w b) = true ∧ adminWaits s (.pool bar) = true ∧ adminWaits s (.pool b) = false) := by
  decide +kernel

/-- AdminCommandResults: a context with no task and no packet left; queues that are registered, changed, removed and
reset. -/
theorem wit_admin_queues :
    (let s := { sAdm [] with tasks := [] }
     let f (p : BitVec 512) : Nat → Nat → Nat := (admPkt p).field
     let q (n op : Nat) := adm 0x42 (leBytes 2 n ++ leBytes 2 (op + 256) ++ leBytes 4 (1 + 2 ^ 18) ++ hostAddr 0x1000 ++
       hostAddr 0x2000 ++ leBytes 2 5 ++ leBytes 2 1000)
     (∀ t ∈ s.tasks, t.asid ≠ 1 ∧ t.doomed = false) ∧ packetsDue s 1 = false ∧ (s.context? 1).isSome = true ∧
     packetOk (admPkt (q 1023 0)) 28 = true ∧ f (q 1023 0) 0 2 = 1023 ∧ f (q 1024 0) 0 2 = 1024 ∧ f (q 1023 3) 2 1 = 3 ∧
     f (q 3 0) 2 1 = 0 ∧ queueFieldsOk (admPkt (q 3 0)) = true ∧ (s.context? (f (q 3 0) 4 2)).isSome = true ∧
     s.queues.get? 1023 = none ∧ s.queues.get? 3 = some queue0 ∧ queue0.removing = none ∧ f (q 3 1) 2 1 = 1 ∧
     f (q 3 1) 4 2 = queue0.asid ∧ f (q 3 1) 6 1 = queue0.logSize ∧ (admPkt (q 3 1)).word 8 = queue0.ring ∧
     (admPkt (q 3 1)).word 0x10 = queue0.cring ∧ f (q 3 2) 2 1 = 2) := by decide +kernel

/-- AdminCommandResults: the ends of POOL and TIMING and one value beyond; the policies; replies to page requests. -/
theorem wit_admin_values :
    (let f (p : BitVec 512) : Nat → Nat → Nat := (admPkt p).field
     let pool (n : Nat) := adm 0x45 (leBytes 1 n)
     let time (a b c d : Nat) := adm 0x4A (leBytes 4 a ++ leBytes 4 b ++ leBytes 4 c ++ leBytes 4 d)
     let pol (n a : Nat) := adm 0x49 (leBytes 2 n ++ leBytes 1 a)
     let rep (n a : Nat) := adm 0x48 (leBytes 2 n ++ leBytes 6 a ++ leBytes 8 0x30000 ++ leBytes 8 0x10000)
     let s := sAdm []
     f (pool 64) 0 1 = 64 ∧ f (pool 65) 0 1 = 65 ∧ f (time 100 65536 10 600) 0 4 = 100 ∧ f (time 99 0 0 0) 0 4 = 99 ∧
     f (time 0 16777216 499 100000) 4 4 = 16777216 ∧ f (time 0 0 499 100000) 8 4 = 499 ∧ f (time 0 0 500 0) 8 4 = 500 ∧
     f (time 0 0 0 100000) 12 4 = 100000 ∧ f (pol 1 1) 2 1 = 1 ∧ f (pol 1 2) 2 1 = 2 ∧ (s.context? (f (pol 1 1) 0 2)).isSome = true ∧
     s.context? (f (pol 7 0) 0 2) = none ∧ f (rep 1 1) 2 1 = 1 ∧ f (rep 1 0) 2 1 = 0 ∧ f (rep 1 1) 3 5 = 0 ∧
     f (rep 1 1) 8 8 % 2 ^ 16 = 0 ∧ f (rep 1 1) 16 8 % 2 ^ 16 = 0 ∧ f (rep 1 1) 8 8 + f (rep 1 1) 16 8 ≤ 2 ^ 48 ∧
     f (rep 1 2) 2 1 = 2 ∧ overlaps 0x30000 1 (f (rep 1 1) 8 8) (f (rep 1 1) 16 8) = true) := by decide +kernel

/-- AdminPageResults: an invalidation that is accepted and one of nothing; a ring registered, removed and reset; a page
pinned and recorded at its home. -/
theorem wit_admin_pages :
    (let s := sAdm []
     let f (p : BitVec 512) : Nat → Nat → Nat := (admPkt p).field
     let two (k n a va len : Nat) := adm k (leBytes 2 n ++ leBytes 6 a ++ leBytes 8 va ++ leBytes 8 len)
     let inv := two 0x44 1 0 0x30000 0x10000
     let w (ring op : Nat) := adm 0x46 (leBytes 2 1 ++ leBytes 1 ring ++ leBytes 1 op ++ leBytes 4 16 ++ leBytes 8 0x31000 ++
       leBytes 8 0x30100)
     let c (op : Nat) := adm 0x46 (leBytes 2 1 ++ leBytes 1 1 ++ leBytes 1 op)
     let pin := two 0x47 1 0 0x30000 0x10000
     let pages := rangePages s 1 3 0x30000 0x40000
     CanonMem s ∧ packetOk (admPkt inv) 24 = true ∧ f inv 2 6 = 0 ∧ f inv 8 8 = 0x30000 ∧ f inv 16 8 = 0x10000 ∧
     pinnedWithin s 1 0x30000 0x10000 = false ∧ f (two 0x44 1 0 0x30000 0) 16 8 = 0 ∧
     packetOk (admPkt (w 63 0)) 24 = true ∧ f (w 63 0) 2 1 = 63 ∧ f (w 63 0) 3 1 = 0 ∧ f (w 63 3) 3 1 = 3 ∧
     f (w 63 0) 4 4 = 16 ∧ f (w 63 0) 8 8 = 0x31000 ∧ f (w 63 0) 16 8 = 0x30100 ∧ ringOf s 1 63 = none ∧
     ringHere s 1 0x31000 1024 false = true ∧ ringHere s 1 0x30100 64 true = true ∧ ringOf s 1 1 = some (ring0 none) ∧
     commandTurn (takeCommand inv s) (commandOf s inv) = true ∧ f (c 1) 4 4 = 0 ∧ f (c 1) 16 8 = 0 ∧ f (c 1) 8 8 < 2 ^ 48 ∧
     f (c 1) 3 1 = 1 ∧ f (c 2) 3 1 = 2 ∧ (ring0 none).current = none ∧
     f pin 2 1 = 0 ∧ f pin 3 5 = 0 ∧ pages = [(0x30000, 0x10000)] ∧ pagesWithin pages 0x30000 0x10000 = true ∧
     pagesMapped s 1 pages = true ∧ pagesMapped s 1 (rangePages s 1 3 0x50000 0x60000) = false ∧
     frozenWithin s 1 pages = false ∧ pagesLocal s 1 pages = true ∧ (leafOf s 1 0x30000).isSome = true ∧
     (match (walk s 1 0x30000 pairMaster).1 with
       | .leaf e => e.remote == none
       | _ => false) = true ∧ ((leafOf s 1 0x30000).any fun l => isLocal l.2.2) = true ∧
     ringOf { s with ctxs := [(1, cxRing [] { ring0 none with halted := true })] } 1 1 = some { ring0 none with halted := true }) := by
  unfold CanonMem; decide +kernel

/-- AdminPageResults: a home's command in flight, a context with a posted record, workers, and a running pair. -/
theorem wit_admin_rest :
    (let o := opOf 1 (.ownerCmd 9 1)
     let s := { sAdm [] with ops := [o], adminCmds := [⟨9, adm 0x4B [], .issued⟩] }
     s.adminCmds.find? (fun c => c.index == 9) = some ⟨9, adm 0x4B [], .issued⟩ ∧ s.op? 1 = some o ∧ (s.context? 1).isSome = true ∧ s.queues.get? 3 = some queue0 ∧ 2 ∉ s.sys.workersOut ∧
     s.sys.boot = .ready ∧ (2 : Nat) ∈ ({ s.sys with workersOut := [2] } : Machine.System).workersOut) := by decide +kernel

/-- SystemEventResults: a frozen device and one that runs; an open mailbox; a device in FATAL; reads and writes of CXL.mem
that the table allows and denies; windows; thermal steps at both ends of the clock and of the 100 µs. -/
theorem wit_system :
    (let s := sPage
     let y (g : Machine.System) : State := { s with sys := g }
     let m := y { s.sys with boot := .waitImage, ide := true }
     let win : Machine.System := { s.sys with windows := [(0, ⟨0, 0x300000, 0x200000⟩)], requesters := [(7, 0x160)] }
     CanonMem s ∧ s.sys.frozen = false ∧ (y { s.sys with frozen := true }).sys.frozen = true ∧ mailboxOpen m = true ∧
     mailboxOpen s = false ∧ m.sys.boot = .waitImage ∧ bootCheck m = 1 ∧ s.sys.boot ≠ .waitImage ∧
     (y { s.sys with boot := .running }).sys.boot = .running ∧ (2 ^ 24 - 1) + ([1] : List Byte).length ≤ 2 ^ 24 ∧
     (y { s.sys with boot := .fatal }).sys.boot = .fatal ∧ 0x300000 % 64 = 0 ∧ 0x300000 + 64 ≤ lpddrBytes ∧
     granBusy s 0x300000 64 = false ∧ lpddrAllowed s 0x151 0x300000 64 true false = true ∧
     lpddrAllowed (y { s.sys with access := [] }) 0x151 0x300000 64 true false = false ∧
     lpddrAllowed (y { s.sys with access := [] }) 0x151 0x300000 64 false true = false ∧
     lpddrAllowed s 0x151 0x300000 64 false true = true ∧ readFault s.sys 0x300000 64 = none ∧ s.revs = [] ∧ s.copies = [] ∧
     s.sys.requesters.get? 7 = none ∧ (y win).sys.requesters.get? 7 = some 0x160 ∧
     windowEntry (y win) 0x1FFFC0 64 = some ⟨0, 0x300000, 0x200000⟩ ∧ windowEntry (y win) 0x1FFFC1 64 = none ∧
     lpddrAllowed (y win) 0x160 0x4FFFC0 64 true false = true ∧ granBusy (y win) 0x4FFFC0 64 = false ∧
     readFault (y win).sys 0x4FFFC0 64 = none ∧ windowOk s 1 0 0x200000 7 0x160 = false ∧
     stepDue s = true ∧ 9 < s.sys.clock ∧ (y { s.sys with clock := 17 }).sys.clock < 18 ∧
     stepDue (y { s.sys with steppedU := some 0 }) = false ∧
     stepDue { y { s.sys with steppedU := some 0 } with timeU := 100 * microU } = true) := by
  unfold CanonMem; decide +kernel

/-- SystemEventResults: a storage window over a page of 2 MiB that is pinned and host-visible. -/
theorem wit_window :
    (let s := { State.reset with
                ctxs := [(1, cx1)]
                mem := [(0x20000, 0x01), (0x20001, 0x10), (0x20002, 0x02), (0x21000, 0x01), (0x21001, 0x20), (0x21002, 0x02),
                        (0x22000, 0x02), (0x22002, 0x40), (0x22005, 0xCC)] }
     windowOk s 0 0x400000 0x200000 7 0x160 = true) := by decide +kernel

/-! ### The bundle, the step and the encoding -/

/-- Words of two bundles: NOP alone; then an ADD of the scalar unit and a NOP. -/
def imem0 : FMap SlotWord :=
  [(0, 0b1_100_000000_0000000000000000000000), (1, 0b0_000_000000_00011_000001_000010_00000),
   (2, 0b1_100_000000_0000000000000000000000)]

/-- Core 0 at a program counter of those bundles, whose turn it is. -/
def sFetch (pc : Nat) : State :=
  { onCore { coreWith { regs 5 7 with pc := pc } with imem := imem0 } with turn := [0] }

/-- ResultFrame: a bundle outside a loop, in one, and at its close with two passes left and with one; the loops with and
without predicates. -/
theorem wit_frame :
    (let e (l : Bool) : LoopEntry := ⟨1, 4, 7, l, 3, 0⟩
     let s (pc lc : Nat) (l : Bool) := st { pc := pc, loops := [e l], lc := [(1, BitVec.ofNat 32 lc)] }
     Alone (st {}) ∧ (st {}).ctx.loops = [] ∧ Alone (s 6 2 true) ∧ (s 6 2 true).ctx.pc ≠ (e true).close ∧
     (s 7 2 true).ctx.pc = (e true).close ∧ 1 < ((s 7 2 true).ctx.lc.getD (e true).lc 0).toNat ∧
     ((s 7 1 false).ctx.lc.getD (e false).lc 0).toNat ≤ 1 ∧ (e true).loops = true ∧ (e false).loops = false) := by
  unfold Alone; decide +kernel

/-- StepRunsDecoded: an event that is due, a word that decodes, an event of the engines, no turn, a core that is idle, a
bundle of one slot, and one of two, whose slots check and act. -/
theorem wit_step :
    (let a := { State.reset with agenda := [(0, .nop)] }
     let c := (sFetch 0).coreAt 0
     let w : SlotWord := 0b1_100_000000_0000000000000000000000
     clockStopped a = false ∧ c.ctx.pc < 65536 ∧ c.imem.get? c.ctx.pc = some w ∧ w.getLsbD 31 = true ∧
     (decodeSlot w.toNat).toOption = some .nop ∧ Instr.nop.isLimm = false ∧ Instr.nop.isRepeat = false ∧
     immInRange none .nop = true ∧ bundleRules (atClose c.ctx) [.nop] = none ∧ clockStopped (sFetch 0) = false ∧
     (sFetch 0).agenda = [] ∧ engineNext (sFetch 0) = none ∧ (sFetch 0).turn = [0] ∧
     engineNext { sFetch 0 with cores := [(0, c), (1, {})], ops := [opOf 3 (.walk 1 0x30000 0)] } = some (.pageWalkComplete 3) ∧
     engineNext { sFetch 0 with turn := [] } = none ∧ (sFetch 0).sys.boot ≠ .init ∧ ((sFetch 0).coreAt 5).mode ≠ .running ∧
     c.mode = .running ∧ (c.ctx.rep.map RepState.adv).getD false = false ∧ c.ctx.fmts.any (·.count == 0) = false ∧
     c.stopReq = none ∧ c.bubble = 0 ∧ c.fences = [] ∧ c.ctx.pushes = [] ∧
     (decodeBundle (atClose c.ctx) (imemWords c c.ctx.pc 8)).toOption = some [.nop]) := by decide +kernel

/-- StepRunsDecoded: a bundle of two slots. -/
theorem wit_step_two :
    (let c := (sFetch 1).coreAt 0
     let is : List Instr := [.add 3 (.g 1) (.g 2), .nop]
     let p (x : Phase) : State := { sFetch 1 with cur := 0, iss := { phase := x, words := fetchLen c } }
     let ran (o : Host.Outcome State Fault Refusal) : Bool := match o with
       | .next _ => true
       | _ => false
     (decodeBundle (atClose c.ctx) (imemWords c c.ctx.pc 8)).toOption = some is ∧ ran (runSlots 0 is (p .check)) = true ∧
     ran (runSlots 0 is (p .commit)) = true) := by decide +kernel

/-- EncodeDecodes and DecodeEncodes: a well-formed instruction, and a word that decodes. -/
theorem wit_encoding :
    (Instr.addi 3 (.g 1) 5).wf = true ∧ (decodeSlot 0b1_100_000000_0000000000000000000000).toOption = some .nop := by decide +kernel

/-! ### Words of the encoding -/

/-- Every word of a list decodes to the instruction beside it. -/
def decodesTo (xs : List (Nat × Instr)) : Bool := xs.all fun x =>
  match decodeSlot x.1 with
  | .ok i => i == x.2
  | .error _ => false

/-- The words that the spec writes out in 02_bundles, 04_memory_model, 05_scalar and 06_sequencer. -/
theorem test_spec_words_core : decodesTo
    [(0x50000030, .limm 0x30), (0x060A06A0, .addi 5 (.g 0) 0x6A0),
     (0x10062401, .vadd 3 (.v 4) (.vq 0) .i8 .keepA), (0xC0C94000, .br 1 2 true false),
     (0xC2D00000, .fence .die), (0xC2E00000, .fence .pod),
     (0xC3000000, .fenceLite), (0xC3580000, .fenceHeavy .pkg),
     (0x8A5441A0, .spcast 10 (.g 8) (.g 13) .peer), (0xE00A30E2, .talloc 5 (.g 6) (.g 7) .tile .i16),
     (0xC2118440, .loops 1 (.g 6) 4 2), (0xC243FFC0, .wait 0 15 15 15),
     (0xC2A00000, .sync 2), (0xE1C00000, .yield),
     (0xE2000000, .endTask), (0xC0400010, .prep 0 16),
     (0xC1400000, .call 0), (0xC1C10600, .loop 0 (.g 4) 6),
     (0x890A1018, .ld 5 (.g 2) (.g 0) .b64 false), (0xC1D18100, .loop 1 (.g 6) 1),
     (0xC1800000, .ret)] = true := by decide +kernel

/-- The words that the spec writes out in 07_vector to 10_copy. -/
theorem test_spec_words_engines : decodesTo
    [(0x0B000840, .setvf (.g 1) (.g 2)), (0x980A0810, .vcensus 5 (.v 1) .i32 .all),
     (0x94C60800, .vcvt 3 (.v 1) (.g 0) .i8 .all), (0x968C1800, .vrsum 6 (.v 3) .i8 .all),
     (0x0B807011, .mts (.g 14) .vf), (0x1A52400A, .vfn 9 (.v 8) 0 .i16 .zero),
     (0xC1C54100, .loop 0 (.g 21) 1), (0x1A565028, .vfn 11 (.v 10) 1 .i16 .all),
     (0x1A648850, .vfn 18 (.v 17) 2 .i32 .all), (0x0AC01860, .setmf (.g 3) (.g 3)),
     (0xA2000101, .mzero 0 1 1), (0x50400814, .rept 2 .hold .add .add .hold),
     (0xA0000A0B, .mma 0 10 11), (0xA1400C00, .mout 0 12 0),
     (0xA2400000, .mcens 0), (0xB1820A35, .atom 0 (.g 4) (.g 5) (.g 6) .cas),
     (0xB1E3900C, .signal 1 (.g 7) (.g 8) true .pod), (0x06160005, .addi 11 (.g 0) 5),
     (0xB0441250, .copyg 0 (.g 8) (.g 9) (.g 10)), (0xC27FC3C0, .wait 15 15 0 15),
     (0xC27FFC00, .wait 15 15 15 0), (0xB1259869, .saeq 1 (.g 11) (.g 12) (.g 13) .sadd)] = true := by decide +kernel

/-- The words that the spec writes out in 06_sequencer and 11_translation to 15_fabric. -/
theorem test_spec_words_tasks : decodesTo
    [(0x8A862000, .xlt 3 (.g 4) false), (0x8A862001, .xlt 3 (.g 4) true),
     (0xB2020A00, .pgreq 0 (.g 4) (.g 5) false), (0xB2020A01, .pgreq 0 (.g 4) (.g 5) true),
     (0xB2420A30, .migr 0 (.g 4) (.g 5) (.g 6)), (0x801248A0, .add 9 (.g 9) (.g 5)),
     (0xE2806000, .pipew (.g 12) 0), (0xE2803001, .pipew (.g 6) 1),
     (0xE2C60000, .piper 3 0), (0xE2C80001, .piper 4 1),
     (0xE3000000, .publish), (0xE10A4800, .spawn 5 (.g 9)),
     (0xE3405800, .rvset (.g 11) (.g 0) false), (0xE164D800, .fork 18 (.g 27)),
     (0xE1B29800, .join 25 (.g 19)), (0x07C30000, .lih 1 0x10000),
     (0xC050001A, .prep 2 26), (0xC1C3CD00, .loop 0 (.g 15) 13),
     (0xC0DA4000, .br 3 4 true false), (0xB2810000, .cgld 0 (.g 2) (.g 0) false),
     (0x89D2501B, .stRel 9 (.g 10) (.g 0) .b64 .pkg), (0x89A0701C, .ldAcq 16 (.g 14) (.g 0) .b64 .pod),
     (0x9B020220, .vopt .lion 1 (.g 4)), (0xC0000000, .nop)] = true := by decide +kernel

/-- Words of the scalar unit: arithmetic and immediates (Table 2-7). -/
theorem test_words_scalar1 : decodesTo
    [(0b1_000_000000_00111_100000_101111_00000, .add 7 (.q 0) (.q 15)),
     (0b1_000_000001_01110_011111_000001_00000, .sub 14 (.g 31) (.g 1)),
     (0b1_000_000010_10101_110111_110111_00000, .and 21 (.tx 7) (.tx 7)),
     (0b1_000_000011_11100_111010_010001_00000, .or 28 (.lc 2) (.g 17)),
     (0b1_000_000100_00011_101111_100000_00000, .xor 3 (.q 15) (.q 0)),
     (0b1_000_000101_01010_010001_111010_00000, .andn 10 (.g 17) (.lc 2)),
     (0b1_000_000110_10001_110000_110000_00000, .shl 17 (.tx 0) (.tx 0)),
     (0b1_000_000111_11000_000001_011111_00000, .shr 24 (.g 1) (.g 31)),
     (0b1_000_001000_11111_100000_101111_00000, .sar 31 (.q 0) (.q 15)),
     (0b1_000_001001_00110_011111_000001_00000, .mul 6 (.g 31) (.g 1)),
     (0b1_000_001010_01101_110111_110111_00000, .mulh 13 (.tx 7) (.tx 7)),
     (0b1_000_001011_10100_111010_010001_00000, .mulhu 20 (.lc 2) (.g 17)),
     (0b1_000_001100_11011_101111_100000_00000, .div 27 (.q 15) (.q 0)),
     (0b1_000_001101_00010_010001_111010_00000, .divu 2 (.g 17) (.lc 2)),
     (0b1_000_001110_01001_110000_110000_00000, .rem 9 (.tx 0) (.tx 0)),
     (0b1_000_001111_10000_000001_011111_00000, .remu 16 (.g 1) (.g 31)),
     (0b1_000_010000_10111_100000_101111_00000, .min 23 (.q 0) (.q 15)),
     (0b1_000_010001_11110_011111_000001_00000, .max 30 (.g 31) (.g 1)),
     (0b1_000_010010_00101_110111_110111_00000, .minu 5 (.tx 7) (.tx 7)),
     (0b1_000_010011_01100_111010_010001_00000, .maxu 12 (.lc 2) (.g 17)),
     (0b1_000_010100_10011_101111_000000_00000, .clz 19 (.q 15)),
     (0b1_000_010101_11010_010001_000000_00000, .cls 26 (.g 17)),
     (0b1_000_010110_00001_110000_000000_00000, .popc 1 (.tx 0)),
     (0b1_000_010111_00011_000001_000010_00001, .ext 3 (.g 1) (.g 2) true),
     (0b1_000_011000_01000_000001_11111100111, .addi 8 (.g 1) 2023),
     (0b1_000_011001_01111_100000_11111100110, .andi 15 (.q 0) 2022),
     (0b1_000_011010_10110_011111_11111100101, .ori 22 (.g 31) 2021),
     (0b1_000_011011_11101_110111_11111100100, .xori 29 (.tx 7) 2020),
     (0b1_000_011100_00100_111010_00000001101, .shli 4 (.lc 2) 13),
     (0b1_000_011101_01011_101111_00000010010, .shri 11 (.q 15) 18),
     (0b1_000_011110_10010_010001_00000010111, .sari 18 (.g 17) 23),
     (0b1_000_011111_01001_11111111111111111, .lih 9 0x1ffff)] = true := by decide +kernel

/-- Words of the scalar unit: predicates, memory, pointers and tiles (Table 2-7). -/
theorem test_words_scalar2 : decodesTo
    [(0b1_000_100000_01111_000001_100011_00101, .cmp 15 (.g 1) (.q 3) .geu),
     (0b1_000_100001_00111_000100_01010000000, .cmpi 7 (.g 4) .lt 0x80),
     (0b1_000_100010_00110_000001_000010_11001, .sel 6 (.g 1) (.g 2) true 9),
     (0b1_000_100011_00001_000010_001111_00011, .plog 1 2 15 .andn),
     (0b1_000_100100_00100_000001_000010_01100, .ld 4 (.g 1) (.g 2) .b16 true),
     (0b1_000_100101_00100_000001_000010_11000, .st 4 (.g 1) (.g 2) .b64),
     (0b1_000_100110_00100_000001_000010_10011, .ldAcq 4 (.g 1) (.g 2) .b32 .pkg),
     (0b1_000_100111_00100_000001_000010_00101, .stRel 4 (.g 1) (.g 2) .b8 .sys),
     (0b1_000_101000_01000_111001_000000_00000, .spcq 8 (.lc 1)),
     (0b1_000_101001_01000_000101_000110_00010, .spcast 8 (.g 5) (.g 6) .handle),
     (0b1_000_101010_00111_000101_000000_00001, .xlt 7 (.g 5) true),
     (0b1_000_101011_00000_000101_000110_00000, .setmf (.g 5) (.g 6)),
     (0b1_000_101100_00000_000101_100110_00000, .setvf (.g 5) (.q 6)),
     (0b1_000_101111_00000_000101_100110_00000, .chk (.g 5) (.q 6)),
     (0b1_000_110000_00010_000101_000000_00111, .tinfo 2 (.g 5) .owner),
     (0b1_000_110001_00000_000101_000110_00000, .tsets (.g 5) (.g 6)),
     (0b1_000_110010_00010_000101_000110_00000, .rng 2 (.g 5) (.g 6))] = true := by decide +kernel

/-- Words of lane operations and reductions (Table 2-8). -/
theorem test_words_vector1 : decodesTo
    [(0b1_001_000000_00101_100000_101111_001_01, .vadd 5 (.vq 0) (.vq 15) .n8 .keepA),
     (0b1_001_000001_01010_011111_100111_010_10, .vsub 10 (.v 31) (.vq 7) .i16 .zero),
     (0b1_001_000010_01111_101111_100000_011_00, .vadds 15 (.vq 15) (.vq 0) .n16 .all),
     (0b1_001_000011_10100_001000_101111_100_01, .vsubs 20 (.v 8) (.vq 15) .i32 .keepA),
     (0b1_001_000100_11001_100111_100111_101_10, .vmul 25 (.vq 7) (.vq 7) .n32 .zero),
     (0b1_001_000101_11110_000001_100000_110_00, .vmulhr 30 (.v 1) (.vq 0) .i4 .all),
     (0b1_001_000110_00011_100000_101111_111_01, .vmin 3 (.vq 0) (.vq 15) .n4 .keepA),
     (0b1_001_000111_01000_011111_100111_000_10, .vmax 8 (.v 31) (.vq 7) .i8 .zero),
     (0b1_001_001010_01101_101111_100000_001_00, .vand 13 (.vq 15) (.vq 0) .n8 .all),
     (0b1_001_001011_10010_001000_101111_010_01, .vor 18 (.v 8) (.vq 15) .i16 .keepA),
     (0b1_001_001100_10111_100111_100111_011_10, .vxor 23 (.vq 7) (.vq 7) .n16 .zero),
     (0b1_001_001101_11100_000001_100000_100_00, .vshl 28 (.v 1) (.vq 0) .i32 .all),
     (0b1_001_001110_00001_100000_101111_101_01, .vshr 1 (.vq 0) (.vq 15) .n32 .keepA),
     (0b1_001_001111_00110_011111_100111_110_10, .vsar 6 (.v 31) (.vq 7) .i4 .zero),
     (0b1_001_001000_01011_101111_000000_111_00, .vabs 11 (.vq 15) .n4 .all),
     (0b1_001_001001_10000_001000_000000_000_01, .vneg 16 (.v 8) .i8 .keepA),
     (0b1_001_011101_10101_100111_000000_001_10, .vscan 21 (.vq 7) .n8 .zero),
     (0b1_001_011111_11010_000001_000000_010_00, .vcls 26 (.v 1) .i16 .all),
     (0b1_001_011010_11111_100000_000000_011_01, .vrsum 31 (.vq 0) .n16 .keepA),
     (0b1_001_011011_00100_011111_000000_100_10, .vrmax 4 (.v 31) .i32 .zero),
     (0b1_001_011100_01001_101111_000000_101_00, .vrmin 9 (.vq 15) .n32 .all),
     (0b1_001_100000_01110_001000_000000_110_01, .vcensus 14 (.v 8) .i4 .keepA),
     (0b1_001_010000_10011_100111_100001_111_10, .vshli 19 (.vq 7) 33 .n4 .zero),
     (0b1_001_010001_11000_000001_100001_000_00, .vsari 24 (.v 1) 33 .i8 .all)] = true := by decide +kernel

/-- Words of the other vector operations (Table 2-8, 07_vector, 08_function). -/
theorem test_words_vector2 : decodesTo
    [(0b1_001_010010_00001_000010_000011_010_01, .vrshr 1 (.v 2) (.g 3) .i16 .keepA),
     (0b1_001_010011_00001_000010_100011_001_10, .vcvt 1 (.v 2) (.q 3) .n8 .zero),
     (0b1_001_010100_00001_000010_100011_100_11, .vcmp 1 (.v 2) (.vq 3) .i32 .ge),
     (0b1_001_010101_00001_000010_000011_110_00, .vsel 1 (.v 2) (.v 3) .i4),
     (0b1_001_010110_00001_000010_000000_101_10, .vbcast 1 (.g 2) .n32 .zero),
     (0b1_001_010111_00001_000010_000011_111_00, .vextr 1 (.v 2) (.g 3) .n4),
     (0b1_001_011000_00001_000010_000011_000_01, .vperm 1 (.v 2) (.v 3) .i8 .keepA),
     (0b1_001_011001_00001_000010_111011_010_00, .vslide 1 (.v 2) (.lc 3) .i16 .all),
     (0b1_001_011110_00001_000010_000011_011_10, .vdot 1 (.v 2) (.v 3) .n16 .zero),
     (0b1_001_100001_11111_11111111_000001_000, .vld 31 (.tile 255 false) (.g 1)),
     (0b1_001_100001_11111_00000000_000001_011, .vld 31 (.generic true) (.g 1)),
     (0b1_001_100010_00010_00000111_100001_001, .vst 2 (.tile 7 true) (.q 1)),
     (0b1_001_100010_00010_00000000_100001_010, .vst 2 (.generic false) (.q 1)),
     (0b1_001_100011_00011_00001001_100010_001, .vldx 3 9 (.vq 2) true),
     (0b1_001_100100_00011_00001001_000010_000, .vstx 3 9 (.v 2) false),
     (0b1_001_100101_00000_001001_000000_010_00, .mpush (.v 9) .i16),
     (0b1_001_100110_00000_000000_000000_000_00, .minv),
     (0b1_001_100111_00000_000000_000000_000_00, .mpop),
     (0b1_001_101000_00101_000000_000000_001_00, .mget 5 .n8),
     (0b1_001_101001_00101_000110_001101_101_01, .vfn 5 (.v 6) 13 .n32 .keepA),
     (0b1_001_101010_01000_00000000_000100_010, .vfnld 0 .generic (.g 4)),
     (0b1_001_101010_01111_01001101_000100_000, .vfnld 7 (.tile 77) (.g 4)),
     (0b1_001_101011_00101_000110_100001_111_10, .vdiv 5 (.v 6) (.vq 1) .n4 .zero),
     (0b1_001_101100_00001_11001000_000100_000, .vopt .lion 200 (.g 4)),
     (0b1_001_101101_00000_000110_100001_000_00, .vchk (.v 6) (.vq 1)),
     (0b1_001_101110_11110_000000_000000_000_00, .vres 30)] = true := by decide +kernel

/-- Words of the matrix engine (Table 2-9; k8 as 09_matrix says). -/
theorem test_words_matrix : decodesTo
    [(0b1_010_000000_111111_00000001_11111111, .mma 63 1 255),
     (0b1_010_000001_000001_00000010_00000011, .mmaz 1 2 3),
     (0b1_010_000010_000100_00000101_00000110, .mmat 4 5 6),
     (0b1_010_000011_000111_00001000_00001001, .mmbt 7 8 9),
     (0b1_010_000100_001010_00001011_00111111, .mmac 10 11 63),
     (0b1_010_000101_001100_00001101_00101000, .mout 12 13 40),
     (0b1_010_000110_001110_00001111_11011000, .mload 14 15 0xd8),
     (0b1_010_000111_010000_00010001_00101000, .madd 16 17 0x28),
     (0b1_010_001000_010010_01111111_01000000, .mzero 18 127 64),
     (0b1_010_001001_010011_00000000_00000000, .mcens 19),
     (0b1_010_001010_010100_00010101_00000001, .mbias 20 21 true)] = true := by decide +kernel

/-- Words of the copy slots (Tables 2-10 and 10-4). -/
theorem test_words_copies : decodesTo
    [(0b1_011_000000_1_000111_101000_110011_100, .copy 1 (.g 7) (.q 8) (.tx 3) .trans4),
     (0b1_011_000000_0_000111_101000_110011_001, .copy 0 (.g 7) (.q 8) (.tx 3) .fill),
     (0b1_011_000001_0_000111_101000_110011_000, .copyg 0 (.g 7) (.q 8) (.tx 3)),
     (0b1_011_000010_1_000111_101000_110011_000, .copys 1 (.g 7) (.q 8) (.tx 3)),
     (0b1_011_000011_0_000111_101000_110011_010, .copyr 0 (.g 7) (.q 8) (.tx 3) .max),
     (0b1_011_000100_0_000111_101000_110011_001, .saeq 0 (.g 7) (.q 8) (.tx 3) .sadd),
     (0b1_011_000101_1_000111_101000_110011_100, .saef 1 (.g 7) (.q 8) (.tx 3) .set),
     (0b1_011_000111_1_000111_101000_000000_011, .signal 1 (.g 7) (.q 8) false .pkg),
     (0b1_011_001000_0_000111_101000_000000_001, .pgreq 0 (.g 7) (.q 8) true),
     (0b1_011_001001_1_000111_101000_110011_000, .migr 1 (.g 7) (.q 8) (.tx 3)),
     (0b1_011_001010_0_000000_101000_000000_001, .cgld 0 (.g 0) (.q 8) true)] = true := by decide +kernel

/-- Words of control slots (Tables 2-5 and 2-11). -/
theorem test_words_control : decodesTo
    [(0b1_100_000001_101_1000000000000000001, .prep 5 0x40001),
     (0b1_100_000010_110_100010_0000000000000, .prepr 6 (.q 2)),
     (0b1_100_000011_001_1111_1_0_0000000000000, .br 1 15 true false),
     (0b1_100_000011_111_0000_0_1_0000000000000, .br 7 0 false true),
     (0b1_100_000100_011_0000000000000000000, .bru 3),
     (0b1_100_000111_10_001001_111111_00000000, .loop 2 (.g 9) 63),
     (0b1_100_001000_11_001001_000000_111_00000, .loops 3 (.g 9) 0 7),
     (0b1_100_001001_0001_0010_0100_1000_000000, .wait 1 2 4 8),
     (0b1_100_001010_11_00000000000000000000, .sync 3),
     (0b1_100_001011_001_0000000000000000000, .fence .gang),
     (0b1_100_001101_101_0000000000000000000, .fenceHeavy .sys),
     (0b1_100_001110_000000_1011111011101111, .brk 0xBEEF)] = true := by decide +kernel

/-- Words of task slots (Table 2-13). -/
theorem test_words_tasks : decodesTo
    [(0b1_110_000000_00101_000110_000111_01101, .talloc 5 (.g 6) (.g 7) .ring .n32),
     (0b1_110_000001_00000_000110_000000_00000, .tfree (.g 6)),
     (0b1_110_000010_00000_000110_000111_00000, .tlink (.g 6) (.g 7)),
     (0b1_110_000011_01001_000000_000000_00100, .tid 9 .pool),
     (0b1_110_000100_01001_000110_000000_00000, .spawn 9 (.g 6)),
     (0b1_110_000101_01001_000110_000000_00000, .fork 9 (.g 6)),
     (0b1_110_000110_01001_000110_000000_00000, .join 9 (.g 6)),
     (0b1_110_001001_00000_11010101111001101, .trap 0x1ABCD),
     (0b1_110_001010_00000_000110_000000_01111, .pipew (.g 6) 15),
     (0b1_110_001011_01001_000000_000000_01110, .piper 9 14),
     (0b1_110_001101_00000_000000_000111_00001, .rvset (.g 0) (.g 7) true)] = true := by decide +kernel

/-- The numbers of the system registers, read by MFS (Table 5-4). -/
theorem test_words_registers : decodesTo
    [(0b1_000_101101_00011_000000_00000000000, .mfs 3 .core), (0b1_000_101101_00011_000000_00000000001, .mfs 3 .die),
     (0b1_000_101101_00011_000000_00000000010, .mfs 3 .accid), (0b1_000_101101_00011_000000_00000000011, .mfs 3 .asid),
     (0b1_000_101101_00011_000000_00000010000, .mfs 3 .mf), (0b1_000_101101_00011_000000_00000010001, .mfs 3 .vf),
     (0b1_000_101101_00011_000000_00000100000, .mfs 3 .hb), (0b1_000_101101_00011_000000_00000100001, .mfs 3 .hl),
     (0b1_000_101101_00011_000000_00000100010, .mfs 3 .ho), (0b1_000_101101_00011_000000_00000110000, .mfs 3 .rseed),
     (0b1_000_101101_00011_000000_00000110001, .mfs 3 .rstep), (0b1_000_101101_00011_000000_00001000000, .mfs 3 (.cstat 0)),
     (0b1_000_101101_00011_000000_00001000001, .mfs 3 (.cstat 1)), (0b1_000_101101_00011_000000_00001010000, .mfs 3 .fltrec),
     (0b1_000_101101_00011_000000_00001100000, .mfs 3 .satf), (0b1_000_101101_00011_000000_00001110000, .mfs 3 .cyc),
     (0b1_000_101101_00011_000000_00001110001, .mfs 3 .nbun), (0b1_000_101101_00011_000000_00010000000, .mfs 3 (.wa 0)),
     (0b1_000_101101_00011_000000_00010001111, .mfs 3 (.wa 15)), (0b1_000_101101_00011_000000_00010010000, .mfs 3 (.mo 0)),
     (0b1_000_101101_00011_000000_00010010011, .mfs 3 (.mo 3)), (0b1_000_101101_00011_000000_00010010100, .mfs 3 (.mi 0)),
     (0b1_000_101101_00011_000000_00010010111, .mfs 3 (.mi 3)), (0b1_000_101101_00011_000000_00010100000, .mfs 3 (.optc 0)),
     (0b1_000_101101_00011_000000_00010100111, .mfs 3 (.optc 7)), (0b1_000_101101_00011_000000_00010110000, .mfs 3 .rmasklo),
     (0b1_000_101101_00011_000000_00011000000, .mfs 3 (.lc 0)), (0b1_000_101101_00011_000000_00011000011, .mfs 3 (.lc 3)),
     (0b1_000_101101_00011_000000_00011001000, .mfs 3 .pred)] = true := by decide +kernel

/-! ### Refused terms and words -/

/-- One ill-formed term for each check of `Instr.wf`: a 64-bit sign-extending load, SPCAST.local with b, an always-taken
branch with a predicate, with a negation, VBCAST that keeps a, VPERM and VFN of nibbles, VDOT of 32-bit lanes, shifts of 41
and −41, CGLD and RVSET that clear with a, and an event. -/
theorem test_ill_formed :
    ([.ld 1 (.g 1) (.g 2) .b64 true, .spcast 1 (.g 1) (.g 2) .toLocal, .br 1 2 false true, .br 1 0 true true,
      .vbcast 1 (.g 1) .i8 .keepA, .vperm 1 (.v 1) (.v 2) .i4 .all, .vfn 1 (.v 1) 0 .n4 .all, .vdot 1 (.v 1) (.v 2) .i32 .all,
      .vdot 1 (.v 1) (.v 2) .n32 .all, .mload 1 2 41, .mload 1 2 0xD7, .madd 1 2 41, .madd 1 2 0xD7, .cgld 0 (.g 1) (.g 2) true,
      .rvset (.g 1) (.g 2) true, .fwFatal, .kick 0 0] : List Instr).all (fun i => !i.wf) = true := by decide +kernel

/-- The same terms with the field as it must be. -/
theorem test_well_formed :
    ([.ld 1 (.g 1) (.g 2) .b64 false, .spcast 1 (.g 1) (.g 0) .toLocal, .br 1 0 false true, .br 1 2 true false,
      .vbcast 1 (.g 1) .i8 .zero, .vperm 1 (.v 1) (.v 2) .i8 .all, .vfn 1 (.v 1) 0 .n8 .all, .vdot 1 (.v 1) (.v 2) .i16 .all,
      .mload 1 2 40, .mload 1 2 0xD8, .madd 1 2 40, .madd 1 2 0xD8, .cgld 0 (.g 0) (.g 2) true, .rvset (.g 0) (.g 2) true] :
      List Instr).all (fun i => i.wf) = true := by decide +kernel

/-- A word is refused with ILLEGAL_SLOT. -/
def refusedSlot (w : Nat) : Bool := match decodeSlot w with
  | .error .slot => true
  | _ => false

/-- ILLEGAL_SLOT (02_bundles R37): the reserved class, a reserved opcode of each class, unused fields that are not zero,
reserved mask and addressing modes, conditions, sizes, scopes, selectors and kinds. -/
theorem test_illegal_slot :
    ([0b1_111_000000_0000000000000000000000, 0b1_000_110011_00000_000000_000000_00000, 0b1_001_101111_00000_000000_000000_000_00,
     0b1_010_001011_000000_00000000_00000000, 0b1_011_001011_0_000000_000000_000000_000, 0b1_100_001111_0000000000000000000000,
     0b1_101_000010_0000000000000000000000, 0b1_110_001110_00000_000000_000000_00000,
     0b1_000_000000_00001_000001_000010_00001, 0b1_000_101111_00001_000001_000010_00000, 0b1_000_010100_00001_000001_000001_00000,
     0b1_001_000000_00001_000001_000010_000_11, 0b1_001_100001_00001_00000000_000001_100, 0b1_001_100001_00001_00000001_000001_010,
     0b1_000_100000_00010_000001_000010_00110, 0b1_000_100000_10010_000001_000010_00000, 0b1_000_100100_00001_000001_000010_00001,
     0b1_000_100110_00001_000001_000010_00110, 0b1_000_101001_00001_000001_000010_00011, 0b1_000_110000_00001_000001_000000_01000,
     0b1_100_001011_110_0000000000000000000, 0b1_100_000111_00_000001_000001_001_00000, 0b1_101_000001_000000000001_01_00000000,
     0b1_101_000001_000000000001_00_00000011, 0b1_011_000000_0_000001_000010_000011_101, 0b1_011_000111_0_000001_000010_000010_000] :
      List Nat).all refusedSlot = true := by decide +kernel

/-- ILLEGAL_OPERAND (R34, R37): a reserved source of each kind, and a number that names no system register. -/
theorem test_illegal_operand :
    ([0b1_000_000000_00001_111100_000000_00000, 0b1_001_000000_00001_110000_000000_000_00, 0b1_000_101101_00001_000000_00000000100] :
      List Nat).all (fun w => match decodeSlot w with
        | .error .operand => true
        | _ => false) = true := by decide +kernel

/-- The bundle of some words, each without its stop bit but the last. -/
def bundleOf (ws : List Nat) : Except BundleErr (List Instr) := decodeBundle false ws

/-- The bundle of 02_bundles' worked example, two copy slots of one channel (R30), a REPEAT with no acceptor (R41), a
bundle without a stop bit (R29), and an immediate of 64 for SHLI (R114). -/
theorem test_bundles :
    (bundleOf [0x50000030, 0x060A06A0, 0x10062401, 0xC0C94000]).toOption =
      some [.limm 0x30, .addi 5 (.g 0) 0x6A0, .vadd 3 (.v 4) (.vq 0) .i8 .keepA, .br 1 2 true false] ∧
    (bundleOf [0x30441250, 0xB0441250]).toOption = none ∧ (bundleOf [0x50400814, 0xC0000000]).toOption = none ∧
    (bundleOf (List.replicate 8 0x40000000)).toOption = none ∧
    (bundleOf [0b1_000_011100_00001_000001_00001000000]).toOption = none := by decide +kernel

/-! ### Single steps -/

/-- The last push of the executing core after an instruction that stands alone: its remaining count, value and flags. -/
def pushed (i : Instr) (s : State) : Option (Nat × Word × BitVec 6) :=
  match exec i s with
  | .next t => t.ctx.pushes.getLast?.map fun p => (p.count, p.sval, p.satf)
  | _ => none

/-- Some lanes of the last vector push after an instruction that stands alone. -/
def lanes (i : Instr) (w n : Nat) (s : State) : Option (List Nat) :=
  match exec i s with
  | .next t => t.ctx.pushes.getLast?.map fun p => (List.range n).map (laneOf w p.vval)
  | _ => none

/-- What holds of the state after an instruction. -/
def after (i : Instr) (s : State) (f : State → Bool) : Bool :=
  match exec i s with
  | .next t => f t
  | _ => false

/-- A state with two scalar registers. -/
def two (x y : Word) : State := st (regs x y)

/-- A register with some lanes of a width. -/
def ofLanes (w : Nat) (xs : List Nat) : VWord :=
  BitVec.ofNat 2048 ((List.range xs.length).map (fun k => (xs.getD k 0 % 2 ^ w) <<< (w * k))).sum

/-- ADD and SUB wrap (R109). -/
theorem test_add_sub : (pushed (.add 3 (.g 1) (.g 2)) (two (-1) 2)).map (·.2.1) = some 1 ∧
    (pushed (.sub 3 (.g 1) (.g 2)) (two 0 1)).map (·.2.1) = some (-1) := by decide +kernel

/-- The logical operations; shifts by 65 are shifts by 1, and SAR fills with bit 63 (R109). -/
theorem test_logic_shift : (pushed (.and 3 (.g 1) (.g 2)) (two 12 10)).map (·.2.1) = some 8 ∧
    (pushed (.or 3 (.g 1) (.g 2)) (two 12 10)).map (·.2.1) = some 14 ∧
    (pushed (.xor 3 (.g 1) (.g 2)) (two 12 10)).map (·.2.1) = some 6 ∧
    (pushed (.andn 3 (.g 1) (.g 2)) (two 12 10)).map (·.2.1) = some 4 ∧
    (pushed (.shl 3 (.g 1) (.g 2)) (two 3 65)).map (·.2.1) = some 6 ∧
    (pushed (.shr 3 (.g 1) (.g 2)) (two (-2) 65)).map (·.2.1) = some 0x7FFFFFFFFFFFFFFF ∧
    (pushed (.sar 3 (.g 1) (.g 2)) (two (-4) 65)).map (·.2.1) = some (-2) := by decide +kernel

/-- Signed and unsigned smaller and larger (R109). -/
theorem test_min_max : (pushed (.min 3 (.g 1) (.g 2)) (two (-1) 1)).map (·.2.1) = some (-1) ∧
    (pushed (.max 3 (.g 1) (.g 2)) (two (-1) 1)).map (·.2.1) = some 1 ∧
    (pushed (.minu 3 (.g 1) (.g 2)) (two (-1) 1)).map (·.2.1) = some 1 ∧
    (pushed (.maxu 3 (.g 1) (.g 2)) (two (-1) 1)).map (·.2.1) = some (-1) := by decide +kernel

/-- −1 × 2: the low word, the high word signed and unsigned; the push has two cycles to run after the boundary (R110). -/
theorem test_mul : pushed (.mul 3 (.g 1) (.g 2)) (two (-1) 2) = some (2, -2, 0) ∧
    pushed (.mulh 3 (.g 1) (.g 2)) (two (-1) 2) = some (2, -1, 0) ∧
    pushed (.mulhu 3 (.g 1) (.g 2)) (two (-1) 2) = some (2, 1, 0) := by decide +kernel

/-- −7 / 2 truncates toward zero and the remainder takes the sign of the dividend; −2^63 / −1 wraps (R111). -/
theorem test_div : pushed (.div 3 (.g 1) (.g 2)) (two (-7) 2) = some (17, -3, 0) ∧
    pushed (.rem 3 (.g 1) (.g 2)) (two (-7) 2) = some (17, -1, 0) ∧
    pushed (.div 3 (.g 1) (.g 2)) (two 0x8000000000000000 (-1)) = some (17, 0x8000000000000000, 0) ∧
    (pushed (.divu 3 (.g 1) (.g 2)) (two (-7) 2)).map (·.2.1) = some 0x7FFFFFFFFFFFFFFC ∧
    (pushed (.remu 3 (.g 1) (.g 2)) (two (-7) 2)).map (·.2.1) = some 1 := by decide +kernel

/-- A zero divisor gives the largest value of the dividend's sign and sets SATF.DIV (R111, Table 3-6). -/
theorem test_div_zero : (pushed (.div 3 (.g 1) (.g 2)) (two (-7) 0)).map (·.2.1) = some 0x8000000000000000 ∧
    (pushed (.divu 3 (.g 1) (.g 2)) (two 7 0)).map (·.2.1) = some (-1) ∧
    (pushed (.remu 3 (.g 1) (.g 2)) (two 7 0)).map (·.2.1) = some 0 ∧
    (pushed (.div 3 (.g 1) (.g 2)) (two 7 0)).map (·.2.2) ≠ some 0 := by decide +kernel

/-- Bit counts of 1 and of −1, and a field of 8 bits at bit 4 (R112, R113). -/
theorem test_bits : (pushed (.clz 3 (.g 1)) (two 1 0)).map (·.2.1) = some 63 ∧
    (pushed (.cls 3 (.g 1)) (two (-1) 0)).map (·.2.1) = some 63 ∧
    (pushed (.popc 3 (.g 1)) (two (-1) 0)).map (·.2.1) = some 64 ∧
    (pushed (.ext 3 (.g 1) (.g 2) false) (two 0xFA5 0x804)).map (·.2.1) = some 0xFA ∧
    (pushed (.ext 3 (.g 1) (.g 2) true) (two 0xFA5 0x804)).map (·.2.1) = some (-6) := by decide +kernel

/-- Immediates are sign-extended, and LIH places its 17 bits at bit 47 (R114, R115). -/
theorem test_immediates : (pushed (.addi 3 (.g 1) 0x7FF) (two 5 0)).map (·.2.1) = some 4 ∧
    (pushed (.andi 3 (.g 1) 0x7FE) (two 0xFF 0)).map (·.2.1) = some 0xFE ∧
    (pushed (.sari 3 (.g 1) 4) (two (-32) 0)).map (·.2.1) = some (-2) ∧
    (pushed (.lih 3 0x10000) (two 0 0)).map (·.2.1) = some 0x8000000000000000 := by decide +kernel

/-- CMP, CMPI and PLOG write predicates, and SEL reads them (R116 to R118). -/
theorem test_predicates : after (.cmp 2 (.g 1) (.g 2) .lt) (two (-1) 1) (fun t => t.ctx.p == 4) = true ∧
    after (.cmp 2 (.g 1) (.g 2) .ltu) (two (-1) 1) (fun t => t.ctx.p == 0) = true ∧
    after (.cmpi 3 (.g 1) .eq 0xFF) (two (-1) 1) (fun t => t.ctx.p == 8) = true ∧
    after (.plog 5 1 1 .xnor) (two 0 0) (fun t => t.ctx.p == 32) = true ∧
    (pushed (.sel 3 (.g 1) (.g 2) true 4) (two 6 7)).map (·.2.1) = some 6 ∧
    (pushed (.sel 3 (.g 1) (.g 2) false 4) (two 6 7)).map (·.2.1) = some 7 := by decide +kernel

/-- The pointers of 05_scalar's worked example on core 70 (R123, R124): HANDLE 30, SPCQ of it, PEER to package 0x013. -/
theorem test_pointers :
    (let s (x y : Word) : State := { two x y with cur := 70, cores := [(70, coreWith (regs x y))], tasks := [{ task1 with cores := [70] }] }
     (pushed (.spcast 3 (.g 1) (.g 2) .handle) (s 30 0x100)).map (·.2.1) = some 0x9461E00000000100 ∧
     (pushed (.spcq 3 (.g 1)) (s 0x9461E00000000100 0)).map (·.2.1) = some 0x1E39 ∧
     (pushed (.spcast 3 (.g 1) (.g 2) .peer) (s 0x9461E00000000100 0x013)).map (·.2.1) = some 0xB04D187800000100) := by
  decide +kernel

/-- CHK raises SHADOW_MISMATCH: the task stops (R128); equal values pass. -/
theorem test_chk : after (.chk (.g 1) (.g 2)) (two 1 2) (fun t => t.core.mode != .running || t.core.stopReq.isSome) = true ∧
    after (.chk (.g 1) (.g 2)) (two 2 2) (fun t => t.core.mode == .running && t.ctx.pc == 1) = true := by decide +kernel

/-- RNG with keys that cancel is mix64(0) = 0 (R71, R129). -/
theorem test_rng : (pushed (.rng 3 (.g 1) (.g 2)) (two 0 0)).map (·.2.1) = some 0 := by decide +kernel

/-- VADD wraps, VADDS clamps and sets SATF.VEC; VABS and VNEG of −128 clamp (R180, R183). -/
theorem test_vector_saturation :
    (let s := st (vregs (ofLanes 8 [127, 0x80, 5]) (ofLanes 8 [1, 0xFF, 7]))
     lanes (.vadd 3 (.v 1) (.v 2) .i8 .all) 8 3 s = some [0x80, 0x7F, 12] ∧
     lanes (.vadds 3 (.v 1) (.v 2) .i8 .all) 8 3 s = some [127, 0x80, 12] ∧
     (pushed (.vadds 3 (.v 1) (.v 2) .i8 .all) s).map (·.2.2) = some 1 ∧
     lanes (.vabs 3 (.v 1) .i8 .all) 8 3 s = some [127, 127, 5] ∧ lanes (.vneg 3 (.v 2) .n8 .all) 8 3 s = some [0, 0, 0]) := by
  decide +kernel

/-- Lanes shift by their own counts; a count of the width or more gives 0, or the sign (R183). -/
theorem test_vector_shift :
    (let s := st (vregs (ofLanes 16 [3, 0x8000, 0x8000]) (ofLanes 16 [1, 16, 15]))
     lanes (.vshl 3 (.v 1) (.v 2) .i16 .all) 16 3 s = some [6, 0, 0] ∧
     lanes (.vshr 3 (.v 1) (.v 2) .i16 .all) 16 3 s = some [1, 0, 1] ∧
     lanes (.vsar 3 (.v 1) (.v 2) .i16 .all) 16 3 s = some [1, 0xFFFF, 0xFFFF]) := by decide +kernel

/-- The first step of 07_vector's worked example: the census of its I32 lanes is 12 = 31 − 19, since 300,000 needs 19
bits (R190). -/
theorem test_census :
    (pushed (.vcensus 5 (.v 1) .i32 .all) (st (vregs (ofLanes 32 [300000, 2 ^ 32 - 70000, 12, 2 ^ 32 - 5]) 0))).map (·.2.1) =
      some 12 := by decide +kernel

/-- Comparisons, permutations, slides and reductions (R187 to R190). -/
theorem test_lanes :
    (let s := st (vregs (ofLanes 32 [7, 2 ^ 32 - 1, 3]) (ofLanes 32 [2, 0, 1]))
     lanes (.vcmp 3 (.v 1) (.v 2) .i32 .lt) 32 3 s = some [0, 2 ^ 32 - 1, 0] ∧
     lanes (.vperm 3 (.v 1) (.v 2) .i32 .all) 32 3 s = some [3, 7, 2 ^ 32 - 1] ∧
     lanes (.vslide 3 (.v 1) (.g 0) .i32 .all) 32 3 s = some [7, 2 ^ 32 - 1, 3] ∧
     (pushed (.vrsum 3 (.v 1) .i32 .all) s).map (·.2.1) = some 9 ∧ (pushed (.vrmin 3 (.v 1) .i32 .all) s).map (·.2.1) = some (-1) ∧
     (pushed (.vextr 3 (.v 1) (.g 0) .i32) s).map (·.2.1) = some 7) := by decide +kernel

/-- LOOP of one pass more pushes an entry; BRK, TRAP and END stop (R148, R155 to R158). -/
theorem test_control :
    after (.loop 1 (.g 1) 6) (two 2 0) (fun t => t.ctx.loops.length == 1 && t.ctx.pc == 1) = true ∧
    after .endTask (two 0 0) (fun t => t.core.mode != .running) = true ∧
    after (.brk 7) (two 0 0) (fun t => t.core.mode != .running || t.core.stopReq.isSome) = true ∧
    after (.prep 2 0x7FFFF) (st { pc := 5 }) (fun t => t.ctx.bt.get? 2 == some 4) = true := by decide +kernel

/-- MZERO gives an accumulator its shape when it starts; TSETS writes the exponent of a tile (R137, R231). -/
theorem test_tiles :
    after (.mzero 3 2 2) (two 0 0) (fun t => t.ops.length == 1) = true ∧
    after (.tsets (.g 1) (.g 2)) (sMem (regs 3 (-4))) (fun t => (t.tileOfReg 3).map (fun x => x.2.exp) == some (-4)) = true := by
  decide +kernel

/-- The reset value of an accumulator state word, from Table 9-1's reset column: COLS and ROWS 127, FREE 1, CENSUS 39; and
the END record of a save area (R217; 06_sequencer R168). -/
theorem test_save_words :
    accStateWord {} = 127 * 2 ^ 24 + 127 * 2 ^ 17 + 2 ^ 9 + 39 * 2 ^ 3 ∧
    recordPart 0xFF 0 0 0 [] = 0xFF#8 :: List.replicate 63 0#8 := by decide +kernel


/-! ### The clauses on values, frames and denials -/

/-- SystemRegisterResults, VectorReductionResults, VectorWideResults: a context; a mask with lanes and one without; codes that
the substitution takes; a conversion that shifts by the census; a conversion of no active lane. -/
theorem wit_values :
    (let s := st (vregs 0x7F01 0x0203)
     s.context? (s.asidAt s.cur) = some cx1 ∧ fmtSubst s.ctx.vf ≠ .fault ∧
     ((List.range (laneCount 8)).filter fun l => activeLane .all s.ctx.maskTop 8 l) ≠ []) ∧
    (let s := st { vregs 0x7F01 0x0203 with mask := [0], vf := 0x100#64 }
     ((List.range (laneCount 8)).filter fun l => activeLane .zero s.ctx.maskTop 8 l) = []) ∧
    (let f : Word := 0x40
     let s := st { vregs 0x7F01 0x0203 with vf := f }
     let t := st { vregs 0x7F01 0x0203 with vf := f, mask := [0] }
     fmtAuto f = true ∧ Alone s ∧ needVV s (.v 1) (.v 2) = .ok ∧
     checkCvt s .all .i4 (s.rv (.v 1)) 0 = .ok ∧ checkCvt t .zero .i4 (t.rv (.v 1)) 0 = .ok) := by
  unfold Alone; decide +kernel

/-- FunctionStarts: the run of a table; IndexedMemoryResults: a lane whose offset is misaligned and one whose offset is
outside the tile. -/
theorem wit_ranges :
    (let s := onCore (coreT 16 64 .i8 (regs 64 5))
     vfRuns s (.tile 3) (s.rs (.g 1)) = [⟨.here (tileKey 0 64), 832⟩]) ∧
    (let s := sMem { vregs (0x401#2048 <<< 32) 7 with g := [] }
     let z := sMem { vregs (1024#2048 <<< 32) 7 with g := [] }
     laneOf 32 (s.rv (.v 1)) 0 % 4 = 0 ∧ laneOf 32 (s.rv (.v 1)) 1 % 4 ≠ 0 ∧ laneOf 32 (z.rv (.v 1)) 1 % 4 = 0 ∧
     tileBytes (tl 16 64 0 .i8 4) < laneOf 32 (z.rv (.v 1)) 1 + 4 ∧ needV s (.v 1) = .ok) := by decide +kernel

/-- MatrixStarts: a later repetition of a run; FarStarts: a request of pages that are there. -/
theorem wit_starts :
    (let s := onCore (coreWith { rep := some ⟨[.add, .sub, .hold, .hold], 2, 0, 1, 0, false⟩ })
     (s.ctx.rep.map RepState.issued).getD 0 ≠ 0 ∧ RoomFor s (matrixNeed s)) ∧
    (let s := onCore (coreWith {})
     ∀ x ∈ requestPages s (s.asidAt s.cur) 0x100000 4096 false, x.2.2 ≠ .missing) := by
  unfold RoomFor; decide +kernel

/-- BranchResults: a target in the body of the top loop, and one outside every body. -/
theorem wit_branch_loops :
    (let c : Ctx := { bt := [(1, 7), (2, 20)], loops := [⟨0, 5, 9, false, 1, 0⟩, ⟨1, 4, 12, false, 1, 0⟩] }
     ((∃ r, c.loops = ⟨0, 5, 9, false, 1, 0⟩ :: r) ∧ 5 ≤ c.bt.getD 1 0 ∧ c.bt.getD 1 0 ≤ 9) ∧
     ∀ e ∈ c.loops, (c.bt.getD 2 0 < e.first ∨ e.close < c.bt.getD 2 0) ∧ e.retDepth = c.ret.length) := by
  exact ⟨⟨⟨_, rfl⟩, by decide, by decide⟩, by decide⟩

/-- ResultFrame: a loop that closes, and one whose close address a callee meets. -/
theorem wit_close :
    (let c : Ctx := { pc := 9, loops := [⟨0, 5, 9, true, 1, 0⟩] }
     c.pc = 9 ∧ c.ret.length = 0 ∧ ({ c with ret := [(3, 0)] } : Ctx).ret.length ≠ 0) := by decide +kernel

/-- TaskResults: a child whose merge has stopped; PipeResults: a publication whose add has failed; a fork whose record is
being read. -/
theorem wit_task_faults :
    (let s := { st (regs 9 0) with revs := [(7, ⟨1, 0, 9, 1, 1, .live, some [0x300], 4, some .revisionPool⟩)] }
     (childRev s 9).isSome = true ∧ mergeStuck s s.core.task = some .revisionPool ∧
     recordBefore s s.core.task s.nextOp = false) ∧
    (let s := { onCore { coreWith {} with pubDone := some (some .remoteError) } with
                ctxs := [(1, { cx1 with pubcnt := 0x8000000000005000 })] }
     pubcntNow s ≠ 0 ∧ s.core.pubDone = some (some .remoteError) ∧ forkReading s = false ∧
     releaseReady s s.cur .sys s.nextBundle s.nextOp = true) := by decide +kernel

/-- CoreEventResults: addresses of the heap, of a LOCAL, a REMOTE and a non-resident page, of one without write permission,
and of none. -/
theorem wit_xlt :
    (let x (n : Nat) (va : Word) (w : Bool) := opOf n (.xlt n va w)
     let s := { onCore (coreWith {}) with
                mem := tables, ops := [x 1 0x100000 true, x 2 0x30000 true, x 3 0x40000 false, x 4 0x50000 false, x 5 0x70000 false] }
     CanonMem s ∧ (∀ n ∈ [1, 2, 3, 4, 5], (s.op? n).isSome = true) ∧ spaceOk 0x100000 1 = true ∧ tagOf 0x100000 = 0 ∧
     inHeap cx1 0x100000 1 = true ∧ inHeap cx1 0x30000 1 = false ∧
     (match engineWalk s 0 1 0x30000 with
       | .leaf e => e.remote.isNone && e.rd && e.w && e.vrd && e.vw && decide (e.size < 3)
       | _ => false) = true ∧
     (match engineWalk s 0 1 0x40000 with
       | .leaf e => e.remote == some 2
       | _ => false) = true ∧
     (match engineWalk s 0 1 0x50000 with
       | .nonResident _ _ rd _ => rd
       | _ => false) = true ∧
     (match engineWalk s 0 1 0x70000 with
       | .failed c => c == .translation
       | _ => false) = true) := by
  unfold CanonMem; decide +kernel

/-- AccessEventResults: a controller that allows and one that denies; a store to a view's own copy. -/
theorem wit_access_denied :
    (let s := { sMem {} with ops := [opOf 1 (.load loadOp), opOf 2 (.store storeOp)] }
     let z := { s with sys := { s.sys with access := [] } }
     coreAllowed s 0 (ringKey 0 0) 8 true false = true ∧ coreAllowed z 0 0x300000 8 true false = false ∧
     coreAllowed s 0 (ringKey 0 0) 2 false true = true ∧ coreAllowed z 0 0x300000 2 false true = false ∧
     loadReady z (opOf 1 (.load { loadOp with runs := [⟨.here 0x300000, 8⟩] })) [⟨.here 0x300000, 8⟩] = true ∧
     storeReady z (opOf 2 (.store { storeOp with place := .here 0x300000 })) { storeOp with place := .here 0x300000 } 0x300000 = true ∧
     s.viewFault (s.viewAt 0) (ringKey 0 0) 8 = none ∧
     ({ s with sys := { s.sys with poison := [ringKey 0 0 / 64] } } : State).viewFault 0 (ringKey 0 0) 8 = some .poison) ∧
    (let w := { storeOp with place := .here (0x300000), rel := none }
     let s := { sMem {} with
                revs := [(7, ⟨1, 0, 9, 1, 1, .live, none, 0, none⟩)], ops := [{ opOf 1 (.store w) with view := 7 }]
                copies := [⟨1, 0x300, .ancestor 0 [7] true⟩, ⟨2, 0x300, .private_ 7⟩] }
     (∀ g ∈ granules4k 0x300000 2, copiesNeeded s 7 g = []) ∧ 0x300000 % 4096 + 2 ≤ 4096 ∧
     storeReady s { opOf 1 (.store w) with view := 7 } w 0x300000 = true) := by decide +kernel


/-! ### The clauses on results of the engines -/

/-- StopAndSaveEventResults: a member whose core is another's now, to be restored on core 1, whose tile there keeps its bytes. -/
theorem wit_restore_elsewhere :
    (let v : Saved := ⟨0, 0, 0, { hmap := [(3, 0)] }, false, none⟩
     let k : Task := { task1 with saved := [v], state := .stopped }
     let s := { onCore {} with
                mem := [(tileKey 0 0, 0xAB)], tasks := [k]
                cores := [(0, { tiles := [(0, { tl 16 64 0 .i8 3 with owner := 0 })] }), (1, { mode := .restoring, task := 1 })] }
     CanonMem s ∧ s.taskAt 1 = some k ∧ (s.coreAt 1).mode = .restoring ∧ k.doomed = false ∧ serviceHolds s 1 = false ∧
     (match restoreCode s k with
       | .asks _ _ => true
       | _ => false) = false ∧ (k.saved.map Saved.core).Nodup ∧ (restoreTask k s).isSome = true ∧
     (k.saved.map fun v => coreFor s k.id v.member).Nodup ∧ coreFor s 1 0 = some 1 ∧ v.core ≠ 1 ∧
     v.ctx.hmap.get? 3 = some 0 ∧ ((s.coreAt 0).tiles.get? 0).isSome = true ∧ memberEntries k v = [0]) ∧
    (let s := { onCore (coreWith {}) with ops := [opOf 1 (.publish false)] }
     (coresWith s 1).any (publishing s) = true ∧ (s.coreAt 0).mode = .running) := by
  unfold CanonMem; decide +kernel

/-- MatrixEventResults: a product, a load, a bias and an MMAC that have started; an MOUT of an accumulator whose exponent
fits the tile's field, and one whose exponent does not. -/
theorem wit_matrix_results :
    (let m (i : Instr) : MtxOp := { mtxOp i with started := some 0 }
     let acc (e : Int) : Ctx := { acc := [(0, { elems := [(0, 5)], done := { free := false, rows := 16, cols := 16, exp := e } })] }
     let s (e : Int) (i : Instr) : State :=
       let z := onCore (coreT 16 16 .i8 (acc e))
       { z with
         ops := [opOf 1 (.matrix (m i))]
         cores := [(0, { z.coreAt 0 with tiles := [(0, { tl 16 16 0 .i8 4 with expPending := some 1 }), (1, tl 16 16 64 .i8 3)] })] }
     let o := m (.mout 0 3 8)
     (∀ i ∈ [Instr.mmat 0 3 4, .mmac 0 4 1, .mload 0 3 8, .mbias 0 3 true, .mzero 0 0 0, .mout 0 3 8],
       (s 0 i).op? 1 = some (opOf 1 (.matrix (m i))) ∧ (∀ p ∈ matrixOps (s 0 i) 0, 1 ≤ p.1.id) ∧ (s 0 i).coreOf 1 0 = some 0) ∧
     CanonMem (s 0 o.instr) ∧ o.ra + o.m ≤ 16 ∧ o.ca + o.n ≤ 16 ∧ 0 < o.m ∧ 0 < o.n ∧ o.whole = true ∧ o.lastRep = true ∧
     (((s 0 o.instr).coreAt 0).tiles.get? 0).map TileEntry.expPending = some (some 1) ∧
     (∀ e ∈ [63, 64], (((s e o.instr).coreAt 0).ctx.accAt 0).done.free = false ∧ o.shift = 0 ∧ fmtAuto o.mf = false ∧
       (((s e o.instr).coreAt 0).ctx.accAt 0).done.exp + o.shift = e)) := by
  unfold CanonMem; decide +kernel

/-- A core with tiles of bytes at 3 and 4 and one of 32-bit indices at 5, whose first index is 1 and the others all ones. -/
def sIndex (k : OpKind) : State :=
  let s := onCore (coreT 16 64 .i8 {})
  { s with
    ops := [opOf 1 k]
    mem := (tileKey 0 16384, 7) :: (tileKey 0 32768, 1) :: (List.range 28).map fun j => (tileKey 0 (32772 + j), 0xFF)
    cores := [(0, { s.coreAt 0 with tiles := [(0, tl 16 64 0 .i8 4), (1, tl 16 64 64 .i8 3), (2, tl 16 16 128 .i32 5)] })] }

/-- CopyEventResults: a row whose granule is bad; a plain and a transposed copy of two rows, a reduction of two rows. -/
theorem wit_copy_rows :
    (let z := shapeOf (64 * 2 ^ 46 + 64 * 2 ^ 28 + 1 * 2 ^ 16 + 8)
     let kd := tileKey 0 0
     let ks := tileKey 0 16384
     let c (a : CopyAct) : OpKind := .copy { copyOp with shape := 64 * 2 ^ 46 + 64 * 2 ^ 28 + 1 * 2 ^ 16 + 8, act := a }
     let s := sIndex (c (.copy .plain 0))
     let bad := { s with sys := { s.sys with badEcc := [ks / 64] } }
     CanonMem s ∧ z.rows = 2 ∧ z.rlen = 8 ∧ z.dstr = 64 ∧ z.sstr = 64 ∧ kd = tileByteKey 0 (tl 16 64 0 .i8 4) 0 ∧
     ks = tileByteKey 0 (tl 16 64 64 .i8 3) 0 ∧
     overlaps kd ((z.rows - 1) * z.dstr + z.rlen) ks ((z.rows - 1) * z.sstr + z.rlen) = false ∧
     hardFault bad 0 [⟨.here ks, z.rlen⟩] = some .eccUe ∧ z.rlen / 2 ≤ 4 ∧ z.rows * 2 ≤ z.dstr ∧ z.rlen / 1 ≤ 8 ∧
     z.rows * 1 ≤ z.dstr ∧ (∀ k, k < z.rows → (0 + k * z.dstr) * 8 % 8 = 0) ∧
     (∀ a ∈ [CopyAct.copy .plain 0, .copy .trans1 0, .copy .trans2 0, .reduce .add],
       (match (c a) with
         | .copy x => copyReady (sIndex (c a)) (opOf 1 (c a)) x
         | _ => false) = true)) := by
  unfold CanonMem; decide +kernel

/-- CopyEventResults: COPYG, COPYS, SAEQ and SAEF of two indices, the second of them all ones. -/
theorem wit_copy_indexed :
    (let w : Word := 64 * 2 ^ 28 + 1 * 2 ^ 16 + 8
     let g := gatherOf w
     let c (a : CopyAct) : CopyOp := { copyOp with act := a, shape := w, idx := some (2, 0) }
     let s (a : CopyAct) : State := sIndex (.copy (c a))
     let e := tl 16 16 128 .i32 5
     let d := tl 16 64 0 .i8 4
     let X (j : Nat) : Nat := memCode (s .gather) 0 e j
     let at_ (h : Nat) : Word := tileAddr h 0 + BitVec.ofNat 64 (X 0 * g.str)
     let v := { s .gather with cur := 0 }
     let o := opOf 1 (.copy (c .gather))
     let kr (h : Nat) : Nat := tileKey 0 ((h - 3) * 16384 + 64)
     g.count = 2 ∧ g.rlen = 8 ∧ g.str = 64 ∧ X 0 = 1 ∧ X 1 = 0xFFFFFFFF ∧ e.ty.width = 32 ∧
     (∀ h ∈ [3, 4], tagOf (at_ h).toNat = 0x9 ∧ checkAccess v true false 1 (at_ h) g.rlen = .ok ∧
       checkAccess v false true 1 (at_ h) g.rlen = .ok ∧
       sideRuns v o (sideOf v (at_ h) (accessRuns v (at_ h) g.rlen)) 0 g.rlen = [⟨.here (kr h), g.rlen⟩]) ∧
     overlaps (tileKey 0 0) (g.count * g.rlen) (tileByteKey 0 e 0) (4 * g.count) = false ∧
     overlaps (tileKey 0 0) (g.count * g.rlen) (kr 4) g.rlen = false ∧
     overlaps (kr 3) g.rlen (tileKey 0 16384) (g.count * g.rlen) = false ∧ g.rlen ≤ g.str ∧ g.count ≤ 64 ∧
     X 0 * g.str * 8 % 8 = 0 ∧ ((X 0 * g.str + 8) * 8 + 7) / 8 ≤ tileBytes d ∧ X 0 * g.str + g.rlen ≤ tileBytes d ∧
     (∀ a ∈ [CopyAct.gather, .scatter, .saeRows .add, .saeElems .max],
       copyReady (s a) (opOf 1 (.copy (c a))) (c a) = true)) := by decide +kernel

/-- FarEventResults: an ATOM that has begun behind an earlier request, and one to a ring that denies it; HomeEventResults: a
peer form that the ring's stop denies, pages with a stub, without read permission and with it; RequesterEventResults: a
message that has been lost seven times. -/
theorem wit_far_and_home :
    (let a : FarOp := { kind := .atom .add true false false 1 0 0, place := .here (ringKey 0 0), scope := .sys, rel := false
                        addr := 0xA000000000000000, performed := false, old := 0, sat := false, begun := true }
     let o := opOf 4 (.far a)
     let s := { sMem {} with ops := [o] }
     let z := { s with sys := { s.sys with access := [] } }
     reachRun true s ⟨a.place, farBytes a.kind⟩ = some ⟨.here (ringKey 0 0), 8⟩ ∧
     arrivesLater { s with ops := [opOf 2 (.store storeOp), o] } o true (ringKey 0 0) 8 = true ∧
     (farFault z o a (ringKey 0 0)).isSome = true) ∧
    (let g (n : Nat) : Guard × FMap AccessEntry := (Guard.station n, [(0, ⟨true, true, 1023, 0, 2 ^ 32 - 1, 0⟩)])
     let t := { sPage with
                mem := tables.take 18 ++ [(0x23028, 0x03), (0x2302A, 0x02), (0x2302D, 0x1C), (0x23030, 0x02), (0x23032, 0x31), (0x23035, 0x08)]
                sys := { sPage.sys with access := (List.range 64).map g } }
     let o := { t with sys := { t.sys with access := t.sys.access ++ sPage.sys.access } }
     let r (va : Nat) : RemoteReq := reqOf (.page 1 va) (.read 8)
     stationAllows t (r 0x30000) = true ∧ peerAllowed t (reqOf (.peerRing 0 0) (.read 8)) = false ∧
     (match ownerLeaf o 1 0x50000, ownerLeaf o 1 0x60000, ownerLeaf o 1 0x30000, ownerLeaf o 1 0x40000 with
       | .stub _ _, .owner _ e, .owner _ f, .other => !pteBit e 42 && pteBit f 42
       | _, _, _, _ => false) = true ∧
     homeAllows o (r 0x30000) 0x300000 = true ∧ frozenMove o 1 0x30000 = none) ∧
    (let m : Nat × Instr := (2, .creditToken 0 0 .req false)
     let s (k : Nat) : State := { sPage with outbox := [m], mig := { lost := [(m, k)] } }
     (s 7).outbox[0]? = some m ∧ ((s 7).mig.lost.find? fun e => e.1 == m).map Prod.snd = some 7 ∧
     ((s 6).mig.lost.find? fun e => e.1 == m).map Prod.snd = some 6) := by decide +kernel

/-- MoveEventResults and MoveEndResults: an agent that a controller denies and one that it allows. -/
theorem wit_move_denied :
    (let x : Incoming := ⟨page4, 2, 0, 0x310000, []⟩
     let v : Move := ⟨⟨page3, 2, none⟩, 0x300000, 0, .reserving, [], 0, []⟩
     let s := { sPage with mig := { moves := [v], incoming := [x] } }
     let z := { s with sys := { s.sys with access := [] } }
     moveOf s page3 = some v ∧ v.stage = .reserving ∧ moveOf s page4 = none ∧ incomingOf s page4 = some x ∧ x.held = [] ∧
     lpddrAllowed s agentMaster v.frame (pageBytes 0) true false = true ∧
     lpddrAllowed z agentMaster v.frame (pageBytes 0) true false = false ∧
     lpddrAllowed s agentMaster x.frame 64 false true = true ∧ lpddrAllowed z agentMaster x.frame 64 false true = false ∧
     lpddrAllowed s agentMaster 0x23018 8 false true = true) := by decide +kernel

/-- TaskEventResults: a pooled record that needs no admission; an image in another package, which is asked for;
RecordEventResults: a batch that is not due, a full pool, a victim of another epoch. -/
theorem wit_task_waits :
    (let t := { imageTask 2 (.queued 0) with spec := { rec0 with image := 0x40000 } }
     let s := { withCells [] with mem := tables, tasks := [t], cores := [(0, { runq := [⟨2, 0⟩] })] }
     bestEntry s 0 = some ⟨2, 0⟩ ∧ tokenCame s t 0 = true ∧
     (match launchTask t [0] s with
       | .error none => true
       | _ => false) = true) ∧
    (let b : Batch := ⟨3, [⟨9, 1, 0, 0, 0, [0], none, none⟩], 0, false⟩
     let s := { withCells [] with batches := [b] }
     s.batches.find? (fun x => x.acc == 3) = some b ∧ batchDue s b = false ∧
     batchDue { s with timeU := 2 * microU } b = true ∧
     poolFree { s with cfg := { s.cfg with poolGib := 0 }, tasks := List.replicate 4096 (imageTask 2 .pooled) } 0 = 0) ∧
    (let x : Transit := ⟨0, 0, 0, 1, 8 * microU⟩
     let t := { task1 with id := 2, state := .queued 0, transit := some x }
     let s := { withCells [] with tasks := [t] }
     (s.dieAt (dieOf x.core)).epoch = x.epoch ∧
     ({ s with dies := [(0, { epoch := 1 })] } : State).dies ≠ s.dies ∧
     ((({ s with dies := [(0, { epoch := 1 })] } : State)).dieAt 0).epoch ≠ x.epoch) := by decide +kernel


/-- RevisionEventResults: a merge into a parent view with its own copy, one that the merge engine is denied, and one for which
the pool has no room; an element in conflict whose bit of the map is written. -/
theorem wit_merge_parent :
    (let r : Rev := ⟨1, 6, 9, 1, 1, .live, some [], 0, none⟩
     let p : Rev := ⟨1, 0, 8, 1, 2, .live, none, 0, none⟩
     let a : GranCopy := ⟨1, 0x300, .ancestor 6 [7] false⟩
     let s := { withCells [] with
                revs := [(6, p), (7, r)], ctxs := [(1, { cx1 with regions := [(0, { region0 7 with cmap := 0x31000 })] })]
                copies := [a, ⟨2, 0x300, .private_ 7⟩, ⟨3, 0x300, .private_ 6⟩, ⟨4, 0x300, .ancestor 0 [6] true⟩], ops := [opOf 2 (.merge ⟨7, 0x300⟩)] }
     s.revs.get? 7 = some r ∧ s.mig.stalled = [] ∧ regionOf s 0x300 = some (1, { region0 7 with cmap := 0x31000 }) ∧
     r.parent ≠ 7 ∧ copiesNeeded s 6 0x300 = [] ∧ (s.copies.map GranCopy.id).Nodup ∧ ancestorCopy s 7 0x300 = some a ∧
     writeKey s 6 (0x300 * 4096) = poolKey 3 0 ∧ r.todo = some [] ∧ mergingRev (s.dropOp 2) 7 = false ∧
     mergeFail s r 0x300 = none ∧
     (let z := { s with sys := { s.sys with access := [] } }
      mergeFail z r 0x300 = some .accessTable ∧ unitAllowed z 0x300 true = false) ∧
     (let z := { s with copies := [a, ⟨2, 0x300, .private_ 7⟩], cfg := { s.cfg with poolGib := 0 } }
      mergeFail z r 0x300 = some .revisionPool ∧ unitAllowed z 0x300 true = true ∧
      poolHas z (copiesNeeded z 6 0x300).length = false)) ∧
    (let s := withCells [(0x301000, 1)]
     CanonMem s ∧ readVa s (dieMaster 0) 1 0x31000 1 = some [1] ∧ (writeVa s (dieMaster 0) 1 0x31000 [3]).isSome = true ∧
     (match masterRuns s (dieMaster 0) 1 0x31000 1 false true with
       | .ok rs => rs == [⟨.here 0x301000, 1⟩]
       | .error _ => false) = true ∧
     reach true s [⟨.here 0x301000, 1⟩] = some [⟨.here 0x301000, 1⟩] ∧ copiesNeeded s 0 (0x301000 / 4096) = []) := by
  unfold CanonMem; decide +kernel

/-- RingEventResults: a control block in memory whose words a run's end writes; a store of a participant before the run was
armed; a held chunk whose op is runnable. -/
theorem wit_ring_words :
    (let w : WorkRing := { ring0 (some (entry0 (some (run0 [0])) 0)) with control := 0x30000, base := 0x31000 }
     let c : Chunk := ⟨0, 1, 2, 7, 5, 0, 1, List.replicate 64 1, []⟩
     let s := { withCells [(0x300018, 1)] with ctxs := [(1, cxRing [chunkOp 2] w)] }
     let q := 0x300018
     let late := { run0 [0] with armedAt := 3 }
     let before (s : State) : Bool := participantBefore s 1 late.armedAt (late.bases.map Prod.snd).flatten
     (match masterRuns s pairMaster 1 (w.control + 0x18) 8 false true with
       | .ok rs => rs == [⟨.here q, 8⟩]
       | .error _ => false) = true ∧
     reach true s [⟨.here q, 8⟩] = some [⟨.here q, 8⟩] ∧ (∀ g ∈ granules4k q 8, copiesNeeded s 0 g = []) ∧
     (∀ i, i < 8 → writeKey s 0 (q + i) = q + i) ∧ before s = false ∧
     before { s with ops := [opOf 1 (.store storeOp)] } = true ∧ chunkIsReady s { c with slot := 3 } = false ∧
     chunkIsReady { s with ctxs := [(1, cxRing [chunkOp 2] { w with current := some (entry0 (some (run0 [])) 0) })] } c = true) := by
  decide +kernel

/-- StationEventResults: a LOAD that its controller denies, an ADDS of poisoned bytes; PacketEventResults: a completion
record on its way to another package, a publication whose address is no address, and one whose add is not out. -/
theorem wit_op_errors :
    (let s := withCells []
     let z := { s with sys := { s.sys with access := [], poison := [seqKey 1 2 0 0 / 64] } }
     chunkFault z 0 true [⟨.here 0x300000, 64⟩] = some .accessTable ∧ readFault z.sys (seqKey 1 2 0 0) 64 ≠ none ∧
     reach false z [⟨.here 0x300000, 64⟩] = some [⟨.here 0x300000, 64⟩]) ∧
    (let f (n : Nat) (noted : Bool) : Op := opOf n (.packet ⟨0, 0, 9, true, 4, .wait, none, 0, 0, true, noted⟩)
     let q : Queue := { queue0 with started := 1, inflight := [0], cring := 0x40000 }
     let s (b : Bool) : State := { sQueue q [] with ops := [f 1 b, f 2 true] }
     let y := opOf 3 (.publish false)
     let p (a : Word) : State := { sQueue q [] with ops := [y], ctxs := [(1, { cx1 with pubcnt := a })] }
     let out (a : Word) : Option FaultCode := match pktSide (p a) 1 (((p a).context? 1).map Context.pubcnt |>.getD 0) 8 8 true true with
       | .error c => some c
       | .ok _ => none
     recordOnWay (s true) 1 0 = true ∧ recordOnWay { s true with ops := [f 1 true] } 1 0 = false ∧ (0 : Nat) ∈ q.inflight ∧
     stepAnswers { s true with ops := [f 1 true] } (.op 1) 2 = (false, none) ∧
     (out 0x8000000000005000) = none ∧ (out 0x8000000000005001).isSome = true ∧
     hasStep (p 0x8000000000005000) (.op 3) 0 = false) := by decide +kernel

/-- AdminCommandResults: a packet of a reserved KIND, a removal, a command with VA at 2^48; AdminPageResults: a pinned range
and a frozen page, a REMOTE leaf, a page that another region covers. -/
theorem wit_admin_edges :
    (let s := sAdm []
     let f (p : BitVec 512) : Nat → Nat → Nat := (admPkt p).field
     let r := adm 0x4C []
     let va (k : Nat) := adm k (leBytes 2 1 ++ leBytes 6 0 ++ leBytes 8 (2 ^ 48) ++ leBytes 8 0)
     let z := { s with mem := tables.take 14 ++ [(0x2301D, 0x2C)] ++ tables.drop 15 }
     (admPkt r).kind = 0x4C ∧ 0x4B < (admPkt r).kind ∧ commandTurn (takeCommand r s) (commandOf s r) = true ∧
     f (va 0x47) 8 8 = 2 ^ 48 ∧ f (va 0x48) 8 8 + f (va 0x48) 16 8 ≤ 2 ^ 48 ∧
     pinnedWithin s 1 0x60000 0x10000 = true ∧ serviceRoom s 1 = true ∧
     pagesMapped s 1 (rangePages s 1 3 0x60000 0x70000) = true ∧ frozenWithin s 1 [(0x30000, 0x10000)] = false ∧
     frozenWithin z 1 [(0x30000, 0x10000)] = true ∧
     otherCovers { s with ctxs := [(1, { cx1 with regions := [(0, region0 0)] })] } 1 256 0x30000 0x10000 = true ∧
     otherCovers s 1 256 0x30000 0x10000 = false) := by decide +kernel

/-- SystemEventResults: a write through a storage window that is free, and one to a granule for which the pool has no room;
StepRunsDecoded: an event that the package sent itself. -/
theorem wit_window_write :
    (let win : Machine.System := { sPage.sys with windows := [(0, ⟨0, 0x300000, 0x200000⟩)], requesters := [(7, 0x160)] }
     let s := { sPage with sys := win }
     let d : List Byte := [1, 2]
     s.sys.requesters.get? 7 = some 0x160 ∧ windowEntry s 64 d.length = some ⟨0, 0x300000, 0x200000⟩ ∧
     portFree s 0x300040 (.write d) = true ∧ lpddrAllowed s 0x160 0x300040 d.length false true = true ∧ s.revs = [] ∧
     s.copies = []) ∧
    (let r : Rev := ⟨1, 0, 9, 1, 1, .live, none, 0, none⟩
     let s := { sPage with
                revs := [(7, r)], cfg := { sPage.cfg with poolGib := 0 }
                ctxs := [(1, { cx1 with regions := [(0, region0 0)] })] }
     portFree s 0x300000 (.write (List.replicate 64 1)) = false ∧
     (let z := { s with cfg := sPage.cfg, sys := { s.sys with access := [] } }
      copiesFail z 0 (granules4k 0x300000 64) = some .accessTable)) ∧
    (let s := { State.reset with own := [(0, .rasCounterClear 0)] }
     clockStopped s = false ∧ s.agenda = [] ∧ adminWaits { s with own := [] } (.rasCounterClear 0) = false) := by decide +kernel

end Sys2Proof.Tests
end

section
/-! SUPPORT. Every well-formed instruction has exactly its slot words, and every word that decodes is one of them
(02_bundles R27, R32–R37). Both directions go through `HasSlot`: one lemma for each form or opcode says which words of the
opcode decode to an instruction, and two tables, one over the instructions and one over the opcodes, collect them. -/

namespace Sys2Proof

/-! ### What a decoder that answers has read -/

@[simp] theorem bind_eq_ok {ε α β : Type} {x : Except ε α} {f : α → Except ε β} {b : β} :
    x.bind f = .ok b ↔ ∃ a, x = .ok a ∧ f a = .ok b := by
  cases x <;> simp [Except.bind]

@[simp] theorem ite_error_eq_ok {ε α : Type} {p : Prop} [Decidable p] {x : Except ε α} {e : ε} {b : α} :
    (if p then x else .error e) = .ok b ↔ p ∧ x = .ok b := by
  split <;> simp [*]

@[simp] theorem error_ite_eq_ok {ε α : Type} {p : Prop} [Decidable p] {x : Except ε α} {e : ε} {b : α} :
    (if p then .error e else x) = .ok b ↔ ¬ p ∧ x = .ok b := by
  split <;> simp [*]

theorem ok_ite_eq_ok {ε α : Type} {p : Prop} [Decidable p] {x : Except ε α} {a b : α}
    (h : (if p then .ok a else x) = .ok b) : p ∧ a = b ∨ x = .ok b := by
  split at h
  · exact .inl ⟨‹p›, Except.ok.inj h⟩
  · exact .inr h

/-! ### Fields and the operands that they name -/

theorem fld_lt (w lo n : Nat) : fld w lo n < 2 ^ n := Nat.mod_lt _ (by positivity)

@[simp] theorem bit_eq {w lo : Nat} {b : Bool} : (fld w lo 1 == 1) = b ↔ bitOf b = fld w lo 1 := by
  have := fld_lt w lo 1
  cases b <;> simp [bitOf] <;> omega

theorem finOfNat_fld {n w lo k : Nat} [NeZero n] (h : 2 ^ k ≤ n) {x : Fin n} :
    Fin.ofNat n (fld w lo k) = x ↔ x.val = fld w lo k := by
  have := fld_lt w lo k
  rw [Fin.ext_iff, Fin.val_ofNat, Nat.mod_eq_of_lt (by omega), eq_comm]

open Fin.NatCast in
@[simp] theorem finCast_fld {n w lo k : Nat} [NeZero n] (h : 2 ^ k ≤ n) {x : Fin n} :
    (Nat.cast (fld w lo k) : Fin n) = x ↔ x.val = fld w lo k := by
  rw [← Fin.ofNat_eq_cast, finOfNat_fld h]

@[simp] theorem bitVecOfNat_fld {w lo n : Nat} {x : BitVec n} :
    BitVec.ofNat n (fld w lo n) = x ↔ x.toNat = fld w lo n := by
  rw [← BitVec.toNat_inj, BitVec.toNat_ofNat, Nat.mod_eq_of_lt (fld_lt w lo n), eq_comm]

@[simp] theorem ssrcOf_eq_ok {n : Nat} {a : SSrc} : ssrcOf n = .ok a ↔ a.code = n := by
  constructor
  · intro h
    unfold ssrcOf at h
    split_ifs at h <;> cases h <;> simp [SSrc.code, Fin.ofNat] <;> omega
  · rintro rfl
    cases a with
    | g n => revert n; decide
    | q n => revert n; decide
    | tx n => revert n; decide
    | lc n => revert n; decide

@[simp] theorem vsrcOf_eq_ok {n : Nat} {a : VSrc} : vsrcOf n = .ok a ↔ a.code = n := by
  constructor
  · intro h
    unfold vsrcOf at h
    split_ifs at h <;> cases h <;> simp [VSrc.code, Fin.ofNat] <;> omega
  · rintro rfl
    cases a with
    | v n => revert n; decide
    | vq n => revert n; decide

@[simp] theorem SysReg.ofNumber_eq_ok {n : Nat} {r : SysReg} : SysReg.ofNumber n = .ok r ↔ r.number = n := by
  constructor
  · intro h
    unfold SysReg.ofNumber at h
    repeat' (obtain ⟨hn, rfl⟩ | h := ok_ite_eq_ok h; · simp [SysReg.number, Fin.ofNat]; omega)
    cases h
  · rintro rfl
    cases r with
    | cstat n => revert n; decide
    | wa n => revert n; decide
    | mo n => revert n; decide
    | mi n => revert n; decide
    | optc n => revert n; decide
    | lc n => revert n; decide
    | _ => rfl

@[simp] theorem MaskMode.ofCode_eq_ok {n : Nat} {m : MaskMode} : MaskMode.ofCode n = .ok m ↔ m.code = n :=
  ⟨fun h => by unfold MaskMode.ofCode at h; split at h <;> cases h <;> rfl, by rintro rfl; cases m <;> rfl⟩

@[simp] theorem Cond.ofCode_eq_ok {n : Nat} {c : Cond} : Cond.ofCode n = .ok c ↔ c.code = n :=
  ⟨fun h => by unfold Cond.ofCode at h; split at h <;> cases h <;> rfl, by rintro rfl; cases c <;> rfl⟩

@[simp] theorem Scope.ofCode_eq_ok {n : Nat} {o : Scope} : Scope.ofCode n = .ok o ↔ o.code = n :=
  ⟨fun h => by unfold Scope.ofCode at h; split at h <;> cases h <;> rfl, by rintro rfl; cases o <;> rfl⟩

@[simp] theorem CastKind.ofCode_eq_ok {n : Nat} {k : CastKind} : CastKind.ofCode n = .ok k ↔ k.code = n :=
  ⟨fun h => by unfold CastKind.ofCode at h; split at h <;> cases h <;> rfl, by rintro rfl; cases k <;> rfl⟩

@[simp] theorem TinfoSel.ofCode_eq_ok {n : Nat} {f : TinfoSel} : TinfoSel.ofCode n = .ok f ↔ f.code = n :=
  ⟨fun h => by unfold TinfoSel.ofCode at h; split at h <;> cases h <;> rfl, by rintro rfl; cases f <;> rfl⟩

@[simp] theorem TidSel.ofCode_eq_ok {n : Nat} {f : TidSel} : TidSel.ofCode n = .ok f ↔ f.code = n :=
  ⟨fun h => by unfold TidSel.ofCode at h; split at h <;> cases h <;> rfl, by rintro rfl; cases f <;> rfl⟩

@[simp] theorem CopyMode.ofCode_eq_ok {n : Nat} {f : CopyMode} : CopyMode.ofCode n = .ok f ↔ f.code = n :=
  ⟨fun h => by unfold CopyMode.ofCode at h; split at h <;> cases h <;> rfl, by rintro rfl; cases f <;> rfl⟩

@[simp] theorem RedOp.ofCode_eq_ok {n : Nat} {f : RedOp} : RedOp.ofCode n = .ok f ↔ f.code = n :=
  ⟨fun h => by unfold RedOp.ofCode at h; split at h <;> cases h <;> rfl, by rintro rfl; cases f <;> rfl⟩

@[simp] theorem SaeOp.ofCode_eq_ok {n : Nat} {f : SaeOp} : SaeOp.ofCode n = .ok f ↔ f.code = n :=
  ⟨fun h => by unfold SaeOp.ofCode at h; split at h <;> cases h <;> rfl, by rintro rfl; cases f <;> rfl⟩

@[simp] theorem RepSel.ofCode_eq_ok {n : Nat} {e : RepSel} : RepSel.ofCode n = .ok e ↔ e.code = n :=
  ⟨fun h => by unfold RepSel.ofCode at h; split at h <;> cases h <;> rfl, by rintro rfl; cases e <;> rfl⟩

@[simp] theorem ElemTy.ofCode_fld {w lo : Nat} {t : ElemTy} : ElemTy.ofCode (fld w lo 3) = t ↔ t.code = fld w lo 3 := by
  have h := fld_lt w lo 3
  generalize fld w lo 3 = n at *
  exact ⟨by rintro rfl; interval_cases n <;> rfl, by rintro rfl; cases t <;> rfl⟩

@[simp] theorem VCond.ofCode_fld {w lo : Nat} {c : VCond} : VCond.ofCode (fld w lo 2) = c ↔ c.code = fld w lo 2 := by
  have h := fld_lt w lo 2
  generalize fld w lo 2 = n at *
  exact ⟨by rintro rfl; interval_cases n <;> rfl, by rintro rfl; cases c <;> rfl⟩

@[simp] theorem Size.ofCode_fld {w lo : Nat} {z : Size} : Size.ofCode (fld w lo 2) = z ↔ z.code = fld w lo 2 := by
  have h := fld_lt w lo 2
  generalize fld w lo 2 = n at *
  exact ⟨by rintro rfl; interval_cases n <;> rfl, by rintro rfl; cases z <;> rfl⟩

@[simp] theorem PlogOp.ofCode_fld {w lo : Nat} {o : PlogOp} : PlogOp.ofCode (fld w lo 3) = o ↔ o.code = fld w lo 3 := by
  have h := fld_lt w lo 3
  generalize fld w lo 3 = n at *
  exact ⟨by rintro rfl; interval_cases n <;> rfl, by rintro rfl; cases o <;> rfl⟩

@[simp] theorem AtomOp.ofCode_fld {w lo : Nat} {o : AtomOp} : AtomOp.ofCode (fld w lo 3) = o ↔ o.code = fld w lo 3 := by
  have h := fld_lt w lo 3
  generalize fld w lo 3 = n at *
  exact ⟨by rintro rfl; interval_cases n <;> rfl, by rintro rfl; cases o <;> rfl⟩

@[simp] theorem wD_eq {w : Nat} {d : Fin 32} : wD w = d ↔ d.val = fld w 17 5 := finOfNat_fld (by decide)
@[simp] theorem wP_eq {w : Nat} {p : Fin 16} : wP w = p ↔ p.val = fld w 17 4 := finOfNat_fld (by decide)
@[simp] theorem wX_eq {w : Nat} {x : Fin 64} : wX w = x ↔ x.val = fld w 16 6 := finOfNat_fld (by decide)
@[simp] theorem wB_eq {w : Nat} {b : Fin 8} : wB w = b ↔ b.val = fld w 19 3 := finOfNat_fld (by decide)
@[simp] theorem wT_eq {w : Nat} {t : ElemTy} : wT w = t ↔ t.code = fld w 2 3 := ElemTy.ofCode_fld
@[simp] theorem wH_eq {w : Nat} {h : BitVec 8} : wH w = h ↔ h.toNat = fld w 8 8 := bitVecOfNat_fld
@[simp] theorem wK_eq {w : Nat} {k : BitVec 8} : wK w = k ↔ k.toNat = fld w 0 8 := bitVecOfNat_fld

@[simp] theorem bitOf_fld (w lo : Nat) : bitOf (fld w lo 1 == 1) = fld w lo 1 := bit_eq.1 rfl

@[simp] theorem Size.code_ofCode_fld (w lo : Nat) : (Size.ofCode (fld w lo 2)).code = fld w lo 2 :=
  Size.ofCode_fld.1 rfl

@[simp] theorem wT_code (w : Nat) : (wT w).code = fld w 2 3 := wT_eq.1 rfl

@[simp] theorem wK_toNat (w : Nat) : (wK w).toNat = fld w 0 8 := wK_eq.1 rfl

/-! ### The slot words of an instruction -/

/-- The decoder of a class (02_bundles R27 Table 2-2). -/
def decodeClass (c w op : Nat) : Except DecErr Instr :=
  match c with
  | 0 => decodeScl w op
  | 1 => decodeVec w op
  | 2 => decodeMtx w op
  | 3 => decodeCpy w op
  | 4 => decodeCtl w op
  | 5 => decodePfx w op
  | 6 => decodeTsk w op
  | _ => .error .slot

theorem decodeSlot_eq (w : Nat) : decodeSlot w = decodeClass (fld w 28 3) w (fld w 22 6) := rfl

/-- An instruction has a class, an opcode and operand bits, and the words of its class and opcode that decode to it are
those with these operand bits. -/
def HasSlot (c op : Nat) (i : Instr) : Prop :=
  ∃ v < 2 ^ 22, encode i = some (head c op + v) ∧ ∀ w, decodeClass c w op = .ok i ↔ w % 2 ^ 22 = v

theorem HasSlot.intro {c op v : Nat} {i : Instr} (he : encode i = some (head c op + v)) (hv : v < 2 ^ 22)
    (hd : ∀ w, decodeClass c w op = .ok i ↔ w % 2 ^ 22 = v) : HasSlot c op i := ⟨v, hv, he, hd⟩

/-! #### The forms of classes SCL and TSK -/

/-- No operands. -/
theorem hasSlot_plain {c op : Nat} {i : Instr} (he : encode i = some (head c op))
    (hd : ∀ w, decodeClass c w op = if fld w 0 22 = 0 then .ok i else .error .slot) : HasSlot c op i :=
  .intro (v := 0) (by rw [he, Nat.add_zero]) (by norm_num) fun w => by simp [hd, fld]

theorem hasSlot_sr3 {k : Fin 32 → SSrc → SSrc → Instr} {c op : Nat} {d : Fin 32} {a b : SSrc}
    (he : encode (k d a b) = some (head c op + ops3 d.val a.code b.code 0))
    (hd : ∀ w, decodeClass c w op = sr3 k w) (hk : ∀ d' a' b', k d' a' b' = k d a b ↔ d' = d ∧ a' = a ∧ b' = b) :
    HasSlot c op (k d a b) := by
  have := a.code_lt; have := b.code_lt
  refine .intro he ?_ fun w => ?_ <;> simp [hd, sr3, hk] <;> simp only [fld, pow_zero, Nat.div_one, ops3] <;> omega

theorem hasSlot_sr2 {k : Fin 32 → SSrc → Instr} {c op : Nat} {d : Fin 32} {a : SSrc}
    (he : encode (k d a) = some (head c op + ops3 d.val a.code 0 0))
    (hd : ∀ w, decodeClass c w op = sr2 k w) (hk : ∀ d' a', k d' a' = k d a ↔ d' = d ∧ a' = a) :
    HasSlot c op (k d a) := by
  have := a.code_lt
  refine .intro he ?_ fun w => ?_ <;> simp [hd, sr2, hk] <;> simp only [fld, pow_zero, Nat.div_one, ops3] <;> omega

theorem hasSlot_srAB {k : SSrc → SSrc → Instr} {c op : Nat} {a b : SSrc}
    (he : encode (k a b) = some (head c op + ops3 0 a.code b.code 0))
    (hd : ∀ w, decodeClass c w op = srAB k w) (hk : ∀ a' b', k a' b' = k a b ↔ a' = a ∧ b' = b) :
    HasSlot c op (k a b) := by
  have := a.code_lt; have := b.code_lt
  refine .intro he ?_ fun w => ?_ <;> simp [hd, srAB, hk] <;> simp only [fld, pow_zero, Nat.div_one, ops3] <;> omega

theorem hasSlot_si {k : Fin 32 → SSrc → BitVec 11 → Instr} {c op : Nat} {d : Fin 32} {a : SSrc} {n : BitVec 11}
    (he : encode (k d a n) = some (head c op + opsI d.val a.code n.toNat))
    (hd : ∀ w, decodeClass c w op = si k w) (hk : ∀ d' a' n', k d' a' n' = k d a n ↔ d' = d ∧ a' = a ∧ n' = n) :
    HasSlot c op (k d a n) := by
  have := a.code_lt
  refine .intro he ?_ fun w => ?_ <;> simp [hd, si, hk] <;> simp only [fld, pow_zero, Nat.div_one, opsI] <;> omega

/-! #### Class SCL -/

theorem hasSlot_ext (d : Fin 32) (a b : SSrc) (s : Bool) : HasSlot 0 0x17 (.ext d a b s) := by
  have := a.code_lt; have := b.code_lt; have := bitOf_lt s
  refine .intro rfl ?_ fun w => ?_ <;> simp [decodeClass, decodeScl, srMem] <;>
    simp only [fld, pow_zero, Nat.div_one, ops3] <;> omega

theorem hasSlot_lih (d : Fin 32) (n : BitVec 17) : HasSlot 0 0x1F (.lih d n) := by
  refine .intro rfl ?_ fun w => ?_ <;> simp [decodeClass, decodeScl] <;>
    simp only [fld, pow_zero, Nat.div_one, opsI] <;> omega

theorem hasSlot_cmp (p : Fin 16) (a b : SSrc) (c : Cond) : HasSlot 0 0x20 (.cmp p a b c) := by
  have := a.code_lt; have := b.code_lt; have := c.code_lt
  refine .intro rfl ?_ fun w => ?_ <;> simp [decodeClass, decodeScl, srMem] <;>
    simp only [fld, pow_zero, Nat.div_one, ops3] <;> omega

theorem hasSlot_cmpi (p : Fin 16) (a : SSrc) (c : Cond) (n : BitVec 8) : HasSlot 0 0x21 (.cmpi p a c n) := by
  have := a.code_lt; have := c.code_lt
  refine .intro rfl ?_ fun w => ?_ <;> simp [decodeClass, decodeScl] <;>
    simp only [fld, pow_zero, Nat.div_one, opsI] <;> omega

theorem hasSlot_sel (d : Fin 32) (a b : SSrc) (neg : Bool) (p : Fin 16) : HasSlot 0 0x22 (.sel d a b neg p) := by
  have := a.code_lt; have := b.code_lt; have := bitOf_lt neg
  refine .intro rfl ?_ fun w => ?_ <;> simp [decodeClass, decodeScl, srMem] <;>
    simp only [fld, pow_zero, Nat.div_one, ops3] <;> omega

theorem hasSlot_plog (d a b : Fin 16) (o : PlogOp) : HasSlot 0 0x23 (.plog d a b o) := by
  have := o.code_lt
  refine .intro rfl ?_ fun w => ?_ <;> simp [decodeClass, decodeScl] <;>
    simp only [fld, pow_zero, Nat.div_one, ops3] <;> omega

theorem wf_ld {d : Fin 32} {a b : SSrc} {z : Size} {s : Bool} :
    (Instr.ld d a b z s).wf = true ↔ ¬ (z.code = 3 ∧ bitOf s = 1) := by
  cases z <;> cases s <;> simp [Instr.wf, Instr.isEncoded, Size.code, bitOf]

theorem hasSlot_ld {d : Fin 32} {a b : SSrc} {z : Size} {s : Bool} (h : (Instr.ld d a b z s).wf = true) :
    HasSlot 0 0x24 (.ld d a b z s) := by
  have := a.code_lt; have := b.code_lt; have := z.code_lt; have := bitOf_lt s; have := wf_ld.1 h
  refine .intro rfl ?_ fun w => ?_ <;> simp [decodeClass, decodeScl, srMem] <;>
    simp only [fld, pow_zero, Nat.div_one, ops3] <;> omega

theorem hasSlot_st (d : Fin 32) (a b : SSrc) (z : Size) : HasSlot 0 0x25 (.st d a b z) := by
  have := a.code_lt; have := b.code_lt; have := z.code_lt
  refine .intro rfl ?_ fun w => ?_ <;> simp [decodeClass, decodeScl, srMem] <;>
    simp only [fld, pow_zero, Nat.div_one, ops3] <;> omega

theorem hasSlot_ldAcq (d : Fin 32) (a b : SSrc) (z : Size) (o : Scope) : HasSlot 0 0x26 (.ldAcq d a b z o) := by
  have := a.code_lt; have := b.code_lt; have := z.code_lt; have := o.code_lt
  refine .intro rfl ?_ fun w => ?_ <;> simp [decodeClass, decodeScl, srMem] <;>
    simp only [fld, pow_zero, Nat.div_one, ops3] <;> omega

theorem hasSlot_stRel (d : Fin 32) (a b : SSrc) (z : Size) (o : Scope) : HasSlot 0 0x27 (.stRel d a b z o) := by
  have := a.code_lt; have := b.code_lt; have := z.code_lt; have := o.code_lt
  refine .intro rfl ?_ fun w => ?_ <;> simp [decodeClass, decodeScl, srMem] <;>
    simp only [fld, pow_zero, Nat.div_one, ops3] <;> omega

theorem SSrc.code_eq_zero {a : SSrc} : a.code = 0 ↔ a = .g 0 := by
  cases a <;> simp [SSrc.code]

theorem CastKind.code_eq_one {k : CastKind} : k = .toLocal ↔ k.code = 1 := by cases k <;> decide

theorem wf_spcast {d : Fin 32} {a b : SSrc} {k : CastKind} :
    (Instr.spcast d a b k).wf = true ↔ (k.code = 1 → b.code = 0) := by
  cases k <;> simp [Instr.wf, Instr.isEncoded, SSrc.code_eq_zero, CastKind.code]

theorem hasSlot_spcast {d : Fin 32} {a b : SSrc} {k : CastKind} (h : (Instr.spcast d a b k).wf = true) :
    HasSlot 0 0x29 (.spcast d a b k) := by
  have := a.code_lt; have := b.code_lt; have := k.code_lt; have := wf_spcast.1 h
  refine .intro rfl ?_ fun w => ?_ <;> simp [decodeClass, decodeScl, srMem, CastKind.code_eq_one] <;>
    simp only [fld, pow_zero, Nat.div_one, ops3] <;> omega

theorem hasSlot_xlt (x : Fin 8) (a : SSrc) (s : Bool) : HasSlot 0 0x2A (.xlt x a s) := by
  have := a.code_lt; have := bitOf_lt s
  refine .intro rfl ?_ fun w => ?_ <;> simp [decodeClass, decodeScl] <;>
    simp only [fld, pow_zero, Nat.div_one, ops3] <;> omega

theorem hasSlot_mfs (d : Fin 32) (n : SysReg) : HasSlot 0 0x2D (.mfs d n) := by
  have := n.number_lt
  refine .intro rfl ?_ fun w => ?_ <;> simp [decodeClass, decodeScl] <;>
    simp only [fld, pow_zero, Nat.div_one, opsI] <;> omega

theorem hasSlot_mts (a : SSrc) (n : SysReg) : HasSlot 0 0x2E (.mts a n) := by
  have := a.code_lt; have := n.number_lt
  refine .intro rfl ?_ fun w => ?_ <;> simp [decodeClass, decodeScl] <;>
    simp only [fld, pow_zero, Nat.div_one, opsI] <;> omega

theorem hasSlot_tinfo (d : Fin 32) (a : SSrc) (f : TinfoSel) : HasSlot 0 0x30 (.tinfo d a f) := by
  have := a.code_lt; have := f.code_lt
  refine .intro rfl ?_ fun w => ?_ <;> simp [decodeClass, decodeScl] <;>
    simp only [fld, pow_zero, Nat.div_one, ops3] <;> omega

/-! #### Class VEC -/

theorem hasSlot_vr3 {k : Fin 32 → VSrc → VSrc → ElemTy → MaskMode → Instr} {c op : Nat} {d : Fin 32} {a b : VSrc}
    {t : ElemTy} {m : MaskMode} (he : encode (k d a b t m) = some (head c op + ops3 d.val a.code b.code (tm t m)))
    (hd : ∀ w, decodeClass c w op = vr3 k w)
    (hk : ∀ d' a' b' t' m', k d' a' b' t' m' = k d a b t m ↔ d' = d ∧ a' = a ∧ b' = b ∧ t' = t ∧ m' = m) :
    HasSlot c op (k d a b t m) := by
  have := a.code_lt; have := b.code_lt; have := t.code_lt; have := m.code_lt
  refine .intro he ?_ fun w => ?_ <;> simp [hd, vr3, hk] <;> simp only [fld, pow_zero, Nat.div_one, ops3, tm] <;> omega

theorem hasSlot_vr2 {k : Fin 32 → VSrc → ElemTy → MaskMode → Instr} {c op : Nat} {d : Fin 32} {a : VSrc}
    {t : ElemTy} {m : MaskMode} (he : encode (k d a t m) = some (head c op + ops3 d.val a.code 0 (tm t m)))
    (hd : ∀ w, decodeClass c w op = vr2 k w)
    (hk : ∀ d' a' t' m', k d' a' t' m' = k d a t m ↔ d' = d ∧ a' = a ∧ t' = t ∧ m' = m) :
    HasSlot c op (k d a t m) := by
  have := a.code_lt; have := t.code_lt; have := m.code_lt
  refine .intro he ?_ fun w => ?_ <;> simp [hd, vr2, hk] <;> simp only [fld, pow_zero, Nat.div_one, ops3, tm] <;> omega

theorem hasSlot_vrS {k : Fin 32 → VSrc → SSrc → ElemTy → MaskMode → Instr} {c op : Nat} {d : Fin 32} {a : VSrc}
    {b : SSrc} {t : ElemTy} {m : MaskMode}
    (he : encode (k d a b t m) = some (head c op + ops3 d.val a.code b.code (tm t m)))
    (hd : ∀ w, decodeClass c w op = vrS k w)
    (hk : ∀ d' a' b' t' m', k d' a' b' t' m' = k d a b t m ↔ d' = d ∧ a' = a ∧ b' = b ∧ t' = t ∧ m' = m) :
    HasSlot c op (k d a b t m) := by
  have := a.code_lt; have := b.code_lt; have := t.code_lt; have := m.code_lt
  refine .intro he ?_ fun w => ?_ <;> simp [hd, vrS, hk] <;> simp only [fld, pow_zero, Nat.div_one, ops3, tm] <;> omega

theorem hasSlot_vi {k : Fin 32 → VSrc → BitVec 6 → ElemTy → MaskMode → Instr} {c op : Nat} {d : Fin 32} {a : VSrc}
    {n : BitVec 6} {t : ElemTy} {m : MaskMode}
    (he : encode (k d a n t m) = some (head c op + ops3 d.val a.code n.toNat (tm t m)))
    (hd : ∀ w, decodeClass c w op = vi k w)
    (hk : ∀ d' a' n' t' m', k d' a' n' t' m' = k d a n t m ↔ d' = d ∧ a' = a ∧ n' = n ∧ t' = t ∧ m' = m) :
    HasSlot c op (k d a n t m) := by
  have := a.code_lt; have := t.code_lt; have := m.code_lt
  refine .intro he ?_ fun w => ?_ <;> simp [hd, vi, hk] <;> simp only [fld, pow_zero, Nat.div_one, ops3, tm] <;> omega

theorem VAddr.bits_mod_lt (k : VAddr) : k.bits % 2 ^ 9 < 4 := by
  cases k with
  | tile h m => have := bitOf_lt m; simp only [VAddr.bits]; omega
  | generic m => have := bitOf_lt m; simp only [VAddr.bits]; omega

@[simp] theorem vaddrOf_eq_ok {w : Nat} {k : VAddr} :
    vaddrOf w = .ok k ↔ k.bits = fld w 9 8 * 2 ^ 9 + fld w 0 3 := by
  have h8 := fld_lt w 9 8
  have h3 := fld_lt w 0 3
  unfold vaddrOf
  cases k with
  | tile h m =>
    have := bitOf_lt m
    split <;> cases m <;> simp [VAddr.bits, bitOf] at * <;> omega
  | generic m => 
    have := bitOf_lt m
    split <;> cases m <;> simp [VAddr.bits, bitOf] at * <;> omega

theorem hasSlot_vmMem {k : Fin 32 → VAddr → SSrc → Instr} {c op : Nat} {x : Fin 32} {ad : VAddr} {a : SSrc}
    (he : encode (k x ad a) = some (head c op + (x.val * 2 ^ 17 + a.code * 2 ^ 3 + ad.bits)))
    (hd : ∀ w, decodeClass c w op = vmMem k w)
    (hk : ∀ x' ad' a', k x' ad' a' = k x ad a ↔ x' = x ∧ ad' = ad ∧ a' = a) : HasSlot c op (k x ad a) := by
  have := a.code_lt; have := ad.bits_lt; have := ad.bits_mod_lt
  refine .intro he (by omega) fun w => ?_
  simp [hd, vmMem, hk]
  simp only [fld, pow_zero, Nat.div_one]
  omega

theorem hasSlot_vmIdx {k : Fin 32 → BitVec 8 → VSrc → Bool → Instr} {c op : Nat} {x : Fin 32} {h : BitVec 8} {a : VSrc}
    {s : Bool}
    (he : encode (k x h a s) = some (head c op + (x.val * 2 ^ 17 + h.toNat * 2 ^ 9 + a.code * 2 ^ 3 + bitOf s)))
    (hd : ∀ w, decodeClass c w op = vmIdx k w)
    (hk : ∀ x' h' a' s', k x' h' a' s' = k x h a s ↔ x' = x ∧ h' = h ∧ a' = a ∧ s' = s) : HasSlot c op (k x h a s) := by
  have := a.code_lt; have := bitOf_lt s
  refine .intro he (by omega) fun w => ?_
  simp [hd, vmIdx, hk]
  simp only [fld, pow_zero, Nat.div_one]
  omega

theorem hasSlot_vcmp (d : Fin 32) (a b : VSrc) (t : ElemTy) (c : VCond) : HasSlot 1 0x14 (.vcmp d a b t c) := by
  have := a.code_lt; have := b.code_lt; have := t.code_lt; have := c.code_lt
  refine .intro rfl ?_ fun w => ?_ <;> simp [decodeClass, decodeVec] <;>
    simp only [fld, pow_zero, Nat.div_one, ops3] <;> omega

theorem hasSlot_vsel (d : Fin 32) (a b : VSrc) (t : ElemTy) : HasSlot 1 0x15 (.vsel d a b t) := by
  have := a.code_lt; have := b.code_lt; have := t.code_lt
  refine .intro rfl ?_ fun w => ?_ <;> simp [decodeClass, decodeVec] <;>
    simp only [fld, pow_zero, Nat.div_one, ops3] <;> omega

theorem wf_vbcast {d : Fin 32} {a : SSrc} {t : ElemTy} {m : MaskMode} :
    (Instr.vbcast d a t m).wf = true ↔ m.code ≠ 1 := by
  cases m <;> simp [Instr.wf, Instr.isEncoded, MaskMode.code]

theorem hasSlot_vbcast {d : Fin 32} {a : SSrc} {t : ElemTy} {m : MaskMode} (h : (Instr.vbcast d a t m).wf = true) :
    HasSlot 1 0x16 (.vbcast d a t m) := by
  have := a.code_lt; have := t.code_lt; have := m.code_lt; have := wf_vbcast.1 h
  refine .intro rfl ?_ fun w => ?_ <;> simp [decodeClass, decodeVec] <;>
    simp only [fld, pow_zero, Nat.div_one, ops3, tm] <;> omega

theorem hasSlot_vextr (d : Fin 32) (a : VSrc) (b : SSrc) (t : ElemTy) : HasSlot 1 0x17 (.vextr d a b t) := by
  have := a.code_lt; have := b.code_lt; have := t.code_lt
  refine .intro rfl ?_ fun w => ?_ <;> simp [decodeClass, decodeVec] <;>
    simp only [fld, pow_zero, Nat.div_one, ops3] <;> omega

theorem ElemTy.isNibble_eq (t : ElemTy) : t.isNibble = decide (6 ≤ t.code) := by cases t <;> rfl

theorem ElemTy.isWord_eq (t : ElemTy) : t.isWord = decide (t.code / 2 = 2) := by cases t <;> rfl

theorem wf_vperm {d : Fin 32} {a b : VSrc} {t : ElemTy} {m : MaskMode} :
    (Instr.vperm d a b t m).wf = true ↔ t.isNibble = false := by
  simp [Instr.wf, Instr.isEncoded]

theorem hasSlot_vperm {d : Fin 32} {a b : VSrc} {t : ElemTy} {m : MaskMode} (h : t.isNibble = false) :
    HasSlot 1 0x18 (.vperm d a b t m) := by
  have := a.code_lt; have := b.code_lt; have := t.code_lt; have := m.code_lt
  rw [ElemTy.isNibble_eq, decide_eq_false_iff_not] at h
  refine .intro rfl ?_ fun w => ?_ <;> simp [decodeClass, decodeVec, vr3, ElemTy.isNibble_eq] <;>
    simp only [fld, pow_zero, Nat.div_one, ops3, tm] <;> omega

theorem wf_vdot {d : Fin 32} {a b : VSrc} {t : ElemTy} {m : MaskMode} :
    (Instr.vdot d a b t m).wf = true ↔ t.isWord = false := by
  simp [Instr.wf, Instr.isEncoded]

theorem hasSlot_vdot {d : Fin 32} {a b : VSrc} {t : ElemTy} {m : MaskMode} (h : t.isWord = false) :
    HasSlot 1 0x1E (.vdot d a b t m) := by
  have := a.code_lt; have := b.code_lt; have := t.code_lt; have := m.code_lt
  rw [ElemTy.isWord_eq, decide_eq_false_iff_not] at h
  refine .intro rfl ?_ fun w => ?_ <;> simp [decodeClass, decodeVec, vr3, ElemTy.isWord_eq] <;>
    simp only [fld, pow_zero, Nat.div_one, ops3, tm] <;> omega

theorem hasSlot_mpush (a : VSrc) (t : ElemTy) : HasSlot 1 0x25 (.mpush a t) := by
  have := a.code_lt; have := t.code_lt
  refine .intro rfl ?_ fun w => ?_ <;> simp [decodeClass, decodeVec] <;>
    simp only [fld, pow_zero, Nat.div_one, ops3] <;> omega

theorem hasSlot_mget (d : Fin 32) (t : ElemTy) : HasSlot 1 0x28 (.mget d t) := by
  have := t.code_lt
  refine .intro rfl ?_ fun w => ?_ <;> simp [decodeClass, decodeVec] <;>
    simp only [fld, pow_zero, Nat.div_one, ops3] <;> omega

theorem wf_vfn {d : Fin 32} {a : VSrc} {b : Fin 16} {t : ElemTy} {m : MaskMode} :
    (Instr.vfn d a b t m).wf = true ↔ t.isNibble = false := by
  simp [Instr.wf, Instr.isEncoded]

theorem hasSlot_vfn {d : Fin 32} {a : VSrc} {b : Fin 16} {t : ElemTy} {m : MaskMode} (h : t.isNibble = false) :
    HasSlot 1 0x29 (.vfn d a b t m) := by
  have := a.code_lt; have := t.code_lt; have := m.code_lt
  rw [ElemTy.isNibble_eq, decide_eq_false_iff_not] at h
  refine .intro rfl ?_ fun w => ?_ <;> simp [decodeClass, decodeVec, ElemTy.isNibble_eq] <;>
    simp only [fld, pow_zero, Nat.div_one, ops3, tm] <;> omega

theorem hasSlot_vfnld (x : Fin 8) (k : VfAddr) (a : SSrc) : HasSlot 1 0x2A (.vfnld x k a) := by
  have := a.code_lt
  cases k with
  | tile h =>
    refine .intro rfl (by omega) fun w => ?_
    simp [decodeClass, decodeVec]
    split
    · simp
      simp only [fld, pow_zero, Nat.div_one] at *
      omega
    · simp
      simp only [fld, pow_zero, Nat.div_one] at *
      omega
    · simp [fld] at *
      omega
  | generic =>
    refine .intro rfl (by omega) fun w => ?_
    simp [decodeClass, decodeVec]
    split
    · simp
      simp only [fld, pow_zero, Nat.div_one] at *
      omega
    · simp
      simp only [fld, pow_zero, Nat.div_one] at *
      omega
    · simp [fld] at *
      omega

theorem hasSlot_vopt (r : OptRule) (h : BitVec 8) (a : SSrc) : HasSlot 1 0x2C (.vopt r h a) := by
  have := a.code_lt
  cases r <;> refine .intro rfl (by omega) fun w => ?_ <;> simp [decodeClass, decodeVec] <;>
    simp only [fld, pow_zero, Nat.div_one] <;> omega

theorem hasSlot_vchk (a b : VSrc) : HasSlot 1 0x2D (.vchk a b) := by
  have := a.code_lt; have := b.code_lt
  refine .intro rfl ?_ fun w => ?_ <;> simp [decodeClass, decodeVec] <;>
    simp only [fld, pow_zero, Nat.div_one, ops3] <;> omega

theorem hasSlot_vres (d : Fin 32) : HasSlot 1 0x2E (.vres d) := by
  refine .intro rfl ?_ fun w => ?_ <;> simp [decodeClass, decodeVec] <;>
    simp only [fld, pow_zero, Nat.div_one, ops3] <;> omega

/-! #### Class MTX -/

theorem hasSlot_tm {k : Fin 64 → BitVec 8 → BitVec 8 → Instr} {c op : Nat} {x : Fin 64} {h n : BitVec 8}
    (he : encode (k x h n) = some (head c op + opsT x.val h.toNat n.toNat))
    (hd : ∀ w, decodeClass c w op = .ok (k (wX w) (wH w) (wK w)))
    (hk : ∀ x' h' n', k x' h' n' = k x h n ↔ x' = x ∧ h' = h ∧ n' = n) : HasSlot c op (k x h n) := by
  refine .intro he ?_ fun w => ?_ <;> simp [hd, hk] <;> simp only [fld, pow_zero, Nat.div_one, opsT] <;> omega

theorem hasSlot_mmac (x : Fin 64) (h : BitVec 8) (y : Fin 64) : HasSlot 2 0x04 (.mmac x h y) := by
  refine .intro rfl ?_ fun w => ?_ <;> simp [decodeClass, decodeMtx] <;>
    simp only [fld, pow_zero, Nat.div_one, opsT] <;> omega

theorem hasSlot_mout (x : Fin 64) (h : BitVec 8) (sh : Fin 41) : HasSlot 2 0x05 (.mout x h sh) := by
  refine .intro rfl (by simp only [opsT]; omega) fun w => ?_
  have hs : (fld w 6 2 = 0 ∧ fld w 0 6 ≤ 40) ∧ Fin.ofNat 41 (fld w 0 6) = sh ↔ sh.val = fld w 0 8 := by
    simp only [Fin.ext_iff, Fin.val_ofNat, fld, pow_zero, Nat.div_one]; omega
  have hw : w % 2 ^ 22 = opsT x.val h.toNat sh.val ↔ x.val = fld w 16 6 ∧ h.toNat = fld w 8 8 ∧ sh.val = fld w 0 8 := by
    simp only [fld, pow_zero, Nat.div_one, opsT]; omega
  simp only [decodeClass, decodeMtx, ite_error_eq_ok, Except.ok.injEq, Instr.mout.injEq, wX_eq, wH_eq, hw, ← hs]
  tauto

/-- The shifts of MLOAD and MADD as codes of eight bits. -/
theorem shiftInRange_iff {sh : BitVec 8} : shiftInRange sh = true ↔ sh.toNat ≤ 40 ∨ 216 ≤ sh.toNat := by
  simp only [shiftInRange, decide_eq_true_eq, BitVec.toInt_eq_toNat_cond]
  omega

theorem wf_mload {x : Fin 64} {h sh : BitVec 8} : (Instr.mload x h sh).wf = true ↔ shiftInRange sh = true := by
  simp [Instr.wf, Instr.isEncoded]

theorem wf_madd {x : Fin 64} {h sh : BitVec 8} : (Instr.madd x h sh).wf = true ↔ shiftInRange sh = true := by
  simp [Instr.wf, Instr.isEncoded]

/-- MLOAD and MADD. -/
theorem hasSlot_shift {k : Fin 64 → BitVec 8 → BitVec 8 → Instr} {c op : Nat} {x : Fin 64} {h sh : BitVec 8}
    (he : encode (k x h sh) = some (head c op + opsT x.val h.toNat sh.toNat))
    (hd : ∀ w, decodeClass c w op = if shiftInRange (wK w) then .ok (k (wX w) (wH w) (wK w)) else .error .slot)
    (hk : ∀ x' h' n', k x' h' n' = k x h sh ↔ x' = x ∧ h' = h ∧ n' = sh) (hs : shiftInRange sh = true) :
    HasSlot c op (k x h sh) := by
  rw [shiftInRange_iff] at hs
  refine .intro he ?_ fun w => ?_ <;> simp [hd, hk, shiftInRange_iff] <;>
    simp only [fld, pow_zero, Nat.div_one, opsT] <;> omega

theorem hasSlot_mzero (x : Fin 64) (r c : Fin 128) : HasSlot 2 0x08 (.mzero x r c) := by
  refine .intro rfl ?_ fun w => ?_ <;> simp [decodeClass, decodeMtx] <;>
    simp only [fld, pow_zero, Nat.div_one, opsT] <;> omega

theorem hasSlot_mcens (x : Fin 64) : HasSlot 2 0x09 (.mcens x) := by
  refine .intro rfl ?_ fun w => ?_ <;> simp [decodeClass, decodeMtx] <;>
    simp only [fld, pow_zero, Nat.div_one, opsT] <;> omega

theorem hasSlot_mbias (x : Fin 64) (h : BitVec 8) (col : Bool) : HasSlot 2 0x0A (.mbias x h col) := by
  have := bitOf_lt col
  refine .intro rfl ?_ fun w => ?_ <;> simp [decodeClass, decodeMtx] <;>
    simp only [fld, pow_zero, Nat.div_one, opsT] <;> omega

/-! #### Class CPY -/

/-- The operations with three sources and a code. -/
theorem hasSlot_c3 {α : Type} {p : Nat → Except DecErr α} {code : α → Nat} {k : Fin 2 → SSrc → SSrc → SSrc → α → Instr}
    {cl op : Nat} {n : Fin 2} {a b c : SSrc} {f : α}
    (he : encode (k n a b c f) = some (head cl op + opsC n.val a.code b.code c.code (code f)))
    (hd : ∀ w, decodeClass cl w op = (p (fld w 0 3)).bind fun f => c3 (fun n a b c => k n a b c f) w)
    (hk : ∀ n' a' b' c' f', k n' a' b' c' f' = k n a b c f ↔ n' = n ∧ a' = a ∧ b' = b ∧ c' = c ∧ f' = f)
    (hp : ∀ m, p m = .ok f ↔ code f = m) (hf : code f < 8) : HasSlot cl op (k n a b c f) := by
  have := a.code_lt; have := b.code_lt; have := c.code_lt
  refine .intro he ?_ fun w => ?_ <;> simp [hd, hp, c3, hk] <;>
    simp only [fld, pow_zero, Nat.div_one, opsC] <;> omega

/-- The operations with three sources and no code. -/
theorem hasSlot_c3z {k : Fin 2 → SSrc → SSrc → SSrc → Instr} {cl op : Nat} {n : Fin 2} {a b c : SSrc}
    (he : encode (k n a b c) = some (head cl op + opsC n.val a.code b.code c.code 0))
    (hd : ∀ w, decodeClass cl w op = if fld w 0 3 = 0 then c3 k w else .error .slot)
    (hk : ∀ n' a' b' c', k n' a' b' c' = k n a b c ↔ n' = n ∧ a' = a ∧ b' = b ∧ c' = c) :
    HasSlot cl op (k n a b c) := by
  have := a.code_lt; have := b.code_lt; have := c.code_lt
  refine .intro he ?_ fun w => ?_ <;> simp [hd, c3, hk] <;>
    simp only [fld, pow_zero, Nat.div_one, opsC] <;> omega

theorem hasSlot_atom (n : Fin 2) (a b c : SSrc) (f : AtomOp) : HasSlot 3 0x06 (.atom n a b c f) := by
  have := a.code_lt; have := b.code_lt; have := c.code_lt; have := f.code_lt
  refine .intro rfl ?_ fun w => ?_ <;> simp [decodeClass, decodeCpy, c3] <;>
    simp only [fld, pow_zero, Nat.div_one, opsC] <;> omega

theorem hasSlot_signal (n : Fin 2) (a b : SSrc) (plus : Bool) (f : Scope) : HasSlot 3 0x07 (.signal n a b plus f) := by
  have := a.code_lt; have := b.code_lt; have := bitOf_lt plus; have := f.code_lt
  refine .intro rfl ?_ fun w => ?_ <;> simp [decodeClass, decodeCpy] <;>
    simp only [fld, pow_zero, Nat.div_one, opsC] <;> omega

theorem hasSlot_pgreq (n : Fin 2) (a b : SSrc) (s : Bool) : HasSlot 3 0x08 (.pgreq n a b s) := by
  have := a.code_lt; have := b.code_lt; have := bitOf_lt s
  refine .intro rfl ?_ fun w => ?_ <;> simp [decodeClass, decodeCpy] <;>
    simp only [fld, pow_zero, Nat.div_one, opsC] <;> omega

theorem wf_cgld {n : Fin 2} {a b : SSrc} {clr : Bool} :
    (Instr.cgld n a b clr).wf = true ↔ (bitOf clr = 1 → a.code = 0) := by
  cases clr <;> simp [Instr.wf, Instr.isEncoded, SSrc.code_eq_zero, bitOf]

theorem hasSlot_cgld {n : Fin 2} {a b : SSrc} {clr : Bool} (h : (Instr.cgld n a b clr).wf = true) :
    HasSlot 3 0x0A (.cgld n a b clr) := by
  have := a.code_lt; have := b.code_lt; have := bitOf_lt clr; have := wf_cgld.1 h
  refine .intro rfl ?_ fun w => ?_ <;> simp [decodeClass, decodeCpy] <;>
    simp only [fld, pow_zero, Nat.div_one, opsC] <;> omega

/-! #### Class CTL -/

theorem hasSlot_prep (b : Fin 8) (n : BitVec 19) : HasSlot 4 0x01 (.prep b n) := by
  refine .intro rfl (by omega) fun w => ?_
  simp [decodeClass, decodeCtl]
  simp only [fld, pow_zero, Nat.div_one]
  omega

theorem hasSlot_prepr (b : Fin 8) (a : SSrc) : HasSlot 4 0x02 (.prepr b a) := by
  have := a.code_lt
  refine .intro rfl (by omega) fun w => ?_
  simp [decodeClass, decodeCtl]
  simp only [fld, pow_zero, Nat.div_one]
  omega

theorem wf_br {b : Fin 8} {p : Fin 16} {neg always : Bool} :
    (Instr.br b p neg always).wf = true ↔ (bitOf always = 1 → p.val = 0 ∧ bitOf neg = 0) := by
  cases neg <;> cases always <;> simp [Instr.wf, Instr.isEncoded, bitOf]

theorem hasSlot_br {b : Fin 8} {p : Fin 16} {neg always : Bool} (h : (Instr.br b p neg always).wf = true) :
    HasSlot 4 0x03 (.br b p neg always) := by
  have := bitOf_lt neg; have := bitOf_lt always; have := wf_br.1 h
  refine .intro rfl (by omega) fun w => ?_
  simp [decodeClass, decodeCtl]
  simp only [fld, pow_zero, Nat.div_one]
  omega

/-- BRU and CALL. -/
theorem hasSlot_target {k : Fin 8 → Instr} {c op : Nat} {b : Fin 8}
    (he : encode (k b) = some (head c op + b.val * 2 ^ 19))
    (hd : ∀ w, decodeClass c w op = if fld w 0 19 = 0 then .ok (k (wB w)) else .error .slot)
    (hk : ∀ b', k b' = k b ↔ b' = b) : HasSlot c op (k b) := by
  refine .intro he (by omega) fun w => ?_
  simp [hd, hk]
  simp only [fld, pow_zero, Nat.div_one]
  omega

theorem hasSlot_loop (l : Fin 4) (a : SSrc) (n : Fin 64) : HasSlot 4 0x07 (.loop l a n) := by
  have := a.code_lt
  refine .intro rfl (by omega) fun w => ?_
  simp [decodeClass, decodeCtl]
  simp only [fld, pow_zero, Nat.div_one]
  omega

theorem hasSlot_loops (l : Fin 4) (a : SSrc) (n : Fin 64) (m : Fin 8) : HasSlot 4 0x08 (.loops l a n m) := by
  have := a.code_lt
  refine .intro rfl (by omega) fun w => ?_
  simp [decodeClass, decodeCtl]
  simp only [fld, pow_zero, Nat.div_one]
  omega

theorem hasSlot_wait (a b c d : Fin 16) : HasSlot 4 0x09 (.wait a b c d) := by
  refine .intro rfl (by omega) fun w => ?_
  simp [decodeClass, decodeCtl]
  simp only [fld, pow_zero, Nat.div_one]
  omega

theorem hasSlot_sync (l : Fin 4) : HasSlot 4 0x0A (.sync l) := by
  refine .intro rfl (by omega) fun w => ?_
  simp [decodeClass, decodeCtl]
  simp only [fld, pow_zero, Nat.div_one]
  omega

/-- FENCE and FENCE.HEAVY. -/
theorem hasSlot_scope {k : Scope → Instr} {c op : Nat} {o : Scope}
    (he : encode (k o) = some (head c op + o.code * 2 ^ 19))
    (hd : ∀ w, decodeClass c w op =
      if fld w 0 19 = 0 then (Scope.ofCode (fld w 19 3)).bind fun o => .ok (k o) else .error .slot)
    (hk : ∀ o', k o' = k o ↔ o' = o) : HasSlot c op (k o) := by
  have := o.code_lt
  refine .intro he (by omega) fun w => ?_
  simp [hd, hk]
  simp only [fld, pow_zero, Nat.div_one]
  omega

theorem hasSlot_brk (n : BitVec 16) : HasSlot 4 0x0E (.brk n) := by
  refine .intro rfl (by omega) fun w => ?_
  simp [decodeClass, decodeCtl]
  simp only [fld, pow_zero, Nat.div_one]
  omega

/-! #### Class PFX -/

theorem hasSlot_limm (n : BitVec 22) : HasSlot 5 0x00 (.limm n) := by
  refine .intro rfl (by omega) fun w => ?_
  simp [decodeClass, decodePfx]
  simp only [fld, pow_zero, Nat.div_one]
  omega

theorem hasSlot_rept (n : BitVec 12) (e0 e1 e2 e3 : RepSel) : HasSlot 5 0x01 (.rept n e0 e1 e2 e3) := by
  have := e0.code_lt; have := e1.code_lt; have := e2.code_lt; have := e3.code_lt
  refine .intro rfl (by omega) fun w => ?_
  simp [decodeClass, decodePfx]
  simp only [fld, pow_zero, Nat.div_one]
  omega

/-! #### Class TSK -/

theorem hasSlot_talloc (d : Fin 32) (a b : SSrc) (l : Level) (t : ElemTy) : HasSlot 6 0x00 (.talloc d a b l t) := by
  have := a.code_lt; have := b.code_lt; have := t.code_lt
  cases l <;> refine .intro rfl ?_ fun w => ?_ <;> simp [decodeClass, decodeTsk, srMem] <;>
    simp only [fld, pow_zero, Nat.div_one, ops3] <;> omega

theorem hasSlot_tfree (a : SSrc) : HasSlot 6 0x01 (.tfree a) := by
  have := a.code_lt
  refine .intro rfl ?_ fun w => ?_ <;> simp [decodeClass, decodeTsk] <;>
    simp only [fld, pow_zero, Nat.div_one, ops3] <;> omega

theorem hasSlot_tid (d : Fin 32) (f : TidSel) : HasSlot 6 0x03 (.tid d f) := by
  have := f.code_lt
  refine .intro rfl ?_ fun w => ?_ <;> simp [decodeClass, decodeTsk] <;>
    simp only [fld, pow_zero, Nat.div_one, ops3] <;> omega

theorem hasSlot_trap (n : BitVec 17) : HasSlot 6 0x09 (.trap n) := by
  refine .intro rfl (by omega) fun w => ?_
  simp [decodeClass, decodeTsk]
  simp only [fld, pow_zero, Nat.div_one]
  omega

theorem hasSlot_pipew (a : SSrc) (p : Fin 16) : HasSlot 6 0x0A (.pipew a p) := by
  have := a.code_lt
  refine .intro rfl ?_ fun w => ?_ <;> simp [decodeClass, decodeTsk] <;>
    simp only [fld, pow_zero, Nat.div_one, ops3] <;> omega

theorem hasSlot_piper (d : Fin 32) (p : Fin 16) : HasSlot 6 0x0B (.piper d p) := by
  refine .intro rfl ?_ fun w => ?_ <;> simp [decodeClass, decodeTsk] <;>
    simp only [fld, pow_zero, Nat.div_one, ops3] <;> omega

theorem wf_rvset {a b : SSrc} {clr : Bool} : (Instr.rvset a b clr).wf = true ↔ (bitOf clr = 1 → a.code = 0) := by
  cases clr <;> simp [Instr.wf, Instr.isEncoded, SSrc.code_eq_zero, bitOf]

theorem hasSlot_rvset {a b : SSrc} {clr : Bool} (h : (Instr.rvset a b clr).wf = true) :
    HasSlot 6 0x0D (.rvset a b clr) := by
  have := a.code_lt; have := b.code_lt; have := bitOf_lt clr; have := wf_rvset.1 h
  refine .intro rfl ?_ fun w => ?_ <;> simp [decodeClass, decodeTsk, srMem] <;>
    simp only [fld, pow_zero, Nat.div_one, ops3] <;> omega

/-! ### Every well-formed instruction has its slot words -/

/-- The slot words of an instruction, whatever their stop bit: those whose other bits are the word that encodes it. -/
def HasWord (i : Instr) : Prop := ∃ n < 2 ^ 31, encode i = some n ∧ ∀ w, w % 2 ^ 31 = n → decodeSlot w = .ok i

theorem HasSlot.hasWord {c op : Nat} {i : Instr} (h : HasSlot c op i) (hc : c < 8 := by decide)
    (ho : op < 64 := by decide) : HasWord i := by
  obtain ⟨v, hv, he, hd⟩ := h
  refine ⟨_, by simp only [head]; omega, he, fun w hw => ?_⟩
  simp only [head] at hw
  have hcls : fld w 28 3 = c := by simp only [fld]; omega
  have hop : fld w 22 6 = op := by simp only [fld]; omega
  rw [decodeSlot_eq, hcls, hop, hd]
  omega

theorem hasWord_of_wf {i : Instr} (h : i.wf = true) : HasWord i := by
  cases i with
  | add d a b | sub d a b | and d a b | or d a b | xor d a b | andn d a b | shl d a b | shr d a b | sar d a b
  | mul d a b | mulh d a b | mulhu d a b | div d a b | divu d a b | rem d a b | remu d a b | min d a b | max d a b
  | minu d a b | maxu d a b | rng d a b => exact HasSlot.hasWord (hasSlot_sr3 rfl (fun _ => rfl) (by simp))
  | clz d a | cls d a | popc d a | spcq d a | spawn d a | fork d a | join d a =>
    exact HasSlot.hasWord (hasSlot_sr2 rfl (fun _ => rfl) (by simp))
  | setmf a b | setvf a b | chk a b | tsets a b | tlink a b =>
    exact HasSlot.hasWord (hasSlot_srAB rfl (fun _ => rfl) (by simp))
  | addi d a n | andi d a n | ori d a n | xori d a n | shli d a n | shri d a n | sari d a n =>
    exact HasSlot.hasWord (hasSlot_si rfl (fun _ => rfl) (by simp))
  | ext d a b s => exact HasSlot.hasWord (hasSlot_ext ..)
  | lih d n => exact HasSlot.hasWord (hasSlot_lih ..)
  | cmp p a b c => exact HasSlot.hasWord (hasSlot_cmp ..)
  | cmpi p a c n => exact HasSlot.hasWord (hasSlot_cmpi ..)
  | sel d a b neg p => exact HasSlot.hasWord (hasSlot_sel ..)
  | plog d a b o => exact HasSlot.hasWord (hasSlot_plog ..)
  | ld d a b z s => exact HasSlot.hasWord (hasSlot_ld h)
  | st d a b z => exact HasSlot.hasWord (hasSlot_st ..)
  | ldAcq d a b z o => exact HasSlot.hasWord (hasSlot_ldAcq ..)
  | stRel d a b z o => exact HasSlot.hasWord (hasSlot_stRel ..)
  | spcast d a b k => exact HasSlot.hasWord (hasSlot_spcast h)
  | xlt x a s => exact HasSlot.hasWord (hasSlot_xlt ..)
  | mfs d n => exact HasSlot.hasWord (hasSlot_mfs ..)
  | mts a n => exact HasSlot.hasWord (hasSlot_mts ..)
  | tinfo d a f => exact HasSlot.hasWord (hasSlot_tinfo ..)
  | vadd d a b t m | vsub d a b t m | vadds d a b t m | vsubs d a b t m | vmul d a b t m | vmulhr d a b t m
  | vmin d a b t m | vmax d a b t m | vand d a b t m | vor d a b t m | vxor d a b t m | vshl d a b t m
  | vshr d a b t m | vsar d a b t m | vdiv d a b t m => exact HasSlot.hasWord (hasSlot_vr3 rfl (fun _ => rfl) (by simp))
  | vabs d a t m | vneg d a t m | vrsum d a t m | vrmax d a t m | vrmin d a t m | vscan d a t m | vcls d a t m
  | vcensus d a t m => exact HasSlot.hasWord (hasSlot_vr2 rfl (fun _ => rfl) (by simp))
  | vrshr d a b t m | vcvt d a b t m | vslide d a b t m =>
    exact HasSlot.hasWord (hasSlot_vrS rfl (fun _ => rfl) (by simp))
  | vshli d a n t m | vsari d a n t m => exact HasSlot.hasWord (hasSlot_vi rfl (fun _ => rfl) (by simp))
  | vld x k a | vst x k a => exact HasSlot.hasWord (hasSlot_vmMem rfl (fun _ => rfl) (by simp))
  | vldx x h a s | vstx x h a s => exact HasSlot.hasWord (hasSlot_vmIdx rfl (fun _ => rfl) (by simp))
  | vcmp d a b t c => exact HasSlot.hasWord (hasSlot_vcmp ..)
  | vsel d a b t => exact HasSlot.hasWord (hasSlot_vsel ..)
  | vbcast d a t m => exact HasSlot.hasWord (hasSlot_vbcast h)
  | vextr d a b t => exact HasSlot.hasWord (hasSlot_vextr ..)
  | vperm d a b t m => exact HasSlot.hasWord (hasSlot_vperm (wf_vperm.1 h))
  | vdot d a b t m => exact HasSlot.hasWord (hasSlot_vdot (wf_vdot.1 h))
  | mpush a t => exact HasSlot.hasWord (hasSlot_mpush ..)
  | mget d t => exact HasSlot.hasWord (hasSlot_mget ..)
  | vfn d a b t m => exact HasSlot.hasWord (hasSlot_vfn (wf_vfn.1 h))
  | vfnld x k a => exact HasSlot.hasWord (hasSlot_vfnld ..)
  | vopt r x a => exact HasSlot.hasWord (hasSlot_vopt ..)
  | vchk a b => exact HasSlot.hasWord (hasSlot_vchk ..)
  | vres d => exact HasSlot.hasWord (hasSlot_vres ..)
  | mma x a b | mmaz x a b | mmat x a b | mmbt x a b => exact HasSlot.hasWord (hasSlot_tm rfl (fun _ => rfl) (by simp))
  | mmac x a y => exact HasSlot.hasWord (hasSlot_mmac ..)
  | mout x a sh => exact HasSlot.hasWord (hasSlot_mout ..)
  | mload x a sh => exact HasSlot.hasWord (hasSlot_shift rfl (fun _ => rfl) (by simp) (wf_mload.1 h))
  | madd x a sh => exact HasSlot.hasWord (hasSlot_shift rfl (fun _ => rfl) (by simp) (wf_madd.1 h))
  | mzero x r c => exact HasSlot.hasWord (hasSlot_mzero ..)
  | mcens x => exact HasSlot.hasWord (hasSlot_mcens ..)
  | mbias x a col => exact HasSlot.hasWord (hasSlot_mbias ..)
  | copy n a b c f =>
    exact HasSlot.hasWord
      (hasSlot_c3 rfl (fun _ => rfl) (by simp) (fun _ => CopyMode.ofCode_eq_ok) (f.code_lt.trans_le (by decide)))
  | copyr n a b c f =>
    exact HasSlot.hasWord
      (hasSlot_c3 rfl (fun _ => rfl) (by simp) (fun _ => RedOp.ofCode_eq_ok) (f.code_lt.trans_le (by decide)))
  | saeq n a b c f | saef n a b c f =>
    exact HasSlot.hasWord
      (hasSlot_c3 rfl (fun _ => rfl) (by simp) (fun _ => SaeOp.ofCode_eq_ok) (f.code_lt.trans_le (by decide)))
  | copyg n a b c | copys n a b c | migr n a b c => exact HasSlot.hasWord (hasSlot_c3z rfl (fun _ => rfl) (by simp))
  | atom n a b c f => exact HasSlot.hasWord (hasSlot_atom ..)
  | signal n a b plus f => exact HasSlot.hasWord (hasSlot_signal ..)
  | pgreq n a b s => exact HasSlot.hasWord (hasSlot_pgreq ..)
  | cgld n a b clr => exact HasSlot.hasWord (hasSlot_cgld h)
  | minv | mpop | nop | ret | fenceLite | yield | endTask | publish =>
    exact HasSlot.hasWord (hasSlot_plain rfl fun _ => rfl)
  | prep b n => exact HasSlot.hasWord (hasSlot_prep ..)
  | prepr b a => exact HasSlot.hasWord (hasSlot_prepr ..)
  | br b p neg always => exact HasSlot.hasWord (hasSlot_br h)
  | bru b | call b => exact HasSlot.hasWord (hasSlot_target rfl (fun _ => rfl) (by simp))
  | loop l a n => exact HasSlot.hasWord (hasSlot_loop ..)
  | loops l a n m => exact HasSlot.hasWord (hasSlot_loops ..)
  | wait a b c d => exact HasSlot.hasWord (hasSlot_wait ..)
  | sync l => exact HasSlot.hasWord (hasSlot_sync ..)
  | fence o | fenceHeavy o => exact HasSlot.hasWord (hasSlot_scope rfl (fun _ => rfl) (by simp))
  | brk n => exact HasSlot.hasWord (hasSlot_brk ..)
  | limm n => exact HasSlot.hasWord (hasSlot_limm ..)
  | rept n e0 e1 e2 e3 => exact HasSlot.hasWord (hasSlot_rept ..)
  | talloc d a b l t => exact HasSlot.hasWord (hasSlot_talloc ..)
  | tfree a => exact HasSlot.hasWord (hasSlot_tfree ..)
  | tid d f => exact HasSlot.hasWord (hasSlot_tid ..)
  | trap n => exact HasSlot.hasWord (hasSlot_trap ..)
  | pipew a p => exact HasSlot.hasWord (hasSlot_pipew ..)
  | piper d p => exact HasSlot.hasWord (hasSlot_piper ..)
  | rvset a b clr => exact HasSlot.hasWord (hasSlot_rvset h)
  | _ => cases h

/-! ### Every word that decodes is a slot word of a well-formed instruction -/

theorem sr3_shape {k : Fin 32 → SSrc → SSrc → Instr} {w : Nat} {i : Instr} (h : sr3 k w = .ok i) :
    ∃ d a b, i = k d a b := by
  simp [sr3] at h
  obtain ⟨-, a, -, b, -, rfl⟩ := h
  exact ⟨_, a, b, rfl⟩

theorem sr2_shape {k : Fin 32 → SSrc → Instr} {w : Nat} {i : Instr} (h : sr2 k w = .ok i) : ∃ d a, i = k d a := by
  simp [sr2] at h
  obtain ⟨-, a, -, rfl⟩ := h
  exact ⟨_, a, rfl⟩

theorem srAB_shape {k : SSrc → SSrc → Instr} {w : Nat} {i : Instr} (h : srAB k w = .ok i) : ∃ a b, i = k a b := by
  simp [srAB] at h
  obtain ⟨-, a, -, b, -, rfl⟩ := h
  exact ⟨a, b, rfl⟩

theorem si_shape {k : Fin 32 → SSrc → BitVec 11 → Instr} {w : Nat} {i : Instr} (h : si k w = .ok i) :
    ∃ d a n, i = k d a n := by
  simp [si] at h
  obtain ⟨a, -, rfl⟩ := h
  exact ⟨_, a, _, rfl⟩

theorem vr3_shape {k : Fin 32 → VSrc → VSrc → ElemTy → MaskMode → Instr} {w : Nat} {i : Instr} (h : vr3 k w = .ok i) :
    ∃ d a b m, i = k d a b (wT w) m := by
  simp [vr3] at h
  obtain ⟨m, -, a, -, b, -, rfl⟩ := h
  exact ⟨_, a, b, m, rfl⟩

theorem vr2_shape {k : Fin 32 → VSrc → ElemTy → MaskMode → Instr} {w : Nat} {i : Instr} (h : vr2 k w = .ok i) :
    ∃ d a t m, i = k d a t m := by
  simp [vr2] at h
  obtain ⟨-, m, -, a, -, rfl⟩ := h
  exact ⟨_, a, _, m, rfl⟩

theorem vrS_shape {k : Fin 32 → VSrc → SSrc → ElemTy → MaskMode → Instr} {w : Nat} {i : Instr} (h : vrS k w = .ok i) :
    ∃ d a b t m, i = k d a b t m := by
  simp [vrS] at h
  obtain ⟨m, -, a, -, b, -, rfl⟩ := h
  exact ⟨_, a, b, _, m, rfl⟩

theorem vi_shape {k : Fin 32 → VSrc → BitVec 6 → ElemTy → MaskMode → Instr} {w : Nat} {i : Instr} (h : vi k w = .ok i) :
    ∃ d a n t m, i = k d a n t m := by
  simp [vi] at h
  obtain ⟨m, -, a, -, rfl⟩ := h
  exact ⟨_, a, _, _, m, rfl⟩

theorem vmMem_shape {k : Fin 32 → VAddr → SSrc → Instr} {w : Nat} {i : Instr} (h : vmMem k w = .ok i) :
    ∃ x ad a, i = k x ad a := by
  simp [vmMem] at h
  obtain ⟨ad, -, a, -, rfl⟩ := h
  exact ⟨_, ad, a, rfl⟩

theorem vmIdx_shape {k : Fin 32 → BitVec 8 → VSrc → Bool → Instr} {w : Nat} {i : Instr} (h : vmIdx k w = .ok i) :
    ∃ x n a s, i = k x n a s := by
  simp [vmIdx] at h
  obtain ⟨-, a, -, rfl⟩ := h
  exact ⟨_, _, a, _, rfl⟩

theorem c3_shape {k : Fin 2 → SSrc → SSrc → SSrc → Instr} {w : Nat} {i : Instr} (h : c3 k w = .ok i) :
    ∃ n a b c, i = k n a b c := by
  simp [c3] at h
  obtain ⟨a, -, b, -, c, -, rfl⟩ := h
  exact ⟨_, a, b, c, rfl⟩

theorem decodeScl_hasSlot {w : Nat} {i : Instr} : ∀ op, decodeScl w op = .ok i → i.wf = true ∧ HasSlot 0 op i
  | 0x00, h | 0x01, h | 0x02, h | 0x03, h | 0x04, h | 0x05, h | 0x06, h | 0x07, h | 0x08, h | 0x09, h | 0x0A, h
  | 0x0B, h | 0x0C, h | 0x0D, h | 0x0E, h | 0x0F, h | 0x10, h | 0x11, h | 0x12, h | 0x13, h | 0x32, h => by
    obtain ⟨d, a, b, rfl⟩ := sr3_shape h
    exact ⟨rfl, hasSlot_sr3 rfl (fun _ => rfl) (by simp)⟩
  | 0x14, h | 0x15, h | 0x16, h | 0x28, h => by
    obtain ⟨d, a, rfl⟩ := sr2_shape h
    exact ⟨rfl, hasSlot_sr2 rfl (fun _ => rfl) (by simp)⟩
  | 0x2B, h | 0x2C, h | 0x2F, h | 0x31, h => by
    obtain ⟨a, b, rfl⟩ := srAB_shape h
    exact ⟨rfl, hasSlot_srAB rfl (fun _ => rfl) (by simp)⟩
  | 0x18, h | 0x19, h | 0x1A, h | 0x1B, h | 0x1C, h | 0x1D, h | 0x1E, h => by
    obtain ⟨d, a, n, rfl⟩ := si_shape h
    exact ⟨rfl, hasSlot_si rfl (fun _ => rfl) (by simp)⟩
  | 0x17, h => by
    simp [decodeScl, srMem] at h
    obtain ⟨-, a, -, b, -, rfl⟩ := h
    exact ⟨rfl, hasSlot_ext ..⟩
  | 0x1F, h => by
    cases h
    exact ⟨rfl, hasSlot_lih ..⟩
  | 0x20, h => by
    simp [decodeScl, srMem] at h
    obtain ⟨-, c, -, a, -, b, -, rfl⟩ := h
    exact ⟨rfl, hasSlot_cmp ..⟩
  | 0x21, h => by
    simp [decodeScl] at h
    obtain ⟨-, c, -, a, -, rfl⟩ := h
    exact ⟨rfl, hasSlot_cmpi ..⟩
  | 0x22, h => by
    simp [decodeScl, srMem] at h
    obtain ⟨a, -, b, -, rfl⟩ := h
    exact ⟨rfl, hasSlot_sel ..⟩
  | 0x23, h => by
    simp [decodeScl] at h
    obtain ⟨-, rfl⟩ := h
    exact ⟨rfl, hasSlot_plog ..⟩
  | 0x24, h => by
    simp [decodeScl, srMem] at h
    obtain ⟨⟨-, hz⟩, a, -, b, -, rfl⟩ := h
    have hw : (Instr.ld (wD w) a b (.ofCode (fld w 3 2)) (fld w 2 1 == 1)).wf = true := wf_ld.2 (by simpa using hz)
    exact ⟨hw, hasSlot_ld hw⟩
  | 0x25, h => by
    simp [decodeScl, srMem] at h
    obtain ⟨-, a, -, b, -, rfl⟩ := h
    exact ⟨rfl, hasSlot_st ..⟩
  | 0x26, h => by
    simp [decodeScl, srMem] at h
    obtain ⟨o, -, a, -, b, -, rfl⟩ := h
    exact ⟨rfl, hasSlot_ldAcq ..⟩
  | 0x27, h => by
    simp [decodeScl, srMem] at h
    obtain ⟨o, -, a, -, b, -, rfl⟩ := h
    exact ⟨rfl, hasSlot_stRel ..⟩
  | 0x29, h => by
    simp [decodeScl, srMem, CastKind.code_eq_one] at h
    obtain ⟨k, -, hk, a, -, b, hb, rfl⟩ := h
    have hw : (Instr.spcast (wD w) a b k).wf = true := wf_spcast.2 fun h1 => hb.trans (hk h1)
    exact ⟨hw, hasSlot_spcast hw⟩
  | 0x2A, h => by
    simp [decodeScl] at h
    obtain ⟨-, a, -, rfl⟩ := h
    exact ⟨rfl, hasSlot_xlt ..⟩
  | 0x2D, h => by
    simp [decodeScl] at h
    obtain ⟨-, n, -, rfl⟩ := h
    exact ⟨rfl, hasSlot_mfs ..⟩
  | 0x2E, h => by
    simp [decodeScl] at h
    obtain ⟨-, a, -, n, -, rfl⟩ := h
    exact ⟨rfl, hasSlot_mts ..⟩
  | 0x30, h => by
    simp [decodeScl] at h
    obtain ⟨-, f, -, a, -, rfl⟩ := h
    exact ⟨rfl, hasSlot_tinfo ..⟩
  | _ + 0x33, h => by cases h

theorem decodeVec_hasSlot {w : Nat} {i : Instr} : ∀ op, decodeVec w op = .ok i → i.wf = true ∧ HasSlot 1 op i
  | 0x00, h | 0x01, h | 0x02, h | 0x03, h | 0x04, h | 0x05, h | 0x06, h | 0x07, h | 0x0A, h | 0x0B, h | 0x0C, h
  | 0x0D, h | 0x0E, h | 0x0F, h | 0x2B, h => by
    obtain ⟨d, a, b, m, rfl⟩ := vr3_shape h
    exact ⟨rfl, hasSlot_vr3 rfl (fun _ => rfl) (by simp)⟩
  | 0x08, h | 0x09, h | 0x1A, h | 0x1B, h | 0x1C, h | 0x1D, h | 0x1F, h | 0x20, h => by
    obtain ⟨d, a, t, m, rfl⟩ := vr2_shape h
    exact ⟨rfl, hasSlot_vr2 rfl (fun _ => rfl) (by simp)⟩
  | 0x10, h | 0x11, h => by
    obtain ⟨d, a, n, t, m, rfl⟩ := vi_shape h
    exact ⟨rfl, hasSlot_vi rfl (fun _ => rfl) (by simp)⟩
  | 0x12, h | 0x13, h | 0x19, h => by
    obtain ⟨d, a, b, t, m, rfl⟩ := vrS_shape h
    exact ⟨rfl, hasSlot_vrS rfl (fun _ => rfl) (by simp)⟩
  | 0x14, h => by
    simp [decodeVec] at h
    obtain ⟨a, -, b, -, rfl⟩ := h
    exact ⟨rfl, hasSlot_vcmp ..⟩
  | 0x15, h => by
    simp [decodeVec] at h
    obtain ⟨-, a, -, b, -, rfl⟩ := h
    exact ⟨rfl, hasSlot_vsel ..⟩
  | 0x16, h => by
    simp [decodeVec] at h
    obtain ⟨⟨-, hm⟩, m, hc, a, -, rfl⟩ := h
    have hw : (Instr.vbcast (wD w) a (wT w) m).wf = true := wf_vbcast.2 (hc ▸ hm)
    exact ⟨hw, hasSlot_vbcast hw⟩
  | 0x17, h => by
    simp [decodeVec] at h
    obtain ⟨-, a, -, b, -, rfl⟩ := h
    exact ⟨rfl, hasSlot_vextr ..⟩
  | 0x18, h => by
    obtain ⟨ht, h⟩ := error_ite_eq_ok.1 h
    obtain ⟨d, a, b, m, rfl⟩ := vr3_shape h
    have hn : (wT w).isNibble = false := by simpa using ht
    exact ⟨wf_vperm.2 hn, hasSlot_vperm hn⟩
  | 0x1E, h => by
    obtain ⟨ht, h⟩ := error_ite_eq_ok.1 h
    obtain ⟨d, a, b, m, rfl⟩ := vr3_shape h
    have hn : (wT w).isWord = false := by simpa using ht
    exact ⟨wf_vdot.2 hn, hasSlot_vdot hn⟩
  | 0x21, h | 0x22, h => by
    obtain ⟨x, ad, a, rfl⟩ := vmMem_shape h
    exact ⟨rfl, hasSlot_vmMem rfl (fun _ => rfl) (by simp)⟩
  | 0x23, h | 0x24, h => by
    obtain ⟨x, n, a, s, rfl⟩ := vmIdx_shape h
    exact ⟨rfl, hasSlot_vmIdx rfl (fun _ => rfl) (by simp)⟩
  | 0x25, h => by
    simp [decodeVec] at h
    obtain ⟨-, a, -, rfl⟩ := h
    exact ⟨rfl, hasSlot_mpush ..⟩
  | 0x26, h | 0x27, h => by
    obtain ⟨-, h⟩ := ite_error_eq_ok.1 h
    cases h
    exact ⟨rfl, hasSlot_plain rfl fun _ => rfl⟩
  | 0x28, h => by
    obtain ⟨-, h⟩ := ite_error_eq_ok.1 h
    cases h
    exact ⟨rfl, hasSlot_mget ..⟩
  | 0x29, h => by
    simp [decodeVec] at h
    obtain ⟨⟨-, hn⟩, m, -, a, -, rfl⟩ := h
    exact ⟨wf_vfn.2 hn, hasSlot_vfn hn⟩
  | 0x2A, h => by
    obtain ⟨-, h⟩ := ite_error_eq_ok.1 h
    have : ∃ x k a, i = .vfnld x k a := by
      split at h <;> simp at h
      · obtain ⟨a, -, rfl⟩ := h
        exact ⟨_, _, a, rfl⟩
      · obtain ⟨-, a, -, rfl⟩ := h
        exact ⟨_, _, a, rfl⟩
    obtain ⟨x, k, a, rfl⟩ := this
    exact ⟨rfl, hasSlot_vfnld ..⟩
  | 0x2C, h => by
    simp [decodeVec] at h
    obtain ⟨-, a, -, rfl⟩ := h
    exact ⟨rfl, hasSlot_vopt ..⟩
  | 0x2D, h => by
    simp [decodeVec] at h
    obtain ⟨-, a, -, b, -, rfl⟩ := h
    exact ⟨rfl, hasSlot_vchk ..⟩
  | 0x2E, h => by
    obtain ⟨-, h⟩ := ite_error_eq_ok.1 h
    cases h
    exact ⟨rfl, hasSlot_vres ..⟩
  | _ + 0x2F, h => by cases h

theorem decodeMtx_hasSlot {w : Nat} {i : Instr} : ∀ op, decodeMtx w op = .ok i → i.wf = true ∧ HasSlot 2 op i
  | 0x00, h | 0x01, h | 0x02, h | 0x03, h => by
    cases h
    exact ⟨rfl, hasSlot_tm rfl (fun _ => rfl) (by simp)⟩
  | 0x04, h => by
    obtain ⟨-, h⟩ := ite_error_eq_ok.1 h
    cases h
    exact ⟨rfl, hasSlot_mmac ..⟩
  | 0x05, h => by
    obtain ⟨-, h⟩ := ite_error_eq_ok.1 h
    cases h
    exact ⟨rfl, hasSlot_mout ..⟩
  | 0x06, h => by
    obtain ⟨hs, h⟩ := ite_error_eq_ok.1 h
    cases h
    exact ⟨wf_mload.2 hs, hasSlot_shift rfl (fun _ => rfl) (by simp) hs⟩
  | 0x07, h => by
    obtain ⟨hs, h⟩ := ite_error_eq_ok.1 h
    cases h
    exact ⟨wf_madd.2 hs, hasSlot_shift rfl (fun _ => rfl) (by simp) hs⟩
  | 0x08, h => by
    obtain ⟨-, h⟩ := ite_error_eq_ok.1 h
    cases h
    exact ⟨rfl, hasSlot_mzero ..⟩
  | 0x09, h => by
    obtain ⟨-, h⟩ := ite_error_eq_ok.1 h
    cases h
    exact ⟨rfl, hasSlot_mcens ..⟩
  | 0x0A, h => by
    obtain ⟨-, h⟩ := ite_error_eq_ok.1 h
    cases h
    exact ⟨rfl, hasSlot_mbias ..⟩
  | _ + 0x0B, h => by cases h

theorem decodeCpy_hasSlot {w : Nat} {i : Instr} : ∀ op, decodeCpy w op = .ok i → i.wf = true ∧ HasSlot 3 op i
  | 0x00, h => by
    obtain ⟨f, -, h⟩ := bind_eq_ok.1 h
    obtain ⟨n, a, b, c, rfl⟩ := c3_shape h
    exact ⟨rfl,
      hasSlot_c3 rfl (fun _ => rfl) (by simp) (fun _ => CopyMode.ofCode_eq_ok) (f.code_lt.trans_le (by decide))⟩
  | 0x03, h => by
    obtain ⟨f, -, h⟩ := bind_eq_ok.1 h
    obtain ⟨n, a, b, c, rfl⟩ := c3_shape h
    exact ⟨rfl,
      hasSlot_c3 rfl (fun _ => rfl) (by simp) (fun _ => RedOp.ofCode_eq_ok) (f.code_lt.trans_le (by decide))⟩
  | 0x04, h | 0x05, h => by
    obtain ⟨f, -, h⟩ := bind_eq_ok.1 h
    obtain ⟨n, a, b, c, rfl⟩ := c3_shape h
    exact ⟨rfl,
      hasSlot_c3 rfl (fun _ => rfl) (by simp) (fun _ => SaeOp.ofCode_eq_ok) (f.code_lt.trans_le (by decide))⟩
  | 0x01, h | 0x02, h | 0x09, h => by
    obtain ⟨-, h⟩ := ite_error_eq_ok.1 h
    obtain ⟨n, a, b, c, rfl⟩ := c3_shape h
    exact ⟨rfl, hasSlot_c3z rfl (fun _ => rfl) (by simp)⟩
  | 0x06, h => by
    obtain ⟨n, a, b, c, rfl⟩ := c3_shape (k := fun n a b c => .atom n a b c (.ofCode (fld w 0 3))) h
    exact ⟨rfl, hasSlot_atom ..⟩
  | 0x07, h => by
    simp [decodeCpy] at h
    obtain ⟨-, f, -, a, -, b, -, rfl⟩ := h
    exact ⟨rfl, hasSlot_signal ..⟩
  | 0x08, h => by
    simp [decodeCpy] at h
    obtain ⟨-, a, -, b, -, rfl⟩ := h
    exact ⟨rfl, hasSlot_pgreq ..⟩
  | 0x0A, h => by
    simp [decodeCpy] at h
    obtain ⟨⟨-, hc⟩, a, ha, b, -, rfl⟩ := h
    have hw : (Instr.cgld (Fin.ofNat 2 (fld w 21 1)) a b (fld w 0 1 == 1)).wf = true :=
      wf_cgld.2 (by simpa [ha] using hc)
    exact ⟨hw, hasSlot_cgld hw⟩
  | _ + 0x0B, h => by cases h

theorem decodeCtl_hasSlot {w : Nat} {i : Instr} : ∀ op, decodeCtl w op = .ok i → i.wf = true ∧ HasSlot 4 op i
  | 0x00, h | 0x06, h | 0x0C, h => by
    obtain ⟨-, h⟩ := ite_error_eq_ok.1 h
    cases h
    exact ⟨rfl, hasSlot_plain rfl fun _ => rfl⟩
  | 0x01, h => by
    cases h
    exact ⟨rfl, hasSlot_prep ..⟩
  | 0x02, h => by
    simp [decodeCtl] at h
    obtain ⟨-, a, -, rfl⟩ := h
    exact ⟨rfl, hasSlot_prepr ..⟩
  | 0x03, h => by
    obtain ⟨⟨-, hc⟩, h⟩ := ite_error_eq_ok.1 h
    cases h
    have hw : (Instr.br (wB w) (Fin.ofNat 16 (fld w 15 4)) (fld w 14 1 == 1) (fld w 13 1 == 1)).wf = true :=
      wf_br.2 (by simp only [bitOf_fld, Fin.val_ofNat]; simp only [fld] at hc ⊢; omega)
    exact ⟨hw, hasSlot_br hw⟩
  | 0x04, h | 0x05, h => by
    obtain ⟨-, h⟩ := ite_error_eq_ok.1 h
    cases h
    exact ⟨rfl, hasSlot_target rfl (fun _ => rfl) (by simp)⟩
  | 0x07, h => by
    simp [decodeCtl] at h
    obtain ⟨-, a, -, rfl⟩ := h
    exact ⟨rfl, hasSlot_loop ..⟩
  | 0x08, h => by
    simp [decodeCtl] at h
    obtain ⟨-, a, -, rfl⟩ := h
    exact ⟨rfl, hasSlot_loops ..⟩
  | 0x09, h => by
    obtain ⟨-, h⟩ := ite_error_eq_ok.1 h
    cases h
    exact ⟨rfl, hasSlot_wait ..⟩
  | 0x0A, h => by
    obtain ⟨-, h⟩ := ite_error_eq_ok.1 h
    cases h
    exact ⟨rfl, hasSlot_sync ..⟩
  | 0x0B, h | 0x0D, h => by
    simp [decodeCtl] at h
    obtain ⟨-, o, -, rfl⟩ := h
    exact ⟨rfl, hasSlot_scope rfl (fun _ => rfl) (by simp)⟩
  | 0x0E, h => by
    obtain ⟨-, h⟩ := ite_error_eq_ok.1 h
    cases h
    exact ⟨rfl, hasSlot_brk ..⟩
  | _ + 0x0F, h => by cases h

theorem decodePfx_hasSlot {w : Nat} {i : Instr} : ∀ op, decodePfx w op = .ok i → i.wf = true ∧ HasSlot 5 op i
  | 0x00, h => by
    cases h
    exact ⟨rfl, hasSlot_limm ..⟩
  | 0x01, h => by
    simp [decodePfx] at h
    obtain ⟨-, e0, -, e1, -, e2, -, e3, -, rfl⟩ := h
    exact ⟨rfl, hasSlot_rept ..⟩
  | _ + 0x02, h => by cases h

theorem decodeTsk_hasSlot {w : Nat} {i : Instr} : ∀ op, decodeTsk w op = .ok i → i.wf = true ∧ HasSlot 6 op i
  | 0x00, h => by
    simp [decodeTsk, srMem] at h
    obtain ⟨-, a, -, b, -, rfl⟩ := h
    exact ⟨rfl, hasSlot_talloc ..⟩
  | 0x01, h => by
    simp [decodeTsk] at h
    obtain ⟨-, a, -, rfl⟩ := h
    exact ⟨rfl, hasSlot_tfree ..⟩
  | 0x02, h => by
    obtain ⟨a, b, rfl⟩ := srAB_shape h
    exact ⟨rfl, hasSlot_srAB rfl (fun _ => rfl) (by simp)⟩
  | 0x03, h => by
    simp [decodeTsk] at h
    obtain ⟨-, f, -, rfl⟩ := h
    exact ⟨rfl, hasSlot_tid ..⟩
  | 0x04, h | 0x05, h | 0x06, h => by
    obtain ⟨d, a, rfl⟩ := sr2_shape h
    exact ⟨rfl, hasSlot_sr2 rfl (fun _ => rfl) (by simp)⟩
  | 0x07, h | 0x08, h | 0x0C, h => by
    obtain ⟨-, h⟩ := ite_error_eq_ok.1 h
    cases h
    exact ⟨rfl, hasSlot_plain rfl fun _ => rfl⟩
  | 0x09, h => by
    obtain ⟨-, h⟩ := ite_error_eq_ok.1 h
    cases h
    exact ⟨rfl, hasSlot_trap ..⟩
  | 0x0A, h => by
    simp [decodeTsk] at h
    obtain ⟨-, a, -, rfl⟩ := h
    exact ⟨rfl, hasSlot_pipew ..⟩
  | 0x0B, h => by
    obtain ⟨-, h⟩ := ite_error_eq_ok.1 h
    cases h
    exact ⟨rfl, hasSlot_piper ..⟩
  | 0x0D, h => by
    simp [decodeTsk, srMem] at h
    obtain ⟨⟨-, -, hc⟩, a, ha, b, -, rfl⟩ := h
    have hw : (Instr.rvset a b (fld w 0 1 == 1)).wf = true := wf_rvset.2 (by simpa [ha] using hc)
    exact ⟨hw, hasSlot_rvset hw⟩
  | _ + 0x0E, h => by cases h

theorem decodeClass_hasSlot {w op : Nat} {i : Instr} : ∀ c, decodeClass c w op = .ok i → i.wf = true ∧ HasSlot c op i
  | 0, h => decodeScl_hasSlot op h
  | 1, h => decodeVec_hasSlot op h
  | 2, h => decodeMtx_hasSlot op h
  | 3, h => decodeCpy_hasSlot op h
  | 4, h => decodeCtl_hasSlot op h
  | 5, h => decodePfx_hasSlot op h
  | 6, h => decodeTsk_hasSlot op h
  | _ + 7, h => by cases h

theorem decodeSlot_hasSlot {w : Nat} {i : Instr} (h : decodeSlot w = .ok i) :
    i.wf = true ∧ HasSlot (fld w 28 3) (fld w 22 6) i :=
  decodeClass_hasSlot _ h

/-- A word is its class, its opcode and its operand bits, below the stop bit. -/
theorem head_add_operands (w : Nat) : head (fld w 28 3) (fld w 22 6) + w % 2 ^ 22 = w % 2 ^ 31 := by
  simp only [head, fld]
  omega

/-! ### The obligations -/

/-- Settles O57: the instruction's slot gives its word, and the decoder does not look at the stop bit. -/
theorem encodeDecodes : Obligations.EncodeDecodes := by
  intro i h
  obtain ⟨n, hn, he, hd⟩ := hasWord_of_wf h
  exact ⟨n, he, hn, hd n (by omega), hd _ (by omega)⟩

/-- Settles O58: the word that decodes has the class, the opcode and the operand bits of the instruction's slot. -/
theorem decodeEncodes : Obligations.DecodeEncodes := by
  intro w i _ h
  obtain ⟨hwf, v, -, he, hd⟩ := decodeSlot_hasSlot h
  rw [decodeSlot_eq, hd] at h
  exact ⟨hwf, by rw [he, ← h, head_add_operands]⟩

/-- Settles O56, by running the decoder. -/
theorem wordsDecode : Obligations.WordsDecode := by
  unfold Obligations.WordsDecode
  decide

end Sys2Proof
end

section
/-! SUPPORT. The boundary after a bundle that issues and transfers nowhere (06_sequencer R139, R149), and what a bundle of one
slot that only pushes leaves unchanged. -/

namespace Sys2Proof.Machine

open Sys2Proof

/-! ### Cores and their states -/

@[simp] theorem State.coreAt_setCore_same (s : State) (n : Nat) (k : Core) : (s.setCore n k).coreAt n = k :=
  FMap.getD_set_same ..

theorem State.coreAt_setCore_other (s : State) {n m : Nat} (k : Core) (h : m ≠ n) : (s.setCore n k).coreAt m = s.coreAt m :=
  FMap.getD_set_other _ _ _ h

@[simp] theorem State.coreAt_modCore_same (s : State) (n : Nat) (f : Core → Core) :
    (s.modCore n f).coreAt n = f (s.coreAt n) :=
  s.coreAt_setCore_same ..

theorem State.coreAt_modCore_other (s : State) {n m : Nat} (f : Core → Core) (h : m ≠ n) :
    (s.modCore n f).coreAt m = s.coreAt m :=
  s.coreAt_setCore_other _ h

@[simp] theorem State.coreAt_modCtxAt_ctx (s : State) (n : Nat) (f : Ctx → Ctx) :
    ((s.modCtxAt n f).coreAt n).ctx = f (s.coreAt n).ctx :=
  congrArg Core.ctx (State.coreAt_modCore_same _ _ _)

@[simp] theorem State.ctx_modCtx (s : State) (f : Ctx → Ctx) : (s.modCtx f).ctx = f s.ctx :=
  s.coreAt_modCtxAt_ctx ..

/-! ### The next bundle -/

section
variable {w : Nat} {c : Ctx} {e : LoopEntry} {rest : List LoopEntry}

theorem sequential_of_nil (h : c.loops = []) : sequential w c = { c with pc := c.pc + w } := by
  simp [sequential, h]

theorem sequential_of_within (h : c.loops = e :: rest) (hc : e.closesAt c = false) :
    sequential w c = { c with pc := c.pc + w } := by
  simp [sequential, h, hc]

theorem sequential_of_closes (h : c.loops = e :: rest) (hc : e.closesAt c = true) :
    sequential w c = closeLoop e rest w c := by
  simp [sequential, h, hc]

/-- The predicates after the close of a loop that leaves a count (R149). -/
def closedPreds (e : LoopEntry) (left : Nat) (c : Ctx) : BitVec 16 :=
  if e.loops then rotate c.p (decide (e.stages ≤ left)) else c.p

/-- A close leaves one pass less, 0 after the last one, which removes the loop's entry. -/
theorem closeLoop_eq : closeLoop e rest w c =
    { c with
      lc := c.lc.set e.lc (if (c.lc.getD e.lc 0).toNat ≤ 1 then 0 else c.lc.getD e.lc 0 - 1)
      p := closedPreds e ((c.lc.getD e.lc 0).toNat - 1) c
      loops := if (c.lc.getD e.lc 0).toNat ≤ 1 then rest else c.loops
      pc := if (c.lc.getD e.lc 0).toNat ≤ 1 then c.pc + w else e.first } := by
  by_cases h : (c.lc.getD e.lc 0).toNat ≤ 1
  · simp only [closeLoop, if_pos h, closedPreds, Nat.sub_eq_zero_of_le h]
    rfl
  · have hn : (c.lc.getD e.lc 0 - 1).toNat = (c.lc.getD e.lc 0).toNat - 1 := by bv_omega
    simp only [closeLoop, if_neg h, closedPreds, hn]

end

/-- A rotation leaves p0–p7, moves p8–p14 up by one and sets p8 (R149). -/
theorem rotate_getLsbD (p : BitVec 16) (b : Bool) (k : Fin 16) :
    (rotate p b).getLsbD k.val = if k.val < 8 then p.getLsbD k.val else if k.val = 8 then b else p.getLsbD (k.val - 1) := by
  fin_cases k <;> cases b <;> simp [rotate]

/-- A loop that closes sets its stage predicates, when it has any, by the count that is left. -/
theorem closedPreds_getLsbD {e : LoopEntry} (n : Nat) (c : Ctx) (h : e.loops = true) (k : Fin 16) :
    (closedPreds e n c).getLsbD k.val =
      if k.val < 8 then c.p.getLsbD k.val else if k.val = 8 then decide (e.stages ≤ n) else c.p.getLsbD (k.val - 1) := by
  rw [closedPreds, if_pos h, rotate_getLsbD]

/-! ### The boundary -/

/-- The choice of the next bundle changes the program counter, the predicates, the loop counters and the loop stack alone. -/
theorem sequential_frame (w : Nat) (c : Ctx) : sequential w c =
    { c with pc := (sequential w c).pc, p := (sequential w c).p, lc := (sequential w c).lc
             loops := (sequential w c).loops } := by
  unfold sequential closeLoop
  split
  · split
    · dsimp only
      split <;> rfl
    · rfl
  · rfl

theorem nextCtx_frame (w : Nat) (c : Ctx) : nextCtx w c =
    { c with
      pc := (sequential w c).pc, p := (sequential w c).p, lc := (sequential w c).lc, loops := (sequential w c).loops
      nbun := c.nbun + 1, icyc := c.icyc + 1
      pushes := c.pushes.map (fun x => { x with count := x.count - 1 })
      fmts := c.fmts.map (fun x => { x with count := x.count - 1 }) } := by
  rw [nextCtx, sequential_frame, countIssue]

@[simp] theorem nextCtx_pc (w : Nat) (c : Ctx) : (nextCtx w c).pc = (sequential w c).pc := rfl
@[simp] theorem nextCtx_p (w : Nat) (c : Ctx) : (nextCtx w c).p = (sequential w c).p := rfl
@[simp] theorem nextCtx_lc (w : Nat) (c : Ctx) : (nextCtx w c).lc = (sequential w c).lc := rfl
@[simp] theorem nextCtx_loops (w : Nat) (c : Ctx) : (nextCtx w c).loops = (sequential w c).loops := rfl

/-- A bundle whose scratch holds its length alone takes its core over the boundary and does nothing more. -/
theorem finishBundle_of_alone {s : State} (h : Alone s) : finishBundle s =
    { s.modCore s.cur (fun k => rested (nextCtx s.iss.words k.ctx) k) with iss := {}, nextBundle := s.nextBundle + 1 } := by
  rw [finishBundle, h]
  rfl

/-- After a bundle of one slot that has changed the task's state on its core alone, nothing else changes. -/
theorem leavesCore_modCtx {s : State} (h : Alone s) (f : Ctx → Ctx) :
    LeavesCore (.next (finishBundle (s.modCtx f))) (rested (nextCtx s.iss.words (f s.ctx)) s.core) s := by
  rw [finishBundle_of_alone (s := s.modCtx f) h]
  refine ⟨_, rfl, ⟨fun _ => rfl, fun _ => rfl⟩, by simp [SamePackage], fun n hn => ?_, rfl, rfl, ?_⟩
  · exact (State.coreAt_modCore_other _ _ hn).trans (State.coreAt_modCore_other _ _ hn)
  · have hk : (s.modCtx f).coreAt (s.modCtx f).cur = { s.core with ctx := f s.ctx } := State.coreAt_modCore_same _ _ _
    exact (State.coreAt_modCore_same _ _ _).trans (by rw [hk]; rfl)

/-- Settles O53: the task's state by the case of the loop stack, the package by the boundary of a bundle of one slot. -/
theorem resultFrame : Obligations.ResultFrame := by
  refine ⟨fun w c => ⟨nextCtx_frame w c, fun h => ?_, fun e rest h => ?_⟩, fun s p ha => leavesCore_modCtx ha _⟩
  · simp [sequential_of_nil h, h]
  · simp only [nextCtx_pc, nextCtx_p, nextCtx_lc, nextCtx_loops, eq_comm (b := e.retDepth), ← closesAt_iff]
    cases hc : e.closesAt c with
    | false => simp [sequential_of_within h hc, h]
    | true =>
      rw [sequential_of_closes h hc, closeLoop_eq]
      refine ⟨by simp, fun _ hl => ?_, fun _ hl => ?_, fun k hk => FMap.getD_set_other _ _ _ hk,
        fun hp => by simp [closedPreds, hp], fun _ hp => closedPreds_getLsbD _ c hp⟩
      · simp only [if_neg (Nat.not_le.2 hl), FMap.getD_set_same, and_self]
      · simp only [if_pos hl, FMap.getD_set_same, and_self]

end Sys2Proof.Machine
end

section
/-! SUPPORT. The events of a core's boundary: the push and the format write due (02_bundles R44–R46; 03_numbers R66, R68), and
what taking a fault leaves (06_sequencer R139, R159). -/

namespace Sys2Proof.Machine

open Sys2Proof

/-! ### What is due first -/

theorem isReady_eq_false {x : PushState} : isReady x = false ↔ x ≠ .ready := by cases x <;> simp [isReady]

theorem isFailed_eq_false {x : PushState} : isFailed x = false ↔ ∀ code aux, x ≠ .failed code aux := by
  cases x <;> simp [isFailed]

theorem takeWhere_eq_some {f : PushState → Bool} {pre post : List Push} {p : Push}
    (hpre : ∀ x ∈ pre, x.count = 0 → f x.state = false) (hp : p.count = 0) (hf : f p.state = true) :
    takeWhere f (pre ++ p :: post) = some (p, pre ++ post) := by
  induction pre with
  | nil => simp [takeWhere, hp, hf]
  | cons x xs ih =>
    have hx : ¬ (x.count = 0 ∧ f x.state = true) := by simpa using hpre x (by simp)
    rw [List.cons_append, takeWhere, if_neg hx, ih fun y hy => hpre y (by simp [hy])]
    rfl

theorem takeWhere_eq_none {f : PushState → Bool} {ps : List Push} (h : ∀ x ∈ ps, x.count = 0 → f x.state = false) :
    takeWhere f ps = none := by
  induction ps with
  | nil => rfl
  | cons x xs ih =>
    have hx : ¬ (x.count = 0 ∧ f x.state = true) := by simpa using h x (by simp)
    rw [takeWhere, if_neg hx, ih fun y hy => h y (by simp [hy])]
    rfl

theorem takeFmt_eq_some {a b : List FmtWrite} {f : FmtWrite} (ha : ∀ x ∈ a, x.count ≠ 0) (hf : f.count = 0) :
    takeFmt (a ++ f :: b) = some (f, a ++ b) := by
  induction a with
  | nil => simp [takeFmt, hf]
  | cons x xs ih =>
    rw [List.cons_append, takeFmt, if_neg (ha x (by simp)), ih fun y hy => ha y (by simp [hy])]
    rfl

/-! ### A push performed -/

/-- A write of a general register changes that file alone, and nothing for register 0. -/
theorem Ctx.gwrite_eq (c : Ctx) (n : Nat) (v : Word) :
    c.gwrite n v = { c with g := if n = 0 then c.g else c.g.set n v } := by
  unfold Ctx.gwrite
  split <;> rfl

/-- A write of a vector register changes that file alone, and nothing for register 0. -/
theorem Ctx.vwrite_eq (c : Ctx) (n : Nat) (v : VWord) :
    c.vwrite n v = { c with v := if n = 0 then c.v else c.v.set n v } := by
  unfold Ctx.vwrite
  split <;> rfl

/-- A register file read after a write: register 0 keeps its value. -/
theorem readFile_write {α : Type} (m : FMap α) (n : Nat) (x d : α) (r : Fin 32) :
    (if r = 0 then d else (if n = 0 then m else m.set n x).getD r.val d) =
      if r.val = n ∧ n ≠ 0 then x else if r = 0 then d else m.getD r.val d := by
  by_cases hn : n = 0
  · simp [hn]
  · by_cases hr : r.val = n
    · have h0 : r ≠ 0 := fun h => hn (by simp [← hr, h])
      simp [hn, hr, h0]
    · simp [hn, hr, FMap.getD_set_other _ _ _ hr]

/-- A scalar push enters the scalar queue and its register, and its flags are ORed in. -/
theorem Ctx.performPush_scalar {c : Ctx} {p : Push} (h : p.vec = false) : c.performPush p =
    { c with q := pushQueue c.q p.sval, g := if p.dest = 0 then c.g else c.g.set p.dest p.sval
             satf := c.satf ||| p.satf, rmask := c.rmask ||| p.rmask, rmScl := c.rmScl || p.scl } := by
  simp only [Ctx.performPush, h, Bool.false_eq_true, if_false, Ctx.gwrite_eq]

/-- A vector push enters the vector queue and its register, and its flags are ORed in. -/
theorem Ctx.performPush_vector {c : Ctx} {p : Push} (h : p.vec = true) : c.performPush p =
    { c with vq := pushQueue c.vq p.vval, v := if p.dest = 0 then c.v else c.v.set p.dest p.vval
             satf := c.satf ||| p.satf, rmask := c.rmask ||| p.rmask, rmScl := c.rmScl || p.scl } := by
  simp only [Ctx.performPush, h, if_true, Ctx.vwrite_eq]

/-! ### The rows of the boundary -/

section
variable {s : State} {n : Nat} {p : Push}

theorem exec_resultPush_ready {rest : List Push} (h : takeWhere isReady (s.coreAt n).ctx.pushes = some (p, rest))
    (hg : pushGranule (s.coreAt n).ctx p = none) :
    exec (.resultPush n) s =
      .next ({ s with cur := n }.modCtxAt n fun c => { c with pushes := rest }.performPush p) := by
  have h' : takeWhere isReady { s with cur := n }.ctx.pushes = some (p, rest) := h
  have hg' : pushGranule { s with cur := n }.ctx p = none := hg
  show execResultPush n s = _
  simp only [execResultPush, h', hg']
  rfl

theorem exec_resultPush_failed {rest : List Push} (hr : takeWhere isReady (s.coreAt n).ctx.pushes = none)
    (h : takeWhere isFailed (s.coreAt n).ctx.pushes = some (p, rest)) :
    exec (.resultPush n) s = .next (failPush { s with cur := n } p) := by
  have hr' : takeWhere isReady { s with cur := n }.ctx.pushes = none := hr
  have h' : takeWhere isFailed { s with cur := n }.ctx.pushes = some (p, rest) := h
  show execResultPush n s = _
  simp only [execResultPush, hr', h']

theorem exec_formatWriteApply_due {f : FmtWrite} {rest : List FmtWrite}
    (h : takeFmt (s.coreAt n).ctx.fmts = some (f, rest)) :
    exec (.formatWriteApply n) s = .next (s.modCtxAt n fun c =>
      { c with fmts := rest, vf := if f.vf then f.val else c.vf, mf := if f.vf then c.mf else f.val }) := by
  show execFormatWriteApply n s = _
  simp only [execFormatWriteApply, h]
  cases f.vf <;> rfl

theorem exec_illegalSlotWord_error {e : BundleErr} (h : fetchBundle (s.coreAt n) = .error e) :
    exec (.illegalSlotWord n) s = .next (takeFault e.code e.slot 0 0 false none { s with cur := n }) := by
  have h' : fetchBundle { s with cur := n }.core = .error e := h
  show execIllegalSlotWord n s = _
  simp only [execIllegalSlotWord, h']

/-- The executing core after a fault of its bundle that raises no mark: stopped by the fault, its task's state as it was. -/
theorem takeFault_core (code : FaultCode) (slot : Nat) (faddr : Word) (aux : Nat) (s : State) :
    ((takeFault code slot faddr aux false none s).coreAt s.cur).mode =
        .stopped (.faulted { faultInfo s code slot faddr aux false with raised := .nothing }) ∧
      ((takeFault code slot faddr aux false none s).coreAt s.cur).ctx = s.ctx := by
  constructor
  · exact congrArg Core.mode (State.coreAt_setCore_same _ _ _)
  · exact (congrArg Core.ctx (State.coreAt_setCore_same _ _ _)).trans rfl

theorem takeFault_sameMemory (code : FaultCode) (slot : Nat) (faddr : Word) (aux : Nat) (async : Bool)
    (mark : Option Cls) (s : State) : SameMemory s (takeFault code slot faddr aux async mark s) :=
  ⟨fun _ => rfl, fun _ => rfl⟩

/-- The fault of a failed push keeps the push in its record. -/
theorem takeFault_notePush (code : FaultCode) (faddr : Word) (aux : Nat) (p : Push) (s : State) :
    (((takeFault code 0 faddr aux false none s).modCore s.cur (notePush p)).coreAt s.cur).mode =
        .stopped (.faulted { faultInfo s code 0 faddr aux false with raised := .push p }) ∧
      (((takeFault code 0 faddr aux false none s).modCore s.cur (notePush p)).coreAt s.cur).ctx = s.ctx := by
  obtain ⟨hm, hc⟩ := takeFault_core code 0 faddr aux s
  rw [State.coreAt_modCore_same, notePush, hm]
  exact ⟨rfl, hc⟩

/-- A push that failed stops its task at the bundle due, and changes no byte. -/
theorem failPush_faults {code : FaultCode} {aux : Nat} (h : p.state = .failed code aux) (s : State) :
    SameMemory s (failPush s p) ∧ ∃ f, ((failPush s p).coreAt s.cur).mode = .stopped (.faulted f) ∧ f.code = code ∧
      f.aux = aux ∧ f.faddr = p.addr ∧ f.bundle = s.ctx.pc ∧ ((failPush s p).coreAt s.cur).ctx.pc = s.ctx.pc := by
  have hpc : (s.modCtx fun c => { c with pushes := zeroFailed c.pushes }).ctx.pc = s.ctx.pc :=
    by rw [State.ctx_modCtx]
  have hf : failPush s p = (takeFault code 0 p.addr aux false none
      (s.modCtx fun c => { c with pushes := zeroFailed c.pushes })).modCore s.cur (notePush p) := by
    simp only [failPush, h]
  obtain ⟨hm, hc⟩ := takeFault_notePush code p.addr aux p (s.modCtx fun c => { c with pushes := zeroFailed c.pushes })
  rw [hf]
  exact ⟨⟨fun _ => rfl, fun _ => rfl⟩, _, hm, rfl, rfl, rfl, hpc, (congrArg Ctx.pc hc).trans hpc⟩

end

/-- Settles O27: each row takes what is first due in issue order, and its effect is that of the row's own lemma. -/
theorem pushEventResults : Obligations.PushEventResults := by
  refine fun s n pre post p => ⟨fun hc hpre hp hr hg => ?_, fun hc hnr hpre hp code aux hf => ?_,
    fun a b f hc ha hf => ?_, fun e he => ?_⟩
  · have ht : takeWhere isReady (s.coreAt n).ctx.pushes = some (p, pre ++ post) := by
      rw [hc, takeWhere_eq_some (fun x hx h0 => isReady_eq_false.2 (hpre x hx h0)) hp (by rw [hr]; rfl)]
    refine ⟨_, exec_resultPush_ready ht hg, ⟨fun _ => rfl, fun _ => rfl⟩, ?_⟩
    rw [State.coreAt_modCtxAt_ctx]
    cases hv : p.vec with
    | false =>
      rw [Ctx.performPush_scalar hv]
      exact ⟨rfl, rfl, rfl, by unfold SameSystem; and_intros <;> rfl, rfl, rfl, rfl,
        fun _ => ⟨rfl, rfl, rfl, fun r => readFile_write _ _ _ _ _⟩, nofun⟩
    | true =>
      rw [Ctx.performPush_vector hv]
      exact ⟨rfl, rfl, rfl, by unfold SameSystem; and_intros <;> rfl, rfl, rfl, rfl, nofun,
        fun _ => ⟨rfl, rfl, rfl, fun r => readFile_write _ _ _ _ _⟩⟩
  · have hn : takeWhere isReady (s.coreAt n).ctx.pushes = none :=
      takeWhere_eq_none fun x hx h0 => isReady_eq_false.2 (hnr x hx h0)
    have ht : takeWhere isFailed (s.coreAt n).ctx.pushes = some (p, pre ++ post) := by
      rw [hc, takeWhere_eq_some (fun x hx h0 => isFailed_eq_false.2 (hpre x hx h0)) hp (by rw [hf]; rfl)]
    obtain ⟨hs, f, hm, hcode, haux, haddr, hb, hpc⟩ := failPush_faults hf { s with cur := n }
    exact ⟨_, f, exec_resultPush_failed hn ht, hs, hm, hcode, haux, haddr, hb, hpc⟩
  · have ht : takeFmt (s.coreAt n).ctx.fmts = some (f, a ++ b) := by rw [hc, takeFmt_eq_some ha hf]
    refine ⟨_, exec_formatWriteApply_due ht, ⟨fun _ => rfl, fun _ => rfl⟩, ?_⟩
    rw [State.coreAt_modCtxAt_ctx]
    exact ⟨rfl, rfl, rfl, rfl, fun k hk => State.coreAt_modCore_other _ _ hk⟩
  · exact ⟨_, _, exec_illegalSlotWord_error he, takeFault_sameMemory .., (takeFault_core ..).1, rfl, rfl, rfl, rfl, rfl⟩

end Sys2Proof.Machine
end

section
/-! SUPPORT. One step of the package: the order in which its sources are asked (notes/assumptions/1), and the bundle that
a core at its boundary issues (02_bundles R28, R31, R38; 06_sequencer R139). -/

namespace Sys2Proof.Machine

open Sys2Proof

/-! ### Events -/

theorem takeEvent_of_ready {s : State} {i : Instr} (h : adminWaits s i = false) : takeEvent i s = exec i s := by
  simp [takeEvent, h]

theorem takeEvent_of_waits {s t : State} {i : Instr} (h : adminWaits s i = true) (ht : exec i s = .next t) :
    takeEvent i s = .next (t.retry i) := by
  simp [takeEvent, h, ht, again]

/-! ### The order of the sources -/

section
variable {s : State} {i : Instr} {r : List (Nat × Instr)}

theorem step_of_agenda (h : clockStopped s = false) (ha : s.agenda = (0, i) :: r) :
    step s = takeEvent i { s with agenda := r } := by
  simp only [step, h, Bool.false_eq_true, if_false, ha]

theorem step_of_own (h : clockStopped s = false) (ha : ∀ j q, s.agenda ≠ (0, j) :: q) (ho : s.own = (0, i) :: r) :
    step s = takeEvent i { s with own := r } := by
  rw [step, if_neg (by simp [h])]
  split
  · exact absurd ‹_› (ha _ _)
  · simp only [ho]

/-- What a step does when no event is due: the engines act, then the cores in turn, then the clock. -/
def stepUndue (s : State) : Out :=
  match engineNext s with
  | some i => exec i s
  | none =>
    match s.turn with
    | n :: _ => coreStep n s
    | [] => if s.sys.boot = .init then .next (bootRom s) else .next (tick s)

theorem step_of_nothing_due (h : clockStopped s = false) (ha : ∀ j q, s.agenda ≠ (0, j) :: q)
    (ho : ∀ j q, s.own ≠ (0, j) :: q) : step s = stepUndue s := by
  rw [step, if_neg (by simp [h])]
  split
  · exact absurd ‹_› (ha _ _)
  · split
    · exact absurd ‹_› (ho _ _)
    · rfl

theorem stepUndue_of_engine (h : engineNext s = some i) : stepUndue s = exec i s := by
  simp only [stepUndue, h]

theorem stepUndue_of_turn {n : Nat} {rest : List Nat} (h : engineNext s = none) (ht : s.turn = n :: rest) :
    stepUndue s = coreStep n s := by
  simp only [stepUndue, h, ht]

theorem stepUndue_of_clock (h : engineNext s = none) (ht : s.turn = []) (hb : s.sys.boot ≠ .init) :
    stepUndue s = .next (tick s) := by
  simp only [stepUndue, h, ht, if_neg hb]

end

/-! ### A word that is a bundle by itself -/

theorem immRules_singleton {i : Instr} (hl : i.isLimm = false) (h : immInRange none i = true) :
    immRules 0 none [i] = none := by
  have hv : ∀ v, i ≠ .limm v := by
    rintro v rfl
    cases hl
  rw [immRules, if_pos h, immRules]
  exact hv

theorem prefixRules_singleton {i : Instr} (hl : i.isLimm = false) (hr : i.isRepeat = false) :
    prefixRules 0 0 false false [i] = none := by
  simp [prefixRules, hl, hr]

theorem stopBit_toNat (w : SlotWord) : stopBit w.toNat = w.getLsbD 31 := by
  rw [stopBit, fld, BitVec.getLsbD, Nat.testBit_eq_decide_div_mod_eq]
  rfl

theorem imemWords_cons {c : Core} {a n : Nat} {w : SlotWord} (ha : a < 65536) (hw : c.imem.get? a = some w) :
    imemWords c a (n + 1) = w.toNat :: imemWords c (a + 1) n := by
  rw [imemWords, if_neg (by omega), FMap.getD, hw]
  rfl

theorem takeBundle_of_stop {w n : Nat} {ws : List Nat} (h : stopBit w = true) :
    takeBundle (n + 1) (w :: ws) = some [w] := by
  simp [takeBundle, h]

theorem decodeBundle_singleton {close : Bool} {w : Nat} {ws : List Nat} {i : Instr} (hs : stopBit w = true)
    (hd : decodeSlot w = .ok i) (hl : i.isLimm = false) (hr : i.isRepeat = false) (hm : immInRange none i = true)
    (hb : bundleRules close [i] = none) : decodeBundle close (w :: ws) = .ok [i] := by
  have he : bundleExtent (w :: ws) = .ok [w] := by rw [bundleExtent, takeBundle_of_stop hs]
  have hds : decodeSlots 0 [w] = .ok [i] := by simp only [decodeSlots, hd]; rfl
  simp only [decodeBundle, he, hds, Except.bind]
  simp [prefixRules_singleton hl hr, immRules_singleton hl hm, hb]

/-! ### A core at its boundary -/

/-- The bundle of a core issues when nothing is due before it. -/
theorem nextAtBoundary_issue {s : State} {c : Core} {is : List Instr} (hm : c.mode = .running)
    (hr : (c.ctx.rep.map RepState.adv).getD false = false) (hf : c.ctx.fmts.any (·.count == 0) = false)
    (hs : c.stopReq = none) (hb : c.bubble = 0) (hn : c.fences = []) (hp : ∀ p ∈ c.ctx.pushes, p.count ≠ 0)
    (hd : fetchBundle c = .ok is) : nextAtBoundary s c = .issue is (fetchLen c) := by
  have hlate : lateDue c.ctx.pushes = false := by simp only [lateDue, List.any_eq_false]; simp_all
  have hready : readyDue c.ctx.pushes = false := by simp only [readyDue, List.any_eq_false]; simp_all
  have hfail : failedDue c.ctx.pushes = false := by simp only [failedDue, List.any_eq_false]; simp_all
  simp [nextAtBoundary, nextBundle, hm, hr, hf, hs, hb, hn, hlate, hready, hfail, hd]

theorem coreStep_of_issue {s : State} {n : Nat} {is : List Instr} {k : Nat}
    (h : nextAtBoundary { s with cur := n } (s.coreAt n) = .issue is k) :
    coreStep n s = endTurn (issueBundle is k { s with cur := n }) := by
  simp only [coreStep, h]

theorem coreStep_of_idle {s : State} {n : Nat} (h : (s.coreAt n).mode ≠ .running) :
    coreStep n s = .next { s with cur := n, turn := s.turn.tail } := by
  simp only [coreStep, nextAtBoundary, if_pos h]

/-- Several slots are checked, and then they act (02_bundles R31, R40). -/
theorem issueBundle_of_several {s noted acted : State} {i j : Instr} {is : List Instr} {k : Nat}
    (hc : runSlots 0 (i :: j :: is) { s with iss := { phase := .check, words := k } } = .next noted)
    (ha : runSlots 0 (i :: j :: is) { s with iss := { phase := .commit, words := k } } = .next acted) :
    issueBundle (i :: j :: is) k s = .next (conclude noted acted) := by
  simp only [issueBundle, hc, ha]

/-- Settles O54: the sources of a step in their order, and the bundle at a core's boundary. -/
theorem stepRunsDecoded : Obligations.StepRunsDecoded := by
  refine ⟨fun s i r h ha => ⟨fun hw => ?_, fun u hw hu => ?_⟩, fun s i r h ha ho => ⟨fun hw => ?_, fun u hw hu => ?_⟩,
    fun c w i hpc hw hs hd hl hr hm hb => ?_,
    fun s h ha ho => ⟨fun i hi => ?_, fun he => ⟨fun ht hb => ?_, fun n rest ht => ⟨fun hm => ?_, ?_⟩⟩⟩⟩
  · rw [step_of_agenda h ha, takeEvent_of_ready hw]
  · rw [step_of_agenda h ha, takeEvent_of_waits hw hu]
  · rw [step_of_own h ha ho, takeEvent_of_ready hw]
  · rw [step_of_own h ha ho, takeEvent_of_waits hw hu]
  · have hs' : stopBit w.toNat = true := by rw [stopBit_toNat, hs]
    rw [fetchLen, bundleLen, imemWords_cons hpc hw]
    exact ⟨decodeBundle_singleton hs' hd hl hr hm hb, by rw [takeBundle_of_stop hs']; rfl⟩
  · rw [step_of_nothing_due h ha ho, stepUndue_of_engine hi]
  · rw [step_of_nothing_due h ha ho, stepUndue_of_clock he ht hb]
  · rw [step_of_nothing_due h ha ho, stepUndue_of_turn he ht, coreStep_of_idle hm, ht]
    rfl
  · intro hm hr hf hq hb hn hp
    have hstep : step s = coreStep n s := by rw [step_of_nothing_due h ha ho, stepUndue_of_turn he ht]
    refine ⟨fun i hd => ?_, fun i j is hd noted acted hc hac => ?_⟩
    · rw [hstep, coreStep_of_issue (nextAtBoundary_issue hm hr hf hq hb hn hp hd)]
      rfl
    · rw [hstep, coreStep_of_issue (nextAtBoundary_issue hm hr hf hq hb hn hp hd),
        issueBundle_of_several (s := { s with cur := n }) hc hac]
      rfl

end Sys2Proof.Machine
end

section
/-! SUPPORT. Every step keeps the canonical form of both memories (04_memory_model R79; 17_system R394): one lemma for
each function of the model that leaves a state, in the order of the model's files, and the row, the core and the step. -/

namespace Sys2Proof.Machine

open Sys2Proof

/-! ### What keeps the canonical form -/

/-- What is canonical of a core's next action at its boundary. -/
def CanonNext : CoreNext → Prop
  | .set t => CanonMem t
  | .wait t => CanonMem t
  | _ => True

/-- What is canonical of the storage of a launch. -/
def CanonLaunch : Launch → Prop
  | .ok t _ => CanonMem t
  | _ => True

section
variable {s : State}

theorem CanonMem.mem (h : CanonMem s) : Memory.wf s.mem = true := h.1

theorem CanonMem.host (h : CanonMem s) : Memory.wf s.host = true := h.2

section
variable {accid cyc timeU lastU cores dies tasks poolOrder admitOrder batches away ctxs revs nextRev copies nextCopy ops nextOp
  nextBundle queues admin adminCount adminCmds msix stations mig sys cfg agenda own outbox answers cur turn iss freeCount}

/-- A change of the package's memory, and of other fields than the two memories. -/
theorem CanonMem.withMem {m : List Host.Cell} (h : CanonMem s) (hm : Memory.wf m = true) :
    CanonMem ⟨accid, cyc, timeU, lastU, m, s.host, cores, dies, tasks, poolOrder, admitOrder, batches, away, ctxs, revs,
      nextRev, copies, nextCopy, ops, nextOp, nextBundle, queues, admin, adminCount, adminCmds, msix, stations, mig, sys, cfg,
      agenda, own, outbox, answers, cur, turn, iss, freeCount⟩ := ⟨hm, h.2⟩

/-- A change of host memory, and of other fields than the two memories. -/
theorem CanonMem.withHost {m : List Host.Cell} (h : CanonMem s) (hm : Memory.wf m = true) :
    CanonMem ⟨accid, cyc, timeU, lastU, s.mem, m, cores, dies, tasks, poolOrder, admitOrder, batches, away, ctxs, revs,
      nextRev, copies, nextCopy, ops, nextOp, nextBundle, queues, admin, adminCount, adminCmds, msix, stations, mig, sys, cfg,
      agenda, own, outbox, answers, cur, turn, iss, freeCount⟩ := ⟨h.1, hm⟩

/-- A change of other fields than the two memories. -/
theorem CanonMem.upd (h : CanonMem s) :
    CanonMem ⟨accid, cyc, timeU, lastU, s.mem, s.host, cores, dies, tasks, poolOrder, admitOrder, batches, away, ctxs, revs,
      nextRev, copies, nextCopy, ops, nextOp, nextBundle, queues, admin, adminCount, adminCmds, msix, stations, mig, sys, cfg,
      agenda, own, outbox, answers, cur, turn, iss, freeCount⟩ := h

end

theorem CanonMem.ite {c : Prop} [Decidable c] {t : State} (h : CanonMem s) (ht : CanonMem t) :
    CanonMem (if c then s else t) := by
  split
  · exact h
  · exact ht

theorem CanonMem.foldl {α : Type} {f : State → α → State} {l : List α} (h : CanonMem s)
    (hf : ∀ t x, CanonMem t → CanonMem (f t x)) : CanonMem (l.foldl f s) := by
  induction l generalizing s with
  | nil => exact h
  | cons x l ih => exact ih (hf s x h)

theorem CanonMem.foldlRun {α : Type} {w : CopyRun} {f : CopyRun → α → CopyRun} {l : List α} (h : CanonMem w.s)
    (hf : ∀ v x, CanonMem v.s → CanonMem (f v x).s) : CanonMem (l.foldl f w).s := by
  induction l generalizing w with
  | nil => exact h
  | cons x l ih => exact ih (hf w x h)

theorem CanonMem.getD {x : Option State} (h : CanonMem s) (hx : ∀ t, x = some t → CanonMem t) : CanonMem (x.getD s) := by
  cases x with
  | none => exact h
  | some t => exact hx t rfl

end

/-- Writing the bits of some bytes keeps the canonical form. -/
theorem wf_putWBytes {key : WByte → Nat} {ws : List WByte} {m : List Host.Cell} (h : Memory.wf m = true) :
    Memory.wf (ws.foldl (fun m w => putWByte m (key w) w) m) = true := by
  induction ws generalizing m with
  | nil => exact h
  | cons w ws ih => exact ih (Memory.wf_set _ _ h)

section
variable {s : State} {w : CopyRun}

/-! ### Memory -/

theorem CanonMem.putBytes {key bs} (h : CanonMem s) : CanonMem (s.putBytes key bs) := h.withMem (Memory.wf_setN _ _ h.mem)

theorem CanonMem.putWBytes {key ws} (h : CanonMem s) : CanonMem (s.putWBytes key ws) := h.withMem (wf_putWBytes h.mem)

theorem CanonMem.viewAfterRead {view key len} (h : CanonMem s) : CanonMem (s.viewAfterRead view key len) := h.upd

theorem CanonMem.addCopy {gran k} (h : CanonMem s) : CanonMem (addCopy s gran k) := h.withMem (Memory.wf_setN _ _ h.mem)

theorem CanonMem.makeCopies {view gran} (h : CanonMem s) : CanonMem (makeCopies s view gran) :=
  h.foldl fun _ _ h => h.addCopy

theorem CanonMem.markWritten {view gran} (h : CanonMem s) : CanonMem (markWritten s view gran) := h.ite h.upd

theorem CanonMem.prepareWrite {view key len} (h : CanonMem s) : CanonMem (s.prepareWrite view key len) :=
  h.ite (h.foldl fun _ _ h => h.makeCopies.markWritten)

theorem CanonMem.viewWrite {view key len ws} (h : CanonMem s) : CanonMem (s.viewWrite view key len ws) :=
  h.prepareWrite.withMem (wf_putWBytes h.prepareWrite.mem)

theorem CanonMem.viewPut {view key bs} (h : CanonMem s) : CanonMem (s.viewPut view key bs) := h.viewWrite

theorem CanonMem.freeCopy {c} (h : CanonMem s) : CanonMem (freeCopy s c) := h.withMem (Memory.wf_clear _ _ h.mem)

theorem CanonMem.freeRevision {view} (h : CanonMem s) : CanonMem (freeRevision s view) :=
  (h.foldl fun _ _ h => h.freeCopy).upd.foldl fun _ _ h => h.freeCopy

/-! ### Ops -/

theorem CanonMem.setCore {n c} (h : CanonMem s) : CanonMem (s.setCore n c) := h.upd

theorem CanonMem.modCore {n f} (h : CanonMem s) : CanonMem (s.modCore n f) := h.setCore

theorem CanonMem.modCtxAt {n f} (h : CanonMem s) : CanonMem (s.modCtxAt n f) := h.modCore

theorem CanonMem.modCtx {f} (h : CanonMem s) : CanonMem (s.modCtx f) := h.modCtxAt

theorem CanonMem.modTask {id f} (h : CanonMem s) : CanonMem (s.modTask id f) := h.upd

theorem CanonMem.modContext {asid f} (h : CanonMem s) : CanonMem (s.modContext asid f) := by
  unfold State.modContext
  split
  · exact h.upd
  · exact h

theorem CanonMem.modDie {d f} (h : CanonMem s) : CanonMem (s.modDie d f) := h.upd

theorem CanonMem.modOwner {task member f} (h : CanonMem s) : CanonMem (s.modOwner task member f) := by
  unfold State.modOwner
  split
  · exact h.modCtxAt
  · exact h.modTask

theorem CanonMem.addPush {p} (h : CanonMem s) : CanonMem (s.addPush p) := h.modCtx

theorem CanonMem.pushS {d lat v} (h : CanonMem s) : CanonMem (pushS d lat v s) := h.addPush

theorem CanonMem.pushSF {d lat v f} (h : CanonMem s) : CanonMem (pushSF d lat v f s) := h.addPush

theorem CanonMem.pushV {d lat v f} (h : CanonMem s) : CanonMem (pushV d lat v f s) := h.addPush

theorem CanonMem.dropOp {id} (h : CanonMem s) : CanonMem (s.dropOp id) := h.upd

theorem CanonMem.modOp {id f} (h : CanonMem s) : CanonMem (s.modOp id f) := h.upd

theorem CanonMem.startOp {lat ranges k} (h : CanonMem s) : CanonMem (s.startOp lat ranges k) := h.upd

theorem CanonMem.startDieOp {die asid lat k} (h : CanonMem s) : CanonMem (s.startDieOp die asid lat k) := h.upd

theorem CanonMem.startEngineOp {asid lat k} (h : CanonMem s) : CanonMem (s.startEngineOp asid lat k) := h.startDieOp

theorem CanonMem.noteErr {err} (h : CanonMem s) : CanonMem (s.noteErr err) := h.upd

theorem CanonMem.endOp {o k err} (h : CanonMem s) : CanonMem (s.endOp o k err) := h.dropOp.noteErr.modOwner

theorem CanonMem.modStation {n f} (h : CanonMem s) : CanonMem (s.modStation n f) := h.upd

theorem CanonMem.emitFlits {station peer ch bits} (h : CanonMem s) : CanonMem (s.emitFlits station peer ch bits) := h.upd

theorem CanonMem.sendFlits {station m} (h : CanonMem s) : CanonMem (sendFlits station m s) :=
  h.modStation.ite (h.modStation.emitFlits.upd.ite h.modStation.emitFlits.modStation)

theorem CanonMem.sendOn {station ch flits op dest i} (h : CanonMem s) : CanonMem (s.sendOn station ch flits op dest i) :=
  h.upd.ite ((h.modStation.ite h).ite h.sendFlits)

theorem CanonMem.send {dest i} (h : CanonMem s) : CanonMem (s.send dest i) := by
  unfold State.send
  split
  · exact h.sendOn
  · exact h.upd.ite h.upd

theorem CanonMem.retry {i} (h : CanonMem s) : CanonMem (s.retry i) := h.upd

theorem CanonMem.ras {k} (h : CanonMem s) : CanonMem (s.ras k) := h.upd

theorem CanonMem.tickFree (h : CanonMem s) : CanonMem s.tickFree := h.upd

theorem CanonMem.defer {d} (h : CanonMem s) : CanonMem (s.defer d) := h.upd

theorem CanonMem.takeFault {code slot faddr aux async mark} (h : CanonMem s) :
    CanonMem (takeFault code slot faddr aux async mark s) := h.noteErr.modCore.upd

theorem CanonMem.stopCore {n k} (h : CanonMem s) : CanonMem (stopCore n k s) := h.modCore

theorem CanonMem.returnToTask {n task member c} (h : CanonMem s) : CanonMem (returnToTask n task member c s) := h.modCore.upd

/-! ### Operands -/

theorem CanonMem.modTile {core i f} (h : CanonMem s) : CanonMem (s.modTile core i f) := h.modCore

theorem CanonMem.noteTileWrite {core i whole ns} (h : CanonMem s) : CanonMem (noteTileWrite s core i whole ns) := by
  unfold Machine.noteTileWrite
  refine h.ite ?_
  split
  · exact h
  · exact h.modTile

theorem CanonMem.collectTiles {core} (h : CanonMem s) : CanonMem (collectTiles core s) := h.modCore

theorem CanonMem.freeHandle {core h} (hs : CanonMem s) : CanonMem (freeHandle core h s) := by
  unfold Machine.freeHandle
  split
  · exact hs
  · exact hs.modCore.modTask.collectTiles

/-! ### Translate -/

theorem CanonMem.usePages {addr len} (h : CanonMem s) : CanonMem (usePages addr len s) := h.modCore.ite h

theorem CanonMem.fillL2 {core asid va} (h : CanonMem s) : CanonMem (fillL2 core asid va s) := by
  unfold Machine.fillL2
  split
  · exact h.modDie
  · exact h
  · exact h

theorem CanonMem.fillRow {core asid va len} (h : CanonMem s) : CanonMem (fillRow core asid va len s) := h.fillL2.fillL2

theorem CanonMem.engineView {core asid va len} (h : CanonMem s) : CanonMem (engineView s core asid va len) := h.upd.modCore

/-! ### Remote -/

theorem CanonMem.touchOwner {p} (h : CanonMem s) : CanonMem (touchOwner s p) := by
  unfold Machine.touchOwner
  split
  · exact h.upd
  · exact h

theorem CanonMem.fillOwner {p owner epoch} (h : CanonMem s) : CanonMem (fillOwner p owner epoch s) := h.upd

theorem CanonMem.modHold {p f} (h : CanonMem s) : CanonMem (modHold p f s) := h.upd

theorem CanonMem.makeHold {p} (h : CanonMem s) : CanonMem (makeHold p s) := h.ite h.upd

theorem CanonMem.holdOp {p id} (h : CanonMem s) : CanonMem (holdOp p id s) := h.makeHold.modHold

theorem CanonMem.emitRequest {id p dest r} (h : CanonMem s) : CanonMem (emitRequest id p dest r s) := h.touchOwner.upd.send

theorem CanonMem.sendNow {id hint size r} (h : CanonMem s) : CanonMem (sendNow id hint size r s) := by
  unfold Machine.sendNow
  split
  · exact h.send
  · exact h.emitRequest.ite (h.holdOp.ite h.emitRequest)

theorem CanonMem.sendRequest {id} (h : CanonMem s) : CanonMem (sendRequest id s) := by
  unfold Machine.sendRequest
  split
  · exact h.upd.ite h.sendNow
  · exact h

theorem CanonMem.sendBehind (h : CanonMem s) : CanonMem (sendBehind s) := h.upd.foldl fun _ _ h => h.modOp.sendRequest

theorem CanonMem.dropSent {id} (h : CanonMem s) : CanonMem (dropSent id s) := h.upd

theorem CanonMem.startPart {o c row p a} (h : CanonMem s) : CanonMem (startPart o c row p a s) := h.upd.sendRequest

theorem CanonMem.endParts {c} (h : CanonMem s) : CanonMem (endParts c s) := h.upd

/-! ### Issue -/

theorem CanonMem.noteSlot {n v} (h : CanonMem s) : CanonMem (noteSlot n v s) := h.upd

theorem CanonMem.openRun {rep} (h : CanonMem s) : CanonMem (openRun rep s) := by
  unfold Machine.openRun
  split
  · exact h.modCtx
  · exact h

theorem CanonMem.startHeavy {o} (h : CanonMem s) : CanonMem (startHeavy o s) := h.startOp.foldl fun _ _ h => h.send

theorem CanonMem.arrive {line} (h : CanonMem s) : CanonMem (arrive line s) := by
  unfold Machine.arrive
  split
  · exact h
  · split
    · exact h
    · split
      · exact h
      · exact h.modDie.modCtx

theorem CanonMem.allocCopies {view gs} (h : CanonMem s) : CanonMem (allocCopies view gs s) :=
  h.foldl fun _ _ h => h.ite h.makeCopies.startEngineOp

theorem CanonMem.startDesc {rs} (h : CanonMem s) : CanonMem (startDesc rs s) := h.startOp.sendRequest

theorem CanonMem.doHold {a} (h : CanonMem s) : CanonMem (doHold a s) := by
  unfold Machine.doHold
  split
  · exact h
  · exact h.modCore
  · exact h.arrive
  · exact h.startHeavy
  · exact h.startOp
  · exact h.allocCopies
  · exact h.startDesc
  · exact h.modTask

theorem CanonMem.noteWait (h : CanonMem s) : CanonMem (noteWait s) := h.modCore

theorem CanonMem.noteStall (h : CanonMem s) : CanonMem (noteStall s) := h.modCore

theorem CanonMem.startWalk {asid va} (h : CanonMem s) : CanonMem (startWalk asid va s) := by
  unfold Machine.startWalk
  refine h.ite ?_
  split
  · exact h.startOp
  · exact h.startOp
  · exact h.ite h.startOp

theorem CanonMem.startFill {vec g} (h : CanonMem s) : CanonMem (startFill vec g s) := h.ite h.startOp

theorem CanonMem.settle {v} (h : CanonMem s) : CanonMem (settle v s) := by
  unfold Machine.settle
  split
  · exact h.upd
  · exact h.upd.noteStall
  · exact h.upd.noteStall.noteWait.doHold
  · exact h.upd.noteStall.startWalk
  · exact h.upd.noteStall.startFill
  · exact h.upd.openRun.takeFault

theorem CanonMem.applyState {ds} (h : CanonMem s) : CanonMem (applyState ds s) := by
  unfold Machine.applyState
  refine h.foldl fun t d h => ?_
  split
  · exact h.freeHandle
  · exact h

theorem CanonMem.finishBundle (h : CanonMem s) : CanonMem (finishBundle s) := h.modCore.applyState.upd

theorem CanonMem.conclude {noted acted : State} (h : CanonMem noted) (hacted : CanonMem acted) :
    CanonMem (conclude noted acted) := by
  unfold Machine.conclude
  split
  · exact hacted.finishBundle
  · exact h.settle

theorem CanonMem.slot {n chk eff} (h : CanonMem s) (he : ∀ t, CanonMem t → CanonMem (eff t)) :
    CanonOut (slot n chk eff s) := by
  unfold Machine.slot
  split
  · exact h.noteSlot
  · exact (he s h).upd
  · exact h.noteSlot.conclude (he s h)

/-! ### Fetch -/

theorem CanonMem.tick (h : CanonMem s) : CanonMem (tick s) := h.upd

theorem CanonMem.bootRom (h : CanonMem s) : CanonMem (bootRom s) := h.upd

/-! ### Sides -/

theorem CanonMem.writeElems {core e n codes} (h : CanonMem s) : CanonMem (writeElems core e n codes s) :=
  h.putWBytes.ite h.putBytes

theorem CanonMem.noteEngineWrite {core i whole xs} (h : CanonMem s) : CanonMem (noteEngineWrite core i whole xs s) :=
  h.ite h.modTile

/-! ### MemOps -/

theorem CanonMem.noteOwner {r} (h : CanonMem s) : CanonMem (noteOwner r s) := by
  unfold Machine.noteOwner
  split
  · refine h.ite ?_
    split
    · split
      · exact h.noteTileWrite
      · exact h
    · exact h
  · exact h
  · exact h

theorem CanonMem.supplyPush {o f} (h : CanonMem s) : CanonMem (supplyPush o f s) := h.modOwner

theorem CanonMem.readRuns {view rs} (h : CanonMem s) : CanonMem (readRuns s view rs) := h.upd

theorem CanonMem.takeEarly {key len o} (h : CanonMem s) : CanonMem (takeEarly key len s o) := by
  unfold Machine.takeEarly
  split
  · exact h.readRuns.modOp.ite h
  · exact h

theorem CanonMem.detachAccesses {key len} (h : CanonMem s) : CanonMem (detachAccesses key len s) :=
  (h.foldl fun _ _ h => h.takeEarly).upd

theorem CanonMem.askRun {id l k} (h : CanonMem s) : CanonMem (askRun id l s k) := by
  unfold Machine.askRun
  split
  · exact h
  · split
    · exact h
    · split
      · exact h.startPart
      · exact h
      · exact h

theorem CanonMem.askFar {id l} (h : CanonMem s) : CanonMem (askFar id l s) :=
  h.ite (h.sendRequest.foldl fun _ _ h => h.askRun)

theorem CanonMem.startLoad {p sp runs nbytes sgn mask acq} (h : CanonMem s) :
    CanonMem (startLoad p sp runs nbytes sgn mask acq s) := by
  unfold Machine.startLoad
  dsimp only
  split
  · split
    · exact (h.usePages.ite h).readRuns.addPush
    · exact (h.usePages.ite h).readRuns.addPush
    · exact (h.usePages.ite h).readRuns.addPush
    · exact (h.usePages.ite h).readRuns.startOp.addPush
  · exact (h.usePages.ite h).startOp.addPush.askFar

theorem CanonMem.endLoad {o l err} (h : CanonMem s) : CanonMem (endLoad o l err s) := by
  unfold Machine.endLoad
  split
  · exact h.supplyPush.dropOp.endParts.noteErr
  · exact h.supplyPush.dropOp.ite h.modOp

theorem CanonMem.startRun {sp addr rel r data} (h : CanonMem s) : CanonMem (startRun sp addr rel r data s) := by
  unfold Machine.startRun
  split
  · exact h
  · exact h.putWBytes.ite h.startOp
  · exact (h.startOp.ite h.startOp.noteOwner).modCore.sendRequest.ite (h.startOp.ite h.startOp.noteOwner).modCore

theorem CanonMem.startRuns {sp addr rel off rs data} (h : CanonMem s) : CanonMem (startRuns sp addr rel off rs data s) := by
  induction rs generalizing off s with
  | nil => exact h
  | cons r rs ih => exact ih (h.ite h.startRun)

theorem CanonMem.startStore {addr len rel data} (h : CanonMem s) : CanonMem (startStore addr len rel data s) :=
  h.usePages.startRuns

theorem CanonMem.noteStore {addr len} (h : CanonMem s) : CanonMem (noteStore addr len s) := by
  unfold Machine.noteStore
  split
  · exact h.noteTileWrite
  · exact h

/-! ### Boundary -/

theorem CanonMem.serveFence {n f rest} (h : CanonMem s) : CanonNext (serveFence s n f rest) := by
  unfold Machine.serveFence
  split
  · exact h.modCore.send
  · exact h.modCore

theorem CanonMem.nextBundle {c} : CanonNext (nextBundle s c) := by
  unfold Machine.nextBundle
  split
  · trivial
  · split <;> trivial

theorem CanonMem.nextStop {c k} (h : CanonMem s) : CanonNext (nextStop s c k) := by
  unfold Machine.nextStop
  split
  · trivial
  · exact h.stopCore

theorem CanonMem.nextAtBoundary {c} (h : CanonMem s) : CanonNext (nextAtBoundary s c) := by
  unfold Machine.nextAtBoundary
  split
  · trivial
  · split
    · trivial
    · split
      · trivial
      · split
        · exact h.nextStop
        · split
          · exact h.modCore
          · split
            · exact h.serveFence
            · split
              · exact h
              · split
                · trivial
                · exact CanonMem.nextBundle

/-! ### Service -/

theorem CanonMem.serviceMessage {asid} (h : CanonMem s) : CanonMem (serviceMessage asid s) := h.upd

theorem CanonMem.writeService {asid n rs} (h : CanonMem s) : CanonMem (writeService asid n rs s) := by
  induction rs generalizing n s with
  | nil => exact h
  | cons r rs ih => exact ih (h.withHost (Memory.wf_setN _ _ h.host))

theorem CanonMem.enterService {asid rs} (h : CanonMem s) : CanonMem (enterService asid rs s) := h.writeService.modContext

theorem CanonMem.postService {r} (h : CanonMem s) : CanonMem (postService r s) :=
  h.enterService.serviceMessage.ite h.modContext

theorem CanonMem.askPages {asid task va len w} (h : CanonMem s) : CanonMem (askPages asid task va len w s) :=
  h.foldl fun _ _ h => h.postService

/-! ### Copy -/

theorem CanonMem.adoptExp {d x whole} (h : CanonMem s) : CanonMem (adoptExp d x whole s) := by
  unfold Machine.adoptExp
  split
  · exact h.modTile.ite h
  · exact h

theorem CanonMem.useSide {x} (h : CanonMem s) : CanonMem (useSide x s) := by
  unfold Machine.useSide
  split
  · exact h.usePages
  · exact h

theorem CanonMem.startCopy {lat ranges c} (h : CanonMem s) : CanonMem (startCopy lat ranges c s) :=
  h.useSide.useSide.startOp.modCtx

theorem CanonMem.doCopy {n m a b c} (h : CanonMem s) : CanonMem (doCopy n m a b c s) := h.startCopy.adoptExp

theorem CanonMem.execCopy {n a b c f} (h : CanonMem s) : CanonOut (execCopy n a b c f s) := by
  unfold Machine.execCopy
  exact h.slot fun _ h => h.doCopy

theorem CanonMem.doGather {n gather a b c} (h : CanonMem s) : CanonMem (doGather n gather a b c s) := h.startCopy.adoptExp

theorem CanonMem.gatherSlot {gather n a b c} (h : CanonMem s) : CanonOut (gatherSlot gather n a b c s) := by
  unfold Machine.gatherSlot
  exact h.slot fun _ h => h.doGather

theorem CanonMem.doCopyr {n f a b c} (h : CanonMem s) : CanonMem (doCopyr n f a b c s) := h.startCopy

theorem CanonMem.execCopyr {n a b c f} (h : CanonMem s) : CanonOut (execCopyr n a b c f s) := by
  unfold Machine.execCopyr
  exact h.slot fun _ h => h.doCopyr

theorem CanonMem.doSae {n flat f a b c} (h : CanonMem s) : CanonMem (doSae n flat f a b c s) := h.startCopy

theorem CanonMem.saeSlot {flat n a b c f} (h : CanonMem s) : CanonOut (saeSlot flat n a b c f s) := by
  unfold Machine.saeSlot
  exact h.slot fun _ h => h.doSae

theorem CanonMem.startFar {f wait ranges} (h : CanonMem s) : CanonMem (startFar f wait ranges s) := by
  unfold Machine.startFar
  dsimp only
  split
  · exact h.usePages.startOp.modCtx.ite h.usePages.startOp.modCtx.modOp.sendRequest
  · exact h.usePages.startOp.modCtx
  · exact h.usePages.startOp.modCtx

theorem CanonMem.doAtom {f a b c} (h : CanonMem s) : CanonMem (doAtom f a b c s) := h.startFar

theorem CanonMem.doPgreq {a b w} (h : CanonMem s) : CanonMem (doPgreq a b w s) := h.startOp.modCtx.askPages

theorem CanonMem.doMigr {a b c} (h : CanonMem s) : CanonMem (doMigr a b c s) := h.startOp.modCtx.ite h.startOp.modCtx.send

theorem CanonMem.doCgld {n a b clr} (h : CanonMem s) : CanonMem (doCgld n a b clr s) := (h.ite h.usePages).startOp.modCtx

/-! ### Parts -/

theorem CanonMem.dropParts {c row} (h : CanonMem s) : CanonMem (dropParts c row s) := h.upd

theorem CanonMem.startParts {o c row ps} (h : CanonMem s) : CanonMem (startParts o c row ps s) :=
  h.foldl fun _ _ h => h.startPart

theorem CanonMem.withFetched {f o c row fail k} (h : CanonMem s) (hf : ∀ code t, CanonMem t → CanonMem (fail code t))
    (hk : ∀ d t, CanonMem t → CanonMem (k d t)) :
    CanonMem (withFetched f o c row fail k s) := by
  unfold Machine.withFetched
  refine h.startParts.ite (h.ite ?_)
  split
  · exact hf _ s h
  · exact hk _ s h

theorem CanonMem.spreadPoison {view key d} (h : CanonMem s) : CanonMem (spreadPoison view key d s) := h.ite h.upd

theorem CanonMem.storeRuns {o c row rs d} (h : CanonMem s) : CanonMem (storeRuns o c row rs d s) := by
  induction rs generalizing d s with
  | nil => exact h
  | cons r rs ih =>
    refine ih ?_
    split
    · exact h.viewPut.spreadPoison
    · exact h
    · exact h.startParts

theorem CanonMem.answerPart {id p a} (h : CanonMem s) : CanonMem (answerPart id p a s) := h.modOp.ite h.dropOp

/-! ### Firmware -/

theorem CanonMem.writeVa {master asid va bs t} (h : CanonMem s) (e : writeVa s master asid va bs = some t) : CanonMem t := by
  unfold Machine.writeVa at e
  split at e
  · split at e
    · obtain ⟨rs, _, e⟩ := Option.map_eq_some_iff.1 e
      cases e
      exact h.storeRuns
    · cases e
  · cases e

theorem CanonMem.putPte {m pa e} (h : CanonMem s) : CanonMem (putPte m pa e s) := h.putBytes.ite h.noteErr

theorem CanonMem.pinPage {asid va b} (h : CanonMem s) : CanonMem (pinPage asid va b s) := by
  unfold Machine.pinPage
  split
  · exact h.putPte.ite h
  · exact h

theorem CanonMem.pinRange {asid va len b} (h : CanonMem s) : CanonMem (pinRange asid va len b s) :=
  h.foldl fun _ _ h => h.pinPage

/-! ### Queues -/

theorem CanonMem.adminRecord {p status} (h : CanonMem s) : CanonMem (adminRecord p status s) :=
  h.withHost (Memory.wf_setN _ _ h.host)

theorem CanonMem.adminDone {index status} (h : CanonMem s) : CanonMem (adminDone index status s) := by
  unfold Machine.adminDone
  split
  · exact h.upd.adminRecord
  · exact h

theorem CanonMem.takeCommand {packet} (h : CanonMem s) : CanonMem (takeCommand packet s) := h.upd.ite h.upd

theorem CanonMem.keepCommand {index packet stage} (h : CanonMem s) : CanonMem (keepCommand index packet stage s) := h.upd

theorem CanonMem.modQueue {qid f} (h : CanonMem s) : CanonMem (modQueue qid f s) := by
  unfold Machine.modQueue
  split
  · exact h.upd
  · exact h

theorem CanonMem.reportHalt {qid code} (h : CanonMem s) : CanonMem (reportHalt qid code s) := by
  unfold Machine.reportHalt
  split
  · exact h.postService.ite h
  · exact h

theorem CanonMem.haltQueue {qid code} (h : CanonMem s) : CanonMem (haltQueue qid code s) := h.noteErr.reportHalt.modQueue

theorem CanonMem.answerPacket {o p err} (h : CanonMem s) : CanonMem (answerPacket o p err s) := by
  unfold Machine.answerPacket
  split
  · exact h.modOp.haltQueue
  · exact h.modOp

theorem CanonMem.unmapQueue {qid} (h : CanonMem s) : CanonMem (unmapQueue qid s) := h.modQueue

theorem CanonMem.mapQueue {qid} (h : CanonMem s) : CanonMem (mapQueue qid s) := h.modQueue

theorem CanonMem.giveWay {q} (h : CanonMem s) : CanonMem (giveWay q s) := by
  unfold Machine.giveWay
  split
  · split
    · exact h.unmapQueue
    · exact h
  · exact h

theorem CanonMem.execQueueMap {qid} (h : CanonMem s) : CanonOut (execQueueMap qid s) := by
  unfold Machine.execQueueMap
  split
  · exact h.giveWay.mapQueue.ite h.giveWay
  · exact h

theorem CanonMem.execQueueSliceEnd {qid} (h : CanonMem s) : CanonOut (execQueueSliceEnd qid s) := by
  unfold Machine.execQueueSliceEnd
  split
  · exact h.unmapQueue.ite h
  · exact h

theorem CanonMem.execQueueAgeingStep {qid} (h : CanonMem s) : CanonOut (execQueueAgeingStep qid s) := by
  unfold Machine.execQueueAgeingStep
  split
  · split
    · exact h.unmapQueue
    · exact h
  · exact h

theorem CanonMem.execKick {qid head} (h : CanonMem s) : CanonOut (execKick qid head s) := by
  unfold Machine.execKick
  split
  · exact h.modQueue.haltQueue.ite h.modQueue
  · exact h

theorem CanonMem.execCoalescingTimerExpiry {qid} (h : CanonMem s) : CanonOut (execCoalescingTimerExpiry qid s) := by
  unfold Machine.execCoalescingTimerExpiry
  split
  · split
    · exact h.upd.modQueue.ite h
    · exact h
  · exact h

/-! ### CopyRun -/

theorem CanonMem.stop {o code addr} (h : CanonMem w.s) : CanonMem (w.stop o code addr).s := h

theorem CanonMem.closeRow {o k} (h : CanonMem w.s) : CanonMem (w.closeRow o k).s := h.dropParts

theorem CanonMem.awaitWrites {o k} (h : CanonMem w.s) : CanonMem (w.awaitWrites o k).s := by
  unfold CopyRun.awaitWrites
  split
  · exact h
  · exact h
  · exact h.closeRow

theorem CanonMem.rowStep {o k f} (h : CanonMem w.s) (hf : ∀ v, CanonMem v.s → CanonMem (f v).s) :
    CanonMem (rowStep o k f w).s := by
  unfold Machine.rowStep
  split
  · exact h
  · have hx : CanonMem (if w.p.writing then w else f w).s := by
      split
      · exact h
      · exact hf w h
    dsimp only
    generalize (if w.p.writing then w else f w) = x at hx ⊢
    split
    · exact hx
    · exact hx.awaitWrites

theorem CanonMem.readSide {o x off len} (h : CanonMem w.s) : CanonMem (readSide o x off len w).1.s := by
  unfold Machine.readSide
  split
  · dsimp only
    exact h.stop
  · split
    · dsimp only
      exact h
    · split
      · dsimp only
        exact h.readRuns
      · split
        · dsimp only
          exact h.stop
        · dsimp only
          split
          · dsimp only
            exact h.startParts
          · split
            · dsimp only
              exact h
            · dsimp only
              exact h.readRuns

theorem CanonMem.note {t len} (h : CanonMem w.s) : CanonMem (w.note t len).s := by
  unfold CopyRun.note
  split
  · exact h
  · split <;> exact h

theorem CanonMem.writeSide {o x off d} (h : CanonMem w.s) : CanonMem (writeSide o x off d w).s := by
  unfold Machine.writeSide
  split
  · exact h
  · split
    · exact h.stop
    · split
      · exact h
      · split
        · exact h.stop
        · split
          · exact h
          · split
            · exact h.stop
            · exact h.storeRuns.note

theorem CanonMem.useRow {o addr len} (h : CanonMem w.s) : CanonMem (w.useRow o addr len).s := by
  unfold CopyRun.useRow
  split
  · exact h.fillRow
  · exact h

theorem CanonMem.runPlain {o c fill} (h : CanonMem w.s) : CanonMem (runPlain o c fill w).s := by
  unfold Machine.runPlain
  refine h.foldlRun fun _ _ h => ?_
  refine h.rowStep fun _ h => ?_
  split
  · exact h.writeSide
  · exact h.readSide.writeSide

theorem CanonMem.readRow {o c i} (h : CanonMem w.s) : CanonMem (readRow o c i w).s := by
  unfold Machine.readRow
  dsimp only
  split <;> exact h.readSide

theorem CanonMem.runTrans {o c e} (h : CanonMem w.s) : CanonMem (runTrans o c e w).s :=
  (h.foldlRun fun _ _ h => h.rowStep fun _ h => h.readRow).foldlRun fun _ _ h => h.rowStep fun _ h => h.writeSide

theorem CanonMem.runIndexed {o c gather} (h : CanonMem w.s) : CanonMem (runIndexed o c gather w).s := by
  unfold Machine.runIndexed
  refine h.foldlRun fun _ _ h => ?_
  refine h.rowStep fun _ h => ?_
  split
  · exact h.stop
  · split
    · split
      · exact h.writeSide
      · dsimp only
        split
        · exact h.stop
        · exact h.useRow.readSide.writeSide
    · split
      · exact h
      · dsimp only
        split
        · exact h.stop
        · exact h.useRow.readSide.writeSide

theorem CanonMem.updateElems {o i first f vs} (h : CanonMem w.s) : CanonMem (updateElems o i first f vs w).s := by
  unfold Machine.updateElems
  split
  · exact h
  · dsimp only
    split
    · exact h.stop
    · exact h.writeElems

theorem CanonMem.runReduce {o c f} (h : CanonMem w.s) : CanonMem (runReduce o c f w).s := by
  unfold Machine.runReduce
  split
  · exact h
  · refine h.foldlRun fun _ _ h => ?_
    refine h.rowStep fun _ h => ?_
    dsimp only
    split
    · exact h.readSide
    · split
      · exact h.readSide.stop
      · exact h.readSide.updateElems

theorem CanonMem.applyWindow {o i f first win} (h : CanonMem w.s) : CanonMem (applyWindow o i f first win w).s :=
  h.foldlRun fun _ _ h => h.updateElems

theorem CanonMem.saeValue {o c flat t g j} (h : CanonMem w.s) : CanonMem (saeValue o c flat t g j w).1.s := by
  unfold Machine.saeValue
  split
  · split
    · dsimp only
      split
      · exact h.readSide.stop
      · exact h.readSide
    · dsimp only
      split
      · exact h.readSide.stop
      · exact h.readSide
  · dsimp only
    split
    · exact h.readSide.stop
    · exact h.readSide

theorem CanonMem.joinWindow {o i f first x v} (h : CanonMem w.s) : CanonMem (joinWindow o i f first x v w).s := by
  have ha (p : CopyProg) : CanonMem (Machine.applyWindow o i f first (w.p.window.take 1) { w with p := p }).s :=
    CanonMem.applyWindow (w := { w with p := p }) h
  unfold Machine.joinWindow
  dsimp only
  split
  · exact h
  · split
    · split <;> exact ha _
    · exact h

theorem CanonMem.saeEntry {o c flat f i off j} (h : CanonMem w.s) : CanonMem (saeEntry o c flat f i off j w).s := by
  unfold Machine.saeEntry
  split
  · exact h.stop
  · split
    · exact h
    · dsimp only
      split
      · exact h.stop
      · split
        · exact h.saeValue
        · exact h.saeValue.joinWindow

theorem CanonMem.runSae {o c flat f} (h : CanonMem w.s) : CanonMem (runSae o c flat f w).s := by
  unfold Machine.runSae
  split
  · exact h
  next i off _ =>
    have hw : CanonMem ((List.range (gatherOf c.shape).count).foldl
        (fun w j => Machine.rowStep o j (Machine.saeEntry o c flat f i off j) w) w).s :=
      h.foldlRun fun _ _ h => h.rowStep fun _ h => h.saeEntry
    dsimp only
    split
    · exact hw
    · exact CanonMem.applyWindow (w := { CopyRun.mk _ _ _ _ with p := _ }) hw

theorem CanonMem.runCopy {o c} (h : CanonMem w.s) : CanonMem (runCopy o c w).s := by
  unfold Machine.runCopy
  split
  · exact h.runPlain
  · exact h.runPlain
  · exact h.runTrans
  · exact h.runIndexed
  · exact h.runIndexed
  · exact h.runReduce
  · exact h.runSae
  · exact h.runSae

theorem CanonMem.noteWritten {ws core i} (h : CanonMem s) : CanonMem (noteWritten ws core i s) := by
  unfold Machine.noteWritten
  split
  · exact h
  · exact h.noteEngineWrite

theorem CanonMem.noteAll {ws} (h : CanonMem s) : CanonMem (noteAll ws s) := h.foldl fun _ _ h => h.noteWritten

theorem CanonMem.endChan {o ch sat res fail} (h : CanonMem s) : CanonMem (endChan o ch sat res fail s) := h.endOp.modOwner

theorem CanonMem.completeCopy {o c} (h : CanonMem s) : CanonMem (completeCopy o c s) :=
  h.runCopy.modOp.ite h.runCopy.endParts.noteAll.endChan

theorem CanonMem.execCopyOperationComplete {op u} (h : CanonMem s) : CanonOut (execCopyOperationComplete op u s) := by
  unfold Machine.execCopyOperationComplete
  split
  · split
    · exact h.completeCopy.ite h
    · exact h
  · exact h

theorem CanonMem.endFar {o f old sat err} (h : CanonMem s) : CanonMem (endFar o f old sat err s) := by
  unfold Machine.endFar
  split
  · exact (h.endOp.ite h.endOp.putBytes).modOwner
  · exact h.endOp

theorem CanonMem.noteFar {f} (h : CanonMem s) : CanonMem (noteFar f s) := by
  unfold Machine.noteFar
  refine h.ite ?_
  split
  · split
    · exact h.noteTileWrite
    · exact h
  · exact h

theorem CanonMem.performFar {o f k} (h : CanonMem s) : CanonMem (performFar o f k s) := by
  unfold Machine.performFar
  dsimp only
  split
  · exact h.viewAfterRead.endFar
  · split
    · exact (h.viewAfterRead.ite h).modOp
    · split
      · exact (h.viewAfterRead.ite h).endFar
      · exact (h.viewAfterRead.ite h).viewPut.noteFar.modOp

theorem CanonMem.sendFar {o f p} (h : CanonMem s) : CanonMem (sendFar o f p s) := h.modOp.sendRequest

theorem CanonMem.actFar {o f} (h : CanonMem s) : CanonMem (actFar o f s) := by
  unfold Machine.actFar
  split
  · exact h.ite h.performFar
  · exact h.sendFar
  · exact h
  · exact h.endFar

theorem CanonMem.startPerform {o f} (h : CanonMem s) : CanonMem (startPerform o f s) := by
  unfold Machine.startPerform
  refine h.ite (h.actFar.ite (h.ite ?_))
  split
  · exact h.modOp
  · exact h.actFar
  · exact h.actFar

theorem CanonMem.execAtomPerform {op} (h : CanonMem s) : CanonOut (execAtomPerform op s) := by
  unfold Machine.execAtomPerform
  split
  · split
    · exact h.startPerform.ite h
    · exact h
  · exact h

theorem CanonMem.execSignalPerform {op} (h : CanonMem s) : CanonOut (execSignalPerform op s) := by
  unfold Machine.execSignalPerform
  split
  · split
    · exact h.ite h.startPerform
    · exact h
  · exact h

theorem CanonMem.execFarOperationAcknowledge {op old sat err} (h : CanonMem s) :
    CanonOut (execFarOperationAcknowledge op old sat err s) := by
  unfold Machine.execFarOperationAcknowledge
  split
  · split
    · split
      · exact h.dropSent.endFar
      · exact h
    · exact h.dropSent.answerPart
    · exact h
  · exact h.dropSent

theorem CanonMem.execPgreqComplete {op} (h : CanonMem s) : CanonOut (execPgreqComplete op s) := by
  unfold Machine.execPgreqComplete
  split
  · split
    · split
      · exact h.endOp
      · exact h
    · exact h
  · exact h

/-! ### Collective -/

theorem CanonMem.modSlots {asid f} (h : CanonMem s) : CanonMem (modSlots asid f s) := h.modContext

theorem CanonMem.completeCgld {o ch clr slot va places} (h : CanonMem s) :
    CanonMem (completeCgld o ch clr slot va places s) := by
  unfold Machine.completeCgld
  refine h.endParts.endChan.ite (h.endParts.modSlots.endChan.ite ?_)
  split
  · exact h.startParts
  · exact h.endParts.endChan
  · exact h.endParts.modSlots.endChan

theorem CanonMem.execCgldComplete {op u} (h : CanonMem s) : CanonOut (execCgldComplete op u s) := by
  unfold Machine.execCgldComplete
  split
  · split
    · exact h.completeCgld.ite h
    · exact h
  · exact h

theorem CanonMem.modRing {asid ring f} (h : CanonMem s) : CanonMem (modRing asid ring f s) := h.modContext

theorem CanonMem.putControl {asid r off v} (h : CanonMem s) : CanonMem (putControl asid r off v s) :=
  h.getD fun _ => h.writeVa

theorem CanonMem.modRun {asid ring f} (h : CanonMem s) : CanonMem (modRun asid ring f s) := h.modRing

theorem CanonMem.returnTokens {station} (h : CanonMem s) : CanonMem (returnTokens station s) :=
  h.modStation.foldl fun _ _ h => h.send

theorem CanonMem.dropEarly {f} (h : CanonMem s) : CanonMem (dropEarly f s) := h.foldl fun _ _ h => h.modStation.returnTokens

theorem CanonMem.enlist {asid slot} (h : CanonMem s) : CanonMem (enlist asid slot s) := by
  unfold Machine.enlist
  split
  · exact h.foldl fun _ _ h => h.modStation.ite h
  · exact h

theorem CanonMem.dropRun {asid slot} (h : CanonMem s) : CanonMem (dropRun asid slot s) := h.upd

theorem CanonMem.abandonRun {asid ring} (h : CanonMem s) : CanonMem (abandonRun asid ring s) := by
  unfold Machine.abandonRun
  split
  · exact h
  · split
    · exact h
    · split
      · exact h
      · exact h.dropRun.modRing.dropEarly

theorem CanonMem.haltRing {asid ring code} (h : CanonMem s) : CanonMem (haltRing asid ring code s) := by
  unfold Machine.haltRing
  split
  · exact h
  · exact h.noteErr.abandonRun.putControl.modRing.postService

theorem CanonMem.takeEntry {asid ring r} (h : CanonMem s) : CanonMem (takeEntry asid ring r s) := by
  unfold Machine.takeEntry
  split
  · exact h
  · split
    · exact h.modRing.ite h.modRing.haltRing
    · exact h.modRing.haltRing

theorem CanonMem.execWorkRingPoll {asid ring} (h : CanonMem s) : CanonOut (execWorkRingPoll asid ring s) := by
  unfold Machine.execWorkRingPoll
  split
  · exact h
  · refine h.ite ?_
    dsimp only
    split
    · exact h.modRing
    · exact h.modRing.haltRing.ite (h.modRing.takeEntry.ite h.modRing)

theorem CanonMem.armRun {asid ring e g} (h : CanonMem s) : CanonMem (armRun asid ring e g s) := by
  unfold Machine.armRun
  dsimp only
  split
  · exact h.modSlots.haltRing.dropEarly
  · exact h.modSlots.modRing.enlist

theorem CanonMem.execRunArm {asid ring} (h : CanonMem s) : CanonOut (execRunArm asid ring s) := by
  unfold Machine.execRunArm
  split
  · exact h.armRun
  · exact h

theorem CanonMem.sendChunk {id asid slot r o dir tag data bad} (h : CanonMem s) :
    CanonMem (sendChunk id asid slot r o dir tag data bad s) := h.sendOn

theorem CanonMem.startSend {id asid slot r o} (h : CanonMem s) : CanonMem (startSend id asid slot r o s) := by
  unfold Machine.startSend
  split
  · exact h.sendChunk.upd
  · split
    · exact h.sendChunk
    · exact h
  · exact h

theorem CanonMem.startChunk {asid slot i ring r o} (h : CanonMem s) : CanonMem (startChunk asid slot i ring r o s) :=
  h.haltRing.ite h.startDieOp.modStation.modRun.startSend

theorem CanonMem.execChunkOpRun {asid slot i} (h : CanonMem s) : CanonOut (execChunkOpRun asid slot i s) := by
  unfold Machine.execChunkOpRun
  split
  · exact h.startChunk.ite h
  · exact h

theorem CanonMem.putStage {key d} (h : CanonMem s) : CanonMem (putStage key d s) := h.putBytes.spreadPoison

theorem CanonMem.endChunk {id asid slot i ring o sat} (h : CanonMem s) : CanonMem (endChunk id asid slot i ring o sat s) :=
  h.dropOp.modRun.enlist

theorem CanonMem.eatChunk {asid slot r o} (h : CanonMem s) : CanonMem (eatChunk asid slot r o s) := by
  unfold Machine.eatChunk
  split
  · exact h.modStation.returnTokens
  · exact h

theorem CanonMem.completeLoad {p asid slot i ring r o} (h : CanonMem s) :
    CanonMem (completeLoad p asid slot i ring r o s) := by
  unfold Machine.completeLoad
  dsimp only
  split
  · exact h.readRuns.haltRing
  · refine h.startParts.ite ?_
    split
    · exact h.haltRing
    · exact h.readRuns.endParts.putStage.endChunk

theorem CanonMem.awaitStore {p asid slot i ring o} (h : CanonMem s) : CanonMem (awaitStore p asid slot i ring o s) := by
  unfold Machine.awaitStore
  split
  · exact h
  · exact h.haltRing
  · exact h.endParts.endChunk

theorem CanonMem.completeStore {p asid slot i ring r o} (h : CanonMem s) :
    CanonMem (completeStore p asid slot i ring r o s) := by
  unfold Machine.completeStore
  refine h.awaitStore.ite ?_
  split
  · exact h.readRuns.haltRing
  · exact h.haltRing
  · exact h.storeRuns.awaitStore

theorem CanonMem.completeAdds {p asid slot i ring r o} (h : CanonMem s) :
    CanonMem (completeAdds p asid slot i ring r o s) := by
  unfold Machine.completeAdds
  split
  · exact h
  · dsimp only
    split
    · exact h.upd.haltRing
    · exact h.putBytes.eatChunk.endChunk

theorem CanonMem.completeRecv {p asid slot i ring r o} (h : CanonMem s) :
    CanonMem (completeRecv p asid slot i ring r o s) := by
  unfold Machine.completeRecv
  split
  · exact h
  · exact h.putStage.eatChunk.endChunk

theorem CanonMem.completeChunk {p asid slot i ring r o} (h : CanonMem s) :
    CanonMem (completeChunk p asid slot i ring r o s) := by
  unfold Machine.completeChunk
  split
  · exact h.completeLoad
  · exact h.endChunk
  · exact h.completeAdds
  · exact h.completeStore
  · exact h.completeRecv

theorem CanonMem.execChunkOpComplete {op u} (h : CanonMem s) : CanonOut (execChunkOpComplete op u s) := by
  unfold Machine.execChunkOpComplete
  split
  · split
    · split
      · exact h.ite h.completeChunk
      · exact h.dropOp
    · exact h
  · exact h

theorem CanonMem.completeRun {asid ring w e r} (h : CanonMem s) : CanonMem (completeRun asid ring w e r s) :=
  .ite ((h.putControl.ite h).modOwner.ite (h.putControl.ite h)).dropEarly.putControl.modRing.putControl
    ((h.putControl.ite h).modOwner.ite (h.putControl.ite h)).dropEarly.putControl.modRing

theorem CanonMem.execRunComplete {asid ring} (h : CanonMem s) : CanonOut (execRunComplete asid ring s) := by
  unfold Machine.execRunComplete
  split
  · exact h
  · split
    · exact h
    · split
      · exact h.completeRun.ite h
      · exact h

theorem CanonMem.execCollectiveTimeout {asid ring} (h : CanonMem s) : CanonOut (execCollectiveTimeout asid ring s) := by
  unfold Machine.execCollectiveTimeout
  split
  · exact h.haltRing.ite h
  · exact h

theorem CanonMem.execEarlyChunkTimeout {station i} (h : CanonMem s) : CanonOut (execEarlyChunkTimeout station i s) := by
  unfold Machine.execEarlyChunkTimeout
  split
  · exact h
  · refine h.ite ?_
    split
    · exact h.haltRing.dropEarly
    · exact h.modStation.returnTokens

/-! ### Drops -/

theorem CanonMem.dropTranslations {asid va len} (h : CanonMem s) : CanonMem (dropTranslations asid va len s) := h.upd

theorem CanonMem.dropAndDrain {asid va len admin page} (h : CanonMem s) : CanonMem (dropAndDrain asid va len admin page s) :=
  h.dropTranslations.startEngineOp

theorem CanonMem.askInvalidation {asid va len command} (h : CanonMem s) : CanonMem (askInvalidation asid va len command s) :=
  h.startEngineOp.ite h.dropAndDrain

theorem CanonMem.endWalk {o asid va} (h : CanonMem s) : CanonMem (endWalk o asid va s) := by
  unfold Machine.endWalk
  refine .dropOp (.modCore ?_)
  split
  · exact h.modDie.modCore
  · exact h
  · exact h

theorem CanonMem.execPageWalkComplete {op} (h : CanonMem s) : CanonOut (execPageWalkComplete op s) := by
  unfold Machine.execPageWalkComplete
  split
  · split
    · exact h.endWalk
    · exact h
  · exact h

theorem CanonMem.execXltResult {op} (h : CanonMem s) : CanonOut (execXltResult op s) := by
  unfold Machine.execXltResult
  split
  · split
    · exact (h.fillL2.ite h).dropOp.modOwner
    · exact h
  · exact h

theorem CanonMem.execLazyRestoreFill {op} (h : CanonMem s) : CanonOut (execLazyRestoreFill op s) := by
  unfold Machine.execLazyRestoreFill
  split
  · split
    · exact h.dropOp.modOwner
    · exact h
  · exact h

/-! ### Control -/

theorem CanonMem.stallAfter {written} (h : CanonMem s) : CanonMem (stallAfter written s) := by
  unfold Machine.stallAfter
  split
  · exact h.modCore
  · exact h

theorem CanonMem.goTo {b} (h : CanonMem s) : CanonMem (goTo b s) := h.stallAfter.defer

theorem CanonMem.doLoop {l count len stages loops} (h : CanonMem s) : CanonMem (doLoop l count len stages loops s) :=
  h.defer.ite h.defer

/-! ### Tiles -/

theorem CanonMem.zeroTile {core e} (h : CanonMem s) : CanonMem (zeroTile core e s) :=
  h.detachAccesses.withMem (Memory.wf_clear _ _ h.detachAccesses.mem)

theorem CanonMem.fillTile {core e bs} (h : CanonMem s) : CanonMem (fillTile core e bs s) := h.detachAccesses.putBytes

theorem CanonMem.doTalloc {d l t x y} (h : CanonMem s) : CanonMem (doTalloc d l t x y s) := by
  unfold Machine.doTalloc
  split
  · exact h.pushS
  · exact h.zeroTile.defer.pushS

theorem CanonMem.doTlink {x y} (h : CanonMem s) : CanonMem (doTlink x y s) := by
  unfold Machine.doTlink
  split
  · exact h.defer
  · exact h

theorem CanonMem.doTsets {x y} (h : CanonMem s) : CanonMem (doTsets x y s) := by
  unfold Machine.doTsets
  split
  · exact h.defer
  · exact h

/-! ### Tasks -/

theorem CanonMem.takeId {die} (h : CanonMem s) : CanonMem (takeId die s).2 := by
  unfold Machine.takeId
  exact h.modDie

theorem CanonMem.addTask {t} (h : CanonMem s) : CanonMem (addTask t s) := h.upd

theorem CanonMem.enqueue {task core} (h : CanonMem s) : CanonMem (enqueue task core s) := h.modCore.modTask

theorem CanonMem.queueReady (h : CanonMem s) : CanonMem (queueReady s) := by
  unfold Machine.queueReady
  refine h.foldl fun _ _ h => ?_
  split
  · exact h.enqueue
  · exact h

theorem CanonMem.renameHandle {core h reads es} {p : State × Task} (hp : CanonMem p.1) :
    CanonMem (renameHandle core h reads es p).1 := by
  unfold Machine.renameHandle
  dsimp only
  split
  · exact hp
  · split
    · exact hp
    · exact hp.zeroTile.modCore

theorem CanonMem.renameAll {t} (h : CanonMem s) : CanonMem (renameAll t s).1 := by
  unfold Machine.renameAll
  split
  · exact h
  · refine List.foldlRecOn _ _ (motive := fun p : State × Task => CanonMem p.1) h fun p hp x _ => ?_
    split
    · exact hp
    · exact CanonMem.renameHandle hp

theorem CanonMem.copyTile {core dst src} (h : CanonMem s) : CanonMem (copyTile core dst src s) := by
  unfold Machine.copyTile
  split
  · exact h.putBytes.modTile
  · exact h

theorem CanonMem.fillVersions {t} (h : CanonMem s) : CanonMem (fillVersions t s) := by
  unfold Machine.fillVersions
  split
  · exact h
  · exact h.foldl fun _ _ h => h.copyTile

theorem CanonMem.makeReady {t} (h : CanonMem s) : CanonMem (makeReady t s) := h.fillVersions.modTask.upd

theorem CanonMem.readyTask {t} (h : CanonMem s) : CanonMem (readyTask t s) := by
  unfold Machine.readyTask
  split
  · exact h.startParts
  · exact h.makeReady
  · exact h.makeReady

theorem CanonMem.wakeTasks (h : CanonMem s) : CanonMem (wakeTasks s) := (h.foldl fun _ _ h => h.readyTask).queueReady

theorem CanonLaunch.launchTile {task core x r} (h : CanonLaunch r) : CanonLaunch (launchTile task core x r) := by
  unfold Machine.launchTile
  split
  · split
    · exact h
    · split
      · trivial
      · split
        · trivial
        · dsimp only
          split
          · trivial
          · exact (CanonMem.zeroTile h).modCore
  · exact h

theorem CanonLaunch.placePriv {task member core bytes r} (h : CanonLaunch r) :
    CanonLaunch (placePriv task member core bytes r) := by
  unfold Machine.placePriv
  split
  · dsimp only
    split
    · trivial
    · exact CanonMem.modCore h
  · exact h

theorem CanonMem.launchPrivate {t im member data} (h : CanonMem s) : CanonMem (launchPrivate t im member data s) :=
  (h.withMem (Memory.wf_clear _ _ h.mem)).putBytes.putBytes

theorem CanonMem.startMember {t im code data member core hm} (h : CanonMem s) :
    CanonMem (startMember t im code data member core hm s) := h.launchPrivate.modCore

theorem CanonMem.launchStorage {t im member core} (h : CanonMem s) : CanonLaunch (launchStorage t im member core s) :=
  CanonLaunch.placePriv (List.foldlRecOn _ _ (motive := CanonLaunch) h fun _ hr _ _ => hr.launchTile)

theorem CanonMem.launchAll {t im m cs u hms} (h : CanonMem s) (e : launchAll t im m cs s = .ok (u, hms)) : CanonMem u := by
  induction cs generalizing m s hms with
  | nil => cases e; exact h
  | cons c cs ih =>
    unfold Machine.launchAll at e
    have hl : CanonLaunch (Machine.launchStorage t im m c s) := h.launchStorage
    split at e
    · cases e
    · cases e
    next a _ ha =>
      rw [ha] at hl
      split at e
      next hb => cases e; exact ih hl hb
      · cases e

theorem CanonMem.startAll {t im code data m cs hms} (h : CanonMem s) : CanonMem (startAll t im code data m cs hms s) := by
  induction cs generalizing m hms s with
  | nil => exact h
  | cons c cs ih =>
    cases hms with
    | nil => exact h
    | cons hm hms => exact ih h.startMember

theorem CanonMem.launchTask {t cores u} (h : CanonMem s) (e : launchTask t cores s = .ok u) : CanonMem u := by
  unfold Machine.launchTask at e
  split at e
  · cases e
  · cases e
  · dsimp only at e
    split at e
    · cases e
    next ha => cases e; exact (h.endParts.modTask.launchAll ha).startAll.modTask

theorem CanonMem.askLaunch {t} (h : CanonMem s) : CanonMem (askLaunch t s) := by
  unfold Machine.askLaunch
  split
  · exact h.startParts
  · exact h
  · exact h

theorem CanonMem.dropHandles {t core x} (h : CanonMem s) : CanonMem (dropHandles t core x s) := h.modCore

theorem CanonMem.ackFences {n} (h : CanonMem s) : CanonMem (ackFences n s) := h.foldl fun _ _ h => h.send

theorem CanonMem.idleCore {n} (h : CanonMem s) : CanonMem (idleCore n s) := h.ackFences.modCore

theorem CanonMem.dropPrivate {t} (h : CanonMem s) : CanonMem (dropPrivate t s) := h.withMem (Memory.wf_clear _ _ h.mem)

theorem CanonMem.discardRev {v} (h : CanonMem s) : CanonMem (discardRev v s) := h.upd

theorem CanonMem.endRevisions {t} (h : CanonMem s) : CanonMem (endRevisions t s) :=
  ((h.foldl fun _ _ h => h.discardRev).ite h).upd.foldl fun _ _ h => h.freeRevision.upd.ite h.freeRevision

theorem CanonMem.endPacket {qid index status rec} (h : CanonMem s) : CanonMem (endPacket qid index status rec s) := by
  unfold Machine.endPacket
  split
  · split
    · exact h.modOp
    · exact h
  · exact h

theorem CanonMem.reportFault {t code rec bundle} (h : CanonMem s) : CanonMem (reportFault t code rec bundle s) := by
  unfold Machine.reportFault
  split
  · exact h.endPacket
  · exact h.postService
  · exact h.postService
  · exact h.postService
  · split
    · exact h.modTask.postService
    · exact h.modTask

theorem CanonMem.requeue {task} (h : CanonMem s) : CanonMem (requeue task s) := h.modTask.upd.queueReady

theorem CanonMem.requeueOn {core task} (h : CanonMem s) : CanonMem (requeueOn core task s) :=
  h.modTask.upd.enqueue.ite h.requeue

theorem CanonMem.wakeBlocked (h : CanonMem s) : CanonMem (wakeBlocked s) := h.foldl fun _ _ h => h.requeue

theorem CanonMem.endFaulted {byHandler u} (h : CanonMem s) : CanonMem (endFaulted byHandler u s) := by
  unfold Machine.endFaulted
  refine .modTask ?_
  split
  · exact h.endPacket
  · exact h.reportFault
  · exact h.reportFault.ite h
  · exact h

theorem CanonMem.readAction {u} (h : CanonMem s) : CanonMem (readAction u s) := by
  unfold Machine.readAction
  split
  · exact h.endFaulted
  · exact h.withFetched (fun _ _ h => h.endParts.endFaulted) fun _ _ h => h.endParts.requeue.ite h.endParts.endFaulted

theorem CanonMem.afterHandler {t faulted} (h : CanonMem s) : CanonMem (afterHandler t faulted s) := by
  unfold Machine.afterHandler
  split
  · exact h
  · exact h.endFaulted.ite h.readAction

theorem CanonMem.notifyOrigin {t} (h : CanonMem s) : CanonMem (notifyOrigin t s) := by
  unfold Machine.notifyOrigin
  split
  · exact h.endPacket
  · exact h.afterHandler
  · exact h.send
  · exact h
  · exact h

theorem CanonMem.finishOne {t} (h : CanonMem s) : CanonMem (finishOne t s) :=
  .foldl (.wakeTasks (.notifyOrigin (.endRevisions (.dropPrivate (.endParts (.upd
    ((h.foldl fun _ _ h => h.dropHandles).foldl fun _ _ h => h.idleCore)))))))
    fun _ _ h => h.collectTiles

theorem CanonMem.reap {n} (h : CanonMem s) : CanonMem (reap n s) := by
  induction n generalizing s with
  | zero => exact h
  | succ n ih =>
    unfold Machine.reap
    split
    · exact ih h.finishOne
    · exact h

theorem CanonMem.stopDoomed (h : CanonMem s) : CanonMem (stopDoomed s) := h.upd

theorem CanonMem.settleTasks (h : CanonMem s) : CanonMem (settleTasks s) := h.reap.wakeBlocked.stopDoomed

theorem CanonMem.finishTask {task} (h : CanonMem s) : CanonMem (finishTask task s) := by
  unfold Machine.finishTask
  split
  · exact h.finishOne.settleTasks
  · exact h

theorem CanonMem.terminate {ids} (h : CanonMem s) : CanonMem (terminate ids s) := h.upd.settleTasks

theorem CanonMem.refuseTask {t code rec} (h : CanonMem s) : CanonMem (refuseTask t code rec s) := h.reportFault.terminate

/-! ### TaskOps -/

theorem CanonMem.newRev {k child} (h : CanonMem s) : CanonMem (newRev k child s) := h.modTask.upd

theorem CanonMem.addSent {acc mode x} (h : CanonMem s) : CanonMem (addSent acc mode x s) := by
  unfold Machine.addSent
  dsimp only
  split <;> exact h.upd

theorem CanonMem.createTask {k fork r bs} (h : CanonMem s) : CanonMem (createTask k fork r bs s).1 := by
  unfold Machine.createTask
  split
  · dsimp only
    exact h
  · split
    · dsimp only
      exact h.takeId.newRev.addTask.addSent.ite h.takeId.newRev.addTask
    · dsimp only
      exact h.takeId.addTask.addSent.ite h.takeId.addTask

theorem CanonMem.spawnRecord {k fork bs} (h : CanonMem s) : CanonMem (spawnRecord k fork bs s).1 := by
  unfold Machine.spawnRecord
  split
  · dsimp only
    exact h
  · split
    · dsimp only
      exact h
    · split
      · dsimp only
        exact h
      · split
        · dsimp only
          exact h
        · dsimp only
          exact h.createTask

theorem CanonMem.doSpawn {fork lat d addr} (h : CanonMem s) : CanonMem (doSpawn fork lat d addr s) := by
  unfold Machine.doSpawn
  dsimp only
  split
  · split
    · exact h.readRuns.addPush
    · exact h.readRuns.startOp.addPush.ite h.readRuns.spawnRecord.addPush
  · exact h.startOp.addPush.askFar

theorem CanonMem.endRecord {o fork l} (h : CanonMem s) : CanonMem (endRecord o fork l s) := h.spawnRecord.supplyPush.dropOp

theorem CanonMem.doJoin {d v} (h : CanonMem s) : CanonMem (doJoin d v s) := h.pushS.ite h.modTask.pushS

theorem CanonMem.doEnd (h : CanonMem s) : CanonMem (doEnd s) := (h.modCtx.upd.foldl fun _ _ h => h.endParts).defer

theorem CanonMem.releaseLines {task} (h : CanonMem s) : CanonMem (releaseLines task s) := by
  unfold Machine.releaseLines
  split
  · exact h
  · exact h.upd

theorem CanonMem.completeEnd {core} (h : CanonMem s) : CanonMem (completeEnd core s) := by
  unfold Machine.completeEnd
  dsimp only
  split
  · split
    · exact h.modTask.finishTask.ite h.modTask.releaseLines
    · exact h.modTask
  · exact h

theorem CanonMem.execEndTask (h : CanonMem s) : CanonOut (execEndTask s) := by
  unfold Machine.execEndTask
  have ho : CanonOut (Machine.slot {} checkEnd Machine.doEnd s) := h.slot fun _ h => h.doEnd
  split
  next t ht =>
    rw [ht] at ho
    exact CanonMem.completeEnd ho
  · exact ho

theorem CanonMem.modPipe {task n f} (h : CanonMem s) : CanonMem (modPipe task n f s) := h.modTask

theorem CanonMem.doPipew {n v} (h : CanonMem s) : CanonMem (doPipew n v s) := by
  unfold Machine.doPipew
  split
  · exact h.modPipe.startOp.modCtx
  · exact h

theorem CanonMem.doPiper {n d} (h : CanonMem s) : CanonMem (doPiper n d s) := by
  unfold Machine.doPiper
  split
  · exact h.modPipe.defer.pushS
  · exact h

theorem CanonMem.unpinRegion {asid k} (h : CanonMem s) : CanonMem (unpinRegion asid k s) := by
  unfold Machine.unpinRegion
  split
  · exact h
  · exact h.foldl fun _ _ h => h.ite h.pinPage

theorem CanonMem.clearRegion {asid k} (h : CanonMem s) : CanonMem (clearRegion asid k s) := h.unpinRegion.modContext

theorem CanonMem.doRvset {clr addr v} (h : CanonMem s) : CanonMem (doRvset clr addr v s) := by
  unfold Machine.doRvset
  refine h.clearRegion.ite ?_
  split
  · exact h
  · exact (h.clearRegion.foldl fun _ _ h => h.pinRange).upd.modContext

/-! ### FrontEnd -/

theorem CanonMem.writePkt {o c row x d} (h : CanonMem s) : CanonMem (writePkt o c row x d s) := by
  unfold Machine.writePkt
  split
  · exact h.withHost (Memory.wf_setN _ _ h.host)
  · exact h.storeRuns

theorem CanonMem.startPacket {qid q p lat k taskId finished status} (h : CanonMem s) :
    CanonMem (startPacket qid q p lat k taskId finished status s) := h.endParts.startEngineOp.modQueue

theorem CanonMem.haltStart {qid code} (h : CanonMem s) : CanonMem (haltStart qid code s) := h.endParts.haltQueue

theorem CanonMem.startOf {kind used qid f q d} (h : CanonMem s) (hf : ∀ q p t, CanonMem t → CanonMem (f q p t)) :
    CanonMem (startOf kind used qid f q d s) := h.ite ((h.haltStart.ite h).ite (h.haltStart.ite (hf _ _ _ h)))

theorem CanonMem.withPacket {kind used qid f} (h : CanonMem s) (hf : ∀ q p t, CanonMem t → CanonMem (f q p t)) :
    CanonMem (withPacket kind used qid f s) := by
  unfold Machine.withPacket
  split
  · exact h
  · exact h.ite (h.withFetched (fun _ _ h => h.haltStart) fun _ _ h => h.startOf hf)

theorem CanonMem.withRead {qid q addr len al k} (h : CanonMem s) (hk : ∀ d t, CanonMem t → CanonMem (k d t)) :
    CanonMem (withRead qid q addr len al k s) := h.withFetched (fun _ _ h => h.haltStart) fun _ t h => hk _ t h

theorem CanonMem.launchRoot {qid q p r bs} (h : CanonMem s) : CanonMem (launchRoot qid q p r bs s) :=
  h.modDie.startPacket.addTask.addSent.ite h.modDie.startPacket.addTask

theorem CanonMem.launchPacket {qid q p} (h : CanonMem s) : CanonMem (launchPacket qid q p s) := by
  unfold Machine.launchPacket
  refine h.withRead fun _ _ h => ?_
  split
  · exact h.startPacket
  · exact h.ite h.launchRoot

theorem CanonMem.waitPacket {qid q p} (h : CanonMem s) : CanonMem (waitPacket qid q p s) :=
  h.withRead fun _ _ h => h.startPacket.ite h.startPacket.modQueue

theorem CanonMem.endWait {qid} (h : CanonMem s) : CanonMem (endWait qid s) := h.upd.modQueue

theorem CanonMem.polled {qid q d} (h : CanonMem s) : CanonMem (polled qid q d s) := h.endParts.endWait.ite h.endParts

theorem CanonMem.execSignalUnitPoll {qid u} (h : CanonMem s) : CanonOut (execSignalUnitPoll qid u s) := by
  unfold Machine.execSignalUnitPoll
  split
  · exact (h.withFetched (fun _ _ h => h.endParts.haltQueue) fun _ _ h => h.polled).ite h
  · exact h

theorem CanonMem.signalPacket {qid q p} (h : CanonMem s) : CanonMem (signalPacket qid q p s) := by
  unfold Machine.signalPacket
  refine h.haltStart.ite ?_
  split
  · exact h.haltStart
  · exact h.startPacket

theorem CanonMem.copyPacket {qid q p} (h : CanonMem s) : CanonMem (copyPacket qid q p s) := by
  unfold Machine.copyPacket
  refine h.haltStart.ite ?_
  split
  · exact h.haltStart
  · exact h.haltStart
  · exact h.startPacket

theorem CanonMem.publishPacket {qid q p} (h : CanonMem s) : CanonMem (publishPacket qid q p s) := h.startPacket

theorem CanonMem.countPublish {o done} (h : CanonMem s) (hd : ∀ err t, CanonMem t → CanonMem (done err t)) :
    CanonMem (countPublish o done s) := by
  unfold Machine.countPublish
  dsimp only
  split
  · exact hd _ _ h
  · split
    · split
      · exact h
      · exact hd _ _ h.endParts
    · refine h.ite ?_
      split
      · exact h.startPart
      · split
        · exact hd _ _ h
        · exact hd _ _ h.writePkt

theorem CanonMem.countCore {o} (h : CanonMem s) : CanonMem (countCore o s) :=
  h.modOp.countPublish fun _ _ h => h.modCore.dropOp

theorem CanonMem.countPacket {o p} (h : CanonMem s) : CanonMem (countPacket o p s) :=
  h.modOp.countPublish fun _ _ h => h.answerPacket

theorem CanonMem.execPublishAcknowledge {op} (h : CanonMem s) : CanonOut (execPublishAcknowledge op s) := by
  unfold Machine.execPublishAcknowledge
  split
  · split
    · exact h.countCore
    · exact h.countPacket.ite h
    · exact h
  · exact h

theorem CanonMem.armTimer {qid q} (h : CanonMem s) : CanonMem (armTimer qid q s) := h.upd.ite h.modQueue

theorem CanonMem.endRecordOf {o p q err} (h : CanonMem s) : CanonMem (endRecordOf o p q err s) := by
  unfold Machine.endRecordOf
  split
  · exact h.dropOp.endParts.modQueue.haltQueue
  · exact h.dropOp.endParts.modQueue.armTimer.ite h.dropOp.endParts.modQueue

theorem CanonMem.recordPacket {o p} (h : CanonMem s) : CanonMem (recordPacket o p s) := by
  unfold Machine.recordPacket
  split
  · exact h.dropOp
  · refine h.dropOp.ite (h.ite ?_)
    split
    · split
      · exact h
      · exact h.endRecordOf
    · split
      · exact h.endRecordOf
      · refine h.ite ?_
        split
        · exact h.endRecordOf
        · exact h.writePkt.modOp.ite h.writePkt.endRecordOf

theorem CanonMem.markSent {o p} (h : CanonMem s) : CanonMem (markSent o p s) := h.modOp

theorem CanonMem.endWork {o p err} (h : CanonMem s) : CanonMem (endWork o p err s) := h.endParts.answerPacket

theorem CanonMem.doSignal {o p dst add v} (h : CanonMem s) : CanonMem (doSignal o p dst add v s) := by
  unfold Machine.doSignal
  split
  · exact h.markSent.startPart
  · split
    · exact h.readRuns.endWork
    · dsimp only
      split
      · exact h.endWork
      · exact h.writePkt.endWork

theorem CanonMem.doCopyPacket {o p dst src len} (h : CanonMem s) : CanonMem (doCopyPacket o p dst src len s) := by
  unfold Machine.doCopyPacket
  refine h.withFetched (fun _ _ h => h.endWork) fun _ _ h => ?_
  split
  · exact h.endWork
  · exact h.markSent.writePkt

theorem CanonMem.awaitPacket {o p row} (h : CanonMem s) : CanonMem (awaitPacket o p row s) := by
  unfold Machine.awaitPacket
  split
  · exact h
  · exact h.endWork

theorem CanonMem.execPacketComplete {op u} (h : CanonMem s) : CanonOut (execPacketComplete op u s) := by
  unfold Machine.execPacketComplete
  split
  · split
    · refine h.recordPacket.ite ?_
      split
      · exact h.awaitPacket.ite (h.ite h.doSignal)
      · exact h.awaitPacket.ite (h.ite h.doCopyPacket)
      · exact h.countPacket.ite h
      · exact h
      · exact h
    · exact h.countCore.ite h
    · exact h
  · exact h

/-! ### Vector -/

theorem CanonMem.vecArith1 {lat f d a t m} (h : CanonMem s) : CanonOut (vecArith1 lat f d a t m s) :=
  h.slot fun _ h => h.pushV

theorem CanonMem.vecArith2 {lat f d a b t m} (h : CanonMem s) : CanonOut (vecArith2 lat f d a b t m s) :=
  h.slot fun _ h => h.pushV

theorem CanonMem.vecCodes2 {f d a b t m} (h : CanonMem s) : CanonOut (vecCodes2 f d a b t m s) := h.slot fun _ h => h.pushV

theorem CanonMem.vecReduce {f d a t m} (h : CanonMem s) : CanonOut (vecReduce f d a t m s) := h.slot fun _ h => h.pushSF

/-! ### VectorMem -/

theorem CanonMem.noteElems {core i e ns} (h : CanonMem s) : CanonMem (noteElems core i e ns s) := h.noteTileWrite

theorem CanonMem.doVst {k x v} (h : CanonMem s) : CanonMem (doVst k x v s) := by
  unfold Machine.doVst
  dsimp only
  split
  · refine .noteElems (.startRuns ?_)
    split
    · exact h
    · exact h.usePages
  · refine .startRuns ?_
    split
    · exact h
    · exact h.usePages

theorem CanonMem.doVldx {x h ix masked} (hs : CanonMem s) : CanonMem (doVldx x h ix masked s) := by
  unfold Machine.doVldx
  split
  · exact hs
  · exact hs.startLoad

theorem CanonMem.doVstx {h ix v masked} (hs : CanonMem s) : CanonMem (doVstx h ix v masked s) := by
  unfold Machine.doVstx
  split
  · exact hs
  · exact hs.startRuns.noteElems

/-! ### Function -/

theorem CanonMem.doVfn {d a b t m} (h : CanonMem s) : CanonMem (doVfn d a b t m s) := by
  unfold Machine.doVfn
  split
  · exact h
  · exact h.pushV

theorem CanonMem.doVfnld {x k a} (h : CanonMem s) : CanonMem (doVfnld x k a s) := h.useSide.startOp.modCtx

theorem CanonMem.completeVfnld {o n side} (h : CanonMem s) : CanonMem (completeVfnld o n side s) := by
  unfold Machine.completeVfnld
  split
  · exact h.dropOp.modOwner
  · exact h.ite (h.startParts.ite h.dropOp.endParts.readRuns.noteErr.modOwner)

theorem CanonMem.execVfnldComplete {op u} (h : CanonMem s) : CanonOut (execVfnldComplete op u s) := by
  unfold Machine.execVfnldComplete
  split
  · split
    · exact h.completeVfnld
    · exact h
  · exact h

theorem CanonMem.doVopt {r h g} (hs : CanonMem s) : CanonMem (doVopt r h g s) := by
  unfold Machine.doVopt
  split
  · exact hs.startOp.modCtx
  · exact hs

theorem CanonMem.completeVopt {o rule iw im ig vf rseed rstep p} (h : CanonMem s) :
    CanonMem (completeVopt o rule iw im ig vf rseed rstep p s) := by
  unfold Machine.completeVopt
  dsimp only
  split
  · exact h.dropOp.writeElems.writeElems.noteEngineWrite.noteEngineWrite.modOwner
  · exact h.dropOp

theorem CanonMem.execVoptComplete {op} (h : CanonMem s) : CanonOut (execVoptComplete op s) := by
  unfold Machine.execVoptComplete
  split
  · split
    · exact h.completeVopt
    · exact h
  · exact h

/-! ### Records -/

theorem CanonMem.startHandler {t image rec core} (h : CanonMem s) : CanonMem (startHandler t image rec core s) :=
  h.modDie.upd.addTask.wakeTasks

theorem CanonMem.reportPool {t f rec} (h : CanonMem s) : CanonMem (reportPool t f rec s) := h.postService.ite h

theorem CanonMem.followRecord {task} (h : CanonMem s) : CanonMem (followRecord task s) := by
  unfold Machine.followRecord
  split
  · exact h
  · refine h.endParts.modTask.reportPool.refuseTask.ite ?_
    split
    · exact h.endParts.modTask.reportPool.startHandler
    · exact h.endParts.modTask.reportPool.reportFault.terminate

theorem CanonMem.nextSlot {asid} (h : CanonMem s) : CanonMem (nextSlot asid s) := h.modContext

theorem CanonMem.setRecord {task a} (h : CanonMem s) : CanonMem (setRecord task a s) := h.modTask

theorem CanonMem.writeRecord {t r row rs} (h : CanonMem s) : CanonMem (writeRecord t r row rs s) := h.storeRuns

theorem CanonMem.awaitDefault {task} (h : CanonMem s) : CanonMem (awaitDefault task s) := by
  unfold Machine.awaitDefault
  split
  · exact h
  · exact h.followRecord
  · exact h.setRecord.followRecord

theorem CanonMem.recordDefault {t r} (h : CanonMem s) : CanonMem (recordDefault t r s) := by
  unfold Machine.recordDefault
  split
  · exact h.writeRecord.setRecord.nextSlot.awaitDefault
  · exact h.setRecord.followRecord

theorem CanonMem.awaitRecord {t r} (h : CanonMem s) : CanonMem (awaitRecord t r s) := by
  unfold Machine.awaitRecord
  split
  · exact h
  · exact h.followRecord
  · exact h.recordDefault

theorem CanonMem.putRecord {t r} (h : CanonMem s) : CanonMem (putRecord t r s) := by
  unfold Machine.putRecord
  dsimp only
  split
  · exact h.modTask.writeRecord.setRecord.awaitRecord
  · exact h.modTask.recordDefault

theorem CanonMem.recordAnswered {row task} (h : CanonMem s) : CanonMem (recordAnswered row task s) := by
  unfold Machine.recordAnswered
  split
  · exact h
  · split
    · exact h.awaitRecord.ite h.awaitDefault
    · exact h.readAction.settleTasks

theorem CanonMem.handleFault {t f w} (h : CanonMem s) : CanonMem (handleFault t f w s) := h.modTask.putRecord

theorem CanonMem.refuseLaunch {t core code faddr} (h : CanonMem s) : CanonMem (refuseLaunch t core code faddr s) :=
  h.modTask.putRecord

/-! ### MemEvents -/

theorem CanonMem.settleWith {o l err} (h : CanonMem s) : CanonMem (settleWith o l err s) := by
  unfold Machine.settleWith
  split
  · exact h.endLoad
  · split
    · exact h.supplyPush.dropOp.noteErr
    · exact h.endRecord.ite h.modOp
  · exact h.modOp
  · exact h

theorem CanonMem.settleLoad {o l err} (h : CanonMem s) : CanonMem (settleLoad o l err s) :=
  h.settleWith.ite h.endParts.settleWith

theorem CanonMem.askMoved {o l old} (h : CanonMem s) : CanonMem (askMoved o l old s) := h.foldl fun _ _ h => h.askRun

theorem CanonMem.performLoad {o l} (h : CanonMem s) : CanonMem (performLoad o l s) :=
  h.settleLoad.ite (h.ite (h.settleLoad.ite (h.readRuns.settleLoad.askMoved.ite h.readRuns.settleLoad.askFar)))

theorem CanonMem.execLoadPerformAtHome {op} (h : CanonMem s) : CanonOut (execLoadPerformAtHome op s) := by
  unfold Machine.execLoadPerformAtHome
  split
  · split
    · exact h.performLoad
    · exact h
  · exact h

theorem CanonMem.answerLoad {o l data bad err} (h : CanonMem s) : CanonMem (answerLoad o l data bad err s) := by
  unfold Machine.answerLoad
  split
  · exact h
  · split <;> exact h.settleLoad

theorem CanonMem.answerClient {id p a} (h : CanonMem s) : CanonMem (answerClient id p a s) := by
  unfold Machine.answerClient
  split
  · exact h.answerPart.recordAnswered
  · exact h.answerPart
  · exact h.answerPart
  · exact h.answerPart
  · exact h.answerPart
  · exact h.answerPart

theorem CanonMem.execRemoteLoadResponse {op data err} (h : CanonMem s) :
    CanonOut (execRemoteLoadResponse op data err s) := by
  unfold Machine.execRemoteLoadResponse
  split
  · split
    · exact h.dropSent.answerClient
    · exact h.dropSent.answerLoad
    · exact h
  · exact h.dropSent

theorem CanonMem.sendStore {o w p off} (h : CanonMem s) : CanonMem (sendStore o w p off s) := h.modOp.sendRequest

theorem CanonMem.endStore {o w err} (h : CanonMem s) : CanonMem (endStore o w err s) := by
  unfold Machine.endStore
  dsimp only
  split
  · refine .endOp ?_
    split
    · exact h.modCore
    · exact h
  · split
    · refine .modOwner (.noteErr (.dropOp ?_))
      split
      · exact h.modCore
      · exact h
    · refine .dropOp ?_
      split
      · exact h.modCore
      · exact h

theorem CanonMem.performStore {o w key} (h : CanonMem s) : CanonMem (performStore o w key s) := by
  unfold Machine.performStore
  split
  · exact h.sendStore
  · exact h.sendStore
  · exact h.viewWrite.endStore.ite h.endStore

theorem CanonMem.execStorePerformAtHome {op} (h : CanonMem s) : CanonOut (execStorePerformAtHome op s) := by
  unfold Machine.execStorePerformAtHome
  split
  · split
    · split
      · exact h.performStore.ite h
      · exact h
      · exact h
    · exact h
  · exact h

theorem CanonMem.leaveCore {o w key} (h : CanonMem s) : CanonMem (leaveCore o w key s) := h.upd

theorem CanonMem.performRelease {o w} (h : CanonMem s) : CanonMem (performRelease o w s) := by
  unfold Machine.performRelease
  split
  · dsimp only
    split
    · exact h.leaveCore.performStore.ite h.leaveCore
    · exact h.leaveCore
  · exact h.modOp.sendRequest.sendBehind
  · exact h

theorem CanonMem.execReleaseStorePerform {op} (h : CanonMem s) : CanonOut (execReleaseStorePerform op s) := by
  unfold Machine.execReleaseStorePerform
  split
  · split
    · split
      · exact h.performRelease.ite h
      · exact h
    · exact h
  · exact h

theorem CanonMem.execPostedWriteAcknowledge {op err} (h : CanonMem s) : CanonOut (execPostedWriteAcknowledge op err s) := by
  unfold Machine.execPostedWriteAcknowledge
  split
  · split
    · split
      · exact h.dropSent.endStore.ite h
      · exact h
      · exact h
    · exact h.dropSent.endFar.ite h
    · exact h.dropSent.answerClient
    · exact h
  · exact h.dropSent

theorem CanonMem.failWait {o code} (h : CanonMem s) : CanonMem (failWait o code s) := h.modCore.dropOp

theorem CanonMem.failRemote {o code} (h : CanonMem s) : CanonMem (failRemote o code s) := by
  unfold Machine.failRemote
  split
  · exact h.dropSent.settleLoad.ite h.dropSent
  · exact h.dropSent.settleLoad.ite h.dropSent
  · exact h.dropSent.settleLoad.ite h.dropSent
  · split
    · exact h.dropSent.endStore.ite h.dropSent
    · exact h.dropSent
    · exact h.dropSent
  · split
    · exact h.dropSent.endFar.ite h.dropSent
    · exact h.dropSent
    · exact h.dropSent
  · exact h.dropSent.answerClient
  · exact h.dropSent.endOp
  · exact h.dropSent.failWait
  · exact h.dropSent.answerPacket.ite h.dropSent
  · exact h.dropSent.dropOp.adminDone
  · exact h.dropSent.failWait.ite h.dropSent
  · exact h.dropSent

theorem CanonMem.execFabricRequestTimeout {op} (h : CanonMem s) : CanonOut (execFabricRequestTimeout op s) := by
  unfold Machine.execFabricRequestTimeout
  split
  · exact h.ite h.failRemote
  · exact h

theorem CanonMem.askCore {ask n} (h : CanonMem s) : CanonMem (askCore ask n s) := h.modCore.ite h.send

theorem CanonMem.askPackage {ask} (h : CanonMem s) : CanonMem (askPackage ask s) :=
  h.send.ite (h.startEngineOp.foldl fun _ _ h => h.askCore)

theorem CanonMem.execFenceHeavySerialisation {ask core} (h : CanonMem s) :
    CanonOut (execFenceHeavySerialisation ask core s) := by
  unfold Machine.execFenceHeavySerialisation
  split
  · exact h.askCore
  · exact h.askPackage

theorem CanonMem.endHeavy {o reply} (h : CanonMem s) : CanonMem (endHeavy o reply s) := by
  unfold Machine.endHeavy
  split
  · exact h.dropOp.modCore
  · exact h.dropOp.send

theorem CanonMem.execFenceHeavyAcknowledge {op acc core} (h : CanonMem s) :
    CanonOut (execFenceHeavyAcknowledge op acc core s) := by
  unfold Machine.execFenceHeavyAcknowledge
  split
  · split
    · exact h.endHeavy.ite h.modOp
    · exact h
  · exact h

/-! ### Home -/

theorem CanonMem.answer {r err bytes bad old sat} (h : CanonMem s) : CanonMem (answer r err bytes bad old sat s) := h.sendOn

theorem CanonMem.answerError {r} (h : CanonMem s) : CanonMem (answerError r s) := h.answer

theorem CanonMem.denyReq {r} (h : CanonMem s) : CanonMem (denyReq r s) := h.noteErr.answerError

theorem CanonMem.writeAtom {r key old new} (h : CanonMem s) : CanonMem (writeAtom r key old new s) := by
  unfold Machine.writeAtom
  split
  · exact h.answer
  · exact h.viewPut.answer.ite h.noteErr.answerError

theorem CanonMem.performAct {r key} (h : CanonMem s) : CanonMem (performAct r key s) := by
  unfold Machine.performAct
  split
  · exact h.upd.answer
  · exact h.viewWrite.spreadPoison.answer.ite h.noteErr.answerError
  · exact h.upd.answer.ite h.upd.writeAtom
  · exact h.upd.answer.ite h.upd.writeAtom

theorem CanonMem.performOr {r key after} (h : CanonMem s) (ha : ∀ t, CanonMem t → CanonMem (after t)) :
    CanonMem (performOr r key after s) := h.upd.ite (ha _ h.performAct)

theorem CanonMem.notePeer {r} (h : CanonMem s) : CanonMem (notePeer r s) := by
  unfold Machine.notePeer
  split
  · split
    · exact h.noteTileWrite.ite h
    · exact h
  · exact h

theorem CanonMem.servePeer {r} (h : CanonMem s) : CanonMem (servePeer r s) := by
  unfold Machine.servePeer
  split
  · exact (h.performOr fun _ h => h.notePeer).ite h.denyReq
  · exact h.answerError

theorem CanonMem.modMove {p f} (h : CanonMem s) : CanonMem (modMove p f s) := h.upd

theorem CanonMem.redirectAfter {r p} (h : CanonMem s) : CanonMem (redirectAfter r p s) := h.sendOn.ite h

theorem CanonMem.joinQueue {p r} (h : CanonMem s) : CanonMem (joinQueue p r s) := h.modMove

theorem CanonMem.serveLocal {r asid va level e} (h : CanonMem s) : CanonMem (serveLocal r asid va level e s) := by
  unfold Machine.serveLocal
  refine h.answerError.ite (h.denyReq.ite ?_)
  split
  · exact h.joinQueue.ite (h.performOr fun _ h => h.redirectAfter)
  · exact h.performOr fun _ h => h.redirectAfter

theorem CanonMem.refuseReq {r why} (h : CanonMem s) : CanonMem (refuseReq r why s) := h.sendOn

theorem CanonMem.relayReq {r p owner} (h : CanonMem s) : CanonMem (relayReq r p owner s) := h.sendOn

theorem CanonMem.servePage {r asid va} (h : CanonMem s) : CanonMem (servePage r asid va s) := by
  unfold Machine.servePage
  split
  · exact h.upd
  · split
    · exact h.serveLocal
    · exact h.relayReq.ite h.refuseReq
    · exact h.answerError
    · exact h.refuseReq

theorem CanonMem.serveReq {r} (h : CanonMem s) : CanonMem (serveReq r s) := by
  unfold Machine.serveReq
  refine h.upd.ite (h.denyReq.ite ?_)
  split
  · exact h.servePage
  · exact h.servePeer
  · exact h.servePeer

theorem CanonMem.serveAll {rs} (h : CanonMem s) : CanonMem (serveAll rs s) := h.upd.foldl fun _ _ h => h.upd.serveReq

theorem CanonMem.serveStalled (h : CanonMem s) : CanonMem (serveStalled s) := h.upd.serveAll

theorem CanonMem.consultHome {op p} (h : CanonMem s) : CanonMem (consultHome op p s) := h.dropSent.makeHold.modHold.send

theorem CanonMem.resend {op} (h : CanonMem s) : CanonMem (resend op s) := by
  unfold Machine.resend
  split
  · exact h
  · exact h.send

theorem CanonMem.authFailed {op again} (h : CanonMem s) (ha : ∀ t, CanonMem t → CanonMem (again t)) :
    CanonMem (authFailed op again s) := by
  unfold Machine.authFailed
  split
  · exact h
  · exact h.failRemote.ite (ha _ h.upd)

theorem CanonMem.execHomeAnswer {op page ans} (h : CanonMem s) : CanonOut (execHomeAnswer op page ans s) := by
  unfold Machine.execHomeAnswer
  split
  · exact h.dropSent
  · split
    · exact h.failRemote
    · exact h.failRemote
    · exact h.modHold.fillOwner.failRemote.ite h.modHold.fillOwner

theorem CanonMem.execRequesterHoldRelease {page} (h : CanonMem s) : CanonOut (execRequesterHoldRelease page s) := by
  unfold Machine.execRequesterHoldRelease
  split
  · dsimp only
    split
    · exact h.upd.foldl fun _ _ h => h.sendRequest
    · exact h
  · exact h

theorem CanonMem.execRedirect {page owner epoch} (h : CanonMem s) : CanonOut (execRedirect page owner epoch s) := by
  unfold Machine.execRedirect
  split
  · exact h.fillOwner
  · exact h.fillOwner.ite h.touchOwner

/-! ### Migration -/

theorem CanonMem.tellIssuer {p issuer st owner} (h : CanonMem s) : CanonMem (tellIssuer p issuer st owner s) := by
  unfold Machine.tellIssuer
  split
  · exact h.sendOn
  · exact h

theorem CanonMem.execMigrComplete {op status owner} (h : CanonMem s) : CanonOut (execMigrComplete op status owner s) := by
  unfold Machine.execMigrComplete
  split
  · split
    · exact h.putBytes.endOp
    · exact h
  · exact h

theorem CanonMem.modHome {p f} (h : CanonMem s) : CanonMem (modHome p f s) := h.upd

theorem CanonMem.execMigrationRequestAtHome {m} (h : CanonMem s) : CanonOut (execMigrationRequestAtHome m s) := by
  unfold Machine.execMigrationRequestAtHome
  refine h.retry.ite ?_
  split
  · exact h.tellIssuer
  · split
    · exact h.tellIssuer
    · exact h.tellIssuer
    · exact h.modHome.send

theorem CanonMem.execCommit {page owner} (h : CanonMem s) : CanonOut (execCommit page owner s) := by
  unfold Machine.execCommit
  split
  · exact h
  · exact h.ite (h.modHome.ite h.modHome.send)

theorem CanonMem.returnReq {n} (h : CanonMem s) : CanonMem (returnReq n s) := h.modStation.foldl fun _ _ h => h.send

theorem CanonMem.dropMove {p} (h : CanonMem s) : CanonMem (dropMove p s) := h.upd.ite (h.upd.foldl fun _ _ h => h.returnReq)

theorem CanonMem.endMove {m home st owner} (h : CanonMem s) : CanonMem (endMove m home st owner s) :=
  h.dropMove.send.tellIssuer

theorem CanonMem.execMigrationForwardAtOwner {m home} (h : CanonMem s) :
    CanonOut (execMigrationForwardAtOwner m home s) := by
  unfold Machine.execMigrationForwardAtOwner
  split
  · exact h.endMove
  · exact h.endMove.ite (h.endMove.ite (h.endMove.ite (h.endMove.ite h.upd.send)))

theorem CanonMem.freezePage {p b} (h : CanonMem s) : CanonMem (freezePage p b s) := by
  unfold Machine.freezePage
  split
  · exact h.putPte
  · exact h

theorem CanonMem.checkFrame {frame len} (h : CanonMem s) : CanonMem (checkFrame frame len s) := h.upd

theorem CanonMem.putPage {frame d} (h : CanonMem s) : CanonMem (putPage frame d s) := h.putBytes.upd

theorem CanonMem.execTransferAcknowledge {page} (h : CanonMem s) : CanonOut (execTransferAcknowledge page s) := by
  unfold Machine.execTransferAcknowledge
  split
  · exact h
  · exact h.modMove.send.ite h

theorem CanonMem.abortMove {m} (h : CanonMem s) : CanonMem (abortMove m s) :=
  (h.freezePage.ite h).dropMove.sendOn.serveAll.endMove

theorem CanonMem.endIncoming {p} (h : CanonMem s) : CanonMem (endIncoming p s) := by
  unfold Machine.endIncoming
  split
  · exact h.upd.serveAll
  · exact h

theorem CanonMem.execReserveAccept {page accept} (h : CanonMem s) : CanonOut (execReserveAccept page accept s) := by
  unfold Machine.execReserveAccept
  split
  · exact h.ite h.endIncoming
  · exact h.ite (h.endMove.ite (h.noteErr.abortMove.ite h.checkFrame.freezePage.modMove.send))

theorem CanonMem.execMigrationAbort {page} (h : CanonMem s) : CanonOut (execMigrationAbort page s) := by
  unfold Machine.execMigrationAbort
  split
  · exact h
  · exact h.abortMove.ite h

theorem CanonMem.putLeaf {p pa e} (h : CanonMem s) : CanonMem (putLeaf p pa e s) := h.putPte.dropTranslations

theorem CanonMem.leavePage {m pa e epoch} (h : CanonMem s) : CanonMem (leavePage m pa e epoch s) :=
  h.putLeaf.fillOwner.dropMove.upd.send.serveAll.dropAndDrain.tellIssuer

theorem CanonMem.execCommitAcknowledge {page epoch} (h : CanonMem s) : CanonOut (execCommitAcknowledge page epoch s) := by
  unfold Machine.execCommitAcknowledge
  split
  · exact h.leavePage.ite h
  · exact h

theorem CanonMem.acceptMove {m owner home} (h : CanonMem s) : CanonMem (acceptMove m owner home s) := by
  unfold Machine.acceptMove
  dsimp only
  split
  · exact h.tickFree.send
  · exact h.tickFree.upd.send

theorem CanonMem.execReserve {m owner home frame} (h : CanonMem s) : CanonOut (execReserve m owner home frame s) := by
  unfold Machine.execReserve
  split
  · exact h.acceptMove
  · split
    · exact h.putPage.send.ite h.noteErr
    · exact h

theorem CanonMem.execEndForward {page rd w epoch queue} (h : CanonMem s) :
    CanonOut (execEndForward page rd w epoch queue s) := by
  unfold Machine.execEndForward
  split
  · exact h
  · refine CanonMem.serveAll (.fillOwner (.upd ?_))
    split
    · exact h.putLeaf
    · exact h

theorem CanonMem.execStubLifetimeEnd {page} (h : CanonMem s) : CanonOut (execStubLifetimeEnd page s) := by
  unfold Machine.execStubLifetimeEnd
  split
  · exact h
  · exact h.upd.send.ite h

theorem CanonMem.retireStub {x} (h : CanonMem s) : CanonMem (retireStub x s) := by
  unfold Machine.retireStub
  refine .upd ?_
  split
  · exact h.putLeaf
  · exact h

theorem CanonMem.execStubRetireAcknowledge {page} (h : CanonMem s) : CanonOut (execStubRetireAcknowledge page s) := by
  unfold Machine.execStubRetireAcknowledge
  split
  · exact h.retireStub.ite h
  · exact h

theorem CanonMem.execStubRetireTimeout {page} (h : CanonMem s) : CanonOut (execStubRetireTimeout page s) := by
  unfold Machine.execStubRetireTimeout
  split
  · exact h.retireStub.ras.ite h
  · exact h

theorem CanonMem.homeAfterReset {acc} (h : CanonMem s) : CanonMem (homeAfterReset acc s) :=
  h.foldl fun _ _ h => (h.modHome.ite h.modHome.tellIssuer).ite h

theorem CanonMem.incomingAfterReset {acc} (h : CanonMem s) : CanonMem (incomingAfterReset acc s) :=
  (h.upd.foldl fun _ _ h => h.send).serveAll

theorem CanonMem.reportOwned {acc} (h : CanonMem s) : CanonMem (reportOwned acc s) := (h.foldl fun _ _ h => h.send).send

theorem CanonMem.awayAfterReset {acc} (h : CanonMem s) : CanonMem (awayAfterReset acc s) := by
  unfold Machine.awayAfterReset
  refine h.upd.foldl fun _ _ h => ?_
  split
  · exact h.endPacket
  · exact h
  · exact h
  · exact h
  · exact h

theorem CanonMem.execPeerPackageReset {acc} (h : CanonMem s) : CanonOut (execPeerPackageReset acc s) :=
  (h.foldl fun _ _ h => h.abortMove).homeAfterReset.incomingAfterReset.awayAfterReset.upd.reportOwned

theorem CanonMem.loseAtHome {p owner} (h : CanonMem s) : CanonMem (loseAtHome p owner s) := h.modHome

theorem CanonMem.takeReport {p owner epoch} (h : CanonMem s) : CanonMem (takeReport p owner epoch s) := h.upd

theorem CanonMem.endReports {acc} (h : CanonMem s) : CanonMem (endReports acc s) := h.upd

theorem CanonMem.freeOldFrame {p} (h : CanonMem s) : CanonMem (freeOldFrame p s) := h.upd

theorem CanonMem.endDrain {op admin page} (h : CanonMem s) : CanonMem (endDrain op admin page s) := by
  unfold Machine.endDrain
  dsimp only
  split
  · refine .adminDone ?_
    split
    · exact h.dropOp.freeOldFrame
    · exact h.dropOp
  · split
    · exact h.dropOp.freeOldFrame
    · exact h.dropOp

theorem CanonMem.execInvalidationDrainComplete {op} (h : CanonMem s) : CanonOut (execInvalidationDrainComplete op s) := by
  unfold Machine.execInvalidationDrainComplete
  split
  · split
    · exact h.ite h.dropTranslations.modOp
    · exact h.endDrain.ite h
    · exact h
  · exact h

/-! ### Admin -/

theorem CanonMem.adminOk {p} (h : CanonMem s) : CanonMem (adminOk p s) := h.adminRecord

theorem CanonMem.adminBad {p} (h : CanonMem s) : CanonMem (adminBad p s) := h.adminRecord

theorem CanonMem.adminIssued {p} (h : CanonMem s) : CanonMem (adminIssued p s) := h.keepCommand

theorem CanonMem.adminAgain {p row} (h : CanonMem s) : CanonMem (adminAgain p row s) := h.keepCommand.retry

theorem CanonMem.withAdmin {kind used packet f} (h : CanonMem s) (hf : ∀ p t, CanonMem t → CanonMem (f p t)) :
    CanonMem (withAdmin kind used packet f s) :=
  h.ite (h.takeCommand.keepCommand.ite ((hf _ _ h.takeCommand).ite h.takeCommand.adminBad))

theorem CanonMem.ctxSetCmd {p} (h : CanonMem s) : CanonMem (ctxSetCmd p s) := h.adminBad.ite h.upd.adminOk

theorem CanonMem.quiesce {asid} (h : CanonMem s) : CanonMem (quiesce asid s) := h.modContext.upd

theorem CanonMem.freeContext {asid} (h : CanonMem s) : CanonMem (freeContext asid s) :=
  .upd (.foldl (.foldl (.dropEarly (.dropTranslations (h.foldl fun _ _ h => h.clearRegion)))
    fun _ _ h => h.freeRevision) fun _ _ h => h.adminDone)

theorem CanonMem.ctxEndCmd {p} (h : CanonMem s) : CanonMem (ctxEndCmd p s) :=
  h.adminBad.ite (h.quiesce.terminate.adminAgain.ite h.quiesce.terminate.freeContext.adminOk)

theorem CanonMem.registerQueue {p} (h : CanonMem s) : CanonMem (registerQueue p s) := h.adminBad.ite h.upd.adminOk

theorem CanonMem.changeQueue {p q} (h : CanonMem s) : CanonMem (changeQueue p q s) := h.adminBad.ite h.modQueue.adminOk

theorem CanonMem.queueSetCmd {p} (h : CanonMem s) : CanonMem (queueSetCmd p s) := by
  unfold Machine.queueSetCmd
  refine h.adminBad.ite (h.registerQueue.ite ?_)
  split
  · exact h.adminBad
  · exact h.adminBad.ite (h.changeQueue.ite h.modQueue.adminIssued)

theorem CanonMem.endReads {qid} (h : CanonMem s) : CanonMem (endReads qid s) := h.endParts.endParts

theorem CanonMem.execQueueRemoveComplete {qid} (h : CanonMem s) : CanonOut (execQueueRemoveComplete qid s) := by
  unfold Machine.execQueueRemoveComplete
  split
  · split
    · exact h.endReads.upd.adminDone.ite h
    · exact h
  · exact h

theorem CanonMem.dropWaits {qid} (h : CanonMem s) : CanonMem (dropWaits qid s) := h.endReads.upd

theorem CanonMem.queueResetCmd {p} (h : CanonMem s) : CanonMem (queueResetCmd p s) := by
  unfold Machine.queueResetCmd
  split
  · exact h.modQueue.dropWaits.adminOk
  · exact h.adminBad

theorem CanonMem.invalidateCmd {p} (h : CanonMem s) : CanonMem (invalidateCmd p s) :=
  h.adminBad.ite (h.postService.adminBad.ite h.askInvalidation.adminIssued)

theorem CanonMem.poolCmd {p} (h : CanonMem s) : CanonMem (poolCmd p s) := h.adminBad.ite h.upd.adminOk

theorem CanonMem.timingCmd {p} (h : CanonMem s) : CanonMem (timingCmd p s) := h.upd.adminOk.ite h.adminBad

theorem CanonMem.migrPolicyCmd {p} (h : CanonMem s) : CanonMem (migrPolicyCmd p s) := h.adminBad.ite h.modContext.adminOk

theorem CanonMem.registerRing {p} (h : CanonMem s) : CanonMem (registerRing p s) :=
  h.adminBad.ite h.modContext.putControl.putControl.putControl.adminOk

theorem CanonMem.resetRing {asid ring} (h : CanonMem s) : CanonMem (resetRing asid ring s) := by
  unfold Machine.resetRing
  dsimp only
  split
  · exact h.abandonRun
  · exact (h.abandonRun.putControl.ite h.abandonRun).putControl.modRing

theorem CanonMem.changeRing {p r} (h : CanonMem s) : CanonMem (changeRing p r s) :=
  h.adminBad.ite ((h.resetRing.ite h).modContext.adminOk.ite (h.resetRing.ite h).adminOk)

theorem CanonMem.wringCmd {p} (h : CanonMem s) : CanonMem (wringCmd p s) := by
  unfold Machine.wringCmd
  refine h.adminBad.ite (h.registerRing.ite ?_)
  split
  · exact h.changeRing
  · exact h.adminBad

theorem CanonMem.pinOne {asid va n set} (h : CanonMem s) : CanonMem (pinOne asid va n set s) :=
  h.modContext.ite h.modContext.pinPage

theorem CanonMem.pinOrAsk {asid set x} (h : CanonMem s) : CanonMem (pinOrAsk asid set s x) := by
  unfold Machine.pinOrAsk
  split
  · split
    · exact h.send
    · exact h.pinOne
  · exact h
  · exact h

theorem CanonMem.pinCmd {p} (h : CanonMem s) : CanonMem (pinCmd p s) :=
  h.adminBad.ite (h.adminAgain.ite (h.foldl fun _ _ h => h.pinOrAsk).adminOk)

theorem CanonMem.pinHere {msg asid va set} (h : CanonMem s) : CanonMem (pinHere msg asid va set s) :=
  h.retry.ite (h.foldl fun _ _ h => h.pinOrAsk)

theorem CanonMem.execPin {msg} (h : CanonMem s) : CanonOut (execPin msg s) := by
  unfold Machine.execPin
  split
  · exact h.withAdmin fun _ _ h => h.pinCmd
  · exact h.pinHere

theorem CanonMem.pageReplyCmd {p} (h : CanonMem s) : CanonMem (pageReplyCmd p s) := h.adminBad.ite h.upd.adminOk

theorem CanonMem.ownerCmd {p} (h : CanonMem s) : CanonMem (ownerCmd p s) :=
  h.adminBad.ite (h.adminOk.ite (h.upd.startEngineOp.adminIssued.foldl fun _ _ h => h.send))

theorem CanonMem.recordOwner {page owner} (h : CanonMem s) : CanonMem (recordOwner page owner s) := h.upd

theorem CanonMem.ownerRecorded {op} (h : CanonMem s) : CanonMem (ownerRecorded op s) := by
  unfold Machine.ownerRecorded
  split
  · split
    · exact h.dropOp.adminDone.ite h.modOp
    · exact h
  · exact h

theorem CanonMem.execOwner {msg} (h : CanonMem s) : CanonOut (execOwner msg s) := by
  unfold Machine.execOwner
  split
  · exact h.withAdmin fun _ _ h => h.ownerCmd
  · exact h.retry.ite h.recordOwner.sendOn
  · exact h.ownerRecorded
  · exact h.loseAtHome
  · exact h.takeReport
  · exact h.endReports

theorem CanonMem.raiseFatal (h : CanonMem s) : CanonMem (raiseFatal s) := h.upd.ite h

theorem CanonMem.loseQueue {qid} (h : CanonMem s) : CanonMem (loseQueue s qid) := h.haltQueue

theorem CanonMem.execSchedulerMemoryError {e} (h : CanonMem s) : CanonOut (execSchedulerMemoryError e s) := by
  unfold Machine.execSchedulerMemoryError
  split
  · exact h.ras
  · exact h.ras.raiseFatal
  · exact h.ras.foldl fun _ _ h => h.loseQueue

theorem CanonMem.execServiceRingFreed {asid n} (h : CanonMem s) : CanonOut (execServiceRingFreed asid n s) := by
  unfold Machine.execServiceRingFreed
  show CanonMem _
  refine .ite (.serviceMessage ?_) ?_ <;>
  · split
    · exact h.modContext.enterService
    · exact h

/-! ### Fabric -/

theorem CanonMem.discardPacket {station src req} (h : CanonMem s) : CanonMem (discardPacket station src req s) :=
  (h.authFailed fun _ h => h).ite h.sendOn

theorem CanonMem.failOp {op} (h : CanonMem s) :
    CanonMem (((s.op? op).map fun o => Machine.failRemote o .remoteError s).getD s) := by
  cases s.op? op with
  | none => exact h
  | some o => exact h.failRemote

theorem CanonMem.messageFails {i} (h : CanonMem s) : CanonMem (messageFails i s) := by
  unfold Machine.messageFails
  split
  · exact h.failOp
  · exact h.failOp
  · exact h.failOp
  next m =>
    cases m.issuer with
    | none => exact h
    | some r => exact h.failOp
  · exact h.failOp
  · split
    · exact h.haltRing.ite h
    · exact h
  · exact h

theorem CanonMem.packetLost {n station ch} (h : CanonMem s) : CanonMem (packetLost n station ch s) := by
  unfold Machine.packetLost
  split
  · exact h
  · exact h.upd.messageFails.ite h.upd.sendOn

theorem CanonMem.execRequestRefused {op why} (h : CanonMem s) : CanonOut (execRequestRefused op why s) := by
  unfold Machine.execRequestRefused
  split
  · exact h.authFailed fun _ h => h.resend
  · exact h.packetLost
  · split
    · exact h.failRemote.ite h.consultHome
    · exact h.dropSent
  · split
    · exact h.failRemote.ite h.consultHome
    · exact h.dropSent

theorem CanonMem.execFlitReceive {station src ch mark} (h : CanonMem s) :
    CanonOut (execFlitReceive station src ch mark s) := by
  unfold Machine.execFlitReceive
  dsimp only
  split
  · refine CanonMem.sendOn ?_
    split
    · exact ((h.modStation.ite h.send).ite (h.modStation.ite h.send).upd).discardPacket
    · exact (h.modStation.ite h.send).ite (h.modStation.ite h.send).upd
  · split
    · exact ((h.modStation.ite h.send).ite (h.modStation.ite h.send).upd).discardPacket
    · exact (h.modStation.ite h.send).ite (h.modStation.ite h.send).upd

theorem CanonMem.flushHeld {station} (h : CanonMem s) : CanonMem (flushHeld station s) :=
  h.ite (h.modStation.foldl fun _ _ h => h.sendFlits)

/-! ### Matrix -/

theorem CanonMem.queueMtx {m ws} (h : CanonMem s) : CanonMem (queueMtx m ws s) := h.startOp.modCtx

theorem CanonMem.noteIssued {n f} (h : CanonMem s) : CanonMem (noteIssued n f s) := h.modCtx

theorem CanonMem.issueProduct {i zero tA tB x h k} (hs : CanonMem s) : CanonMem (issueProduct i zero tA tB x h k s) := by
  unfold Machine.issueProduct
  split
  · exact hs.queueMtx.noteIssued
  · exact hs

theorem CanonMem.product {i zero tA tB x h k} (hs : CanonMem s) : CanonOut (product i zero tA tB x h k s) :=
  hs.slot fun _ h => h.issueProduct

theorem CanonMem.issueMmac {x h y} (hs : CanonMem s) : CanonMem (issueMmac x h y s) := by
  unfold Machine.issueMmac
  split
  · exact hs.queueMtx.noteIssued
  · exact hs

theorem CanonMem.issueMout {x h sh} (hs : CanonMem s) : CanonMem (issueMout x h sh s) := by
  unfold Machine.issueMout
  split
  · exact hs.queueMtx.modTile
  · exact hs

theorem CanonMem.issueLoadAcc {j zero bias x h sh} (hs : CanonMem s) : CanonMem (issueLoadAcc j zero bias x h sh s) := by
  unfold Machine.issueLoadAcc
  split
  · exact hs.queueMtx.noteIssued
  · exact hs

theorem CanonMem.issueMzero {x r c} (h : CanonMem s) : CanonMem (issueMzero x r c s) := h.queueMtx.noteIssued

theorem CanonMem.startMatrix {o m} (h : CanonMem s) : CanonMem (startMatrix o m s) := h.modOp

theorem CanonMem.execMatrixInstructionStart {op} (h : CanonMem s) : CanonOut (execMatrixInstructionStart op s) := by
  unfold Machine.execMatrixInstructionStart
  split
  · split
    · exact h.startMatrix.ite h
    · exact h
  · exact h

theorem CanonMem.readRanged {rs} (h : CanonMem s) : CanonMem (readRanged rs s) := h.upd

theorem CanonMem.endAcc {o m zero r f bad} (h : CanonMem s) : CanonMem (endAcc o m zero r f bad s) := h.modOwner

theorem CanonMem.completeMout {o m} (h : CanonMem s) : CanonMem (completeMout o m s) := by
  unfold Machine.completeMout
  split
  · exact h.modOwner
  · refine h.modTile.modOwner.ite (.modOwner (.ite (.modTile ?_) ?_)) <;>
    exact (h.modTile.foldl fun _ _ h => h.writeElems).noteEngineWrite

theorem CanonMem.completeMzero {o m} (h : CanonMem s) : CanonMem (completeMzero o m s) := h.modOwner

theorem CanonMem.completeProduct {o m zero} (h : CanonMem s) : CanonMem (completeProduct o m zero s) := by
  unfold Machine.completeProduct
  split
  · exact h.readRanged.endAcc
  · exact h.modOwner

theorem CanonMem.completeAdd {o m zero bias} (h : CanonMem s) : CanonMem (completeAdd o m zero bias s) := by
  unfold Machine.completeAdd
  split
  · exact h.readRanged.endAcc
  · exact h.modOwner

theorem CanonMem.delayFollowers {o m} (h : CanonMem s) : CanonMem (delayFollowers o m s) := h.upd

theorem CanonMem.completeMatrix {o m} (h : CanonMem s) : CanonMem (completeMatrix o m s) := by
  unfold Machine.completeMatrix
  split
  · exact h.dropOp.delayFollowers.completeProduct
  · exact h.dropOp.delayFollowers.completeProduct
  · exact h.dropOp.delayFollowers.completeProduct
  · exact h.dropOp.delayFollowers.completeProduct
  · exact h.dropOp.delayFollowers.completeProduct
  · exact h.dropOp.delayFollowers.completeMout
  · exact h.dropOp.delayFollowers.completeAdd
  · exact h.dropOp.delayFollowers.completeAdd
  · exact h.dropOp.delayFollowers.completeAdd
  · exact h.dropOp.delayFollowers.completeMzero
  · exact h.dropOp.delayFollowers

theorem CanonMem.execMatrixInstructionComplete {op} (h : CanonMem s) : CanonOut (execMatrixInstructionComplete op s) := by
  unfold Machine.execMatrixInstructionComplete
  split
  · split
    · exact h.completeMatrix.ite h
    · exact h
  · exact h

theorem CanonMem.execRepeatRepetition {core} (h : CanonMem s) : CanonOut (execRepeatRepetition core s) := by
  unfold Machine.execRepeatRepetition
  split
  · exact h.modCtxAt.ite h
  · exact h

/-! ### Revisions -/

theorem CanonMem.shareAncestors {parent child} (h : CanonMem s) : CanonMem (shareAncestors parent child s) := h.upd

theorem CanonMem.execSnapshotEstablish {rev} (h : CanonMem s) : CanonOut (execSnapshotEstablish rev s) := by
  unfold Machine.execSnapshotEstablish
  split
  · exact h
  · exact h.upd.shareAncestors.ite h

theorem CanonMem.execCowCopyComplete {op} (h : CanonMem s) : CanonOut (execCowCopyComplete op s) := by
  unfold Machine.execCowCopyComplete
  split
  · split
    · exact h.dropOp.serveStalled
    · exact h
  · exact h

theorem CanonMem.endMerge {rev} (h : CanonMem s) : CanonMem (endMerge rev s) := by
  unfold Machine.endMerge
  split
  · exact h
  · exact h.upd.freeRevision.wakeBlocked.ite h

theorem CanonMem.startGranules {rev r gs} (h : CanonMem s) : CanonMem (startGranules rev r s gs).1 := by
  induction gs generalizing s with
  | nil => exact h
  | cons g gs ih =>
    unfold Machine.startGranules
    split
    · exact h
    · split
      · exact ih h
      · exact ih h.makeCopies.startEngineOp

theorem CanonMem.execChildMerge {rev} (h : CanonMem s) : CanonOut (execChildMerge rev s) := by
  unfold Machine.execChildMerge
  split
  · exact h
  · exact h.startGranules.upd.endMerge.wakeBlocked.ite h

theorem CanonMem.setConflicts {master asid r n es} {p : State × Nat} (h : CanonMem p.1) :
    CanonMem (setConflicts master asid r n es p).1 := by
  induction es generalizing n p with
  | nil => exact h
  | cons e es ih =>
    unfold Machine.setConflicts
    split
    · dsimp only
      split
      · exact ih (h.getD fun _ => h.writeVa)
      · exact ih h
    · exact ih h

theorem CanonMem.mergeGranule {rev g r} (h : CanonMem s) : CanonMem (mergeGranule rev g r s) := by
  unfold Machine.mergeGranule
  split
  · exact h
  · refine .upd (.modOwner (.setConflicts ?_))
    dsimp only
    split <;> exact h.viewAfterRead.viewAfterRead.viewPut.spreadPoison

theorem CanonMem.execGranuleMergeComplete {op} (h : CanonMem s) : CanonOut (execGranuleMergeComplete op s) := by
  unfold Machine.execGranuleMergeComplete
  split
  · split
    · split
      · exact h.dropOp.mergeGranule.endMerge.serveStalled
      · exact h.dropOp.serveStalled
    · exact h
  · exact h

/-! ### Rows -/

theorem CanonMem.failPush {p} (h : CanonMem s) : CanonMem (failPush s p) := by
  unfold Machine.failPush
  split
  · exact h.modCtx.takeFault.modCore
  · exact h
  · exact h

theorem CanonMem.execResultPush {core} (h : CanonMem s) : CanonOut (execResultPush core s) := by
  unfold Machine.execResultPush
  dsimp only
  split
  · split
    · exact h.upd.noteStall.startFill.upd
    · exact h.upd.modCtx
  · split
    · exact h.upd.failPush
    · exact h.upd

theorem CanonMem.execFormatWriteApply {core} (h : CanonMem s) : CanonOut (execFormatWriteApply core s) := by
  unfold Machine.execFormatWriteApply
  split
  · exact h.modCtxAt
  · exact h

theorem CanonMem.execIllegalSlotWord {core} (h : CanonMem s) : CanonOut (execIllegalSlotWord core s) := by
  unfold Machine.execIllegalSlotWord
  dsimp only
  split
  · exact h.upd.takeFault
  · exact h.upd

theorem CanonMem.execClampLineRelease {task line} (h : CanonMem s) : CanonOut (execClampLineRelease task line s) := by
  unfold Machine.execClampLineRelease
  split
  · exact h
  · dsimp only
    split
    · exact h
    · split
      · exact h
      · split
        · exact h.modDie.upd
        · exact h

/-! ### Scalar -/

theorem CanonMem.scalar2 {lat f d a b} (h : CanonMem s) : CanonOut (scalar2 lat f d a b s) := h.slot fun _ h => h.pushS

theorem CanonMem.scalar1 {lat f d a} (h : CanonMem s) : CanonOut (scalar1 lat f d a s) := h.slot fun _ h => h.pushS

theorem CanonMem.divide {f d a b} (h : CanonMem s) : CanonOut (divide f d a b s) := h.slot fun _ h => h.pushSF

theorem CanonMem.scalarI {f d a imm} (h : CanonMem s) : CanonOut (scalarI f d a imm s) := h.slot fun _ h => h.pushS

theorem CanonMem.writeFmt {vf x mask} (h : CanonMem s) : CanonMem (writeFmt vf x mask s) := h.modCtx

theorem CanonMem.doMts {n v} (h : CanonMem s) : CanonMem (doMts n v s) := by
  unfold Machine.doMts
  split
  · exact h.writeFmt
  · exact h.writeFmt
  · exact h.defer
  · exact h.defer

/-! ### ScalarMem -/

theorem CanonMem.scalarLoad {d a b z sgn acq} (h : CanonMem s) : CanonOut (scalarLoad d a b z sgn acq s) :=
  h.slot fun _ h => h.startLoad

theorem CanonMem.doScalarStore {d a b z rel} (h : CanonMem s) : CanonMem (doScalarStore d a b z rel s) :=
  h.startStore.noteStore

theorem CanonMem.scalarStore {d a b z rel} (h : CanonMem s) : CanonOut (scalarStore d a b z rel s) :=
  h.slot fun _ h => h.doScalarStore

theorem CanonMem.startXlt {x addr w} (h : CanonMem s) : CanonMem (startXlt x addr w s) := h.usePages.upd.startOp

/-! ### TaskEvents -/

theorem CanonMem.admitTask {t} (h : CanonMem s) : CanonMem (admitTask t s) :=
  h.upd.modTask.wakeTasks.ite h.upd.renameAll.modTask.wakeTasks

theorem CanonMem.execTaskAdmission {task} (h : CanonMem s) : CanonOut (execTaskAdmission task s) := by
  unfold Machine.execTaskAdmission
  split
  · exact h.wakeTasks.ite (h.admitTask.ite h)
  · exact h

theorem CanonMem.unqueue {task n} (h : CanonMem s) : CanonMem (unqueue task n s) := h.modCore

theorem CanonMem.takeTask {t n} (h : CanonMem s) : CanonMem (takeTask t n s) := by
  unfold Machine.takeTask
  refine h.unqueue.modCore.modTask.queueReady.ite ?_
  split
  next u e => exact (h.launchTask e).unqueue.queueReady
  · exact h.askLaunch
  · exact h.unqueue.refuseLaunch.queueReady

theorem CanonMem.execTaskDispatch {core} (h : CanonMem s) : CanonOut (execTaskDispatch core s) := by
  unfold Machine.execTaskDispatch
  refine h.ite ?_
  split
  · exact h.takeTask.ite h
  · exact h

theorem CanonMem.reserveCores {cs b} (h : CanonMem s) : CanonMem (reserveCores cs b s) := h.foldl fun _ _ h => h.modCore

theorem CanonMem.bindLines {t die ps} (h : CanonMem s) : CanonMem (bindLines t die ps s) := h.modDie.modTask

theorem CanonMem.restoreOn {t cs} (h : CanonMem s) : CanonMem (restoreOn t cs s) := (h.foldl fun _ _ h => h.modCore).modTask

theorem CanonMem.releaseGang {t die cs} (h : CanonMem s) : CanonMem (releaseGang t die cs s) := by
  unfold Machine.releaseGang
  refine h.ite (h.bindLines.restoreOn.modDie.queueReady.ite ?_)
  split
  next u e => exact (h.bindLines.launchTask e).modDie.queueReady
  · exact h.askLaunch
  · exact h.refuseLaunch.reserveCores.modDie.queueReady

theorem CanonMem.dropBinding {die} (h : CanonMem s) : CanonMem (dropBinding die s) := by
  unfold Machine.dropBinding
  split
  · exact h.reserveCores.modDie.queueReady
  · exact h

theorem CanonMem.execGangRelease {die} (h : CanonMem s) : CanonOut (execGangRelease die s) := by
  unfold Machine.execGangRelease
  split
  · exact h.dropBinding
  · exact h.reserveCores.modDie.releaseGang.ite h.reserveCores.modDie

theorem CanonMem.fillSlot {o pipe h core i f e} (hs : CanonMem s) : CanonMem (fillSlot o pipe h core i f e s) :=
  hs.modCore.fillTile.modPipe.endOp

theorem CanonMem.execPipewFill {op} (h : CanonMem s) : CanonOut (execPipewFill op s) := by
  unfold Machine.execPipewFill
  split
  · split
    · split
      · exact h.fillSlot
      · exact h
    · exact h
  · exact h

theorem CanonMem.askStop {cs k} (h : CanonMem s) : CanonMem (askStop cs k s) := h.foldl fun _ _ h => h.modCore

theorem CanonMem.endSlice {core} (h : CanonMem s) : CanonMem (endSlice core s) := h.askStop.ite h

theorem CanonMem.execTaskAgeingStep {task} (h : CanonMem s) : CanonOut (execTaskAgeingStep task s) := by
  unfold Machine.execTaskAgeingStep
  split
  · exact h.endSlice
  · exact h

theorem CanonMem.sendBatch {b} (h : CanonMem s) : CanonMem (sendBatch b s) :=
  h.send.foldl fun _ _ h => h.foldl fun _ _ h => h.send

theorem CanonMem.execProxyBatchSend {acc} (h : CanonMem s) : CanonOut (execProxyBatchSend acc s) := by
  unfold Machine.execProxyBatchSend
  split
  · exact h.upd.sendBatch
  · exact h

theorem CanonMem.placeForeign {src xs} (h : CanonMem s) : CanonMem (placeForeign src xs s).1 := by
  induction xs generalizing s with
  | nil => exact h
  | cons x xs ih =>
    unfold Machine.placeForeign
    dsimp only
    split
    next u hu =>
      refine ih ?_
      split at hu
      · cases hu; exact h
      · split at hu
        · split at hu
          · cases hu
          · cases hu; exact h.addTask
        · cases hu
    · exact h

theorem CanonMem.takeAcks {src acks} (h : CanonMem s) : CanonMem (takeAcks src acks s) := h.upd.queueReady.settleTasks

theorem CanonMem.takeEnd {src x} (h : CanonMem s) : CanonMem (takeEnd src s x) := by
  unfold Machine.takeEnd
  split
  · dsimp only
    split
    · exact h.upd.endPacket
    · exact h.upd
    · exact h.upd
    · exact h.upd
    · exact h.upd
  · exact h

theorem CanonMem.placeTile {t core x u} (h : CanonMem s) (e : placeTile t core x s = some u) : CanonMem u := by
  unfold Machine.placeTile at e
  split at e
  · cases e
  · obtain ⟨_, _, e⟩ := Option.map_eq_some_iff.1 e
    cases e
    exact h.modCore.modTask.fillTile

theorem CanonMem.execJobCardTileArrival {src task tile} (h : CanonMem s) :
    CanonOut (execJobCardTileArrival src task tile s) := by
  unfold Machine.execJobCardTileArrival
  split
  · exact h
  · split
    next u e =>
      obtain ⟨core, _, e⟩ := Option.bind_eq_some_iff.1 e
      exact (h.placeTile e).modTask.wakeTasks
    · exact h.retry

theorem CanonMem.execStealRequest {die} (h : CanonMem s) : CanonOut (execStealRequest die s) := by
  unfold Machine.execStealRequest
  split
  · split
    · exact h.modTask.send
    · exact h
  · exact h

theorem CanonMem.execStolenRecordArrival {task thief epoch} (h : CanonMem s) :
    CanonOut (execStolenRecordArrival task thief epoch s) := by
  unfold Machine.execStolenRecordArrival
  show CanonMem _
  refine .ite ?_ h.modDie.send
  split
  · exact h.postService
  · exact h

theorem CanonMem.execStealAck {task thief} (h : CanonMem s) : CanonOut (execStealAck task thief s) := by
  unfold Machine.execStealAck
  split
  · exact h.unqueue.modTask.send.queueReady.ite h.send
  · exact h.send

theorem CanonMem.dropStolen {task thief} (h : CanonMem s) : CanonMem (dropStolen task thief s) := h.modDie

theorem CanonMem.execStealConfirm {task thief} (h : CanonMem s) : CanonOut (execStealConfirm task thief s) := by
  unfold Machine.execStealConfirm
  split
  · exact h.dropStolen.modTask.queueReady.ite h.dropStolen
  · exact h.dropStolen

theorem CanonMem.requeueTransit {task x} (h : CanonMem s) : CanonMem (requeueTransit task x s) :=
  h.modTask.ite h.modCore.modTask

theorem CanonMem.execStealTimerExpiry {cause} (h : CanonMem s) : CanonOut (execStealTimerExpiry cause s) := by
  unfold Machine.execStealTimerExpiry
  split
  · split
    · exact h.modTask.ite h
    · exact h.dropStolen.requeueTransit.ite h.dropStolen.modTask
    · exact h.modDie.requeueTransit.ite h.modDie
  · exact h

/-! ### Stops -/

theorem CanonMem.drainMatrix {core} (h : CanonMem s) : CanonMem (drainMatrix core s) := h.upd

theorem CanonMem.restProduct {o} (h : CanonMem s) : CanonMem (restProduct s o) := by
  unfold Machine.restProduct
  split
  · split
    · split
      · exact h.readRanged.modOwner.modOp
      · exact h
    · exact h
  · exact h

theorem CanonMem.restProducts {task} (h : CanonMem s) : CanonMem (restProducts task s) := h.foldl fun _ _ h => h.restProduct

theorem CanonMem.execFirmwareStopRequest {core} (h : CanonMem s) : CanonOut (execFirmwareStopRequest core s) := by
  unfold Machine.execFirmwareStopRequest
  dsimp only
  split
  · exact h.retry.ite h.askStop
  · exact h.drainMatrix
  · exact h
  · exact h
  · exact h

theorem CanonMem.cleanTiles {n c} (h : CanonMem s) : CanonMem (cleanTiles n c s) := h.foldl fun _ _ h => h.modTile

theorem CanonMem.keepFaults {task member ms} (h : CanonMem s) : CanonMem (keepFaults task member ms s) := h.modTask

theorem CanonMem.dropClamps {task} (h : CanonMem s) : CanonMem (dropClamps task s) := h.upd

theorem CanonMem.saveMembers {task ms} (h : CanonMem s) : CanonMem (saveMembers task ms s) :=
  ((h.upd.foldl fun _ _ h => h.cleanTiles).modTask.foldl fun _ _ h => h.idleCore).dropClamps

theorem CanonMem.afterSave {t ms} (h : CanonMem s) : CanonMem (afterSave t ms s) := by
  unfold Machine.afterSave
  refine h.terminate.ite ?_
  split
  · exact h.keepFaults.handleFault
  · refine h.modTask.wakeBlocked.ite ?_
    split
    · exact h.requeueOn
    · exact h.requeue

theorem CanonMem.execTaskSave {core} (h : CanonMem s) : CanonOut (execTaskSave core s) := by
  unfold Machine.execTaskSave
  split
  · exact h.restProducts.saveMembers.afterSave.ite h
  · exact h

theorem CanonMem.liftMember {t v} (h : CanonMem s) : CanonMem (liftMember t v s).2 := by
  unfold Machine.liftMember
  exact h.modCore

theorem CanonMem.liftAll {t vs} (h : CanonMem s) : CanonMem (liftAll t vs s).2 :=
  List.foldlRecOn _ _ (motive := fun p : List Lifted × State => CanonMem p.2) h fun _ hp _ _ => hp.liftMember

theorem CanonMem.placeLifted {core x i t} (h : CanonMem s) (e : placeLifted core x s = some (i, t)) : CanonMem t := by
  obtain ⟨_, _, e⟩ := Option.map_eq_some_iff.1 e
  cases e
  exact h.modCore.fillTile

theorem CanonMem.placeAll {core xs m t} (h : CanonMem s) (e : placeAll core xs s = some (m, t)) : CanonMem t := by
  induction xs generalizing s m with
  | nil => cases e; exact h
  | cons x xs ih =>
    obtain ⟨⟨i, u⟩, hu, e⟩ := Option.bind_eq_some_iff.1 e
    obtain ⟨⟨n, v⟩, hv, e⟩ := Option.map_eq_some_iff.1 e
    cases e
    exact ih (h.placeLifted hu) hv

theorem CanonMem.moveOps {t v core m s} {u : State} (h : CanonMem u) : CanonMem (moveOps t v core m s u) := h.upd

theorem CanonMem.rehandle {v core hm} (h : CanonMem s) : CanonMem (rehandle v core hm s) := h.ite h.modCore

theorem CanonMem.movePriv {t v core u} (h : CanonMem s) (e : movePriv t v core s = some u) : CanonMem u := by
  unfold Machine.movePriv at e
  split at e
  · cases e; exact h
  · split at e
    next s' _ hp =>
      cases e
      have hl := CanonLaunch.placePriv (task := t.id) (member := v.member) (core := core) (bytes := v.ctx.priv)
        (r := .ok s []) h
      rw [hp] at hl
      exact hl
    all_goals cases e

theorem CanonMem.resumeMember {t v core hm} (h : CanonMem s) : CanonMem (resumeMember t v core hm s) :=
  h.returnToTask.modCore

theorem CanonMem.restoreMember {old t ls v core u} (h : CanonMem s) (e : restoreMember old t ls v core s = some u) :
    CanonMem u := by
  unfold Machine.restoreMember at e
  split at e
  · cases e
  · obtain ⟨⟨m, a⟩, ha, e⟩ := Option.bind_eq_some_iff.1 e
    obtain ⟨b, hb, e⟩ := Option.map_eq_some_iff.1 e
    cases e
    exact ((h.placeAll ha).movePriv hb).modTask.moveOps.rehandle.resumeMember

theorem CanonMem.restoreAll {old t ls vs u} (h : CanonMem s) (e : restoreAll old t ls vs s = some u) : CanonMem u := by
  induction vs generalizing s with
  | nil => cases e; exact h
  | cons v vs ih =>
    obtain ⟨core, _, e⟩ := Option.bind_eq_some_iff.1 e
    obtain ⟨a, ha, e⟩ := Option.bind_eq_some_iff.1 e
    exact ih (h.restoreMember ha) e

theorem CanonMem.reloadCode {t cs} (h : CanonMem s) : CanonMem (reloadCode t cs s) := by
  unfold Machine.reloadCode
  split
  · exact h
  · exact h.foldl fun _ _ h => h.ite h.modCore

theorem CanonMem.clearStuck {t} (h : CanonMem s) : CanonMem (clearStuck t s) := by
  unfold Machine.clearStuck
  split
  · exact h
  · exact h.upd

theorem CanonMem.restoreTask {t u} (h : CanonMem s) (e : restoreTask t s = some u) : CanonMem u := by
  obtain ⟨a, ha, e⟩ := Option.map_eq_some_iff.1 e
  cases e
  exact (h.liftAll.restoreAll ha).clearStuck.modTask.reloadCode.endParts.releaseLines

theorem CanonMem.execTaskRestore {core} (h : CanonMem s) : CanonOut (execTaskRestore core s) := by
  unfold Machine.execTaskRestore
  split
  · split
    · refine h.upd.terminate.ite (h.ite ?_)
      split
      · exact h.startParts
      · exact h.getD fun _ => h.restoreTask
      · exact h.getD fun _ => h.restoreTask
    · exact h
  · exact h

/-! ### System -/

theorem CanonMem.portAnswer {a} (h : CanonMem s) : CanonMem (portAnswer a s) := h.upd

theorem CanonMem.afterReset (h : CanonMem s) : CanonMem (afterReset s) := h.withMem rfl

theorem CanonMem.execBootGo (h : CanonMem s) : CanonOut (execBootGo s) := by
  unfold Machine.execBootGo
  split
  · split <;> exact h.upd
  · exact h

theorem CanonMem.execRegisterWrite {r v} (h : CanonMem s) : CanonOut (execRegisterWrite r v s) := by
  unfold Machine.execRegisterWrite
  split
  · exact h.upd.ite h
  · exact h

theorem CanonMem.denied (h : CanonMem s) : CanonMem (denied s) := h.noteErr

theorem CanonMem.portAccess {master pa act} (h : CanonMem s) : CanonMem (portAccess master pa act s) := by
  unfold Machine.portAccess
  split
  · exact h.denied.portAnswer.ite (h.upd.portAnswer.ite h.upd.portAnswer)
  · exact h.denied.ite h.viewPut

theorem CanonMem.execCxlMemAccess {pa act} (h : CanonMem s) : CanonOut (execCxlMemAccess pa act s) := by
  unfold Machine.execCxlMemAccess
  split
  · split
    · exact h.portAnswer
    · exact h
  · exact (h.portAccess.ite h.retry).ite h

theorem CanonMem.execStorageWindowAccess {requester off act} (h : CanonMem s) :
    CanonOut (execStorageWindowAccess requester off act s) := by
  unfold Machine.execStorageWindowAccess
  split
  · exact h.portAccess.ite h.retry
  · exact h.portAnswer

theorem CanonMem.withEntry {t i e} (h : CanonMem s) : CanonMem (withEntry t i e s) := h.upd

theorem CanonMem.dropMoved {s} {t : State} (h : CanonMem t) : CanonMem (dropMoved s t) := h.upd

/-! ### Dispatch -/

/-- Every row of the table keeps the canonical form. -/
theorem CanonMem.exec {i} (h : CanonMem s) : CanonOut (exec i s) := by
  unfold Machine.exec
  cases i with
  | add => exact h.scalar2
  | sub => exact h.scalar2
  | and => exact h.scalar2
  | or => exact h.scalar2
  | xor => exact h.scalar2
  | andn => exact h.scalar2
  | shl => exact h.scalar2
  | shr => exact h.scalar2
  | sar => exact h.scalar2
  | mul => exact h.scalar2
  | mulh => exact h.scalar2
  | mulhu => exact h.scalar2
  | div => exact h.divide
  | divu => exact h.divide
  | rem => exact h.divide
  | remu => exact h.divide
  | min => exact h.scalar2
  | max => exact h.scalar2
  | minu => exact h.scalar2
  | maxu => exact h.scalar2
  | clz => exact h.scalar1
  | cls => exact h.scalar1
  | popc => exact h.scalar1
  | ext => exact h.scalar2
  | addi => exact h.scalarI
  | andi => exact h.scalarI
  | ori => exact h.scalarI
  | xori => exact h.scalarI
  | shli => exact h.scalarI
  | shri => exact h.scalarI
  | sari => exact h.scalarI
  | lih => exact h.slot fun _ h => h.pushS
  | cmp => exact h.slot fun _ h => h.defer
  | cmpi => exact h.slot fun _ h => h.defer
  | sel => exact h.slot fun _ h => h.pushS
  | plog => exact h.slot fun _ h => h.defer
  | ld => exact h.scalarLoad
  | st => exact h.scalarStore
  | ldAcq => exact h.scalarLoad
  | stRel => exact h.scalarStore
  | spcq => exact h.slot fun _ h => h.pushS
  | spcast => exact h.slot fun _ h => h.pushS
  | xlt => exact h.slot fun _ h => h.startXlt
  | setmf => exact h.slot fun _ h => h.writeFmt
  | setvf => exact h.slot fun _ h => h.writeFmt
  | mfs => exact h.slot fun _ h => h.pushS
  | mts => exact h.slot fun _ h => h.doMts
  | chk => exact h.slot fun _ h => h
  | tinfo => exact h.slot fun _ h => h.pushS
  | tsets => exact h.slot fun _ h => h.doTsets
  | rng => exact h.slot fun _ h => h.pushS
  | vadd => exact h.vecArith2
  | vsub => exact h.vecArith2
  | vadds => exact h.vecArith2
  | vsubs => exact h.vecArith2
  | vmul => exact h.vecArith2
  | vmulhr => exact h.vecArith2
  | vmin => exact h.vecArith2
  | vmax => exact h.vecArith2
  | vabs => exact h.vecArith1
  | vneg => exact h.vecArith1
  | vand => exact h.vecCodes2
  | vor => exact h.vecCodes2
  | vxor => exact h.vecCodes2
  | vshl => exact h.vecCodes2
  | vshr => exact h.vecCodes2
  | vsar => exact h.slot fun _ h => h.pushV
  | vshli => exact h.vecArith1
  | vsari => exact h.vecArith1
  | vrshr => exact h.slot fun _ h => h.pushV
  | vcvt => exact h.slot fun _ h => h.pushV
  | vcmp => exact h.slot fun _ h => h.pushV
  | vsel => exact h.slot fun _ h => h.pushV
  | vbcast => exact h.slot fun _ h => h.pushV
  | vextr => exact h.slot fun _ h => h.pushS
  | vperm => exact h.slot fun _ h => h.pushV
  | vslide => exact h.slot fun _ h => h.pushV
  | vrsum => exact h.vecReduce
  | vrmax => exact h.vecReduce
  | vrmin => exact h.vecReduce
  | vscan => exact h.slot fun _ h => h.pushV
  | vdot => exact h.slot fun _ h => h.pushV
  | vcls => exact h.slot fun _ h => h.pushV
  | vcensus => exact h.slot fun _ h => h.pushS
  | vld => exact h.slot fun _ h => h.startLoad
  | vst => exact h.slot fun _ h => h.doVst
  | vldx => exact h.slot fun _ h => h.doVldx
  | vstx => exact h.slot fun _ h => h.doVstx
  | mpush => exact h.slot fun _ h => h.defer
  | mget => exact h.slot fun _ h => h.pushV
  | vfn => exact h.slot fun _ h => h.doVfn
  | vfnld => exact h.slot fun _ h => h.doVfnld
  | vdiv => exact h.slot fun _ h => h.pushV
  | vopt => exact h.slot fun _ h => h.doVopt
  | vchk => exact h.slot fun _ h => h
  | vres => exact h.slot fun _ h => h.pushV.defer
  | mma => exact h.product
  | mmaz => exact h.product
  | mmat => exact h.product
  | mmbt => exact h.product
  | mmac => exact h.slot fun _ h => h.issueMmac
  | mout => exact h.slot fun _ h => h.issueMout
  | mload => exact h.slot fun _ h => h.issueLoadAcc
  | madd => exact h.slot fun _ h => h.issueLoadAcc
  | mzero => exact h.slot fun _ h => h.issueMzero
  | mcens => exact h.slot fun _ h => h.pushS
  | mbias => exact h.slot fun _ h => h.issueLoadAcc
  | copy => exact h.execCopy
  | copyg => exact h.gatherSlot
  | copys => exact h.gatherSlot
  | copyr => exact h.execCopyr
  | saeq => exact h.saeSlot
  | saef => exact h.saeSlot
  | atom => exact h.slot fun _ h => h.doAtom
  | signal => exact h.slot fun _ h => h.startFar
  | pgreq => exact h.slot fun _ h => h.doPgreq
  | migr => exact h.slot fun _ h => h.doMigr
  | cgld => exact h.slot fun _ h => h.doCgld
  | prep => exact h.slot fun _ h => h.defer
  | prepr => exact h.slot fun _ h => h.defer
  | br => exact h.slot fun _ h => h.goTo.ite h
  | bru => exact h.slot fun _ h => h.goTo.ite h
  | call => exact h.slot fun _ h => h.stallAfter.defer
  | loop => exact h.slot fun _ h => h.doLoop
  | loops => exact h.slot fun _ h => h.doLoop
  | wait => exact h.slot fun _ h => h
  | sync => exact h.slot fun _ h => h
  | fence => exact h.slot fun _ h => h
  | fenceHeavy => exact h.slot fun _ h => h
  | brk => exact h.slot fun _ h => h.defer
  | limm => exact h.upd
  | rept => exact h.upd
  | talloc => exact h.slot fun _ h => h.doTalloc
  | tfree => exact h.slot fun _ h => h.defer
  | tlink => exact h.slot fun _ h => h.doTlink
  | tid => exact h.slot fun _ h => h.pushS
  | spawn => exact h.slot fun _ h => h.doSpawn
  | fork => exact h.slot fun _ h => h.doSpawn
  | join => exact h.slot fun _ h => h.doJoin
  | trap => exact h.slot fun _ h => h.defer
  | pipew => exact h.slot fun _ h => h.doPipew
  | piper => exact h.slot fun _ h => h.doPiper
  | rvset => exact h.slot fun _ h => h.doRvset
  | resultPush => exact h.execResultPush
  | formatWriteApply => exact h.execFormatWriteApply
  | storePerformAtHome => exact h.execStorePerformAtHome
  | releaseStorePerform => exact h.execReleaseStorePerform
  | postedWriteAcknowledge => exact h.execPostedWriteAcknowledge
  | remoteLoadResponse => exact h.execRemoteLoadResponse
  | fabricRequestTimeout => exact h.execFabricRequestTimeout
  | fenceHeavySerialisation => exact h.execFenceHeavySerialisation
  | fenceHeavyAcknowledge => exact h.execFenceHeavyAcknowledge
  | firmwareStopRequest => exact h.execFirmwareStopRequest
  | taskSave => exact h.execTaskSave
  | taskRestore => exact h.execTaskRestore
  | lazyRestoreFill => exact h.execLazyRestoreFill
  | timeSliceExpiry => exact h.endSlice
  | joinBlockSwitch => exact h.askStop.ite h
  | clampLineRelease => exact h.execClampLineRelease
  | vfnldComplete => exact h.execVfnldComplete
  | voptComplete => exact h.execVoptComplete
  | matrixInstructionStart => exact h.execMatrixInstructionStart
  | matrixInstructionComplete => exact h.execMatrixInstructionComplete
  | repeatRepetition => exact h.execRepeatRepetition
  | copyOperationComplete => exact h.execCopyOperationComplete
  | atomPerform => exact h.execAtomPerform
  | signalPerform => exact h.execSignalPerform
  | farOperationAcknowledge => exact h.execFarOperationAcknowledge
  | pageWalkComplete => exact h.execPageWalkComplete
  | xltResult => exact h.execXltResult
  | pgreqComplete => exact h.execPgreqComplete
  | invalidationDrainComplete => exact h.execInvalidationDrainComplete
  | remoteRequestReceive => exact h.serveReq
  | requestRefused => exact h.execRequestRefused
  | homeConsult => exact h.retry.ite h.send
  | homeAnswer => exact h.execHomeAnswer
  | requesterHoldRelease => exact h.execRequesterHoldRelease
  | redirect => exact h.execRedirect
  | ownerCacheExpiry => exact h.upd
  | migrationRequestAtHome => exact h.execMigrationRequestAtHome
  | migrationForwardAtOwner => exact h.execMigrationForwardAtOwner
  | reserve => exact h.execReserve
  | reserveAccept => exact h.execReserveAccept
  | transferAcknowledge => exact h.execTransferAcknowledge
  | migrationAbort => exact h.execMigrationAbort
  | commit => exact h.execCommit
  | commitAcknowledge => exact h.execCommitAcknowledge
  | endForward => exact h.execEndForward
  | migrComplete => exact h.execMigrComplete
  | stubLifetimeEnd => exact h.execStubLifetimeEnd
  | stubRetire => exact h.retry.ite h.send
  | stubRetireAcknowledge => exact h.execStubRetireAcknowledge
  | stubRetireTimeout => exact h.execStubRetireTimeout
  | taskAdmission => exact h.execTaskAdmission
  | taskDispatch => exact h.execTaskDispatch
  | gangRelease => exact h.execGangRelease
  | pipewFill => exact h.execPipewFill
  | proxyBatchSend => exact h.execProxyBatchSend
  | taskRecordBatch => exact ((h.ite h.takeAcks).foldl fun _ _ h => h.takeEnd).ite h.placeForeign.send
  | jobCardTileArrival => exact h.execJobCardTileArrival
  | stealRequest => exact h.execStealRequest
  | stolenRecordArrival => exact h.execStolenRecordArrival
  | stealAck => exact h.execStealAck
  | stealConfirm => exact h.execStealConfirm
  | stealTimerExpiry => exact h.execStealTimerExpiry
  | stealCancel => exact h.dropStolen
  | snapshotEstablish => exact h.execSnapshotEstablish
  | cowCopyComplete => exact h.execCowCopyComplete
  | childMerge => exact h.execChildMerge
  | granuleMergeComplete => exact h.execGranuleMergeComplete
  | creditToken => exact h.modStation.flushHeld
  | chunkOpRun => exact h.execChunkOpRun
  | chunkOpComplete => exact h.execChunkOpComplete
  | chunkReceive => exact h.ite h.modStation.enlist
  | cgldComplete => exact h.execCgldComplete
  | workRingPoll => exact h.execWorkRingPoll
  | runArm => exact h.execRunArm
  | runComplete => exact h.execRunComplete
  | collectiveTimeout => exact h.execCollectiveTimeout
  | earlyChunkTimeout => exact h.execEarlyChunkTimeout
  | launch => exact h.withPacket fun _ _ _ h => h.launchPacket
  | waitPacket => exact h.withPacket fun _ _ _ h => h.waitPacket
  | signalPacket => exact h.withPacket fun _ _ _ h => h.signalPacket
  | copyPacket => exact h.withPacket fun _ _ _ h => h.copyPacket
  | publishPacket => exact h.withPacket fun _ _ _ h => h.publishPacket
  | packetComplete => exact h.execPacketComplete
  | coalescingTimerExpiry => exact h.execCoalescingTimerExpiry
  | queueMap => exact h.execQueueMap
  | queueSliceEnd => exact h.execQueueSliceEnd
  | queueAgeingStep => exact h.execQueueAgeingStep
  | signalUnitPoll => exact h.execSignalUnitPoll
  | ctxEnd => exact h.withAdmin fun _ _ h => h.ctxEndCmd
  | queueRemoveComplete => exact h.execQueueRemoveComplete
  | pin => exact h.execPin
  | owner => exact h.execOwner
  | illegalSlotWord => exact h.execIllegalSlotWord
  | loadPerformAtHome => exact h.execLoadPerformAtHome
  | taskAgeingStep => exact h.execTaskAgeingStep
  | minv => exact h.slot fun _ h => h.defer
  | mpop => exact h.slot fun _ h => h.defer
  | nop => exact h.slot fun _ h => h
  | ret => exact h.slot fun _ h => h.stallAfter.defer
  | fenceLite => exact h.slot fun _ h => h
  | yield => exact h.slot fun _ h => h.defer
  | endTask => exact h.execEndTask
  | publish => exact h.slot fun _ h => h
  | invalidate => exact h.withAdmin fun _ _ h => h.invalidateCmd
  | policyMove => exact h.send.ite h
  | flitReceive => exact h.execFlitReceive
  | stationLinkFailure => exact h.modStation.ras
  | kick => exact h.execKick
  | publishAcknowledge => exact h.execPublishAcknowledge
  | ctxSet => exact h.withAdmin fun _ _ h => h.ctxSetCmd
  | queueSet => exact h.withAdmin fun _ _ h => h.queueSetCmd
  | queueReset => exact h.withAdmin fun _ _ h => h.queueResetCmd
  | pool => exact h.withAdmin fun _ _ h => h.poolCmd
  | wring => exact h.withAdmin fun _ _ h => h.wringCmd
  | pageReply => exact h.withAdmin fun _ _ h => h.pageReplyCmd
  | migrPolicy => exact h.withAdmin fun _ _ h => h.migrPolicyCmd
  | timing => exact h.withAdmin fun _ _ h => h.timingCmd
  | schedulerMemoryError => exact h.execSchedulerMemoryError
  | workerFailure => exact h.ite h.upd.ras
  | fwFatal => exact h.raiseFatal
  | deviceReset => exact h.afterReset
  | bootGo => exact h.execBootGo
  | bootReset => exact h.ite h.afterReset
  | registerWrite => exact h.execRegisterWrite
  | firmwareReady => exact h.upd.ite h
  | cxlMemAccess => exact h.execCxlMemAccess
  | storageWindowAccess => exact h.execStorageWindowAccess
  | accessTableChange => exact h.withEntry.dropMoved
  | freeze => exact h.upd
  | tapReadout => exact h.upd.ite h
  | rasCounterClear => exact h.upd
  | coreOffline => exact h.modCore.ite h
  | thermalStepDown => exact h.upd.ras.ite h
  | thermalStepUp => exact h.upd.ite h
  | thermalTrip => exact h.afterReset.upd
  | peerPackageReset => exact h.execPeerPackageReset
  | serviceRingFreed => exact h.execServiceRingFreed
  | cxlIdeKeyExchange => exact h.upd
  | stagingWindowWrite => exact h.putBytes.ite h
  | mappingRequest => exact h.portAnswer
  | storageWindowEntrySet => exact h.upd.ite h
  | powerCapSet => exact h.upd.ite h

/-! ### Engines -/

theorem CanonOut.again {i o} (h : CanonOut o) : CanonOut (again i o) := by
  cases o with
  | next t => exact CanonMem.retry h
  | fault _ => trivial
  | refused _ => trivial

theorem CanonMem.takeEvent {i} (h : CanonMem s) : CanonOut (takeEvent i s) := by
  unfold Machine.takeEvent
  split
  · exact h.exec.again
  · exact h.exec

/-! ### Step -/

theorem CanonOut.endTurn {o} (h : CanonOut o) : CanonOut (endTurn o) := by
  cases o with
  | next t => exact CanonMem.upd h
  | fault _ => trivial
  | refused _ => trivial

theorem CanonMem.runSlots {k is} (h : CanonMem s) : CanonOut (runSlots k is s) := by
  induction is generalizing k s with
  | nil => exact h
  | cons i is ih =>
    unfold Machine.runSlots
    have hi : CanonOut (Machine.exec i { s with iss := { s.iss with slot := k } }) := h.upd.exec
    split
    next t ht =>
      rw [ht] at hi
      exact ih hi
    · exact hi

theorem CanonMem.issueBundle {is words} (h : CanonMem s) : CanonOut (issueBundle is words s) := by
  have hr (p : Phase) : CanonOut (Machine.runSlots 0 is { s with iss := { phase := p, words := words } }) := h.upd.runSlots
  unfold Machine.issueBundle
  split
  · exact h.upd.exec
  · split
    next noted hn =>
      have hc := hr .check
      rw [hn] at hc
      split
      next acted he =>
        have ha := hr .commit
        rw [he] at ha
        exact CanonMem.conclude hc ha
      · exact hr .commit
    · exact hr .check

theorem CanonMem.coreStep {n} (h : CanonMem s) : CanonOut (coreStep n s) := by
  unfold Machine.coreStep
  have hn : CanonNext (Machine.nextAtBoundary { s with cur := n } (s.coreAt n)) := h.upd.nextAtBoundary
  dsimp only
  split
  · exact h.upd
  next t ht =>
    rw [ht] at hn
    exact hn
  next t ht =>
    rw [ht] at hn
    exact CanonMem.upd hn
  · exact h.upd.exec
  · exact h.upd.issueBundle.endTurn

theorem CanonMem.step (h : CanonMem s) : CanonOut (step s) := by
  unfold Machine.step
  split
  · split
    · trivial
    · split
      · exact h.upd.exec
      · exact h.upd
  · split
    · exact h.upd.takeEvent
    · split
      · exact h.upd.takeEvent
      · split
        · exact h.exec
        · split
          · exact h.coreStep
          · split
            · exact h.bootRom
            · exact h.tick

end

/-! ### The obligation -/

/-- Settles O59: every row of the table keeps the canonical form, and so does whatever a step does around one. -/
theorem stepKeepsCanonMem : Obligations.StepKeepsCanonMem := fun _ h => h.step

end Sys2Proof.Machine
end

section
/-! SUPPORT. The operations in flight by their ids, and the core that holds the state of a member of a task. -/

namespace Sys2Proof.Machine

open Sys2Proof

variable {s : State} {op n : Nat} {o : Op}

theorem SameMemory.of_eq {t : State} (hm : t.mem = s.mem) (hh : t.host = s.host) : SameMemory s t :=
  ⟨fun _ => by rw [hm], fun _ => by rw [hh]⟩

theorem State.op?_id (h : s.op? op = some o) : o.id = op := by
  simpa using List.find?_some h

theorem State.op?_dropOp (s : State) (op : Nat) : (s.dropOp op).op? op = none := by
  simp [State.op?]

/-- An operation is found in a list whose operations have changed and their ids have not. -/
theorem find?_map_of_id {f : Op → Op} (hf : ∀ x, (f x).id = x.id) (h : s.op? op = some o) :
    (s.ops.map f).find? (fun x => x.id == op) = some (f o) := by
  have hid : ((fun x : Op => x.id == op) ∘ f) = fun x => x.id == op := funext fun x => by simp [hf]
  rw [List.find?_map, hid, ← State.op?, h, Option.map_some]

theorem State.op?_modOp {f : Op → Op} (hf : ∀ x, (f x).id = x.id) (h : s.op? op = some o) :
    (s.modOp op f).op? op = some (f o) := by
  have hmap := find?_map_of_id (f := fun x => if x.id = op then f x else x)
    (fun x => by split <;> simp [hf]) h
  rwa [if_pos (State.op?_id h)] at hmap

/-- The end of a client's packets removes operations, or changes them, and starts none. -/
theorem op?_endParts {c : Client} (h : s.op? op = none) : (endParts c s).op? op = none := by
  rw [State.op?, List.find?_eq_none] at h ⊢
  intro y hy
  obtain ⟨x, hx, hxy⟩ := List.mem_filterMap.1 hy
  have hid : y.id = x.id := by
    split at hxy
    · split_ifs at hxy <;> cases hxy <;> rfl
    · cases hxy
      rfl
  simpa [hid] using h x hx

theorem State.modOwner_of_coreOf {task member : Nat} (h : s.coreOf task member = some n) (f : Ctx → Ctx) :
    s.modOwner task member f = s.modCtxAt n f := by
  rw [State.modOwner, h]

end Sys2Proof.Machine
end

section
/-! SUPPORT. The heavy fence (04_memory_model R90): a request of a core and the acknowledgements. -/

namespace Sys2Proof.Machine

open Sys2Proof

section
variable {s : State} {ask : FenceAsk} {n : Nat}

theorem askCore_of_running (h : n ∈ coresRunning s ask.asid) :
    askCore ask n s = s.modCore n fun c => { c with fences := c.fences ++ [⟨ask, s.nextOp⟩] } := if_pos h

theorem askCore_of_not_running (h : n ∉ coresRunning s ask.asid) :
    askCore ask n s = s.send ask.src.acc (.fenceHeavyAcknowledge ask.src.op s.accid n) := if_neg h

theorem askPackage_of_none (h : coresRunning s ask.asid = []) :
    askPackage ask s = s.send ask.src.acc (.fenceHeavyAcknowledge ask.src.op s.accid 256) := if_pos h

end

section
variable {s : State} {op acc core : Nat} {o : Op} {scope : Scope} {waiting : List (Nat × Nat)} {reply : Option ReqId}

theorem exec_fenceHeavyAcknowledge (ho : s.op? op = some o) (hk : o.kind = .fenceHeavy scope waiting reply) :
    exec (.fenceHeavyAcknowledge op acc core) s = .next
      (if waiting.filter (· != (acc, core)) = [] then endHeavy o reply s
       else s.modOp op fun x => { x with kind := .fenceHeavy scope (waiting.filter (· != (acc, core))) reply }) := by
  show execFenceHeavyAcknowledge op acc core s = _
  simp only [execFenceHeavyAcknowledge, ho, hk]

/-- Nothing is left to wait for after an acknowledgement exactly when no other one was awaited. -/
theorem filter_bne_eq_nil {α : Type} [BEq α] [LawfulBEq α] {x : α} {l : List α} :
    l.filter (· != x) = [] ↔ ∀ y ∈ l, y = x := by
  simp [List.filter_eq_nil_iff]

end

/-- Settles O31, by the recipient's side and then by whether another acknowledgement is awaited. -/
theorem heavyFenceResults : Obligations.HeavyFenceResults := by
  refine fun s ask n => ⟨fun hn => ⟨_, congrArg Host.Outcome.next (askCore_of_running hn), .of_eq rfl rfl, ?_, rfl⟩,
    fun hn => congrArg Host.Outcome.next (askCore_of_not_running hn),
    fun hn => congrArg Host.Outcome.next (askPackage_of_none hn),
    fun op o scope waiting acc core ho hk => ⟨fun hall => ?_, fun ⟨x, hx, hne⟩ => ?_⟩⟩
  · rw [State.coreAt_modCore_same]
  · refine ⟨_, (exec_fenceHeavyAcknowledge ho hk).trans (congrArg Host.Outcome.next (if_pos (filter_bne_eq_nil.2 hall))),
      .of_eq rfl rfl, ?_, ?_⟩
    · rw [← State.op?_id ho]
      exact s.op?_dropOp o.id
    · exact congrArg Core.released (State.coreAt_modCore_same ..)
  · have hrest : waiting.filter (· != (acc, core)) ≠ [] := fun h => hne (filter_bne_eq_nil.1 h x hx)
    exact ⟨_, (exec_fenceHeavyAcknowledge ho hk).trans (congrArg Host.Outcome.next (if_neg hrest)), .of_eq rfl rfl, rfl,
      State.op?_modOp (fun _ => rfl) ho⟩

end Sys2Proof.Machine
end

section
/-! SUPPORT. A load that takes its bytes in this package, and what becomes of the push that awaits it
(04_memory_model R79, R81). -/

namespace Sys2Proof.Machine

open Sys2Proof

/-! ### The end of a load -/

/-- The operation has ended, no byte of memory has changed, and on a core the pushes that awaited it are supplied. -/
def Supplied (s t : State) (o : Op) (n : Nat) (f : Push → Push) : Prop :=
  SameMemory s t ∧ t.op? o.id = none ∧
    (t.coreAt n).ctx.pushes = (s.coreAt n).ctx.pushes.map fun p => if p.state = .awaiting o.id then f p else p

section
variable {s : State} {op n : Nat} {o : Op} {l : LoadOp}

theorem coreAt_supplyPush (hc : s.coreOf o.task o.member = some n) (f : Push → Push) :
    ((supplyPush o f s).coreAt n).ctx.pushes =
      (s.coreAt n).ctx.pushes.map fun p => if p.state = .awaiting o.id then f p else p := by
  rw [supplyPush, State.modOwner_of_coreOf hc, State.coreAt_modCtxAt_ctx]

theorem supplied_dropOp (hc : s.coreOf o.task o.member = some n) (f : Push → Push) :
    Supplied s ((supplyPush o f s).dropOp o.id) o n f :=
  ⟨.of_eq (State.modOwner_mem ..) (State.modOwner_host ..), State.op?_dropOp _ _, coreAt_supplyPush hc f⟩

theorem endLoad_failed (hc : s.coreOf o.task o.member = some n) (code : FaultCode) :
    Supplied s (endLoad o l (some code) s) o n (failedPush code) := by
  obtain ⟨hm, hid, hp⟩ := supplied_dropOp hc (failedPush code)
  exact ⟨hm, op?_endParts hid, hp⟩

theorem endLoad_done (hc : s.coreOf o.task o.member = some n) (h : loadDone s o l = true) :
    Supplied s (endLoad o l none s) o n (loadedPush l) := by
  rw [endLoad, if_pos h]
  exact supplied_dropOp hc _

theorem settleLoad_of_single {m : LoadOp} (hk : o.kind = .load m) (hr : l.runs.length ≤ 1) (err : Option FaultCode) :
    settleLoad o l err s = endLoad o l err s := by
  rw [settleLoad, if_pos (.inl hr), settleWith, hk]

/-! ### The bytes of a load of one run -/

@[simp] theorem length_coreBytes (s : State) (core bound k : Nat) (m : Nat) : (coreBytes s core bound k m).length = m := by
  induction m generalizing k with
  | zero => rfl
  | succ m ih => simp [coreBytes, ih]

/-- Bytes got at the offsets from 0 on are the load's bytes. -/
theorem gotBytes_zip_range (bs : List Byte) : gotBytes bs.length ((List.range bs.length).zip bs) = bs := by
  refine List.ext_getElem (by simp [gotBytes]) fun i hi hb => ?_
  have hfind : ((List.range bs.length).zip bs).find? (fun g => g.1 == i) = some (i, bs[i]) :=
    List.find?_eq_some_iff_getElem.2 ⟨by simp, i, by simpa using hb, by simp, fun j hj => by simp; omega⟩
  simp [gotBytes, hfind]

/-- A load with its bytes taken. -/
def LoadOp.took (l : LoadOp) (bs : List Byte) : LoadOp :=
  { l with got := (List.range l.nbytes).zip bs, taken := true }

theorem loadedPush_took {bs : List Byte} (h : bs.length = l.nbytes) (p : Push) :
    loadedPush (l.took bs) p =
      if l.vec then { p with state := .ready, vval := vectorOf l.mask bs }
      else { p with state := .ready, sval := scalarOf l.sgn bs } := by
  have hgot : gotBytes l.nbytes ((List.range l.nbytes).zip bs) = bs := by rw [← h, gotBytes_zip_range]
  simp only [loadedPush, LoadOp.took, hgot]

end

/-! ### A load of one run of this package's own bytes -/

section
variable {s : State} {op n k : Nat} {o : Op} {l : LoadOp}

theorem exec_loadPerformAtHome (ho : s.op? op = some o) (hk : o.kind = .load l) :
    exec (.loadPerformAtHome op) s = .next (performLoad o l s) := by
  show execLoadPerformAtHome op s = _
  simp only [execLoadPerformAtHome, loadOf, ho, hk]

/-- A load of one run of bytes of this package, which stand where they stood, and which it has not taken. -/
structure LoadsHere (s : State) (o : Op) (l : LoadOp) (k : Nat) : Prop where
  kind : o.kind = .load l
  runs : l.runs = [⟨.here k, l.nbytes⟩]
  taken : l.taken = false
  got : l.got = []
  next : l.next = 1
  live : liveRun s ⟨.here k, l.nbytes⟩ = ⟨.here k, l.nbytes⟩

theorem LoadsHere.map_liveRun (h : LoadsHere s o l k) : l.runs.map (liveRun s) = l.runs := by
  rw [h.runs, List.map_singleton, h.live]

theorem LoadsHere.length_runs (h : LoadsHere s o l k) : l.runs.length ≤ 1 := by
  rw [h.runs]
  exact Nat.le_refl 1

theorem LoadsHere.runsAllowed (h : LoadsHere s o l k) :
    runsAllowed s o.core true false l.runs = coreAllowed s o.core k l.nbytes true false := by
  rw [h.runs]
  exact Bool.and_true _

theorem LoadsHere.takeRuns (h : LoadsHere s o l k) : takeRuns s o.core o.id 0 l.runs =
    ((List.range l.nbytes).zip (coreBytes s o.core o.id k l.nbytes), s.viewFault (s.viewAt o.core) k l.nbytes) := by
  simp [h.runs, Machine.takeRuns]

theorem LoadsHere.perform_waits (h : LoadsHere s o l k) (hr : loadReady s o l.runs = false) : performLoad o l s = s := by
  simp [performLoad, h.taken, h.map_liveRun, hr]

theorem LoadsHere.perform_denied (h : LoadsHere s o l k) (hr : loadReady s o l.runs = true)
    (ha : coreAllowed s o.core k l.nbytes true false = false) :
    performLoad o l s = endLoad o l (some .accessTable) s := by
  simp [performLoad, h.taken, h.map_liveRun, hr, h.runsAllowed, ha, settleLoad_of_single h.kind h.length_runs]

theorem LoadsHere.perform (h : LoadsHere s o l k) (hr : loadReady s o l.runs = true)
    (ha : coreAllowed s o.core k l.nbytes true false = true) :
    performLoad o l s = endLoad o (l.took (coreBytes s o.core o.id k l.nbytes))
      (s.viewFault (s.viewAt o.core) k l.nbytes) (readRuns s o.view l.runs) := by
  have hfar : (nextFar l.runs 0).getD l.runs.length = l.next := by
    rw [h.runs, h.next]
    rfl
  have hlen : l.runs.length = l.next := by
    rw [h.runs, h.next]
    rfl
  simp only [performLoad, h.taken, h.map_liveRun, hr, h.runsAllowed, ha, h.takeRuns, hfar, h.got]
  simp [askFar, hlen, settleLoad_of_single h.kind, h.next, LoadOp.took]

theorem LoadsHere.loadDone_took (h : LoadsHere s o l k) (t : State) (bs : List Byte) :
    loadDone t o (l.took bs) = true := by
  simp [loadDone, LoadOp.took, h.runs, h.next]

end

end Sys2Proof.Machine
end

section
/-! SUPPORT. What a write of whole bytes in a view leaves in memory (04_memory_model R79; 14_revisions R339). -/

namespace Sys2Proof.Machine

open Sys2Proof

/-! ### Whole bytes -/

theorem putWByte_whole (m : List Host.Cell) (key off : Nat) (b : Byte) :
    putWByte m key ⟨off, b, 0xFF⟩ = Memory.set m key b := by
  have hkept : ~~~(0xFF : Byte) = 0#8 := rfl
  have hput : b &&& 0xFF = b := BitVec.and_allOnes
  simp only [putWByte, hkept, hput, BitVec.and_zero, BitVec.zero_or]

section
variable {κ : Nat → Nat} {off : Nat} {m : List Host.Cell} {bs : List Byte}

/-- A byte at none of the keys written reads as before. -/
theorem get_putWholeBytes_other {key : Nat} (h : ∀ j, j < bs.length → key ≠ κ (off + j)) :
    Memory.get ((wholeBytes off bs).foldl (fun m w => putWByte m (κ w.off) w) m) key = Memory.get m key := by
  induction bs generalizing off m with
  | nil => rfl
  | cons b bs ih =>
    have hrest : ∀ j, j < bs.length → key ≠ κ (off + 1 + j) := fun j hj => by
      have := h (j + 1) (Nat.succ_lt_succ hj)
      rwa [Nat.add_right_comm, Nat.add_assoc]
    rw [wholeBytes, List.foldl_cons, ih hrest, putWByte_whole]
    exact Memory.get_set_other _ _ (h 0 (Nat.succ_pos _))

/-- Where no two bytes have one key, each key written reads as the byte written there. -/
theorem get_putWholeBytes_same (hm : Memory.wf m = true)
    (hinj : ∀ i j, i < bs.length → j < bs.length → κ (off + i) = κ (off + j) → i = j) {j : Nat} (hj : j < bs.length) :
    Memory.get ((wholeBytes off bs).foldl (fun m w => putWByte m (κ w.off) w) m) (κ (off + j)) = bs.getD j 0 := by
  induction bs generalizing off m j with
  | nil => exact absurd hj (Nat.not_lt_zero j)
  | cons b bs ih =>
    rw [wholeBytes, List.foldl_cons, putWByte_whole]
    cases j with
    | zero =>
      rw [get_putWholeBytes_other fun i hi he =>
        absurd (hinj 0 (i + 1) hj (Nat.succ_lt_succ hi) ?_) (Nat.succ_ne_zero i).symm]
      · exact Memory.get_set_same _ _ hm
      · rw [he, Nat.add_assoc, Nat.add_comm 1]
    | succ j =>
      have hinj' : ∀ i j, i < bs.length → j < bs.length → κ (off + 1 + i) = κ (off + 1 + j) → i = j := fun i j hi hj he =>
        Nat.succ.inj (hinj (i + 1) (j + 1) (Nat.succ_lt_succ hi) (Nat.succ_lt_succ hj)
          (by rwa [← Nat.add_assoc, ← Nat.add_assoc, Nat.add_right_comm, Nat.add_right_comm off j]))
      have hget := ih (Memory.wf_set (κ off) b hm) hinj' (Nat.lt_of_succ_lt_succ hj)
      rwa [Nat.add_assoc, Nat.add_comm 1] at hget

end

/-! ### The keys of a view's write -/

section
variable {s : State} {view key len : Nat} {bs : List Byte}

/-- A copy as a write of its granule by its view leaves it. -/
def GranCopy.written (view gran : Nat) (c : GranCopy) : GranCopy :=
  if c.gran = gran then
    match c.kind with
    | .ancestor v vs _ => if v = view then { c with kind := .ancestor v vs false } else c
    | .private_ _ => c
  else c

theorem GranCopy.written_gran (view gran : Nat) (c : GranCopy) : (c.written view gran).gran = c.gran := by
  unfold GranCopy.written
  split
  · split
    · split <;> rfl
    · rfl
  · rfl

theorem GranCopy.written_id (view gran : Nat) (c : GranCopy) : (c.written view gran).id = c.id := by
  unfold GranCopy.written
  split
  · split
    · split <;> rfl
    · rfl
  · rfl

theorem GranCopy.written_isPrivate (view gran v : Nat) (c : GranCopy) :
    ((c.written view gran).kind == .private_ v) = (c.kind == .private_ v) := by
  unfold GranCopy.written
  split
  · split
    · next he => split <;> simp [he]
    · rfl
  · rfl

/-- A write of its granule changes none of the copies that are a revision's own. -/
theorem privateCopy_map_written {v gran g : Nat} (l : List GranCopy) :
    (l.map (GranCopy.written view g)).find? (fun c => c.gran == gran && c.kind == .private_ v) =
      (l.find? fun c => c.gran == gran && c.kind == .private_ v).map (GranCopy.written view g) := by
  rw [List.find?_map]
  simp only [Function.comp_def, GranCopy.written_gran, GranCopy.written_isPrivate]

theorem markWritten_copies (s : State) (view gran : Nat) :
    (markWritten s view gran).copies = s.copies.map (GranCopy.written view gran) := by
  unfold markWritten
  split
  · next h => simp [h]
  · rfl

theorem markWritten_mem (s : State) (view gran : Nat) : (markWritten s view gran).mem = s.mem := by
  unfold markWritten
  split <;> rfl

theorem markWritten_host (s : State) (view gran : Nat) : (markWritten s view gran).host = s.host := by
  unfold markWritten
  split <;> rfl

theorem writeKey_markWritten (s : State) (v g view key : Nat) :
    writeKey (markWritten s v g) view key = writeKey s view key := by
  unfold writeKey privateCopy
  simp only [markWritten_copies, privateCopy_map_written, List.map_eq_nil_iff]
  split_ifs
  · rfl
  · cases s.copies.find? fun c => c.gran == key / 4096 && c.kind == .private_ view with
    | none => rfl
    | some c => simp [GranCopy.written_id]
  · rfl

/-- Bytes within a granule touch no other one. -/
theorem granules4k_of_within (h : key % 4096 + len ≤ 4096) :
    granules4k key len = [] ∨ granules4k key len = [key / 4096] := by
  unfold granules4k
  split
  · exact .inl rfl
  · next hne =>
    have hone : (key + len - 1) / 4096 - key / 4096 + 1 = 1 := by omega
    rw [hone]
    exact .inr (by simp)

/-- A write within one granule that needs no copy leaves the storage as it is, and its view's keys. -/
theorem prepareWrite_of_within (hw : key % 4096 + len ≤ 4096) (hc : ∀ g ∈ granules4k key len, copiesNeeded s view g = []) :
    (s.prepareWrite view key len).mem = s.mem ∧ (s.prepareWrite view key len).host = s.host ∧
      ∀ x, writeKey (s.prepareWrite view key len) view x = writeKey s view x := by
  unfold State.prepareWrite
  split
  · exact ⟨rfl, rfl, fun _ => rfl⟩
  · rcases granules4k_of_within hw with hg | hg
    · rw [hg]
      exact ⟨rfl, rfl, fun _ => rfl⟩
    · have hmake : makeCopies s view (key / 4096) = s := by
        rw [makeCopies, hc _ (by simp [hg]), List.foldl_nil]
      rw [hg, List.foldl_cons, List.foldl_nil, hmake]
      exact ⟨markWritten_mem s view _, markWritten_host s view _, writeKey_markWritten s view _ view⟩

/-- A view writes different bytes of a granule at different keys. -/
theorem writeKey_injective_within {i j : Nat} (hi : key % 4096 + i < 4096) (hj : key % 4096 + j < 4096)
    (h : writeKey s view (key + i) = writeKey s view (key + j)) : i = j := by
  have hgran : (key + j) / 4096 = (key + i) / 4096 := by omega
  have hbase : key + j < lpddrBytes ↔ key + i < lpddrBytes := by
    unfold lpddrBytes
    omega
  unfold writeKey at h
  rw [hgran] at h
  simp only [hbase] at h
  split_ifs at h
  · omega
  · cases hp : privateCopy s view ((key + i) / 4096) with
    | none =>
      simp only [hp] at h
      omega
    | some c =>
      simp only [hp] at h
      omega
  · omega

/-! ### The bytes of a view's write -/

/-- A view's write of whole bytes within a granule whose copies stand writes each at its view's key. -/
theorem get_viewWrite (hm : CanonMem s) (hw : key % 4096 + bs.length ≤ 4096)
    (hc : ∀ g ∈ granules4k key bs.length, copiesNeeded s view g = []) :
    (∀ j, j < bs.length →
      Memory.get (s.viewWrite view key bs.length (wholeBytes 0 bs)).mem (writeKey s view (key + j)) = bs.getD j 0) ∧
    (s.viewWrite view key bs.length (wholeBytes 0 bs)).host = s.host ∧
    ∀ x, (∀ j, j < bs.length → x ≠ writeKey s view (key + j)) →
      Memory.get (s.viewWrite view key bs.length (wholeBytes 0 bs)).mem x = Memory.get s.mem x := by
  obtain ⟨hmem, hhost, hkey⟩ := prepareWrite_of_within hw hc
  have hwrite : (s.viewWrite view key bs.length (wholeBytes 0 bs)).mem =
      (wholeBytes 0 bs).foldl (fun m w => putWByte m (writeKey s view (key + w.off)) w) s.mem := by
    simp only [State.viewWrite, hmem, hkey]
  rw [hwrite]
  refine ⟨?_, hhost, ?_⟩
  · intro j hj
    have hinj : ∀ a b, a < bs.length → b < bs.length →
        writeKey s view (key + (0 + a)) = writeKey s view (key + (0 + b)) → a = b := fun a b ha hb he => by
      rw [Nat.zero_add, Nat.zero_add] at he
      exact writeKey_injective_within (by omega) (by omega) he
    have hget := get_putWholeBytes_same (κ := fun x => writeKey s view (key + x)) hm.mem hinj hj
    rwa [Nat.zero_add] at hget
  · intro x hx
    exact get_putWholeBytes_other (κ := fun y => writeKey s view (key + y)) fun j hj => by
      rw [Nat.zero_add]
      exact hx j hj

/-- Where there is no revision and no copy, a write of whole bytes writes them where they stand. -/
theorem get_viewWrite_base (hm : CanonMem s) (hr : s.revs = []) (hc : s.copies = []) :
    (∀ j, j < bs.length → Memory.get (s.viewWrite view key bs.length (wholeBytes 0 bs)).mem (key + j) = bs.getD j 0) ∧
    ∀ x, x < key ∨ key + bs.length ≤ x →
      Memory.get (s.viewWrite view key bs.length (wholeBytes 0 bs)).mem x = Memory.get s.mem x := by
  have hwrite : (s.viewWrite view key bs.length (wholeBytes 0 bs)).mem =
      (wholeBytes 0 bs).foldl (fun m w => putWByte m (key + w.off) w) s.mem := by
    simp only [State.viewWrite, State.prepareWrite, if_pos hr, writeKey, if_pos hc]
  rw [hwrite]
  constructor
  · intro j hj
    have hget := get_putWholeBytes_same (κ := (key + ·)) hm.mem (off := 0) (bs := bs) (fun a b _ _ he => by omega) hj
    rwa [Nat.zero_add] at hget
  · intro x hx
    exact get_putWholeBytes_other (κ := (key + ·)) fun j hj => by omega

/-- Where there is no revision, a write changes memory and its granules' codes alone. -/
theorem viewWrite_frame (hr : s.revs = []) (ws : List WByte) :
    (s.viewWrite view key len ws).cores = s.cores ∧ (s.viewWrite view key len ws).host = s.host := by
  rw [State.viewWrite, State.prepareWrite, if_pos hr]
  exact ⟨rfl, rfl⟩

end

end Sys2Proof.Machine
end

section
/-! SUPPORT. A store that performs in this package, a release that leaves its core, and the three rows
(04_memory_model R79, R81–R85; 17_system R400). -/

namespace Sys2Proof.Machine

open Sys2Proof

/-! ### The end of a store -/

section
variable {s : State} {op n k : Nat} {o : Op} {w : StoreOp}

theorem op?_modOwner (s : State) (task member : Nat) (f : Ctx → Ctx) (op : Nat) :
    (s.modOwner task member f).op? op = s.op? op := by
  rw [State.op?, State.modOwner_ops, ← State.op?]

theorem endStore_of_window {i : Nat} {err : Option FaultCode} (h : w.window = some i) :
    endStore o w err s = endStore o { w with window := none } err
      (s.modCore o.core fun c => { c with win := c.win.set i (c.win.getD i 0 - 1) }) := by
  simp only [endStore, h]

theorem endStore_of_posted (hw : w.window = none) (hp : w.posted = true) (err : Option FaultCode) :
    endStore o w err s = s.endOp o .s (err.map fun c => (c, w.faddr)) := by
  simp [endStore, hw, hp]

theorem endStore_of_error (hw : w.window = none) (hp : w.posted = false) (code : FaultCode) :
    endStore o w (some code) s = ((s.dropOp o.id).noteErr (some code)).modOwner o.task o.member fun c =>
      c.mark .s code o.bundle w.faddr := by
  simp [endStore, hw, hp]

theorem endStore_of_done (hw : w.window = none) (hp : w.posted = false) : endStore o w none s = s.dropOp o.id := by
  simp [endStore, hw, hp]

/-- The operation has ended and memory reads as it did. -/
def Ended (s t : State) (o : Op) : Prop := t.mem = s.mem ∧ t.host = s.host ∧ t.op? o.id = none

theorem ended_modOwner (err : Option FaultCode) (f : Ctx → Ctx) :
    Ended s (((s.dropOp o.id).noteErr err).modOwner o.task o.member f) o :=
  ⟨State.modOwner_mem .., State.modOwner_host .., (op?_modOwner ..).trans (s.op?_dropOp o.id)⟩

theorem endStore_ended (o : Op) (w : StoreOp) (err : Option FaultCode) (s : State) : Ended s (endStore o w err s) o := by
  have hplain : ∀ (x : StoreOp) (u : State), x.window = none → Ended u (endStore o x err u) o := fun x u hx => by
    cases hp : x.posted with
    | true =>
      rw [endStore_of_posted hx hp]
      exact ended_modOwner _ _
    | false =>
      cases err with
      | none =>
        rw [endStore_of_done hx hp]
        exact ⟨rfl, rfl, u.op?_dropOp o.id⟩
      | some code =>
        rw [endStore_of_error hx hp]
        exact ended_modOwner _ _
  cases hw : w.window with
  | none => exact hplain w s hw
  | some i =>
    rw [endStore_of_window hw]
    exact hplain _ _ rfl

theorem coreAt_modOwner_ctx (hc : s.coreOf o.task o.member = some n) (err : Option FaultCode) (f : Ctx → Ctx) :
    ((((s.dropOp o.id).noteErr err).modOwner o.task o.member f).coreAt n).ctx = f (s.coreAt n).ctx := by
  have hc' : ((s.dropOp o.id).noteErr err).coreOf o.task o.member = some n := hc
  rw [State.modOwner_of_coreOf hc', State.coreAt_modCtxAt_ctx]
  rfl

/-- A store that counts in no window leaves the mark of its error, posted or not. -/
theorem endStore_marks (hw : w.window = none) (hc : s.coreOf o.task o.member = some n) (code : FaultCode) :
    ((endStore o w (some code) s).coreAt n).ctx.marks.s =
      appendMark (s.coreAt n).ctx.marks.s ⟨code, 0, o.bundle, w.faddr⟩ := by
  cases hp : w.posted with
  | true =>
    rw [endStore_of_posted hw hp, State.endOp, coreAt_modOwner_ctx hc]
    rfl
  | false =>
    rw [endStore_of_error hw hp, coreAt_modOwner_ctx hc]
    rfl

theorem endStore_cnt (hw : w.window = none) (hp : w.posted = true) (hc : s.coreOf o.task o.member = some n) :
    ((endStore o w none s).coreAt n).ctx.cnt = (s.coreAt n).ctx.cnt.modify .s (· - 1) := by
  rw [endStore_of_posted hw hp, State.endOp, coreAt_modOwner_ctx hc]
  rfl

/-! ### A store at its home -/

theorem exec_storePerformAtHome (ho : s.op? op = some o) (hk : o.kind = .store w) (hpl : w.place = .here k) :
    exec (.storePerformAtHome op) s =
      .next (if (w.rel.isNone || w.sent) && storeReady s o w k then performStore o w k s else s) := by
  show execStorePerformAtHome op s = _
  simp only [execStorePerformAtHome, ho, hk, hpl]

theorem exec_storePerformAtHome_ready (ho : s.op? op = some o) (hk : o.kind = .store w) (hpl : w.place = .here k)
    (hrel : w.rel = none ∨ w.sent = true) (hr : storeReady s o w k = true) :
    exec (.storePerformAtHome op) s = .next (performStore o w k s) := by
  rw [exec_storePerformAtHome ho hk hpl, if_pos]
  simpa [hr] using hrel

theorem performStore_of_still (hm : movedAt s k = none) (hf : frozenAt s k = none) : performStore o w k s =
    if coreAllowed s o.core k w.len false true then endStore o w none (s.viewWrite o.view k w.len w.data)
    else endStore o w (some .accessTable) s := by
  simp only [performStore, hm, hf]

/-! ### A release -/

theorem exec_releaseStorePerform {scope : Scope} (ho : s.op? op = some o) (hk : o.kind = .store w)
    (hrel : w.rel = some scope) : exec (.releaseStorePerform op) s =
      .next (if !w.sent && releaseReady s o.core scope o.stamp o.id then performRelease o w s else s) := by
  show execReleaseStorePerform op s = _
  simp only [execReleaseStorePerform, ho, hk, hrel]

/-- A release that leaves its core takes its place in the queue. -/
theorem op?_leaveCore (ho : s.op? op = some o) (w : StoreOp) (k : Nat) :
    (leaveCore o w k s).op? op = some { o with queuedAt := s.nextOp, kind := .store { w with sent := true } } := by
  have hfound := find?_map_of_id (f := fun x =>
    if x.id = o.id then { x with queuedAt := s.nextOp, kind := .store { w with sent := true } }
    else if decide (o.id < x.id) && storesTo o.core k w.len x then { x with queuedAt := s.nextOp }
    else x) (fun x => by split_ifs <;> rfl) ho
  rwa [if_pos rfl] at hfound

/-- A release of a queue goes no further than its die's queue. -/
theorem performRelease_queued (ho : s.op? op = some o) (hpl : w.place = .here k) (hq : w.queued = true) :
    performRelease o w s = leaveCore o w k s := by
  have hid := op?_leaveCore ho w k
  rw [← State.op?_id ho] at hid
  simp [performRelease, hpl, hid, hq]

end

/-! ### The obligation -/

section
variable {s : State} {n k : Nat} {o : Op}

theorem load_waits {l : LoadOp} (h : LoadsHere s o l k) (ho : s.op? o.id = some o) (hr : loadReady s o l.runs = false) :
    exec (.loadPerformAtHome o.id) s = .next s := by
  rw [exec_loadPerformAtHome ho h.kind, h.perform_waits hr]

theorem load_denied {l : LoadOp} (h : LoadsHere s o l k) (ho : s.op? o.id = some o)
    (hc : s.coreOf o.task o.member = some n) (hr : loadReady s o l.runs = true)
    (ha : coreAllowed s o.core k l.nbytes true false = false) :
    ∃ t, exec (.loadPerformAtHome o.id) s = .next t ∧ Supplied s t o n (failedPush .accessTable) := by
  rw [exec_loadPerformAtHome ho h.kind, h.perform_denied hr ha]
  exact ⟨_, rfl, endLoad_failed hc .accessTable⟩

section
variable {l : LoadOp} (h : LoadsHere s o l k) (ho : s.op? o.id = some o) (hc : s.coreOf o.task o.member = some n)
  (hr : loadReady s o l.runs = true) (ha : coreAllowed s o.core k l.nbytes true false = true)

include h ho hc hr ha

theorem load_faults {code : FaultCode} (hf : s.viewFault (s.viewAt o.core) k l.nbytes = some code) :
    ∃ t, exec (.loadPerformAtHome o.id) s = .next t ∧ Supplied s t o n (failedPush code) := by
  have hc' : (readRuns s o.view l.runs).coreOf o.task o.member = some n := hc
  rw [exec_loadPerformAtHome ho h.kind, h.perform hr ha, hf]
  exact ⟨_, rfl, endLoad_failed hc' code⟩

theorem load_supplies (hf : s.viewFault (s.viewAt o.core) k l.nbytes = none) :
    ∃ t, exec (.loadPerformAtHome o.id) s = .next t ∧
      Supplied s t o n (loadedPush (l.took (coreBytes s o.core o.id k l.nbytes))) := by
  have hc' : (readRuns s o.view l.runs).coreOf o.task o.member = some n := hc
  rw [exec_loadPerformAtHome ho h.kind, h.perform hr ha, hf]
  exact ⟨_, rfl, endLoad_done hc' (h.loadDone_took _ _)⟩

end

section
variable {w : StoreOp} {bs : List Byte} (hk : o.kind = .store w) (hpl : w.place = .here k) (ho : s.op? o.id = some o)

include hk hpl ho

theorem store_waits (hr : storeReady s o w k = false) : exec (.storePerformAtHome o.id) s = .next s := by
  simp [exec_storePerformAtHome ho hk hpl, hr]

section
variable (hrel : w.rel = none ∨ w.sent = true) (hr : storeReady s o w k = true) (hm : movedAt s k = none)
  (hf : frozenAt s k = none)

include hrel hr hm hf

theorem store_denied (ha : coreAllowed s o.core k w.len false true = false) :
    exec (.storePerformAtHome o.id) s = .next (endStore o w (some .accessTable) s) := by
  rw [exec_storePerformAtHome_ready ho hk hpl hrel hr, performStore_of_still hm hf, ha, if_neg Bool.false_ne_true]

theorem store_performs (ha : coreAllowed s o.core k w.len false true = true) (hd : w.data = wholeBytes 0 bs)
    (hlen : w.len = bs.length) : exec (.storePerformAtHome o.id) s =
      .next (endStore o w none (s.viewWrite o.view k bs.length (wholeBytes 0 bs))) := by
  rw [exec_storePerformAtHome_ready ho hk hpl hrel hr, performStore_of_still hm hf, ha, if_pos rfl, hd, hlen]

end
end

theorem release_leaves {w : StoreOp} {scope : Scope} (hk : o.kind = .store w) (hpl : w.place = .here k)
    (ho : s.op? o.id = some o) (hrel : w.rel = some scope) (hs : w.sent = false)
    (hr : releaseReady s o.core scope o.stamp o.id = true) (hq : w.queued = true) :
    exec (.releaseStorePerform o.id) s = .next (leaveCore o w k s) := by
  simp [exec_releaseStorePerform ho hk hrel, hs, hr, performRelease_queued ho hpl hq]

theorem release_waits {w : StoreOp} {scope : Scope} (hk : o.kind = .store w) (ho : s.op? o.id = some o)
    (hrel : w.rel = some scope) (hr : releaseReady s o.core scope o.stamp o.id = false) :
    exec (.releaseStorePerform o.id) s = .next s := by
  simp [exec_releaseStorePerform ho hk hrel, hr]

end

/-- Settles O29: a load by what its turn, the access table and the granules' codes say; a store by its turn, the table and
the copies that its view has; a release by what it waits for. -/
theorem accessEventResults : Obligations.AccessEventResults := by
  intro s op n o hcanon ho
  obtain rfl := State.op?_id ho
  refine ⟨fun l k hk hruns ht hg hn hc hl => ?_, fun w k bs hk hpl hrel hd hlen => ⟨fun hr hm hf ha => ?_,
    fun hr hm hf ha hcop hw => ?_, fun hr hm hf ha hrevs hcop => ?_, store_waits hk hpl ho⟩,
    fun w k scope hk hpl hrel hs => ⟨fun hr hq => ?_, release_waits hk ho hrel⟩⟩
  · have hh : LoadsHere s o l k := ⟨hk, hruns, ht, hg, hn, hl⟩
    refine ⟨load_waits hh ho, load_denied hh ho hc, fun hr ha => ?_⟩
    cases hf : s.viewFault (s.viewAt o.core) k l.nbytes with
    | some code =>
      obtain ⟨t, he, hmem, hop, hp⟩ := load_faults hh ho hc hr ha hf
      exact ⟨t, he, hmem, hop, nofun, fun c h => by cases h; exact hp⟩
    | none =>
      obtain ⟨t, he, hmem, hop, hp⟩ := load_supplies hh ho hc hr ha hf
      simp only [loadedPush_took (length_coreBytes ..)] at hp
      exact ⟨t, he, hmem, hop, fun _ => hp, nofun⟩
  · obtain ⟨hmem, hhost, hop⟩ := endStore_ended o w (some .accessTable) s
    exact ⟨_, store_denied hk hpl ho hrel hr hm hf ha, .of_eq hmem hhost, hop, fun hw hc => endStore_marks hw hc _⟩
  · obtain ⟨hmem, hhost, hop⟩ := endStore_ended o w none (s.viewWrite o.view k bs.length (wholeBytes 0 bs))
    obtain ⟨hsame, hkept, hother⟩ := get_viewWrite hcanon hw (hlen ▸ hcop)
    refine ⟨_, store_performs hk hpl ho hrel hr hm hf ha hd hlen, hop, hhost.trans hkept, ?_⟩
    rw [hmem]
    exact ⟨hsame, hother⟩
  · obtain ⟨hmem, hhost, hop⟩ := endStore_ended o w none (s.viewWrite o.view k bs.length (wholeBytes 0 bs))
    obtain ⟨hsame, hother⟩ := get_viewWrite_base (view := o.view) (key := k) (bs := bs) hcanon hrevs hcop
    obtain ⟨hcores, hkept⟩ := viewWrite_frame (view := o.view) (key := k) (len := bs.length) hrevs (wholeBytes 0 bs)
    refine ⟨_, store_performs hk hpl ho hrel hr hm hf ha hd hlen, hop, hhost.trans hkept, fun hp hw => ?_,
      fun hp hw hc => ?_, ?_⟩
    · rw [endStore_of_done hw hp]
      exact hcores
    · have hc' : (s.viewWrite o.view k bs.length (wholeBytes 0 bs)).coreOf o.task o.member = some n := by
        rwa [State.coreOf, hcores, ← State.coreOf]
      rw [endStore_cnt hw hp hc', State.coreAt, hcores, ← State.coreAt]
    · rw [hmem]
      exact ⟨hsame, hother⟩
  · exact ⟨_, release_leaves hk hpl ho hrel hs hr hq, .of_eq rfl rfl, op?_leaveCore ho w k⟩

end Sys2Proof.Machine
end

section
/-! SUPPORT. Where the parts of a save area stand (06_sequencer R167 Table 6-5, R168 Table 6-11). -/

namespace Sys2Proof.Machine

open Sys2Proof

/-- What stands behind a part is found at the part's length. -/
theorem drop_part_append {n m : Nat} (h : n ≤ m) (bs rest : List Byte) : (part n bs ++ rest).drop m = rest.drop (m - n) := by
  rw [List.drop_append, part_length, List.drop_eq_nil_of_le (by rwa [part_length]), List.nil_append]

theorem take_part_append (n : Nat) (bs rest : List Byte) : (part n bs ++ rest).take n = part n bs := by
  rw [List.take_append_of_le_length (by rw [part_length]), List.take_of_length_le (by rw [part_length])]

/-- The bytes within a stretch of an area are bytes of that stretch. -/
theorem take_drop_within {a bs : List Byte} {off n : Nat} (h : (a.drop off).take n = bs) {k w : Nat} (hk : k + w ≤ n) :
    (a.drop (off + k)).take w = (bs.drop k).take w := by
  rw [← h, List.drop_take, List.take_take, List.drop_drop, Nat.min_eq_left (by omega)]

/-- A register of a file that fills its stretch of an area stands at its number times the width. -/
theorem take_drop_file {a : List Byte} {off n w : Nat} {f : Nat → Nat}
    (h : (a.drop off).take (n * w) = part (n * w) (fileBytes n w f)) {i : Nat} (hi : i < n) :
    (a.drop (off + w * i)).take w = leBytes w (f i) := by
  have hk : w * i + w ≤ n * w := by
    rw [← Nat.mul_succ, Nat.mul_comm]
    exact Nat.mul_le_mul_right w hi
  rw [take_drop_within h hk, part_full (fileBytes_length n w f), fileBytes_at hi]

theorem take_drop_part {n k w : Nat} {bs : List Byte} (hw : k + w ≤ bs.length) (hn : bs.length ≤ n) :
    ((part n bs).drop k).take w = (bs.drop k).take w := by
  rw [part, List.drop_take, List.take_take, Nat.min_eq_left (by omega), List.drop_append_of_le_length (by omega),
    List.take_append_of_le_length (by rw [List.length_drop]; omega)]

section
variable (s : State) (t : Task) (v : Saved)

/-- The stretches of an area that Table 6-5 gives the header, the files, the queues and RMASK. -/
theorem saveAreaBytes_stretches :
    let stretch (off n : Nat) (bs : List Byte) : Prop := ((saveAreaBytes s t v).drop off).take n = part n bs
    stretch 0 0x40 (hdrBytes v) ∧
    stretch 0x40 (32 * 8) (fileBytes 32 8 fun i => (v.ctx.g.getD i 0).toNat) ∧
    stretch 0x140 (16 * 8) (queueBytes 8 v.ctx.q) ∧
    stretch 0x1C0 (8 * 8) (fileBytes 8 8 fun i => (v.ctx.tx.getD i 0).toNat) ∧
    stretch 0x3C0 0x40 (leBytes 64 v.ctx.rmask.toNat) ∧
    stretch 0x900 (32 * 256) (fileBytes 32 256 fun i => (v.ctx.v.getD i 0).toNat) ∧
    stretch 0x2900 (16 * 256) (queueBytes 256 v.ctx.vq) := by
  simp (disch := decide) only [saveAreaBytes, savedRegs, List.append_assoc, drop_part_append, Nat.reduceSub, List.drop_zero,
    Nat.reduceMul, take_part_append, and_self]

theorem saveAreaBytes_tiles : (saveAreaBytes s t v).drop 0x6100 = tilesBytes s t v :=
  List.drop_left' (savedRegs_length s t v)

/-- A record takes its header and its data. -/
theorem recordPart_length (kind num aux entry : Nat) (data : List Byte) :
    (recordPart kind num aux entry data).length = 64 + (data.length + 63) / 64 * 64 := by
  simp only [recordPart, List.length_append, part_length]

/-- TILES begins with the record of PRIV and ends with the END record. -/
theorem tilesBytes_ends : ∃ bs : List Byte, tilesBytes s t v = bs ++ recordPart 0xFF 0 0 0 [] ∧ 64 ≤ bs.length :=
  ⟨_, rfl, by simp only [List.length_append, recordPart_length]; omega⟩

end

/-- Settles O60: each part by its offset, the END record as the last 64 bytes of TILES. -/
theorem saveAreaLayout : Obligations.SaveAreaLayout := by
  intro s t v
  have hlen : (hdrBytes v).length = 12 := by simp only [hdrBytes, List.length_append, leBytes_length]
  obtain ⟨bs, hend, hbs⟩ := tilesBytes_ends s t v
  have harea : saveAreaBytes s t v = (savedRegs s t v ++ bs) ++ recordPart 0xFF 0 0 0 [] := by
    rw [saveAreaBytes, hend, List.append_assoc]
  have hrec : (recordPart 0xFF 0 0 0 []).length = 64 := recordPart_length ..
  have hsize : (saveAreaBytes s t v).length = 0x6100 + bs.length + 64 := by
    rw [harea, List.length_append, List.length_append, savedRegs_length, hrec]
  obtain ⟨hhdr, hg, hq, htx, hrmask, hv, hvq⟩ := saveAreaBytes_stretches s t v
  refine ⟨?_, ?_, fun i hi => ⟨take_drop_file hg hi, take_drop_file hv hi⟩,
    fun i hi => ⟨take_drop_file hq hi, take_drop_file hvq hi⟩, fun i hi => take_drop_file htx hi,
    hrmask.trans (part_full (leBytes_length ..)), saveAreaBytes_tiles s t v, by omega, ?_⟩
  · exact (take_drop_within hhdr (k := 0) (by decide)).trans
      ((take_drop_part (by omega) (by omega)).trans (by simp [hdrBytes, List.take_left' (leBytes_length 2 _)]))
  · refine (take_drop_within hhdr (k := 4) (by decide)).trans ((take_drop_part (by omega) (by omega)).trans ?_)
    rw [hdrBytes, List.drop_left' (by simp only [List.length_append, leBytes_length]), List.take_of_length_le (by simp)]
  · rw [hsize, Nat.add_sub_cancel, harea, List.drop_left' (by rw [List.length_append, savedRegs_length])]
    decide

end Sys2Proof.Machine
end

section
/-! SUPPORT. A bundle of one slot whose effect is at its boundary: a target written, a transfer, a loop entered
(06_sequencer R139–R151). -/

namespace Sys2Proof.Machine

open Sys2Proof

/-! ### The boundary after one deferred effect -/

section
variable {s : State} {d : Deferred}

theorem applyState_single (h : ∀ n, d ≠ .freeTile n) (s : State) : applyState [d] s = s := by
  cases d with
  | freeTile n => exact absurd rfl (h n)
  | _ => rfl

/-- A slot alone that defers one effect other than the end of a tile changes its core at the boundary. -/
theorem finishBundle_defer (ha : Alone s) (h : ∀ n, d ≠ .freeTile n) : finishBundle (s.defer d) =
    { s.modCore s.cur (finishCore { words := s.iss.words, deferred := [d] }) with
      iss := {}, nextBundle := s.nextBundle + 1 } := by
  have hi : (s.defer d).iss = { words := s.iss.words, deferred := [d] } := by rw [State.defer, ha]; rfl
  rw [finishBundle, hi, applyState_single h]
  rfl

theorem core_finishBundle_defer (ha : Alone s) (h : ∀ n, d ≠ .freeTile n) : (finishBundle (s.defer d)).core =
    finishCore { words := s.iss.words, deferred := [d] } s.core := by
  rw [finishBundle_defer ha h]
  exact State.coreAt_modCore_same ..

/-- The stall that a transfer leaves its core (R142). -/
def stallOf (written : Option Nat) (k : Core) : Nat :=
  match written with
  | some c => transferStall k.ctx.icyc c
  | none => k.bubble

theorem stallAfter_core (w : Option Nat) (s : State) :
    (stallAfter w s).coreAt s.cur = { s.core with bubble := stallOf w s.core } := by
  cases w with
  | none => rfl
  | some c => exact State.coreAt_modCore_same ..

/-- A transfer's stall is the executing core's. -/
theorem stallAfter_frame (w : Option Nat) (s : State) : ∃ cs, stallAfter w s = { s with cores := cs } ∧
    ∀ n, n ≠ s.cur → (stallAfter w s).coreAt n = s.coreAt n := by
  cases w with
  | none => exact ⟨s.cores, rfl, fun _ _ => rfl⟩
  | some c => exact ⟨_, rfl, fun _ hn => State.coreAt_modCore_other _ _ hn⟩

/-- A slot alone that defers one effect, with the stall of a transfer or none, leaves its core over the boundary, and
nothing else changes. -/
theorem leavesCore_transfer (ha : Alone s) (h : ∀ n, d ≠ .freeTile n) (w : Option Nat) :
    LeavesCore (.next (finishBundle ((stallAfter w s).defer d)))
      (finishCore { words := s.iss.words, deferred := [d] } { s.core with bubble := stallOf w s.core }) s := by
  have hcore := stallAfter_core w s
  obtain ⟨cs, hs, hother⟩ := stallAfter_frame w s
  rw [hs] at hcore hother ⊢
  rw [finishBundle_defer (s := { s with cores := cs }) ha h]
  refine ⟨_, rfl, .of_eq rfl rfl, by simp [SamePackage], fun n hn => ?_, rfl, rfl, ?_⟩
  · exact (State.coreAt_modCore_other _ _ hn).trans (hother n hn)
  · exact (State.coreAt_modCore_same _ _ _).trans (congrArg _ hcore)

theorem LeavesCore.of_issues {o : Out} {t : State} {k : Core} (hi : Issues o t)
    (hl : LeavesCore (.next (finishBundle t)) k s) : LeavesCore o k s := by
  rwa [← hi] at hl

/-- A slot alone with no effect leaves the next bundle. -/
theorem leaves_of_issues {o : Out} (ha : Alone s) (hi : Issues o s) : Leaves o (nextCtx s.iss.words s.ctx) s := by
  refine LeavesCore.of_issues hi ?_
  rw [finishBundle_of_alone ha]
  exact ⟨_, rfl, .of_eq rfl rfl, by simp [SamePackage], fun n hn => State.coreAt_modCore_other _ _ hn, rfl, rfl,
    State.coreAt_modCore_same _ _ _⟩

end

/-! ### Targets and transfers -/

section
variable {s : State} {b : Fin 8}

theorem finishCore_bt (words n target : Nat) (k : Core) : finishCore { words := words, deferred := [.bt n target] } k =
    rested { nextCtx words k.ctx with bt := k.ctx.bt.set n target, btAt := k.ctx.btAt.set n k.ctx.icyc } k := by
  have hb : boundary k { words := words, deferred := [.bt n target] } =
      countIssue { sequential words k.ctx with
        bt := (sequential words k.ctx).bt.set n target
        btAt := (sequential words k.ctx).btAt.set n (sequential words k.ctx).icyc } := rfl
  show rested (boundary k _) k = _
  rw [hb, nextCtx, sequential_frame]
  rfl

/-- A target written is one for the next issue cycle (R140). -/
theorem leaves_bt {o : Out} {n target : Nat} (ha : Alone s) (hi : Issues o (s.defer (.bt n target))) :
    Leaves o { nextCtx s.iss.words s.ctx with bt := s.ctx.bt.set n target, btAt := s.ctx.btAt.set n s.ctx.icyc } s := by
  have hl := leavesCore_transfer ha (d := .bt n target) nofun none
  rw [finishCore_bt] at hl
  exact hl.of_issues hi

/-- A return takes the top of the return stack and ends the loops begun since the call (R145, R151). -/
theorem finishCore_retTo {words r c : Nat} {rest : List (Nat × Nat)} {k : Core} (h : k.ctx.ret = (r, c) :: rest) :
    finishCore { words := words, deferred := [.retTo] } k =
      rested (countIssue { k.ctx with
        pc := r, ret := rest, loops := k.ctx.loops.filter fun e => decide (e.retDepth < k.ctx.ret.length) }) k := by
  have hb : applyTransfer words [.retTo] k.ctx =
      { k.ctx with pc := r, ret := rest, loops := k.ctx.loops.filter fun e => decide (e.retDepth < k.ctx.ret.length) } := by
    simp only [applyTransfer, transferOf, h]
  exact congrArg (fun x => rested (countIssue x) k) hb

/-- The loop stack after a taken branch, by where its target lies (R151). -/
theorem branchLoops_of_holds {t depth : Nat} {e : LoopEntry} (h1 : e.first ≤ t) (h2 : t ≤ e.close) (r : List LoopEntry) :
    branchLoops t depth (e :: r) = e :: r := by
  simp [branchLoops, LoopEntry.holds, h1, h2]

/-- A branch out of every body begun at its depth ends the loops (R151). -/
theorem branchLoops_of_outside {t depth : Nat} {l : List LoopEntry}
    (h : ∀ e ∈ l, (t < e.first ∨ e.close < t) ∧ e.retDepth = depth) : branchLoops t depth l = [] := by
  have hnone : ∀ e ∈ l, e.holds t = false ∧ e.retDepth = depth := fun e he => by
    obtain ⟨hout, hd⟩ := h e he
    refine ⟨?_, hd⟩
    simp only [LoopEntry.holds, Bool.and_eq_false_iff, decide_eq_false_iff_not]
    omega
  cases l with
  | nil => rfl
  | cons e r =>
    obtain ⟨hout, hd⟩ := hnone e (by simp)
    rw [branchLoops, if_neg (by simp [hout, hd]), List.filter_eq_nil_iff]
    intro x hx
    obtain ⟨hout, hd⟩ := hnone x (by simp [hx])
    simp [hout, hd]

/-- The effect of a bundle that goes to a branch target (R142, R143). -/
theorem leavesCore_goTo {o : Out} (ha : Alone s) (hi : Issues o (goTo b s)) :
    LeavesCore o
      { rested (countIssue { s.ctx with
          pc := s.ctx.bt.getD b.val 0
          loops := branchLoops (s.ctx.bt.getD b.val 0) s.ctx.ret.length s.ctx.loops }) s.core with
        bubble := stallOf (s.ctx.btAt.get? b.val) s.core } s :=
  (leavesCore_transfer ha (d := .goto (s.ctx.bt.getD b.val 0)) nofun (s.ctx.btAt.get? b.val)).of_issues hi

end

/-- Settles O22: what each slot's checks answer, and the boundary after the effect that it defers. -/
theorem branchResults : Obligations.BranchResults := by
  intro s b p neg always off a ha hr hn to_ after goes taken sets n
  have hgoes {i : Instr} (hi : Issues (exec i s) (goTo b s)) : taken i :=
    ⟨_, leavesCore_goTo ha hi, fun e r he h1 h2 => by rw [he, branchLoops_of_holds h1 h2], branchLoops_of_outside⟩
  have hpread : s.ctx.pread p = s.ctx.p.getLsbD p.val := rfl
  have hprep : exec (.prep b off) s = execPrep b off s := rfl
  have hprepr : exec (.prepr b a) s = execPrepr b a s := rfl
  have hbr : exec (.br b p neg always) s = execBr b p neg always s := rfl
  have hbru : exec (.bru b) s = execBru b s := rfl
  have hcall : exec (.call b) s = execCall b s := rfl
  have hret : exec .ret s = execRet s := rfl
  have hnop : exec .nop s = execNop s := rfl
  refine ⟨fun h0 h1 => leaves_bt ha (issues_of hprep ha hr (by simp [prepTarget, n, h0, h1]) rfl),
    fun h => faults_of hprep ha ?_, fun h => leaves_bt ha (issues_of hprepr ha hr (by simp [hn, h]) rfl),
    fun h => faults_of hprepr ha (by simp [hn, Nat.not_lt.2 h]), fun h => hgoes (issues_of hbr ha hr rfl (if_pos ?_)),
    fun h0 h1 => leaves_of_issues ha (issues_of hbr ha hr rfl (if_neg ?_)),
    fun h => hgoes (issues_of hbru ha hr rfl (if_pos h)),
    fun h => leaves_of_issues ha (issues_of hbru ha hr rfl (if_neg h)),
    fun h => (leavesCore_transfer ha (d := .callTo _ _) nofun _).of_issues (issues_of hcall ha hr (by simp [h]) rfl),
    fun h => faults_of hcall ha (by simp [Nat.not_lt.2 h]), fun r c rest h => ?_,
    fun h => faults_of hret ha (by simp [h]), leaves_of_issues ha (issues_of hnop ha hr rfl rfl)⟩
  · have hout : ¬ (0 ≤ prepTarget s off ∧ prepTarget s off < 65536) := by
      simp only [n] at h
      simp only [prepTarget]
      omega
    simp [hout]
  · rw [hpread]
    rcases h with rfl | h
    · rfl
    · simpa using .inr h
  · rw [hpread, h0, h1]
    simp
  · have hl := (leavesCore_transfer ha (d := .retTo) nofun (some c)).of_issues
      (issues_of hret ha hr (by simp [h]) (by rw [h]; rfl))
    rw [finishCore_retTo (k := { s.core with bubble := stallOf (some c) s.core }) h] at hl
    exact hl

end Sys2Proof.Machine
end


section
/-! SUPPORT. The hardware loops at issue (06_sequencer R147, R148). -/

namespace Sys2Proof.Machine

open Sys2Proof

/-! ### The checks -/

section
variable {count : Word} {stages : Nat} {s : State}

theorem checkLoop_ok (ht : loopTotal count stages < 2 ^ 32) (h : count ≠ 0 → s.ctx.loops.length < 4) :
    checkLoop count stages s = .ok := by
  rw [checkLoop, if_neg (by omega)]
  split
  · rfl
  · next hc => simp [h hc]

theorem checkLoop_loopCount (ht : 2 ^ 32 ≤ loopTotal count stages) :
    checkLoop count stages s = .fault .loopCount 0 0 false none := if_pos (by omega)

theorem checkLoop_stackDepth (ht : loopTotal count stages < 2 ^ 32) (h0 : count ≠ 0) (h : 4 ≤ s.ctx.loops.length) :
    checkLoop count stages s = .fault .stackDepth 0 0 false none := by
  rw [checkLoop, if_neg (by omega), if_neg h0]
  simp [Nat.not_lt.2 h]

end

/-! ### The loop deferred -/

/-- The entry of a loop that a bundle begins (R147). -/
def newLoop (l : Fin 4) (len stages : Nat) (lp : Bool) (s : State) : LoopEntry :=
  ⟨l.val, s.ctx.pc + s.iss.words, (skipBundles s.core (len - 1) (s.ctx.pc + s.iss.words)).getD 65536, lp, stages,
    s.ctx.ret.length⟩

/-- The stage predicates when a LOOPS enters: p8 alone (R148). -/
theorem enterPreds_getLsbD (p : BitVec 16) {k : Nat} (h : k < 16) :
    ((p &&& 0xFF) ||| 0x100).getLsbD k = if k < 8 then p.getLsbD k else decide (k = 8) := by
  interval_cases k <;> simp

section
variable {s : State} {l : Fin 4} {count : Word} {len stages : Nat} {lp : Bool} (ha : Alone s)
include ha

theorem doLoop_skips (h : count = 0) : SameMemory s (doLoop l count len stages lp s) ∧
    (finishBundle (doLoop l count len stages lp s)).ctx = countIssue { s.ctx with
      lc := s.ctx.lc.set l.val 0, pc := (skipBundles s.core len (s.ctx.pc + s.iss.words)).getD 65536 } := by
  have hl : doLoop l count len stages lp s =
      s.defer (.loop l.val 0 none ((skipBundles s.core len (s.ctx.pc + s.iss.words)).getD 65536)) := if_pos h
  rw [hl]
  exact ⟨.of_eq rfl rfl, congrArg Core.ctx (core_finishBundle_defer ha (by simp))⟩

theorem doLoop_enters (h : count ≠ 0) : SameMemory s (doLoop l count len stages lp s) ∧
    (finishBundle (doLoop l count len stages lp s)).ctx = countIssue { s.ctx with
      lc := s.ctx.lc.set l.val (BitVec.ofNat 32 (loopTotal count stages)), pc := s.ctx.pc + s.iss.words
      loops := newLoop l len stages lp s :: s.ctx.loops
      p := if lp then (s.ctx.p &&& 0xFF) ||| 0x100 else s.ctx.p } := by
  have hl : doLoop l count len stages lp s = s.defer (.loop l.val (BitVec.ofNat 32 (loopTotal count stages))
      (some (newLoop l len stages lp s)) (s.ctx.pc + s.iss.words)) := if_neg h
  rw [hl]
  exact ⟨.of_eq rfl rfl, congrArg Core.ctx (core_finishBundle_defer ha (by simp))⟩

end

/-- Settles O23: what the checks answer, and the task's state after the loop that is deferred. -/
theorem loopResults : Obligations.LoopResults := by
  intro s l a len st ha hr hn n body first enters skips
  have hloop : exec (.loop l a len) s = execLoop l a len s := rfl
  have hloops : exec (.loops l a len st) s = execLoops l a len st s := rfl
  have hzero : n = 0 ↔ s.rs a = 0 := (BitVec.toNat_eq (y := 0#64)).symm
  have hseq {v : Verdict} : (needS s a).seq v = v := by rw [hn, Verdict.seq_ok]
  have hsmall (h : n = 0) : n < 2 ^ 32 ∧ n + st.val < 2 ^ 32 := by omega
  have hissue (hok : checkLoop (s.rs a) 1 s = .ok) :
      Issues (exec (.loop l a len) s) (doLoop l (s.rs a) body 1 false s) :=
    issues_of hloop ha hr (hseq.trans hok) rfl
  have hissues (hok : checkLoop (s.rs a) (st.val + 1) s = .ok) :
      Issues (exec (.loops l a len st) s) (doLoop l (s.rs a) body (st.val + 1) true s) :=
    issues_of hloops ha hr (hseq.trans hok) rfl
  have henters {i : Instr} {lp : Bool} {stages : Nat} (h0 : n ≠ 0)
      (hi : Issues (exec i s) (doLoop l (s.rs a) body stages lp s)) : ∃ t e, Issues (exec i s) t ∧ SameMemory s t ∧
        (finishBundle t).ctx.loops = e :: s.ctx.loops ∧ (finishBundle t).ctx.pc = first ∧
        (finishBundle t).ctx.lc.get? l.val = some (BitVec.ofNat 32 (loopTotal (s.rs a) stages)) ∧ e.lc = l.val ∧ e.first = first ∧
        e.loops = lp ∧ e.stages = stages ∧ (∀ c, skipBundles s.core (body - 1) first = some c → e.close = c) := by
    obtain ⟨hm, hc⟩ := doLoop_enters (l := l) (len := body) (stages := stages) (lp := lp) ha (mt hzero.2 h0)
    exact ⟨_, newLoop l body stages lp s, hi, hm, by rw [hc]; rfl, by rw [hc]; rfl, by rw [hc]; exact FMap.get?_set_same .., rfl,
      rfl, rfl, rfl, fun c h => by rw [newLoop, h]; rfl⟩
  have hskips {i : Instr} {lp : Bool} {stages : Nat} (hi : n = 0 → Issues (exec i s) (doLoop l (s.rs a) body stages lp s)) :
      skips i := fun h0 => by
    obtain ⟨hm, hc⟩ := doLoop_skips (l := l) (len := body) (stages := stages) (lp := lp) ha (hzero.1 h0)
    exact ⟨_, hi h0, hm, by rw [hc]; rfl, by rw [hc]; exact FMap.get?_set_same .., fun c h => by rw [hc, h]; rfl⟩
  refine ⟨fun h0 ht hl => henters h0 (hissue (checkLoop_ok ht fun _ => hl)),
    hskips fun h0 => hissue (checkLoop_ok (hsmall h0).1 fun h => absurd (hzero.1 h0) h),
    fun ht => faults_of hloop ha (hseq.trans (checkLoop_loopCount ht)),
    fun h0 ht hl => faults_of hloop ha (hseq.trans (checkLoop_stackDepth ht (mt hzero.2 h0) hl)),
    fun h0 ht hl => henters h0 (hissues (checkLoop_ok ht fun _ => hl)),
    hskips fun h0 => hissues (checkLoop_ok (hsmall h0).2 fun h => absurd (hzero.1 h0) h),
    fun ht => faults_of hloops ha (hseq.trans (checkLoop_loopCount ht)),
    fun h0 ht hl => ⟨_, hissues (checkLoop_ok ht fun _ => hl), fun k hk => ?_⟩⟩
  rw [(doLoop_enters ha (mt hzero.2 h0)).2]
  exact enterPreds_getLsbD _ hk

end Sys2Proof.Machine
end


section
/-! SUPPORT. A slot alone that waits or takes a fault of a mark, and the slots that wait or stop (06_sequencer R139, R152–R158;
04_memory_model R88–R90). -/

namespace Sys2Proof.Machine

open Sys2Proof

/-! ### A slot that does not issue -/

section
variable {s : State} {chk : State → Verdict} {eff : State → State} {v : Verdict} {o : Out}

/-- A slot alone that pushes nothing and may not issue has the effect of its verdict alone. -/
theorem slot_settles (ha : Alone s) (hc : chk s = v) (hv : v ≠ .ok) : slot {} chk eff s = .next (settle v s) := by
  have hi : s.iss = { words := s.iss.words } := ha
  have hphase : s.iss.phase = .whole := by rw [hi]
  have hverdict : s.iss.verdict = .ok := by rw [hi]
  have hslot : s.iss.slot = 0 := by rw [hi]
  have hvslot : s.iss.vslot = 0 := by rw [hi]
  have hl : pushLimit s {} v = v := if_neg fun h => h.1 rfl
  cases v with
  | ok => exact absurd rfl hv
  | _ =>
    simp only [slot, hphase, hc, conclude, noteSlot, hl, hverdict, Verdict.givesWay, if_true, bundleVerdict, settle, hslot,
      hvslot]

/-- A slot alone that stalls at step 7, and notes at most where it stands, leaves its task as it is. -/
theorem waits_of_hold {a : HoldAct} (hd : a = .none ∨ a = .stamp) (ho : o = slot {} chk eff s) (ha : Alone s)
    (hc : chk s = .hold a) : Waits o s := by
  rw [ho, slot_settles ha hc nofun]
  refine ⟨_, rfl, ?_⟩
  rcases hd with rfl | rfl <;> simp [settle, doHold, noteWait, noteStall, State.ctx, State.core] <;> exact ⟨rfl, rfl⟩

end

theorem holdIf_true : holdIf true = .hold .none := rfl

theorem holdIf_false : holdIf false = .ok := rfl

/-! ### WAIT and the fences -/

section
variable {s : State} {lim : Cls → Option Nat}

theorem waitsFor_eq_false {c : Ctx} : waitsFor c lim = false ↔ ∀ k v, lim k = some v → c.cnt.get k ≤ v := by
  constructor
  · intro h k v hk
    have hone := List.any_eq_false.1 h k (by cases k <;> simp)
    simpa [hk] using hone
  · refine fun h => List.any_eq_false.2 fun k _ => ?_
    cases hk : lim k with
    | none => simp
    | some v => simpa using h k v hk

theorem markFault_of_none {c : Ctx} {on : Cls → Bool} (h : firstMark c.marks on = none) : markFault c on = .ok := by
  rw [markFault, h]

theorem markFault_of_some {c : Ctx} {on : Cls → Bool} {k : Cls} {m : Mark} (h : firstMark c.marks on = some (k, m)) :
    markFault c on = .fault m.code m.faddr m.lost true (some k) := by
  rw [markFault, h]

theorem checkWait_of_within (h : waitsFor s.ctx lim = false) : checkWait lim s = markFault s.ctx fun k => (lim k).isSome := by
  rw [checkWait, h]
  rfl

theorem checkWait_of_waits (h : waitsFor s.ctx lim = true) : checkWait lim s = .hold .none := by
  rw [checkWait, h]
  rfl

end

/-- The limit that a WAIT's fields give a class is the class's field where that is not 15. -/
theorem waitLimit_eq_some {w x y z : Fin 16} {k : Cls} {v : Nat} : waitLimit w x y z k = some v ↔
    v ≠ 15 ∧ v = (match k with | .c0 => w | .c1 => x | .t => y | .s => z : Fin 16).val := by
  cases k <;> simp only [waitLimit] <;> split <;> simp_all [Fin.ext_iff] <;> omega

/-! ### The end of a member -/

/-- The end of some operations' packets changes the operations alone. -/
theorem foldl_endParts (l : List Op) (s : State) :
    ∃ ops, l.foldl (fun t o => endParts (.op o.id) t) s = { s with ops := ops } := by
  induction l generalizing s with
  | nil => exact ⟨s.ops, rfl⟩
  | cons o l ih => exact ih (endParts (.op o.id) s)

/-- What END does at issue beside the end itself: the member's pushes go, and the operations that would answer them. -/
theorem doEnd_eq {s : State} (ha : Alone s) : ∃ u, doEnd s = u.defer .endTask ∧ Alone u ∧ SameMemory s u ∧ u.cur = s.cur ∧
    u.ctx.pushes = [] := by
  obtain ⟨ops, hops⟩ := foldl_endParts _ _
  refine ⟨_, congrArg (State.defer · .endTask) hops, ha, .of_eq rfl rfl, rfl, ?_⟩
  exact congrArg Ctx.pushes (State.ctx_modCtx s fun c => { c with pushes := [] })

/-- A member that ends loses its pushes, and changes no byte (R158). -/
theorem doEnd_ends {s : State} (ha : Alone s) : (finishBundle (doEnd s)).core.mode = .ended ∧
    (finishBundle (doEnd s)).ctx.pushes = [] ∧ SameMemory s (finishBundle (doEnd s)) ∧
    (finishBundle (doEnd s)).cur = s.cur := by
  obtain ⟨u, hu, hau, hm, hcur, hp⟩ := doEnd_eq ha
  have hcore := core_finishBundle_defer (d := .endTask) hau nofun
  have hctx : boundary u.core { words := u.iss.words, deferred := [.endTask] } = nextCtx u.iss.words u.ctx := rfl
  rw [hu, State.ctx, hcore, finishBundle_defer (d := .endTask) hau nofun]
  refine ⟨rfl, ?_, hm, hcur⟩
  show (boundary u.core _).pushes = []
  rw [hctx, nextCtx_frame, hp]
  rfl

/-! ### The checks of the slots -/

section
variable {s : State} {o : Scope}

theorem checkFence_ok (h : o = .core ∨ releaseReady s s.cur o s.nextBundle (s.core.waitStamp.getD s.nextOp) = true) :
    checkFence o s = .ok := if_pos (by simpa using h)

theorem checkFence_hold (hc : o ≠ .core) (h : releaseReady s s.cur o s.nextBundle (s.core.waitStamp.getD s.nextOp) = false) :
    checkFence o s = .hold .stamp := if_neg (by simp [hc, h])

/-- A heavy fence whose own accesses are performed issues when it was answered, or has no one to ask (R90). -/
theorem checkHeavy_ok (hp : s.core.pubDone = none)
    (h : s.core.released = true ∨ (heavyAsked s = false ∧ heavyRecipients s o = [])) : checkHeavy o s = .ok := by
  rcases h with h | ⟨ha, hr⟩
  · simp [checkHeavy, hp, h]
  · simp [checkHeavy, hp, ha, hr]

theorem checkHeavy_hold (hp : s.core.pubDone = none) (hr : s.core.released = false) (ha : heavyAsked s = true) :
    checkHeavy o s = .hold .none := by
  simp [checkHeavy, hp, hr, ha]

/-- SYNC in a task of width 1 issues six cycles after it arrived (R154). -/
theorem checkSync_single {l c : Nat} (hw : s.widthAt s.cur = 1) (hc : s.core.waitSince = some c) :
    checkSync l s = holdIf (decide (s.cyc < c + 6)) := by
  simp [checkSync, hw, hc]

theorem checkSync_gang {l : Nat} {t : Task} (hw : s.widthAt s.cur ≠ 1) (ht : s.taskAt s.cur = some t) :
    checkSync l s = if t.lineMap.get? l = none then faultV .illegalOperand 0
      else if s.core.released then .ok else .hold (.sync l) := by
  simp [checkSync, hw, ht]

/-- END waits while an operation of its member is outstanding (R158). -/
theorem checkEnd_of_outstanding (h : s.ctx.cnt ≠ ⟨0, 0, 0, 0⟩) : checkEnd s = .hold .none := by
  have hw : waitsFor s.ctx (fun _ => some 0) = true := by
    rw [← Bool.not_eq_false, waitsFor_eq_false]
    refine fun hall => h ?_
    have hzero (k : Cls) : s.ctx.cnt.get k = 0 := Nat.le_zero.1 (hall k 0 rfl)
    calc s.ctx.cnt = ⟨s.ctx.cnt.get .c0, s.ctx.cnt.get .c1, s.ctx.cnt.get .t, s.ctx.cnt.get .s⟩ := rfl
      _ = ⟨0, 0, 0, 0⟩ := by simp only [hzero]
  rw [checkEnd, checkWait_of_waits hw]
  rfl

end

/-- A stop of the task's own is asked for at the boundary (R155–R157). -/
theorem stopReq_finishBundle_stop {s : State} (ha : Alone s) (k : StopKind) :
    (finishBundle (s.defer (.stop k))).core.stopReq = some k := by
  rw [core_finishBundle_defer ha (by simp)]
  rfl

/-- Settles O24: WAIT by its limits and marks, SYNC by the gang, a fence by what is performed; a stop by the effect that it
defers. -/
theorem waitAndStopResults : Obligations.WaitAndStopResults := by
  refine ⟨fun s w x y z l o ha hr => ?_, fun s c c17 n e0 e1 e2 e3 ha hr => ?_⟩
  · intro lim mark within
    have hwait : exec (.wait w x y z) s = execWait w x y z s := rfl
    have hsync : exec (.sync l) s = execSync l s := rfl
    have hfence : exec (.fence o) s = execFence o s := rfl
    have hheavy : exec (.fenceHeavy o) s = execFenceHeavy o s := rfl
    have hlite : exec .fenceLite s = execFenceLite s := rfl
    have hlim (k : Cls) (v : Nat) : waitLimit w x y z k = some v ↔ v ≠ 15 ∧ v = lim k := by
      rw [waitLimit_eq_some]
      cases k <;> rfl
    have hwithin : within ↔ waitsFor s.ctx (waitLimit w x y z) = false := by
      simp only [waitsFor_eq_false, hlim, within]
      exact ⟨fun h k v ⟨hv, he⟩ => he ▸ h k (he ▸ hv), fun h k hk => h k _ ⟨hk, rfl⟩⟩
    have hmark : mark = firstMark s.ctx.marks fun k => (waitLimit w x y z k).isSome := by
      have hon : (fun k => lim k != 15) = fun k => (waitLimit w x y z k).isSome := by
        funext k
        rw [Bool.eq_iff_iff, bne_iff_ne, Option.isSome_iff_exists]
        exact ⟨fun h => ⟨_, (hlim k _).2 ⟨h, rfl⟩⟩, fun ⟨v, hv⟩ => by obtain ⟨h, rfl⟩ := (hlim k v).1 hv; exact h⟩
      rw [← hon]
    refine ⟨fun h hm => issues_of hwait ha hr ?_ rfl, fun h k m hm => ?_,
      fun h => waits_of_hold (.inl rfl) hwait ha (checkWait_of_waits (by simpa using mt hwithin.2 h)),
      fun hw c hc => ⟨fun hle => issues_of hsync ha hr ?_ rfl, fun hlt => waits_of_hold (.inl rfl) hsync ha ?_⟩,
      fun hw t ht => ⟨fun hn => faults_of hsync ha ?_, fun hn hrel => issues_of hsync ha hr ?_ rfl⟩,
      ⟨fun h => issues_of hfence ha hr (checkFence_ok (.inr h)) rfl,
        fun hc h => waits_of_hold (.inr rfl) hfence ha (checkFence_hold hc h),
        fun hc h => waits_of_hold (.inr rfl) hheavy ha ?_,
        fun h hp hq => issues_of hheavy ha hr ?_ rfl, fun h hp hrel hask => waits_of_hold (.inl rfl) hheavy ha ?_⟩,
      fun hc => issues_of hfence ha hr (checkFence_ok (.inl hc)) rfl, issues_of hlite ha hr rfl rfl⟩
    · rw [checkWait_of_within (hwithin.1 h), markFault_of_none (hmark ▸ hm)]
    · have hc := (checkWait_of_within (hwithin.1 h)).trans (markFault_of_some (hmark ▸ hm))
      have hs := slot_settles (eff := id) ha hc nofun
      rw [hwait, execWait, hs, settle, ha]
      rfl
    · rw [checkSync_single hw hc, decide_eq_false (by omega), holdIf_false]
    · rw [checkSync_single hw hc, decide_eq_true hlt, holdIf_true]
    · rw [checkSync_gang hw ht, if_pos hn]
      rfl
    · rw [checkSync_gang hw ht, if_neg hn, if_pos hrel]
    · rw [checkFence_hold hc h]
      rfl
    · rw [checkFence_ok (.inr h), Verdict.seq_ok, checkHeavy_ok hp hq]
    · rw [checkFence_ok (.inr h), Verdict.seq_ok, checkHeavy_hold hp hrel hask]
  · have hslot : s.iss.slot = 0 := by rw [ha]
    have hend : exec .endTask s = execEndTask s := rfl
    have hyield : exec .yield s = execYield s := rfl
    have hbreak {i : Instr} {code : FaultCode} {aux : Nat}
        (hi : exec i s = slot {} (fun _ => .ok) (fun s => s.defer (.stop (.faulted (breakInfo code aux s)))) s) :
        ∃ t f, Issues (exec i s) t ∧ SameMemory s t ∧ (finishBundle t).core.stopReq = some (.faulted f) ∧ f.code = code ∧
          f.aux = aux ∧ f.bundle = s.ctx.pc ∧ f.async = false ∧ f.slot = 0 :=
      ⟨_, breakInfo code aux s, issues_of hi ha hr rfl rfl, .of_eq rfl rfl, stopReq_finishBundle_stop ha _, rfl, rfl, rfl, rfl,
        hslot⟩
    refine ⟨hbreak rfl, hbreak rfl, ⟨_, issues_of hyield ha hr rfl rfl, stopReq_finishBundle_stop ha _⟩, fun hok => ?_,
      fun hcnt => ?_, _, rfl, rfl, rfl, .of_eq rfl rfl⟩
    · obtain ⟨hmode, hpushes, hm, hcur⟩ := doEnd_ends ha
      have hs : slot {} checkEnd doEnd s = .next (finishBundle (doEnd s)) := slot_issues ha hr hok
      exact ⟨_, hmode, hpushes, hm, hcur, by rw [hend, execEndTask, hs]⟩
    · obtain ⟨u, hu, hctx, hmode, hwait⟩ :=
        waits_of_hold (o := slot {} checkEnd doEnd s) (.inl rfl) rfl ha (checkEnd_of_outstanding hcnt)
      exact ⟨u, by rw [hend, execEndTask, hu], hctx, hmode⟩

end Sys2Proof.Machine
end


section
/-! SUPPORT. The events that ask a task's cores to stop (06_sequencer R164, R165; 13_tasks R320, R321). -/

namespace Sys2Proof.Machine

open Sys2Proof

/-! ### The request -/

/-- A core asked to stop: one asked before keeps the kind of that stop. -/
def askedStop (k : StopKind) (c : Core) : Core := { c with stopReq := some (c.stopReq.getD k) }

theorem coreAt_askStop (cs : List Nat) (k : StopKind) (s : State) (m : Nat) :
    (askStop cs k s).coreAt m = if m ∈ cs then askedStop k (s.coreAt m) else s.coreAt m := by
  induction cs generalizing s with
  | nil => rfl
  | cons n cs ih =>
    refine (ih (s.modCore n (askedStop k))).trans ?_
    by_cases hmn : m = n
    · subst hmn
      simp only [State.coreAt_modCore_same, List.mem_cons, true_or, if_true]
      exact ite_self _
    · simp only [State.coreAt_modCore_other _ _ hmn, List.mem_cons, hmn, false_or]

theorem askStop_frame (cs : List Nat) (k : StopKind) (s : State) : ∃ cores, askStop cs k s = { s with cores := cores } := by
  induction cs generalizing s with
  | nil => exact ⟨s.cores, rfl⟩
  | cons n cs ih => exact ih (s.modCore n (askedStop k))

/-- The cores of a list are asked to stop, and nothing else changes. -/
theorem askStop_asks (cs : List Nat) (k : StopKind) (s : State) : SameMemory s (askStop cs k s) ∧
    (askStop cs k s).tasks = s.tasks ∧
    (∀ m ∈ cs, ((askStop cs k s).coreAt m).stopReq = some ((s.coreAt m).stopReq.getD k) ∧
      ((askStop cs k s).coreAt m).ctx = (s.coreAt m).ctx ∧ ((askStop cs k s).coreAt m).mode = (s.coreAt m).mode) ∧
    ∀ m, m ∉ cs → (askStop cs k s).coreAt m = s.coreAt m := by
  obtain ⟨cores, hf⟩ := askStop_frame cs k s
  refine ⟨.of_eq (by rw [hf]) (by rw [hf]), by rw [hf], fun m hm => ?_, fun m hm => ?_⟩
  · rw [coreAt_askStop, if_pos hm]
    exact ⟨rfl, rfl, rfl⟩
  · rw [coreAt_askStop, if_neg hm]

/-! ### The rows -/

section
variable {s : State} {n : Nat}

theorem exec_firmwareStopRequest_running (h : (s.coreAt n).mode = .running) : exec (.firmwareStopRequest n) s =
    .next (if (coresWith s (s.coreAt n).task).any (publishing s) then s.retry (.firmwareStopRequest n)
      else askStop (coresWith s (s.coreAt n).task) (if memberStopped s (s.coreAt n).task then .gangStop else .preempt) s) := by
  show execFirmwareStopRequest n s = _
  simp only [execFirmwareStopRequest, h]

theorem exec_firmwareStopRequest_stopped {k : StopKind} (h : (s.coreAt n).mode = .stopped k) :
    exec (.firmwareStopRequest n) s = .next (drainMatrix n s) := by
  show execFirmwareStopRequest n s = _
  simp only [execFirmwareStopRequest, h]

theorem endSlice_of_over (hs : sliceOver s n = true) (hb : (coresWith s (s.coreAt n).task).any (publishing s) = false) :
    endSlice n s = askStop (coresWith s (s.coreAt n).task) .preempt s := if_pos ⟨hs, hb⟩

theorem endSlice_of_not_over (h : sliceOver s n = false ∨ (coresWith s (s.coreAt n).task).any (publishing s) = true) :
    endSlice n s = s := if_neg fun ⟨hs, hb⟩ => by simp_all

theorem exec_taskAgeingStep {q : Nat} {c : Core}
    (h : (s.cores.find? fun (_, c) => c.runq.any fun x => x.task == q) = some (n, c)) :
    exec (.taskAgeingStep q) s = .next (endSlice n s) := by
  show execTaskAgeingStep q s = _
  simp only [execTaskAgeingStep, h]

/-- A JOIN that has stalled its task of width 1 for 4,096 cycles has its core stop for the next one (R321). -/
theorem exec_joinBlockSwitch {w : Nat} (hm : (s.coreAt n).mode = .running) (hwidth : s.widthAt n = 1)
    (hq : (s.coreAt n).runq ≠ []) (hj : stalledInJoin (s.coreAt n) = true) (hw : (s.coreAt n).waitSince = some w) :
    exec (.joinBlockSwitch n) s = .next (if w + 4096 ≤ s.cyc then askStop [n] .blocked s else s) := by
  show execJoinBlockSwitch n s = _
  simp [execJoinBlockSwitch, hm, hwidth, hq, hj, hw]

end

end Sys2Proof.Machine
end


section
/-! SUPPORT. A task's save: what leaves its cores, what is kept of its members, and what becomes of it (06_sequencer R166,
R167; 13_tasks R321). -/

namespace Sys2Proof.Machine

open Sys2Proof

/-- A relation of states that holds along every step of a fold holds of the fold. -/
theorem foldl_related {α : Type} {R : State → State → Prop} {f : State → α → State} (hrefl : ∀ s, R s s)
    (htrans : ∀ {s t u}, R s t → R t u → R s u) (hf : ∀ s x, R s (f s x)) (l : List α) (s : State) : R s (l.foldl f s) := by
  induction l generalizing s with
  | nil => exact hrefl s
  | cons x l ih => exact htrans (hf s x) (ih (f s x))

/-! ### Tasks by their ids -/

/-- The two memories are as before, and the tasks have the ids that they had. -/
def KeepsIds (s t : State) : Prop := t.mem = s.mem ∧ t.host = s.host ∧ t.tasks.map Task.id = s.tasks.map Task.id

/-- The two memories and the tasks are as before. -/
def KeepsTasks (s t : State) : Prop := t.mem = s.mem ∧ t.host = s.host ∧ t.tasks = s.tasks

section
variable {s t u : State}

theorem KeepsIds.refl (s : State) : KeepsIds s s := ⟨rfl, rfl, rfl⟩

theorem KeepsIds.trans (h : KeepsIds s t) (h' : KeepsIds t u) : KeepsIds s u := by
  obtain ⟨h1, h2, h3⟩ := h
  obtain ⟨h1', h2', h3'⟩ := h'
  exact ⟨h1'.trans h1, h2'.trans h2, h3'.trans h3⟩

theorem KeepsTasks.refl (s : State) : KeepsTasks s s := ⟨rfl, rfl, rfl⟩

theorem KeepsTasks.trans (h : KeepsTasks s t) (h' : KeepsTasks t u) : KeepsTasks s u := by
  obtain ⟨h1, h2, h3⟩ := h
  obtain ⟨h1', h2', h3'⟩ := h'
  exact ⟨h1'.trans h1, h2'.trans h2, h3'.trans h3⟩

theorem KeepsTasks.task?_eq {id : Nat} (h : KeepsTasks s t) : t.task? id = s.task? id := by
  obtain ⟨-, -, ht⟩ := h
  rw [State.task?, ht, ← State.task?]

theorem coreAt_of_cores {n : Nat} (h : t.cores = s.cores) : t.coreAt n = s.coreAt n := by
  rw [State.coreAt, h, ← State.coreAt]

theorem keepsIds_modTask {id : Nat} {f : Task → Task} (hf : ∀ x, (f x).id = x.id) : KeepsIds s (s.modTask id f) := by
  refine ⟨rfl, rfl, ?_⟩
  rw [State.modTask_tasks, List.map_map]
  refine List.map_congr_left fun x _ => ?_
  show (if x.id = id then f x else x).id = x.id
  split
  · exact hf x
  · rfl

theorem State.task?_isSome {id : Nat} : (s.task? id).isSome = true ↔ id ∈ s.tasks.map Task.id := by
  simp [State.task?, List.find?_isSome]

theorem State.task?_id {id : Nat} {k : Task} (h : s.task? id = some k) : k.id = id := by
  simpa using List.find?_some h

/-- A task of an id is there still where the ids are kept. -/
theorem State.task?_of_ids {id : Nat} {k : Task} (h : t.tasks.map Task.id = s.tasks.map Task.id) (hk : s.task? id = some k) :
    ∃ k', t.task? id = some k' := by
  rw [← Option.isSome_iff_exists, State.task?_isSome, h, ← State.task?_isSome, hk]
  rfl

/-- The task found under an id after a change of tasks that keeps their ids. -/
theorem State.task?_modTask {id : Nat} {f : Task → Task} (hf : ∀ x, (f x).id = x.id) (j : Nat) :
    (s.modTask id f).task? j = (s.task? j).map fun x => if x.id = id then f x else x := by
  have hid : ((fun x : Task => x.id == j) ∘ fun x => if x.id = id then f x else x) = fun x => x.id == j := funext fun x => by
    show ((if x.id = id then f x else x).id == j) = (x.id == j)
    split
    · rw [hf]
    · rfl
  rw [State.task?, State.modTask_tasks, List.find?_map, hid, ← State.task?]

theorem State.task?_modTask_same {id : Nat} {f : Task → Task} {k : Task} (hf : ∀ x, (f x).id = x.id)
    (hk : s.task? id = some k) : (s.modTask id f).task? id = some (f k) := by
  rw [State.task?_modTask hf, hk, Option.map_some, if_pos (State.task?_id hk)]

/-! ### What a save leaves as it is -/

theorem sendFlits_frame (station : Nat) (m : HeldMsg) (s : State) :
    ∃ st out, sendFlits station m s = { s with stations := st, outbox := out } := by
  unfold sendFlits
  dsimp only
  split
  · exact ⟨_, s.outbox, rfl⟩
  · split
    · exact ⟨_, _, rfl⟩
    · exact ⟨_, _, rfl⟩

/-- A message sent changes the stations, the outbox and the package's own list alone. -/
theorem send_frame (s : State) (dest : Nat) (i : Instr) :
    ∃ st out own, s.send dest i = { s with stations := st, outbox := out, own := own } := by
  unfold State.send
  split
  · unfold State.sendOn
    split
    · exact ⟨s.stations, s.outbox, _, rfl⟩
    · split
      · split
        · exact ⟨_, s.outbox, s.own, rfl⟩
        · exact ⟨s.stations, s.outbox, s.own, rfl⟩
      · next station ch flits _ _ _ =>
        obtain ⟨st, out, h⟩ := sendFlits_frame station ⟨dest, ch, flits, i, none⟩ s
        exact ⟨st, out, s.own, h⟩
  · split
    · exact ⟨s.stations, s.outbox, _, rfl⟩
    · exact ⟨s.stations, _, s.own, rfl⟩

theorem ackFences_frame (n : Nat) (s : State) : KeepsTasks s (ackFences n s) ∧ (ackFences n s).cores = s.cores := by
  refine foldl_related (R := fun s t => KeepsTasks s t ∧ t.cores = s.cores) (fun s => ⟨.refl s, rfl⟩)
    (fun h h' => ⟨h.1.trans h'.1, h'.2.trans h.2⟩) (fun s f => ?_) _ s
  obtain ⟨st, out, own, h⟩ := send_frame s f.ask.src.acc (.fenceHeavyAcknowledge f.ask.src.op s.accid n)
  rw [h]
  exact ⟨⟨rfl, rfl, rfl⟩, rfl⟩

theorem keepsIds_modOwner {task member : Nat} {f : Ctx → Ctx} : KeepsIds s (s.modOwner task member f) := by
  unfold State.modOwner
  split
  · exact ⟨rfl, rfl, rfl⟩
  · exact keepsIds_modTask fun _ => rfl

/-- The steps that a product at rest has added change its member's state, its operation and the codes of what it read. -/
theorem keepsIds_restProduct (s : State) (o : Op) : KeepsIds s (restProduct s o) := by
  unfold restProduct
  split
  · split
    · split
      · exact KeepsIds.trans (t := readRanged _ s) ⟨rfl, rfl, rfl⟩ (keepsIds_modOwner.trans ⟨rfl, rfl, rfl⟩)
      · exact .refl s
    · exact .refl s
  · exact .refl s

theorem keepsIds_restProducts (task : Nat) (s : State) : KeepsIds s (restProducts task s) :=
  foldl_related .refl .trans keepsIds_restProduct _ s

theorem keepsTasks_cleanTiles (n : Nat) (c : Core) (s : State) : KeepsTasks s (cleanTiles n c s) :=
  foldl_related .refl .trans (fun _ _ => ⟨rfl, rfl, rfl⟩) _ s

theorem keepsTasks_idleCore (n : Nat) (s : State) : KeepsTasks s (idleCore n s) :=
  (ackFences_frame n s).1.trans ⟨rfl, rfl, rfl⟩

/-! ### The cores that a save leaves -/

/-- A core that has left its task. -/
def IsIdle (c : Core) : Prop := c.mode = .idle ∧ c.task = 0 ∧ c.fences = []

theorem coreAt_idleCore_same (n : Nat) (s : State) : IsIdle ((idleCore n s).coreAt n) := by
  rw [idleCore, State.coreAt_modCore_same]
  exact ⟨rfl, rfl, rfl⟩

theorem coreAt_idleCore_other {n m : Nat} (h : m ≠ n) (s : State) : (idleCore n s).coreAt m = s.coreAt m := by
  rw [idleCore, State.coreAt_modCore_other _ _ h, coreAt_of_cores (ackFences_frame n s).2]

theorem isIdle_foldl_idleCore {m : Nat} (ms : List (Nat × Core)) (s : State)
    (h : IsIdle (s.coreAt m) ∨ ∃ c, (m, c) ∈ ms) : IsIdle ((ms.foldl (fun s x => idleCore x.1 s) s).coreAt m) := by
  induction ms generalizing s with
  | nil => simpa using h
  | cons x ms ih =>
    refine ih _ ?_
    by_cases hx : m = x.1
    · exact .inl (hx ▸ coreAt_idleCore_same x.1 s)
    · rw [coreAt_idleCore_other hx]
      refine h.imp id fun ⟨c, hc⟩ => ⟨c, (List.mem_cons.1 hc).resolve_left fun he => hx (congrArg Prod.fst he)⟩

/-! ### What a save keeps -/

/-- A task that leaves its cores for its save areas. -/
def leftCores (ms : List (Nat × Core)) (t : Task) : Task :=
  { t with saved := ms.map fun m => savedOf m.1 m.2, state := .stopped, blockedOn := none }

/-- The operations of a task as its save leaves them. -/
def leftOps (id : Nat) (s : State) : State :=
  { s with ops := (s.ops.filter fun o => !(o.task == id && endsWithStop o)).map fun o =>
      if o.task = id then { o with core := engineCore (dieOf o.core) } else o }

/-- The tiles of some members with DIRTY cleared. -/
def cleanAll (ms : List (Nat × Core)) (s : State) : State := ms.foldl (fun s m => cleanTiles m.1 m.2 s) s

/-- Some cores without their task. -/
def idleAll (ms : List (Nat × Core)) (s : State) : State := ms.foldl (fun s m => idleCore m.1 s) s

theorem saveMembers_eq (id : Nat) (ms : List (Nat × Core)) (s : State) : saveMembers id ms s =
    dropClamps id (idleAll ms ((cleanAll ms (leftOps id s)).modTask id (leftCores ms))) := rfl

theorem keepsTasks_cleanAll (ms : List (Nat × Core)) (s : State) : KeepsTasks s (cleanAll ms s) :=
  foldl_related .refl .trans (fun s (m : Nat × Core) => keepsTasks_cleanTiles m.1 m.2 s) ms s

theorem keepsTasks_idleAll (ms : List (Nat × Core)) (s : State) : KeepsTasks s (idleAll ms s) :=
  foldl_related .refl .trans (fun s (m : Nat × Core) => keepsTasks_idleCore m.1 s) ms s

/-- The save of a task's members changes no byte, keeps the state of each in the task's record, and leaves their cores
idle. -/
theorem saveMembers_saves {id : Nat} {k : Task} (ms : List (Nat × Core)) (hk : s.task? id = some k) :
    SameMemory s (saveMembers id ms s) ∧ (saveMembers id ms s).task? id = some (leftCores ms k) ∧
    ∀ m c, (m, c) ∈ ms → IsIdle ((saveMembers id ms s).coreAt m) := by
  obtain ⟨hm, hh, ht⟩ := keepsTasks_cleanAll ms (leftOps id s)
  obtain ⟨hm', hh', ht'⟩ := keepsTasks_idleAll ms ((cleanAll ms (leftOps id s)).modTask id (leftCores ms))
  rw [saveMembers_eq]
  refine ⟨.of_eq (hm'.trans hm) (hh'.trans hh), ?_, fun m c hc => isIdle_foldl_idleCore ms _ (.inr ⟨c, hc⟩)⟩
  have hclean : (cleanAll ms (leftOps id s)).task? id = some k := by rwa [State.task?, ht]
  have hleft := State.task?_modTask_same (f := leftCores ms) (fun _ => rfl) hclean
  rwa [State.task?, ← ht'] at hleft

/-! ### What becomes of a saved task -/

/-- A step that takes a task to a queue: no byte changes, no core's mode, and nothing that is saved of a task. -/
def Requeues (s t : State) : Prop := t.mem = s.mem ∧ t.host = s.host ∧ (∀ m, (t.coreAt m).mode = (s.coreAt m).mode) ∧
  ∀ id, (t.task? id).map Task.saved = (s.task? id).map Task.saved

theorem Requeues.refl (s : State) : Requeues s s := ⟨rfl, rfl, fun _ => rfl, fun _ => rfl⟩

theorem Requeues.trans (h : Requeues s t) (h' : Requeues t u) : Requeues s u := by
  obtain ⟨h1, h2, h3, h4⟩ := h
  obtain ⟨h1', h2', h3', h4'⟩ := h'
  exact ⟨h1'.trans h1, h2'.trans h2, fun m => (h3' m).trans (h3 m), fun id => (h4' id).trans (h4 id)⟩

theorem requeues_modTask {id : Nat} {f : Task → Task} (hf : ∀ x, (f x).id = x.id) (hs : ∀ x, (f x).saved = x.saved) :
    Requeues s (s.modTask id f) := by
  refine ⟨rfl, rfl, fun _ => rfl, fun j => ?_⟩
  rw [State.task?_modTask hf, Option.map_map]
  congr 1
  funext x
  show (if x.id = id then f x else x).saved = x.saved
  split
  · exact hs x
  · rfl

theorem requeues_modCore {n : Nat} {f : Core → Core} (hf : ∀ c, (f c).mode = c.mode) : Requeues s (s.modCore n f) := by
  refine ⟨rfl, rfl, fun m => ?_, fun _ => rfl⟩
  by_cases h : m = n
  · rw [h, State.coreAt_modCore_same, hf]
  · rw [State.coreAt_modCore_other _ _ h]

/-- A task takes the next place in the order of admission. -/
theorem requeues_modTask_admit {id n : Nat} {f : Task → Task} (hf : ∀ x, (f x).id = x.id)
    (hs : ∀ x, (f x).saved = x.saved) :
    Requeues s { s.modTask id f with admitOrder := n } :=
  Requeues.trans (requeues_modTask hf hs) ⟨rfl, rfl, fun _ => rfl, fun _ => rfl⟩

theorem requeues_enqueue (task core : Nat) (s : State) : Requeues s (enqueue task core s) := by
  refine Requeues.trans ?_ (requeues_modTask (fun _ => rfl) fun _ => rfl)
  exact requeues_modCore fun _ => rfl

theorem requeues_queueReady (s : State) : Requeues s (queueReady s) :=
  foldl_related .refl .trans (fun s x => by
    split
    · exact requeues_enqueue ..
    · exact .refl s) _ s

theorem requeues_requeue (task : Nat) (s : State) : Requeues s (requeue task s) := by
  refine Requeues.trans ?_ (requeues_queueReady _)
  exact requeues_modTask_admit (fun _ => rfl) fun _ => rfl

theorem requeues_requeueOn (core task : Nat) (s : State) : Requeues s (requeueOn core task s) := by
  unfold requeueOn
  split
  · refine Requeues.trans ?_ (requeues_enqueue task core _)
    exact requeues_modTask_admit (fun _ => rfl) fun _ => rfl
  · exact requeues_requeue task s

theorem requeues_wakeBlocked (s : State) : Requeues s (wakeBlocked s) :=
  foldl_related .refl .trans (fun s (t : Task) => requeues_requeue t.id s) _ s

/-- A saved task that firmware does not terminate, of which no member has faulted, waits for its children or is queued. -/
theorem requeues_afterSave {k : Task} {ms : List (Nat × Core)} (hd : k.doomed = false) (hf : stopFault ms = none)
    (s : State) : Requeues s (afterSave k ms s) := by
  simp only [afterSave, hd, hf, Bool.false_eq_true, if_false]
  split
  · refine Requeues.trans ?_ (requeues_wakeBlocked _)
    exact requeues_modTask (fun _ => rfl) fun _ => rfl
  · split
    · exact requeues_requeueOn ..
    · exact requeues_requeue ..

/-! ### The row -/

theorem exec_taskSave {n : Nat} {k : Task} (hk : s.taskAt n = some k) : exec (.taskSave n) s =
    .next (if hasStopped (s.coreAt n) && atRest s k.id then
        afterSave k (coresHolding (restProducts k.id s) k.id)
          (saveMembers k.id (coresHolding (restProducts k.id s) k.id) (restProducts k.id s))
      else s) := by
  show execTaskSave n s = _
  simp only [execTaskSave, hk]

end

end Sys2Proof.Machine
end


section
/-! SUPPORT. The tiles of a member that is restored on another core: lifted from the core that it left, and placed in fresh
storage (06_sequencer R170). -/

namespace Sys2Proof.Machine

open Sys2Proof

variable {s u : State} {t : Task} {v w : Saved} {vs : List Saved} {x : Lifted}

/-! ### The tiles lifted -/

theorem mem_liftMember : x ∈ (liftMember t v s).1 ↔ x.index ∈ memberEntries t v ∧ x.member = v.member ∧
    (s.coreAt v.core).tiles.get? x.index = some x.entry ∧
    x.bytes = s.bytes (tileByteKey v.core x.entry 0) (tileBytes x.entry) := by
  simp only [liftMember, List.mem_filterMap, Option.map_eq_some_iff]
  constructor
  · rintro ⟨i, hi, e, he, rfl⟩
    exact ⟨hi, rfl, he, rfl⟩
  · rintro ⟨hi, hm, he, hb⟩
    refine ⟨x.index, hi, x.entry, he, ?_⟩
    rw [← hm, ← hb]

theorem liftMember_congr (ht : (u.coreAt v.core).tiles = (s.coreAt v.core).tiles) (hm : u.mem = s.mem) :
    (liftMember t v u).1 = (liftMember t v s).1 := by
  simp only [liftMember, ht, State.bytes, hm]

theorem liftMember_frame (t : Task) (v : Saved) (s : State) : KeepsTasks s (liftMember t v s).2 ∧
    ∀ n, n ≠ v.core → (liftMember t v s).2.coreAt n = s.coreAt n :=
  ⟨⟨rfl, rfl, rfl⟩, fun _ h => State.coreAt_modCore_other _ _ h⟩

theorem foldl_liftMember (ls : List Lifted) (s : State) :
    vs.foldl (fun p v => let x := liftMember t v p.2; (p.1 ++ x.1, x.2)) (ls, s) =
      (ls ++ (liftAll t vs s).1, (liftAll t vs s).2) := by
  induction vs generalizing ls s with
  | nil => simp [liftAll]
  | cons v vs ih =>
    rw [liftAll, List.foldl_cons, List.foldl_cons, ih, ih]
    simp

theorem liftAll_cons : liftAll t (v :: vs) s =
    ((liftMember t v s).1 ++ (liftAll t vs (liftMember t v s).2).1, (liftAll t vs (liftMember t v s).2).2) := by
  rw [liftAll, List.foldl_cons, foldl_liftMember]
  simp

theorem keepsTasks_liftAll (s : State) : KeepsTasks s (liftAll t vs s).2 := by
  induction vs generalizing s with
  | nil => exact .refl s
  | cons v vs ih =>
    rw [liftAll_cons]
    exact (liftMember_frame t v s).1.trans (ih _)

/-- Members that left different cores are lifted each as if alone. -/
theorem liftAll_eq_flatMap (h : (vs.map Saved.core).Nodup) :
    (liftAll t vs s).1 = vs.flatMap fun v => (liftMember t v s).1 := by
  induction vs generalizing s with
  | nil => rfl
  | cons v vs ih =>
    obtain ⟨hv, hvs⟩ := List.nodup_cons.1 h
    obtain ⟨⟨hm, -, -⟩, hother⟩ := liftMember_frame t v s
    rw [liftAll_cons, List.flatMap_cons, ih hvs]
    refine congrArg _ (List.flatMap_congr fun w hw => liftMember_congr ?_ hm)
    rw [hother _ fun he => hv (he ▸ List.mem_map_of_mem hw)]

theorem mem_liftAll (h : (vs.map Saved.core).Nodup) : x ∈ (liftAll t vs s).1 ↔ ∃ v ∈ vs, x ∈ (liftMember t v s).1 := by
  rw [liftAll_eq_flatMap h, List.mem_flatMap]

/-! ### The tiles placed -/

variable {core i : Nat} {xs : List Lifted} {m : List (Nat × Nat)}

theorem detachAccesses_frame (key len : Nat) (s : State) :
    KeepsTasks s (detachAccesses key len s) ∧ (detachAccesses key len s).cores = s.cores := by
  refine foldl_related (R := fun s u => KeepsTasks s u ∧ u.cores = s.cores) (fun s => ⟨.refl s, rfl⟩)
    (fun h h' => ⟨h.1.trans h'.1, h'.2.trans h.2⟩) (fun s o => ?_) s.ops s
  unfold takeEarly
  split
  · split
    · exact ⟨⟨rfl, rfl, rfl⟩, rfl⟩
    · exact ⟨.refl s, rfl⟩
  · exact ⟨.refl s, rfl⟩

/-- The entry of a tile that has moved. -/
def movedEntry (core base : Nat) (e : TileEntry) : TileEntry := { e with owner := core, base := base }

/-- A tile is placed in an entry of the core that described none, and its bytes at the entry's storage. -/
theorem placeLifted_places (h : placeLifted core x s = some (i, u)) : ∃ base,
    (s.coreAt core).tiles.get? i = none ∧ u.tasks = s.tasks ∧ (∀ n, n ≠ core → u.coreAt n = s.coreAt n) ∧
    (u.coreAt core).tiles = (s.coreAt core).tiles.set i (movedEntry core base x.entry) ∧
    u.mem = Memory.setN s.mem (tileByteKey core (movedEntry core base x.entry) 0) x.bytes := by
  obtain ⟨⟨j, f⟩, hplan, hu⟩ := Option.map_eq_some_iff.1 h
  cases hu
  have hfree : freeEntry (s.coreAt core) = some i := by
    unfold planTile at hplan
    split at hplan
    · next hi _ => cases hplan; exact hi
    · cases hplan
  obtain ⟨⟨hm, -, ht⟩, hc⟩ := detachAccesses_frame (tileByteKey core (movedEntry core f.base x.entry) 0)
    (tileBytes (movedEntry core f.base x.entry))
    (s.modCore core fun c => { c with tiles := c.tiles.set i (movedEntry core f.base x.entry) })
  refine ⟨f.base, by simpa using List.find?_some hfree, ht, fun n hn => ?_, ?_, ?_⟩
  · exact (coreAt_of_cores hc).trans (State.coreAt_modCore_other _ _ hn)
  · exact congrArg Core.tiles ((coreAt_of_cores hc).trans (State.coreAt_modCore_same _ _ _))
  · exact congrArg (Memory.setN · _ x.bytes) hm

/-- The tiles of a member are placed one after another: each in an entry of its own, and the core's others stay. -/
theorem placeAll_places (h : placeAll core xs s = some (m, u)) : u.tasks = s.tasks ∧
    (∀ n, n ≠ core → u.coreAt n = s.coreAt n) ∧ m.map Prod.fst = xs.map Lifted.index ∧
    (∀ j e, (s.coreAt core).tiles.get? j = some e → (u.coreAt core).tiles.get? j = some e) ∧
    ∀ p ∈ m, ∃ x ∈ xs, x.index = p.1 ∧
      ∃ base, (u.coreAt core).tiles.get? p.2 = some (movedEntry core base x.entry) := by
  induction xs generalizing s m with
  | nil =>
    cases h
    exact ⟨rfl, fun _ _ => rfl, rfl, fun _ _ h => h, nofun⟩
  | cons x xs ih =>
    obtain ⟨⟨i, a⟩, ha, h⟩ := Option.bind_eq_some_iff.1 h
    obtain ⟨⟨r, b⟩, hb, h⟩ := Option.map_eq_some_iff.1 h
    cases h
    obtain ⟨base, hfree, ht, ho, htiles, -⟩ := placeLifted_places ha
    obtain ⟨ht', ho', hmap, hkeep, hnew⟩ := ih hb
    refine ⟨ht'.trans ht, fun n hn => (ho' n hn).trans (ho n hn), by simp [hmap], fun j e he => hkeep j e ?_, fun p hp => ?_⟩
    · rw [htiles, FMap.get?_set_other _ _ fun hji => by simp [hji, hfree] at he]
      exact he
    · rcases List.mem_cons.1 hp with rfl | hp
      · exact ⟨x, by simp, rfl, base, hkeep _ _ (by rw [htiles, FMap.get?_set_same])⟩
      · obtain ⟨y, hy, hyx⟩ := hnew p hp
        exact ⟨y, by simp [hy], hyx⟩

/-- A single tile placed has its bytes at its new storage. -/
theorem placeAll_single (h : placeAll core [x] s = some (m, u)) : ∃ i base, m = [(x.index, i)] ∧
    (u.coreAt core).tiles.get? i = some (movedEntry core base x.entry) ∧
    u.mem = Memory.setN s.mem (tileByteKey core (movedEntry core base x.entry) 0) x.bytes := by
  obtain ⟨⟨i, a⟩, ha, h⟩ := Option.bind_eq_some_iff.1 h
  cases h
  obtain ⟨base, -, -, -, htiles, hmem⟩ := placeLifted_places ha
  exact ⟨i, base, rfl, by rw [htiles, FMap.get?_set_same], hmem⟩

/-- A tile that moved has its new number. -/
theorem remap_mem (h : i ∈ m.map Prod.fst) : (i, remap m i) ∈ m := by
  obtain ⟨⟨a, j⟩, hp, rfl⟩ := List.mem_map.1 h
  cases hf : m.find? fun p => p.1 == a with
  | none => exact absurd (List.find?_eq_none.1 hf _ hp) (by simp)
  | some p =>
    obtain ⟨b, j'⟩ := p
    have hb : b = a := by simpa using List.find?_some hf
    rw [remap, hf]
    exact hb ▸ List.mem_of_find?_eq_some hf

end Sys2Proof.Machine
end


section
/-! SUPPORT. A task restored: each member on its core, with its saved state and its tiles (06_sequencer R170, R171, R176). -/

namespace Sys2Proof.Machine

open Sys2Proof

section
variable {old s u : State} {t : Task} {v : Saved} {vs : List Saved} {ls : List Lifted} {core c : Nat} {hm : FMap Nat}

/-! ### One member -/

/-- A core that runs a saved member again, or holds it ended, with its saved state and some handles. -/
def Resumes (id : Nat) (v : Saved) (hm : FMap Nat) (k : Core) : Prop :=
  k.mode = (if v.ended then .ended else .running) ∧ k.member = v.member ∧ k.task = id ∧
  k.stopReq = v.again.map StopKind.faulted ∧
  k.ctx = { v.ctx with hmap := hm, gAbsent := [0, 1, 2, 3], vAbsent := [0, 1, 2, 3, 4, 5, 6, 7]
                       btAt := (List.range 8).map fun b => (b, v.ctx.icyc) }

/-- The handles of a member whose tiles have new numbers. -/
def movedHandles (m : List (Nat × Nat)) (v : Saved) : FMap Nat := v.ctx.hmap.map fun (h, i) => (h, remap m i)

theorem movedHandles_nil (v : Saved) : movedHandles [] v = v.ctx.hmap :=
  (List.map_congr_left fun _ _ => rfl).trans (List.map_id _)

theorem keys_movedHandles (m : List (Nat × Nat)) (v : Saved) :
    (movedHandles m v).map Prod.fst = v.ctx.hmap.map Prod.fst := by
  rw [movedHandles, List.map_map]
  rfl

theorem FMap.get?_map {β γ : Type} (f : β → γ) (l : FMap β) (n : Nat) :
    FMap.get? (l.map fun (k, x) => (k, f x)) n = (l.get? n).map f := by
  induction l with
  | nil => rfl
  | cons p l ih =>
    obtain ⟨k, x⟩ := p
    simp only [List.map_cons, FMap.get?]
    split
    · rfl
    · exact ih

theorem FMap.mem_vals_of_get? {β : Type} {l : FMap β} {n : Nat} {x : β} (h : l.get? n = some x) : x ∈ l.vals := by
  induction l with
  | nil => cases h
  | cons p l ih =>
    obtain ⟨k, y⟩ := p
    simp only [FMap.get?] at h
    split at h
    · cases h
      exact List.mem_cons_self
    · exact List.mem_cons_of_mem _ (ih h)

/-- The tile that a handle of a member names is among the member's entries. -/
theorem mem_memberEntries {h i : Nat} (hi : v.ctx.hmap.get? h = some i) : i ∈ memberEntries t v :=
  List.mem_eraseDups.2 (List.mem_append_left _ (FMap.mem_vals_of_get? hi))

theorem get?_movedHandles {m : List (Nat × Nat)} {h i : Nat} (hi : v.ctx.hmap.get? h = some i) :
    (movedHandles m v).get? h = some (remap m i) := by
  rw [movedHandles, FMap.get?_map, hi]
  rfl

/-- A step on one core: the memories and the tasks' ids are kept, and no other core, and no tile of that core changes. -/
def OnCore (core : Nat) (s u : State) : Prop := KeepsIds s u ∧ (∀ n, n ≠ core → u.coreAt n = s.coreAt n) ∧
  (u.coreAt core).tiles = (s.coreAt core).tiles

theorem OnCore.refl (s : State) : OnCore core s s := ⟨.refl s, fun _ _ => rfl, rfl⟩

theorem OnCore.trans {s t u : State} (h : OnCore core s t) (h' : OnCore core t u) : OnCore core s u := by
  obtain ⟨h1, h2, h3⟩ := h
  obtain ⟨h1', h2', h3'⟩ := h'
  exact ⟨h1.trans h1', fun n hn => (h2' n hn).trans (h2 n hn), h3'.trans h3⟩

theorem onCore_modCore {f : Core → Core} (hf : ∀ k, (f k).tiles = k.tiles) : OnCore core s (s.modCore core f) :=
  ⟨⟨rfl, rfl, rfl⟩, fun _ hn => State.coreAt_modCore_other _ _ hn, by rw [State.coreAt_modCore_same, hf]⟩

theorem onCore_movePriv (h : movePriv t v core s = some u) : OnCore core s u := by
  unfold movePriv at h
  split at h
  · cases h
    exact .refl s
  · simp only [placePriv] at h
    split at h
    · next hp =>
      cases h
      split at hp
      · cases hp
      · cases hp
        exact onCore_modCore fun _ => rfl
    · cases h
    · cases h

theorem onCore_modTask {id : Nat} {f : Task → Task} (hf : ∀ x, (f x).id = x.id) : OnCore core s (s.modTask id f) :=
  ⟨keepsIds_modTask hf, fun _ _ => rfl, rfl⟩

theorem onCore_moveOps (t : Task) (v : Saved) (c : Nat) (m : List (Nat × Nat)) (s u : State) :
    OnCore core u (moveOps t v c m s u) := ⟨⟨rfl, rfl, rfl⟩, fun _ _ => rfl, rfl⟩

theorem onCore_turn (l : List Nat) (s : State) : OnCore core s { s with turn := l } :=
  ⟨⟨rfl, rfl, rfl⟩, fun _ _ => rfl, rfl⟩

theorem onCore_returnToTask {id member : Nat} {x : Ctx} : OnCore core s (returnToTask core id member x s) := by
  refine OnCore.trans ?_ (onCore_turn _ _)
  exact onCore_modCore fun _ => rfl

theorem resumeMember_resumes (t : Task) (v : Saved) (core : Nat) (hm : FMap Nat) (s : State) :
    Resumes t.id v hm ((resumeMember t v core hm s).coreAt core) ∧ OnCore core s (resumeMember t v core hm s) := by
  have hcore : (returnToTask core t.id v.member { v.ctx with hmap := hm } s).coreAt core =
      { s.coreAt core with mode := .running, task := t.id, member := v.member, ctx := resumeCtx { v.ctx with hmap := hm }
                           bubble := 0, stalled := false, fenced := false, waitSince := none, sliceAt := s.cyc } := by
    simp [returnToTask, State.coreAt]
  refine ⟨?_, onCore_returnToTask.trans (onCore_modCore fun _ => rfl)⟩
  rw [resumeMember, State.coreAt_modCore_same, hcore]
  exact ⟨rfl, rfl, rfl, rfl, rfl⟩

theorem onCore_rehandle (v : Saved) (core : Nat) (hm : FMap Nat) (s : State) : OnCore core s (rehandle v core hm s) := by
  unfold rehandle
  split
  · exact .refl s
  · exact onCore_modCore fun _ => rfl

/-- A member restored: its tiles are placed, and its core runs it again with their handles. -/
theorem restoreMember_resumes (h : restoreMember old t ls v core s = some u) : ∃ m a,
    placeAll core (ls.filter fun x => x.member == v.member) s = some (m, a) ∧ OnCore core a u ∧
    Resumes t.id v (movedHandles m v) (u.coreAt core) := by
  unfold restoreMember at h
  split at h
  · cases h
  · obtain ⟨⟨m, a⟩, ha, h⟩ := Option.bind_eq_some_iff.1 h
    obtain ⟨b, hb, h⟩ := Option.map_eq_some_iff.1 h
    cases h
    obtain ⟨hres, hon⟩ := resumeMember_resumes t v core (movedHandles m v) _
    refine ⟨m, a, ha, (onCore_movePriv hb).trans (OnCore.trans ?_ ((onCore_rehandle ..).trans hon)), hres⟩
    refine OnCore.trans ?_ (onCore_moveOps ..)
    exact onCore_modTask fun _ => rfl

/-- A member goes back to the core that it left, where all that it had there still is. -/
theorem restoreMember_inPlace (old : State) (t : Task) (v : Saved) (s : State) :
    ∃ u, restoreMember old t [] v v.core s = some u := by
  simp [restoreMember, handlesBusy, placeAll, movePriv]

/-! ### All members -/

/-- Each member that is restored has a core, on which it is restored, and which the members after it leave as it is. -/
theorem restoreAll_restores (h : restoreAll old t ls vs s = some u)
    (hn : (vs.map fun v => coreFor old t.id v.member).Nodup) : u.tasks.map Task.id = s.tasks.map Task.id ∧
    (∀ n, (∀ v ∈ vs, coreFor old t.id v.member ≠ some n) → u.coreAt n = s.coreAt n) ∧
    ∀ v ∈ vs, ∃ c a b, coreFor old t.id v.member = some c ∧ restoreMember old t ls v c a = some b ∧
      u.coreAt c = b.coreAt c ∧ (vs = [v] → a = s ∧ b = u) := by
  induction vs generalizing s with
  | nil =>
    cases h
    exact ⟨rfl, fun _ _ => rfl, fun _ hv => absurd hv List.not_mem_nil⟩
  | cons v vs ih =>
    obtain ⟨c, hc, h⟩ := Option.bind_eq_some_iff.1 h
    obtain ⟨a, ha, hrest⟩ := Option.bind_eq_some_iff.1 h
    obtain ⟨hv, hvs⟩ := List.nodup_cons.1 hn
    obtain ⟨hids, hother, hall⟩ := ih hrest hvs
    obtain ⟨m, p, hp, ⟨⟨-, -, hids'⟩, hother', -⟩, -⟩ := restoreMember_resumes ha
    obtain ⟨hpt, hpo, -⟩ := placeAll_places hp
    refine ⟨by rw [hids, hids', hpt], fun n hnot => ?_, fun w hw => ?_⟩
    · have hne : n ≠ c := fun he => hnot v (by simp) (he ▸ hc)
      rw [hother n fun w hw => hnot w (by simp [hw]), hother' n hne, hpo n hne]
    · rcases List.mem_cons.1 hw with rfl | hw
      · refine ⟨c, s, a, hc, ha, hother c fun x hx he => hv ?_, fun hone => ⟨rfl, ?_⟩⟩
        · exact List.mem_map.2 ⟨x, hx, he.trans hc.symm⟩
        · obtain rfl : vs = [] := by simpa using hone
          exact Option.some.inj hrest
      · obtain ⟨c', a', b', hc', hm', hu', -⟩ := hall w hw
        exact ⟨c', a', b', hc', hm', hu', fun hone => absurd hw (by simp [(List.cons.inj hone).2])⟩

/-- Members that go back to the cores that they left are all restored, and no byte changes. -/
theorem restoreAll_inPlace (h : ∀ v ∈ vs, coreFor old t.id v.member = some v.core) :
    ∃ u, restoreAll old t [] vs s = some u ∧ u.mem = s.mem ∧ u.host = s.host := by
  induction vs generalizing s with
  | nil => exact ⟨s, rfl, rfl, rfl⟩
  | cons v vs ih =>
    obtain ⟨a, ha⟩ := restoreMember_inPlace old t v s
    obtain ⟨m, p, hp, ⟨⟨hm, hh, -⟩, -, -⟩, -⟩ := restoreMember_resumes ha
    obtain ⟨u, hu, hm', hh'⟩ := ih (s := a) fun w hw => h w (by simp [hw])
    cases hp
    refine ⟨u, ?_, hm'.trans hm, hh'.trans hh⟩
    rw [restoreAll, h v (by simp), Option.bind_some, ha, Option.bind_some, hu]

end

/-! ### The task -/

section
variable {s t u : State} {k : Task} {v : Saved} {n : Nat}

/-- The record of a task that runs again on some cores. -/
def resumedTask (cs : List Nat) (t : Task) : Task := { t with saved := [], cores := cs, fault := none, state := .running }

/-- What follows the restore of a task's members: the merges that had stopped, its record, its code and its clamp lines. -/
def afterRestore (k : Task) (cs : List Nat) (u : State) : State :=
  releaseLines k.id (endParts (.image k.id) (reloadCode k cs ((clearStuck k u).modTask k.id (resumedTask cs))))

/-- The cores that restore a task's members. -/
def restoreCores (s : State) (k : Task) : List Nat := k.saved.filterMap fun v => coreFor s k.id v.member

/-- The members of a task that other cores than those that they left restore. -/
def movers (s : State) (k : Task) : List Saved := k.saved.filter fun v => coreFor s k.id v.member != some v.core

theorem restoreTask_eq (k : Task) (s : State) : restoreTask k s =
    (restoreAll s k (liftAll k (movers s k) s).1 k.saved (liftAll k (movers s k) s).2).map
      (afterRestore k (restoreCores s k)) := rfl

/-- A core with other code. -/
def Recoded (c d : Core) : Prop := ∃ im img, d = { c with imem := im, image := img }

theorem Recoded.refl (c : Core) : Recoded c c := ⟨c.imem, c.image, rfl⟩

theorem Recoded.trans {a b c : Core} (h : Recoded a b) (h' : Recoded b c) : Recoded a c := by
  obtain ⟨_, _, rfl⟩ := h
  obtain ⟨im, img, rfl⟩ := h'
  exact ⟨im, img, rfl⟩

theorem Resumes.recoded {id : Nat} {hm : FMap Nat} {c d : Core} (h : Resumes id v hm c) (hd : Recoded c d) :
    Resumes id v hm d := by
  obtain ⟨_, _, rfl⟩ := hd
  exact h

theorem reloadCode_frame (k : Task) (cs : List Nat) (s : State) : KeepsTasks s (reloadCode k cs s) ∧
    ∀ n, Recoded (s.coreAt n) ((reloadCode k cs s).coreAt n) := by
  unfold reloadCode
  split
  · exact ⟨.refl s, fun _ => .refl _⟩
  · refine foldl_related (R := fun s t => KeepsTasks s t ∧ ∀ n, Recoded (s.coreAt n) (t.coreAt n))
      (fun s => ⟨.refl s, fun _ => .refl _⟩) (fun h h' => ⟨h.1.trans h'.1, fun n => (h.2 n).trans (h'.2 n)⟩)
      (fun s m => ?_) cs s
    split
    · exact ⟨.refl s, fun _ => .refl _⟩
    · refine ⟨⟨rfl, rfl, rfl⟩, fun n => ?_⟩
      by_cases hn : n = m
      · rw [hn, State.coreAt_modCore_same]
        exact ⟨_, _, rfl⟩
      · rw [State.coreAt_modCore_other _ _ hn]
        exact .refl _

theorem clearStuck_frame (k : Task) (s : State) : KeepsTasks s (clearStuck k s) ∧ (clearStuck k s).cores = s.cores := by
  unfold clearStuck
  split
  · exact ⟨.refl s, rfl⟩
  · exact ⟨⟨rfl, rfl, rfl⟩, rfl⟩

theorem releaseLines_frame (id : Nat) (s : State) :
    KeepsTasks s (releaseLines id s) ∧ (releaseLines id s).cores = s.cores := by
  unfold releaseLines
  split
  · exact ⟨.refl s, rfl⟩
  · exact ⟨⟨rfl, rfl, rfl⟩, rfl⟩

theorem keepsTasks_endParts (c : Client) (s : State) : KeepsTasks s (endParts c s) := ⟨rfl, rfl, rfl⟩

/-- After the restore of its members a task's record says that it runs, and its cores may have other code. -/
theorem afterRestore_resumes (cs : List Nat) {k' : Task} (hk : u.task? k.id = some k') :
    (afterRestore k cs u).mem = u.mem ∧ (afterRestore k cs u).host = u.host ∧
    (afterRestore k cs u).task? k.id = some (resumedTask cs k') ∧
    ∀ n, Recoded (u.coreAt n) ((afterRestore k cs u).coreAt n) := by
  obtain ⟨hstuck, hc1⟩ := clearStuck_frame k u
  obtain ⟨hcode, hc2⟩ := reloadCode_frame k cs ((clearStuck k u).modTask k.id (resumedTask cs))
  obtain ⟨hlines, hc3⟩ := releaseLines_frame k.id
    (endParts (.image k.id) (reloadCode k cs ((clearStuck k u).modTask k.id (resumedTask cs))))
  have hrest : KeepsTasks ((clearStuck k u).modTask k.id (resumedTask cs)) (afterRestore k cs u) :=
    hcode.trans ((keepsTasks_endParts ..).trans hlines)
  have hk' : (clearStuck k u).task? k.id = some k' := hstuck.task?_eq.trans hk
  obtain ⟨hm, hh, -⟩ := hstuck
  refine ⟨hrest.1.trans hm, hrest.2.1.trans hh, hrest.task?_eq.trans (State.task?_modTask_same (fun _ => rfl) hk'),
    fun n => ?_⟩
  have hfirst : ((clearStuck k u).modTask k.id (resumedTask cs)).coreAt n = u.coreAt n := coreAt_of_cores hc1
  have hlast : (afterRestore k cs u).coreAt n =
      (reloadCode k cs ((clearStuck k u).modTask k.id (resumedTask cs))).coreAt n := coreAt_of_cores hc3
  rw [hlast, ← hfirst]
  exact hc2 n

/-- Members that different cores restore have different numbers. -/
theorem eq_of_member {w : Saved} (hf : (k.saved.map fun v => coreFor s k.id v.member).Nodup) (hv : v ∈ k.saved)
    (hw : w ∈ k.saved) (h : w.member = v.member) : w = v :=
  List.inj_on_of_nodup_map hf hw hv (by rw [h])

theorem mem_movers : v ∈ movers s k ↔ v ∈ k.saved ∧ coreFor s k.id v.member ≠ some v.core := by
  simp [movers]

/-- The tiles lifted that have a member's number are those of the member, when it moves. -/
theorem mem_lifted_member {x : Lifted} (hc : (k.saved.map Saved.core).Nodup)
    (hf : (k.saved.map fun v => coreFor s k.id v.member).Nodup) (hv : v ∈ k.saved) :
    x ∈ (liftAll k (movers s k) s).1.filter (fun x => x.member == v.member) ↔
      coreFor s k.id v.member ≠ some v.core ∧ x ∈ (liftMember k v s).1 := by
  have hmovers : ((movers s k).map Saved.core).Nodup := hc.sublist (List.filter_sublist.map _)
  rw [List.mem_filter, mem_liftAll hmovers, beq_iff_eq]
  constructor
  · rintro ⟨⟨w, hw, hx⟩, hm⟩
    obtain ⟨hws, hwc⟩ := mem_movers.1 hw
    obtain ⟨-, hxw, -⟩ := mem_liftMember.1 hx
    obtain rfl := eq_of_member hf hv hws (hxw.symm.trans hm)
    exact ⟨hwc, hx⟩
  · rintro ⟨hvc, hx⟩
    obtain ⟨-, hxv, -⟩ := mem_liftMember.1 hx
    exact ⟨⟨v, mem_movers.2 ⟨hv, hvc⟩, hx⟩, hxv⟩

/-- A tile of a member as it is lifted. -/
def liftedTile (s : State) (v : Saved) (i : Nat) (e : TileEntry) : Lifted :=
  ⟨v.member, i, e, s.bytes (tileByteKey v.core e 0) (tileBytes e)⟩

/-- The only member of a task, when it has one tile and moves, has that tile lifted. -/
theorem lifted_single {i : Nat} {e : TileEntry} (hs : k.saved = [v]) (hc : coreFor s k.id v.member ≠ some v.core)
    (hi : memberEntries k v = [i]) (he : (s.coreAt v.core).tiles.get? i = some e) :
    (liftAll k (movers s k) s).1.filter (fun x => x.member == v.member) = [liftedTile s v i e] := by
  have hmovers : movers s k = [v] := by simp [movers, hs, hc]
  rw [hmovers, liftAll_cons]
  simp [liftAll, liftMember, hi, he, liftedTile]

/-- The tile of a member that moved has its bytes at its new storage, where it is the only one. -/
theorem bytes_placed {a p : State} {c i : Nat} {e : TileEntry} {m : List (Nat × Nat)} (hm : a.mem = s.mem) (hw : CanonMem s)
    (h : placeAll c [liftedTile s v i e] a = some (m, p)) : ∃ base,
    (p.coreAt c).tiles.get? (remap m i) = some (movedEntry c base e) ∧
    Memory.getN p.mem (tileByteKey c (movedEntry c base e) 0) (tileBytes e) =
      s.bytes (tileByteKey v.core e 0) (tileBytes e) := by
  obtain ⟨j, base, rfl, htile, hmem⟩ := placeAll_single h
  have hlen : (liftedTile s v i e).bytes.length = tileBytes e := Memory.length_getN ..
  have hj : remap [((liftedTile s v i e).index, j)] i = j := by simp [remap, liftedTile]
  refine ⟨base, by rw [hj]; exact htile, ?_⟩
  have hread := Memory.getN_setN (tileByteKey c (movedEntry c base e) 0) (liftedTile s v i e).bytes
    (hm ▸ hw.mem : Memory.wf a.mem = true)
  rw [hlen] at hread
  rw [hmem]
  exact hread

/-- A task that is restored runs on the cores of its members, each with its saved state; a member that moved has its tiles
under its handles on its new core. -/
theorem restoreTask_restores (hk : s.task? k.id = some k) (hc : (k.saved.map Saved.core).Nodup)
    (hf : (k.saved.map fun v => coreFor s k.id v.member).Nodup) (h : restoreTask k s = some t) :
    (∃ k', t.task? k.id = some (resumedTask (restoreCores s k) k')) ∧
    ∀ v ∈ k.saved, ∀ c, coreFor s k.id v.member = some c → ∃ hm, Resumes k.id v hm (t.coreAt c) ∧
      hm.map Prod.fst = v.ctx.hmap.map Prod.fst ∧ (v.core = c → hm = v.ctx.hmap) ∧
      (v.core ≠ c → ∀ h i e, v.ctx.hmap.get? h = some i → (s.coreAt v.core).tiles.get? i = some e →
        ∃ j base, hm.get? h = some j ∧ (t.coreAt c).tiles.get? j = some (movedEntry c base e) ∧
          (CanonMem s → k.saved = [v] → memberEntries k v = [i] →
            t.bytes (tileByteKey c (movedEntry c base e) 0) (tileBytes e) =
              s.bytes (tileByteKey v.core e 0) (tileBytes e))) := by
  rw [restoreTask_eq] at h
  obtain ⟨u, hu, rfl⟩ := Option.map_eq_some_iff.1 h
  obtain ⟨hlm, -, hlt⟩ := keepsTasks_liftAll (t := k) (vs := movers s k) s
  obtain ⟨hids, -, hall⟩ := restoreAll_restores hu hf
  obtain ⟨k', hk'⟩ := State.task?_of_ids (hids.trans (by rw [hlt])) hk
  obtain ⟨hmem, -, htask, hcode⟩ := afterRestore_resumes (restoreCores s k) hk'
  refine ⟨⟨k', htask⟩, fun v hv c hcv => ?_⟩
  obtain ⟨c', a, b, hcv', hmb, hub, hone⟩ := hall v hv
  obtain rfl : c' = c := Option.some.inj (hcv'.symm.trans hcv)
  obtain ⟨m, p, hp, ⟨⟨hbm, -, -⟩, -, hbt⟩, hres⟩ := restoreMember_resumes hmb
  obtain ⟨-, -, hmap, -, hnew⟩ := placeAll_places hp
  have htiles : ((afterRestore k (restoreCores s k) u).coreAt c').tiles = (p.coreAt c').tiles := by
    obtain ⟨_, _, hr⟩ := hcode c'
    rw [hr, ← hbt, ← hub]
  refine ⟨movedHandles m v, (hub ▸ hres).recoded (hcode c'), keys_movedHandles m v, fun hvc => ?_,
    fun hvc h i e hi he => ?_⟩
  · have hnil : (liftAll k (movers s k) s).1.filter (fun x => x.member == v.member) = [] :=
      List.eq_nil_iff_forall_not_mem.2 fun x hx => ((mem_lifted_member hc hf hv).1 hx).1 (hvc ▸ hcv)
    rw [hnil] at hp
    cases hp
    exact movedHandles_nil v
  · have hmove : coreFor s k.id v.member ≠ some v.core := fun h => hvc (Option.some.inj (h.symm.trans hcv))
    have hlifted : liftedTile s v i e ∈ (liftAll k (movers s k) s).1.filter (fun x => x.member == v.member) :=
      (mem_lifted_member hc hf hv).2 ⟨hmove, mem_liftMember.2 ⟨mem_memberEntries hi, rfl, he, rfl⟩⟩
    obtain ⟨x, hx, hxi, base, hbase⟩ := hnew _ (remap_mem (hmap ▸ List.mem_map_of_mem hlifted))
    obtain ⟨-, -, hxe, -⟩ := mem_liftMember.1 ((mem_lifted_member hc hf hv).1 hx).2
    have hxentry : x.entry = e := Option.some.inj (hxe.symm.trans (hxi ▸ he))
    refine ⟨remap m i, base, get?_movedHandles hi, ?_, fun hw hs hone' => ?_⟩
    · rw [htiles, ← hxentry]
      exact hbase
    · obtain ⟨rfl, rfl⟩ := hone hs
      rw [lifted_single hs hmove hone' he] at hp
      obtain ⟨base', hbase', hbytes⟩ := bytes_placed hlm hw hp
      have heq : movedEntry c' base e = movedEntry c' base' e :=
        Option.some.inj ((hxentry ▸ hbase).symm.trans hbase')
      rw [heq, ← hbytes, State.bytes, hmem, hbm]

end

end Sys2Proof.Machine
end


section
/-! O32: the events that stop, save and restore a task (06_sequencer R164–R171, R176; 13_tasks R320, R321). -/

namespace Sys2Proof.Machine

open Sys2Proof

section
variable {s : State} {k : Task} {n : Nat}

/-- Two steps that change no byte change none together. -/
theorem sameMemory_trans {a b c : State} (h : SameMemory a b) (h' : SameMemory b c) : SameMemory a c := by
  obtain ⟨hm, hh⟩ := h
  obtain ⟨hm', hh'⟩ := h'
  exact ⟨fun j => (hm' j).trans (hm j), fun j => (hh' j).trans (hh j)⟩

/-! ### The stop -/

theorem drainMatrix_frame (n : Nat) (s : State) : SameMemory s (drainMatrix n s) ∧ (drainMatrix n s).cores = s.cores ∧
    (drainMatrix n s).ops.length = s.ops.length :=
  ⟨.of_eq rfl rfl, rfl, List.length_map _⟩

theorem exec_timeSliceExpiry (n : Nat) (s : State) : exec (.timeSliceExpiry n) s = .next (endSlice n s) := rfl

/-! ### The save -/

theorem exec_taskSave_stays (hk : s.taskAt n = some k)
    (h : hasStopped (s.coreAt n) = false ∨ atRest s k.id = false) : exec (.taskSave n) s = .next s := by
  rw [exec_taskSave hk, if_neg]
  rw [Bool.and_eq_true]
  rintro ⟨h1, h2⟩
  rcases h with h | h
  · exact Bool.false_ne_true (h.symm.trans h1)
  · exact Bool.false_ne_true (h.symm.trans h2)

theorem exec_taskSave_saves (hk : s.taskAt n = some k) (hs : hasStopped (s.coreAt n) = true) (hr : atRest s k.id = true) :
    exec (.taskSave n) s = .next (afterSave k (coresHolding (restProducts k.id s) k.id)
      (saveMembers k.id (coresHolding (restProducts k.id s) k.id) (restProducts k.id s))) := by
  rw [exec_taskSave hk, hs, hr]
  rfl

/-- The task of a core is found under its own id. -/
theorem State.task?_of_taskAt (hk : s.taskAt n = some k) : s.task? k.id = some k := by
  have hid : k.id = (s.coreAt n).task := State.task?_id hk
  rw [hid]
  exact hk

/-- The save of a task at rest, before what becomes of it. -/
theorem saveMembers_restProducts (ms : List (Nat × Core)) (hk : s.task? k.id = some k) : ∃ k',
    SameMemory s (saveMembers k.id ms (restProducts k.id s)) ∧
    (saveMembers k.id ms (restProducts k.id s)).task? k.id = some (leftCores ms k') ∧
    ∀ m c, (m, c) ∈ ms → IsIdle ((saveMembers k.id ms (restProducts k.id s)).coreAt m) := by
  obtain ⟨hm, hh, hids⟩ := keepsIds_restProducts k.id s
  obtain ⟨k', hk'⟩ := State.task?_of_ids hids hk
  obtain ⟨hsame, htask, hidle⟩ := saveMembers_saves ms hk'
  exact ⟨k', sameMemory_trans (.of_eq hm hh) hsame, htask, hidle⟩

/-- A saved task that is queued keeps what is saved of it, and no core that it left runs. -/
theorem afterSave_keeps {ms : List (Nat × Core)} {u : State} {k' : Task} (hd : k.doomed = false) (hf : stopFault ms = none)
    (hk : u.task? k.id = some k') : SameMemory u (afterSave k ms u) ∧
    (∃ k'', (afterSave k ms u).task? k.id = some k'' ∧ k''.saved = k'.saved) ∧
    ∀ m, ((afterSave k ms u).coreAt m).mode = (u.coreAt m).mode := by
  obtain ⟨hm, hh, hmode, hsaved⟩ := requeues_afterSave hd hf u
  refine ⟨.of_eq hm hh, ?_, hmode⟩
  have h := hsaved k.id
  rw [hk, Option.map_some] at h
  exact Option.map_eq_some_iff.1 h

/-! ### The restore -/

theorem exec_taskRestore_of_ne (h : (s.coreAt n).mode ≠ .restoring) : exec (.taskRestore n) s = .next s := by
  show execTaskRestore n s = _
  rw [execTaskRestore, if_neg h]

theorem exec_taskRestore_of_service (hk : s.taskAt n = some k) (hm : (s.coreAt n).mode = .restoring)
    (hd : k.doomed = false) (h : serviceHolds s k.id = true) : exec (.taskRestore n) s = .next s := by
  show execTaskRestore n s = _
  simp only [execTaskRestore, hm, hk, hd, h, if_true, Bool.false_eq_true, if_false]

theorem exec_taskRestore (hk : s.taskAt n = some k) (hm : (s.coreAt n).mode = .restoring) (hd : k.doomed = false)
    (hh : serviceHolds s k.id = false) (hc : ∀ row ps, restoreCode s k ≠ .asks row ps) :
    exec (.taskRestore n) s = .next ((restoreTask k s).getD s) := by
  show execTaskRestore n s = _
  simp only [execTaskRestore, hm, hk, hd, hh, if_true, Bool.false_eq_true, if_false]
  cases hr : restoreCode s k with
  | asks row ps => exact absurd hr (hc row ps)
  | refused => rfl
  | got x => rfl

/-- Members that left different cores, and go back to them, have different cores. -/
theorem nodup_coreFor_inPlace (h : ∀ v ∈ k.saved, coreFor s k.id v.member = some v.core)
    (hn : (k.saved.map Saved.core).Nodup) : (k.saved.map fun v => coreFor s k.id v.member).Nodup := by
  have hmap : k.saved.map (fun v => coreFor s k.id v.member) = (k.saved.map Saved.core).map some := by
    rw [List.map_map]
    exact List.map_congr_left h
  rw [hmap]
  exact hn.map (Option.some_injective _)

theorem restoreCores_inPlace (h : ∀ v ∈ k.saved, coreFor s k.id v.member = some v.core) :
    restoreCores s k = k.saved.map Saved.core := by
  rw [restoreCores, List.filterMap_congr h, ← List.filterMap_eq_map]
  rfl

/-- A task of which each member goes back to the core that it left is restored, and no byte changes. -/
theorem restoreTask_inPlace (hk : s.task? k.id = some k) (h : ∀ v ∈ k.saved, coreFor s k.id v.member = some v.core)
    (hn : (k.saved.map Saved.core).Nodup) : ∃ t, restoreTask k s = some t ∧ SameMemory s t := by
  have hnone : movers s k = [] := List.filter_eq_nil_iff.2 fun v hv => by simp [h v hv]
  have hf := nodup_coreFor_inPlace h hn
  obtain ⟨u, hu, hm, hh⟩ := restoreAll_inPlace (s := s) h
  obtain ⟨hids, -, -⟩ := restoreAll_restores hu hf
  obtain ⟨k', hk'⟩ := State.task?_of_ids hids hk
  obtain ⟨hm', hh', -, -⟩ := afterRestore_resumes (restoreCores s k) hk'
  refine ⟨afterRestore k (restoreCores s k) u, ?_, .of_eq (hm'.trans hm) (hh'.trans hh)⟩
  have hlift : liftAll k (movers s k) s = ([], s) := by rw [hnone]; rfl
  rw [restoreTask_eq, hlift, hu]
  rfl

end

/-- Settles O32: the cores of a task are asked to stop by `askStop`; `saveMembers` keeps each member's state and leaves its
core idle; `restoreAll` puts each member on its own core, whose later steps and the task's record leave it as it is. -/
theorem stopAndSaveEventResults : Obligations.StopAndSaveEventResults := by
  unfold Obligations.StopAndSaveEventResults
  refine ⟨fun s n => ⟨?runningBusy, ?running, ?runningGang, ?stopped, ?slice, ?noSlice, ?ageing, ?join⟩,
    fun s n k hk => ⟨exec_taskSave_stays hk, ?save, exec_taskRestore_of_ne, exec_taskRestore_of_service hk, ?restore⟩⟩
  case runningBusy =>
    intro hm hb
    rw [exec_firmwareStopRequest_running hm, if_pos hb]
  case running =>
    intro hm hb hg
    refine ⟨_, exec_firmwareStopRequest_running hm, ?_⟩
    rw [if_neg (Bool.eq_false_iff.1 hb), if_neg (Bool.eq_false_iff.1 hg)]
    exact askStop_asks ..
  case runningGang =>
    intro hm hb hg
    refine ⟨_, exec_firmwareStopRequest_running hm, ?_⟩
    rw [if_neg (Bool.eq_false_iff.1 hb), if_pos hg]
    exact askStop_asks ..
  case stopped => exact fun _ hm => ⟨_, exec_firmwareStopRequest_stopped hm, drainMatrix_frame n s⟩
  case slice =>
    intro hs hb
    exact ⟨_, by rw [exec_timeSliceExpiry, endSlice_of_over hs hb], askStop_asks ..⟩
  case noSlice =>
    intro h
    rw [exec_timeSliceExpiry, endSlice_of_not_over h]
  case ageing =>
    intro q c hq hs hb
    exact ⟨_, by rw [exec_taskAgeingStep hq, endSlice_of_over hs hb], askStop_asks ..⟩
  case join =>
    intro hm hwidth hrunq hj w hw
    have hrow := exec_joinBlockSwitch hm hwidth hrunq hj hw
    refine ⟨fun hle => ⟨_, by rw [hrow, if_pos hle], askStop_asks ..⟩, fun hlt => ?_⟩
    rw [hrow, if_neg (by omega)]
  case save =>
    intro hs hr
    have hrow := exec_taskSave_saves hk hs hr
    obtain ⟨k', hsame, htask, hidle⟩ :=
      saveMembers_restProducts (coresHolding (restProducts k.id s) k.id) (State.task?_of_taskAt hk)
    refine ⟨⟨_, _, hrow, hsame, htask, rfl, rfl, hidle⟩, fun hd hf => ?_⟩
    obtain ⟨hsame', ⟨k'', htask', hsaved⟩, hmode⟩ := afterSave_keeps hd hf htask
    refine ⟨_, k'', hrow, sameMemory_trans hsame hsame', htask', hsaved, fun m c hc => ?_⟩
    obtain ⟨hm, -, -⟩ := hidle m c hc
    exact (hmode m).trans hm
  case restore =>
    intro hm hd hh hcode hn
    have hrow := exec_taskRestore hk hm hd hh hcode
    have hk' := State.task?_of_taskAt hk
    refine ⟨fun hplace => ?_, fun hnone => by rw [hrow, hnone]; rfl, fun hsome hf => ?_⟩
    · obtain ⟨t, ht, hsame⟩ := restoreTask_inPlace hk' hplace hn
      obtain ⟨⟨k'', htask⟩, hall⟩ := restoreTask_restores hk' hn (nodup_coreFor_inPlace hplace hn) ht
      refine ⟨t, by rw [hrow, ht]; rfl, hsame, ⟨_, htask, rfl, rfl, rfl, restoreCores_inPlace hplace⟩, fun v hv => ?_⟩
      obtain ⟨hm, hres, -, hsameCore, -⟩ := hall v hv v.core (hplace v hv)
      exact hsameCore rfl ▸ hres
    · obtain ⟨t, ht⟩ := Option.ne_none_iff_exists'.1 hsome
      obtain ⟨⟨k'', htask⟩, hall⟩ := restoreTask_restores hk' hn hf ht
      refine ⟨t, by rw [hrow, ht]; rfl, ⟨_, htask, rfl, rfl, rfl, rfl⟩, fun v hv c hc => ?_⟩
      obtain ⟨hm, hres, hkeys, hsameCore, htiles⟩ := hall v hv c hc
      refine ⟨hm, hres, hkeys, hsameCore, fun hmove h i e hi he => ?_⟩
      obtain ⟨j, base, hj, htile, hbytes⟩ := htiles hmove h i e hi he
      exact ⟨j, movedEntry c base e, hj, htile, rfl, hbytes⟩

end Sys2Proof.Machine
end

section
/-! SUPPORT. The lanes of a vector register (03_numbers R59): what is packed is read, and a vector computed lane by lane under a
mask (07_vector R178–R180). -/

namespace Sys2Proof.Machine

open Sys2Proof

/-! ### Lanes packed and read -/

section
variable {w l : Nat}

theorem laneOf_lt (w : Nat) (v : VWord) (l : Nat) : laneOf w v l < 2 ^ w := Nat.mod_lt _ (Nat.two_pow_pos w)

theorem codeOf_lt (w : Nat) (x : Int) : codeOf w x < 2 ^ w := by
  have hpos : (0 : Int) < 2 ^ w := by positivity
  have hlt := Int.emod_lt_of_pos x hpos
  have hnonneg := Int.emod_nonneg x hpos.ne'
  unfold codeOf
  zify
  rwa [Int.toNat_of_nonneg hnonneg]

theorem packLanes_lt (w : Nat) (xs : List Nat) : packLanes w xs < 2 ^ (w * xs.length) := by
  induction xs with
  | nil => exact Nat.one_pos
  | cons x xs ih =>
    have hx := Nat.mod_lt x (Nat.two_pow_pos w)
    calc packLanes w (x :: xs) < 2 ^ w + 2 ^ w * packLanes w xs := Nat.add_lt_add_right hx _
      _ = 2 ^ w * (packLanes w xs + 1) := by ring
      _ ≤ 2 ^ w * 2 ^ (w * xs.length) := Nat.mul_le_mul_left _ ih
      _ = 2 ^ (w * (x :: xs).length) := by rw [List.length_cons, ← Nat.pow_add]; congr 1; ring

/-- Lane `l` of some packed codes is the code that stands there. -/
theorem packLanes_lane (w : Nat) (xs : List Nat) (l : Nat) :
    packLanes w xs / 2 ^ (w * l) % 2 ^ w = xs.getD l 0 % 2 ^ w := by
  induction xs generalizing l with
  | nil => simp [packLanes]
  | cons x xs ih =>
    cases l with
    | zero => simp [packLanes]
    | succ l =>
      have hdrop : packLanes w (x :: xs) / 2 ^ w = packLanes w xs := by
        rw [packLanes, Nat.add_mul_div_left _ _ (Nat.two_pow_pos w), Nat.mod_div_self, Nat.zero_add]
      rw [Nat.mul_succ, Nat.add_comm, Nat.pow_add, ← Nat.div_div_eq_div_mul, hdrop, ih]
      simp

/-- A number of at most the register's bits has its lanes in it. -/
theorem laneOf_ofNat {n k : Nat} (h : n < 2 ^ k) (hk : k ≤ 2048) :
    laneOf w (BitVec.ofNat 2048 n) l = n / 2 ^ (w * l) % 2 ^ w := by
  have hlt := h.trans_le (Nat.pow_le_pow_right Nat.two_pos hk)
  rw [laneOf, BitVec.toNat_ofNat, Nat.mod_eq_of_lt hlt]

theorem mul_laneCount_le (w : Nat) : w * laneCount w ≤ 2048 := Nat.mul_div_le 2048 w

theorem laneOf_packLanes {xs : List Nat} (h : xs.length = laneCount w) :
    laneOf w (BitVec.ofNat 2048 (packLanes w xs)) l = xs.getD l 0 % 2 ^ w := by
  rw [laneOf_ofNat (packLanes_lt w xs) (h ▸ mul_laneCount_le w), packLanes_lane]

/-- Lane `l` of the lanes of a function is its code there. -/
theorem laneOf_vecOf {f : Nat → Nat} (hf : f l < 2 ^ w) (hl : l < laneCount w) : laneOf w (vecOf w f) l = f l := by
  rw [vecOf, laneOf_packLanes (by simp)]
  simp [hl, Nat.mod_eq_of_lt hf]

end

/-! ### Flags -/

/-- A bit of flags gathered is set by one of them. -/
theorem foldl_or_getLsbD (rs : List (Nat × BitVec 6)) (z : BitVec 6) (k : Nat) :
    (rs.foldl (fun g r => g ||| r.2) z).getLsbD k = (z.getLsbD k || rs.any fun r => r.2.getLsbD k) := by
  induction rs generalizing z with
  | nil => simp
  | cons r rs ih => simp [ih, Bool.or_assoc]

theorem flagIf_getLsbD (b : Bool) (f : BitVec 6) (k : Nat) : (flagIf b f).getLsbD k = (b && f.getLsbD k) := by
  cases b <;> simp [flagIf]

/-- The flags of a lane: VEC is bit 0, RSUB is bit 5. -/
theorem laneFlags_getLsbD : ∀ (vec sub : Bool) (k : Fin 6), (flagIf vec satVec ||| flagIf sub satRsub).getLsbD k.val =
    (vec && k == 0 || sub && k == 5) := by
  decide

/-- The flags that some lanes have gathered: VEC where a lane was clamped, RSUB where one was substituted, no other. -/
def FlagsAre (f : BitVec 6) (n : Nat) (vec sub : Nat → Bool) : Prop :=
  f.getLsbD 0 = (List.range n).any vec ∧ f.getLsbD 5 = (List.range n).any sub ∧ ∀ k, 1 ≤ k → k ≤ 4 → f.getLsbD k = false

theorem flagsAre_foldl {n : Nat} {r : Nat → Nat × BitVec 6} {vec sub : Nat → Bool}
    (h : ∀ l, (r l).2 = flagIf (vec l) satVec ||| flagIf (sub l) satRsub) :
    FlagsAre (((List.range n).map r).foldl (fun g x => g ||| x.2) (0 : BitVec 6)) n vec sub := by
  have hflag (k : Fin 6) : (((List.range n).map r).foldl (fun g x => g ||| x.2) (0 : BitVec 6)).getLsbD k.val =
      (List.range n).any fun l => vec l && k == 0 || sub l && k == 5 := by
    rw [foldl_or_getLsbD, List.any_map]
    simp only [Function.comp_def, h, laneFlags_getLsbD]
    simp
  refine ⟨(hflag 0).trans (by simp), (hflag 5).trans (by simp), fun k h1 h4 => (hflag ⟨k, by omega⟩).trans ?_⟩
  have h0 : (⟨k, by omega⟩ : Fin 6) ≠ 0 := by simp [Fin.ext_iff]; omega
  have h5 : (⟨k, by omega⟩ : Fin 6) ≠ 5 := by simp [Fin.ext_iff]; omega
  simp [h0, h5]

/-! ### A vector computed under a mask (R179) -/

section
variable {w l : Nat} {m : MaskMode} {top : MaskWord} {a : VWord} {f : Nat → Nat × BitVec 6}

theorem laneOf_vecMap (hf : (f l).1 < 2 ^ w) (hl : l < laneCount w) : laneOf w (vecMap w m top a f).1 l =
    if activeLane m top w l then (f l).1 else if m = .keepA then laneOf w a l else 0 := by
  have hcode : (if activeLane m top w l then f l else (if m = .keepA then laneOf w a l else 0, 0)).1 < 2 ^ w := by
    split_ifs
    · exact hf
    · exact laneOf_lt ..
    · exact Nat.two_pow_pos w
  have hvec := laneOf_vecOf (f := fun l => (if activeLane m top w l then f l else (if m = .keepA then laneOf w a l else 0, 0)).1)
    hcode hl
  rw [vecMap, List.map_map]
  refine hvec.trans ?_
  split_ifs <;> rfl

/-- A flag of a vector computed under a mask is that of an active lane. -/
theorem vecMap_getLsbD (k : Nat) : (vecMap w m top a f).2.getLsbD k =
    (List.range (laneCount w)).any fun l => activeLane m top w l && (f l).2.getLsbD k := by
  rw [vecMap, foldl_or_getLsbD, List.any_map]
  refine (Bool.or_eq_right_iff_imp.2 (by simp)).trans (congrArg _ (funext fun l => ?_))
  cases h : activeLane m top w l <;> simp [h]

theorem flagsAre_vecMap {vec sub : Nat → Bool} (h : ∀ l, (f l).2 = flagIf (vec l) satVec ||| flagIf (sub l) satRsub) :
    FlagsAre (vecMap w m top a f).2 (laneCount w) (fun l => activeLane m top w l && vec l)
      fun l => activeLane m top w l && sub l := by
  refine flagsAre_foldl fun l => ?_
  cases hl : activeLane m top w l
  · simp [flagIf]
  · simp [h]

end

section
variable {o : Out} {s : State} {d : Fin 32} {lat : Nat} {t : ElemTy} {m : MaskMode} {a : VWord}

/-- A vector computed under a mask from codes of its width and the flags VEC and RSUB of its lanes. -/
theorem pushesLanes_of_vecMap {f : Nat → Nat × BitVec 6} {vec sub : Nat → Bool} (hc : ∀ l, (f l).1 < 2 ^ t.width)
    (hf : ∀ l, (f l).2 = flagIf (vec l) satVec ||| flagIf (sub l) satRsub)
    (h : Issues o (pushV d lat (vecMap t.width m s.ctx.maskTop a f).1 (vecMap t.width m s.ctx.maskTop a f).2 s)) :
    PushesLanes o d lat t m a (fun l => (f l).1) vec sub s := by
  obtain ⟨hvec, hsub, hnone⟩ := flagsAre_vecMap (m := m) (top := s.ctx.maskTop) (a := a) hf
  exact ⟨_, _, h, fun l hl => laneOf_vecMap (hc l) hl, hvec, hsub, hnone 1 (by omega) (by omega),
    hnone 2 (by omega) (by omega), hnone 3 (by omega) (by omega), hnone 4 (by omega) (by omega)⟩

/-- A vector computed under a mask from codes of its width, with no flag. -/
theorem pushesLanes_of_codes {f : Nat → Nat} (hc : ∀ l, f l < 2 ^ t.width)
    (h : Issues o (pushV d lat (vecMap t.width m s.ctx.maskTop a fun l => (f l, 0)).1 0 s)) :
    PushesLanes o d lat t m a f (fun _ => false) (fun _ => false) s :=
  ⟨_, _, h, fun l hl => laneOf_vecMap (hc l) hl, by simp⟩

end

end Sys2Proof.Machine
end

section
/-! SUPPORT. What the vector unit computes lane by lane (07_vector R183–R185, R189). -/

namespace Sys2Proof.Machine

open Sys2Proof

/-! ### A check that decides -/

theorem require_of {p : Prop} [Decidable p] {code : FaultCode} {faddr : Word} (h : p) :
    require (decide p) code faddr = .ok := by
  rw [decide_eq_true h, require_true]

theorem require_of_not {p : Prop} [Decidable p] {code : FaultCode} {faddr : Word} (h : ¬ p) :
    require (decide p) code faddr = .fault code faddr 0 false none := by
  rw [decide_eq_false h, require_false]

/-- A fault comes before the checks after it. -/
@[simp] theorem Verdict.seq_fault (code : FaultCode) (faddr : Word) (aux : Nat) (a : Bool) (mark : Option Cls) (v : Verdict) :
    (Verdict.fault code faddr aux a mark).seq v = .fault code faddr aux a mark := rfl

/-! ### Functions of lanes read as numbers -/

section
variable {o : Out} {s : State} {d : Fin 32} {lat : Nat} {t : ElemTy} {m : MaskMode} {a b : VSrc}

theorem vecArith1_pushes {f : State → Nat → Int → Int × Bool} (ho : o = vecArith1 lat f d a t m s) (ha : Alone s)
    (hr : RoomFor s Need.push) (hn : needV s a = .ok) (hk : checkReserved s t m [a] = .ok) :
    PushesLanes o d lat t m (s.rv a) (fun l => codeOf t.width (f s l (rdLane s.ctx.vf t (s.rv a) l).1).1)
      (fun l => (f s l (rdLane s.ctx.vf t (s.rv a) l).1).2) (fun l => (rdLane s.ctx.vf t (s.rv a) l).2) s :=
  pushesLanes_of_vecMap (f := arith1 s.ctx.vf t (f s) (s.rv a)) (fun _ => codeOf_lt _ _) (fun _ => rfl)
    (issues_of ho ha hr (by simp [hn, hk]) rfl)

theorem vecArith2_pushes {f : State → Nat → Int → Int → Int × Bool} (ho : o = vecArith2 lat f d a b t m s) (ha : Alone s)
    (hr : RoomFor s Need.push) (hn : needVV s a b = .ok) (hk : checkReserved s t m [a, b] = .ok) :
    PushesLanes o d lat t m (s.rv a)
      (fun l => codeOf t.width (f s l (rdLane s.ctx.vf t (s.rv a) l).1 (rdLane s.ctx.vf t (s.rv b) l).1).1)
      (fun l => (f s l (rdLane s.ctx.vf t (s.rv a) l).1 (rdLane s.ctx.vf t (s.rv b) l).1).2)
      (fun l => (rdLane s.ctx.vf t (s.rv a) l).2 || (rdLane s.ctx.vf t (s.rv b) l).2) s :=
  pushesLanes_of_vecMap (f := arith2 s.ctx.vf t (f s) (s.rv a) (s.rv b)) (fun _ => codeOf_lt _ _) (fun _ => rfl)
    (issues_of ho ha hr (by simp [hn, hk]) rfl)

theorem vecCodes2_pushes {f : Nat → Nat → Nat} (ho : o = vecCodes2 f d a b t m s) (ha : Alone s)
    (hr : RoomFor s Need.push) (hn : needVV s a b = .ok)
    (hf : ∀ x y, x < 2 ^ t.width → y < 2 ^ t.width → f x y < 2 ^ t.width) :
    PushesLanes o d 2 t m (s.rv a) (fun l => f (laneOf t.width (s.rv a) l) (laneOf t.width (s.rv b) l))
      (fun _ => false) (fun _ => false) s :=
  pushesLanes_of_codes (fun _ => hf _ _ (laneOf_lt ..) (laneOf_lt ..)) (issues_of ho ha hr hn rfl)

end

/-- Settles O6: each instruction is a function of two lanes read as numbers. -/
theorem vectorArithmeticResults : Obligations.VectorArithmeticResults := by
  intro s d a b t m ha hr hn hk vf X Y sub lanes
  have hadd := vecArith2_pushes (show exec (.vadd d a b t m) s = execVadd d a b t m s from rfl) ha hr hn hk
  have hsub := vecArith2_pushes (show exec (.vsub d a b t m) s = execVsub d a b t m s from rfl) ha hr hn hk
  have hmul := vecArith2_pushes (show exec (.vmul d a b t m) s = execVmul d a b t m s from rfl) ha hr hn hk
  have hadds := vecArith2_pushes (show exec (.vadds d a b t m) s = execVadds d a b t m s from rfl) ha hr hn hk
  have hsubs := vecArith2_pushes (show exec (.vsubs d a b t m) s = execVsubs d a b t m s from rfl) ha hr hn hk
  have hmin := vecArith2_pushes (show exec (.vmin d a b t m) s = execVmin d a b t m s from rfl) ha hr hn hk
  have hmax := vecArith2_pushes (show exec (.vmax d a b t m) s = execVmax d a b t m s from rfl) ha hr hn hk
  have hmulhr := vecArith2_pushes (show exec (.vmulhr d a b t m) s = execVmulhr d a b t m s from rfl) ha hr hn hk
  exact ⟨hadd, hsub, hmul, hadds, hsubs, hmin, hmax, hmulhr⟩

/-! ### Immediate counts (R184; 02_bundles R42) -/

/-- An immediate below 32 stands for itself. -/
theorem immVI_none {imm : BitVec 6} (h : imm.toNat < 32) : immVI none imm = imm.toNat :=
  BitVec.toInt_eq_toNat_of_lt (by omega)

/-- A LIMM gives the upper bits of the immediate after it. -/
theorem immVI_some (p : BitVec 22) (imm : BitVec 6) : immVI (some p) imm = p.toInt * 2 ^ 6 + imm.toNat := by
  rw [immVI, BitVec.toInt_append]
  simp [Int.mul_comm]

/-- A slot that acts after its bundle's checks has its effect, and uses the LIMM before it. -/
theorem slot_commits {n : Need} {chk : State → Verdict} {eff : State → State} {s : State} (h : s.iss.phase = .commit) :
    ∃ t, slot n chk eff s = .next t ∧ t.ctx = (eff s).ctx := by
  rw [slot, h]
  exact ⟨_, rfl, rfl⟩

theorem ctx_pushV (d : Fin 32) (lat : Nat) (v : VWord) (f : BitVec 6) (s : State) :
    (pushV d lat v f s).ctx = { s.ctx with pushes := s.ctx.pushes ++ [vectorPush d lat v f] } :=
  s.ctx_modCtx _

/-- A function of one lane, in a bundle whose slots have left the task's state as it was. -/
theorem vecArith1_commits {f : State → Nat → Int → Int × Bool} {s z : State} {d : Fin 32} {a : VSrc}
    {t : ElemTy} {m : MaskMode} {lat : Nat} {o : Out} (ho : o = vecArith1 lat f d a t m z) (h : z.iss.phase = .commit)
    (hctx : z.ctx = s.ctx) : ∃ u v g, o = .next u ∧ u.ctx.pushes = s.ctx.pushes ++ [vectorPush d lat v g] ∧
      LanesAre s t m (s.rv a) v fun l => codeOf t.width (f z l (rdLane s.ctx.vf t (s.rv a) l).1).1 := by
  obtain ⟨u, hu, hpush⟩ := slot_commits h
  have hrv : s.rv a = z.rv a := by rw [State.rv, State.rv, hctx]
  refine ⟨u, _, _, ho.trans hu, by rw [hpush, ctx_pushV, hctx], fun l hl => ?_⟩
  rw [hrv, ← hctx]
  exact laneOf_vecMap (codeOf_lt _ _) hl

/-! ### Counts in lanes and in registers -/

section
variable {s : State} {d : Fin 32} {t : ElemTy} {m : MaskMode} {a b : VSrc} {g : SSrc}

theorem absV_eq (vf : Word) (t : ElemTy) (x : Int) : absV vf t x = if tySigned t then satV vf t |x| else (x, false) := by
  have habs : (if x < 0 then -x else x) = |x| := by
    split_ifs with h
    · exact (abs_of_neg h).symm
    · exact (abs_of_nonneg (not_lt.1 h)).symm
  rw [absV, habs]

theorem execVsar_pushes (ha : Alone s) (hr : RoomFor s Need.push) (hn : needVV s a b = .ok)
    (hk : checkReserved s t m [a] = .ok) :
    PushesLanes (execVsar d a b t m s) d 2 t m (s.rv a)
      (fun l => codeOf t.width ((rdLane s.ctx.vf t (s.rv a) l).1 / 2 ^ min (laneOf t.width (s.rv b) l) t.width))
      (fun _ => false) (fun l => (rdLane s.ctx.vf t (s.rv a) l).2) s :=
  pushesLanes_of_vecMap (f := fun l => arith1 s.ctx.vf t
      (fun _ x => (sarLane t.width x (laneOf t.width (s.rv b) l), false)) (s.rv a) l)
    (fun _ => codeOf_lt _ _) (fun _ => rfl) (issues_of rfl ha hr (by simp [hn, hk]) rfl)

theorem execVrshr_pushes (ha : Alone s) (hr : RoomFor s Need.push) (hn : needV s a = .ok) (hg : needS s g = .ok)
    (hk : checkReserved s t m [a] = .ok) (h : bits (s.rs g) 0 6 ≤ t.width) :
    PushesLanes (execVrshr d a g t m s) d 2 t m (s.rv a)
      (fun l => codeOf t.width (satV s.ctx.vf t (rndV s (rdLane s.ctx.vf t (s.rv a) l).1 (bits (s.rs g) 0 6)
        (bits (s.rs g) 9 55 + l))).1)
      (fun l => (satV s.ctx.vf t (rndV s (rdLane s.ctx.vf t (s.rv a) l).1 (bits (s.rs g) 0 6)
        (bits (s.rs g) 9 55 + l))).2)
      (fun l => (rdLane s.ctx.vf t (s.rv a) l).2) s :=
  pushesLanes_of_vecMap (f := arith1 s.ctx.vf t
      (fun l x => satV s.ctx.vf t (rndV s x (bits (s.rs g) 0 6) (bits (s.rs g) 9 55 + l))) (s.rv a))
    (fun _ => codeOf_lt _ _) (fun _ => rfl) (issues_of rfl ha hr (by simp [hn, hg, hk, h]) rfl)

end

/-- Settles O7: each instruction is a function of a lane read as a number; the counts by where they come from. -/
theorem vectorUnaryResults : Obligations.VectorUnaryResults := by
  intro s d a b g t m imm ha hr hn hg hk vf X sub G lanes
  have hna := needV_left hn
  have habs := vecArith1_pushes (show exec (.vabs d a t m) s = execVabs d a t m s from rfl) ha hr hna hk
  have hneg := vecArith1_pushes (show exec (.vneg d a t m) s = execVneg d a t m s from rfl) ha hr hna hk
  have hvrshr : exec (.vrshr d a g t m) s = execVrshr d a g t m s := rfl
  simp only [absV_eq] at habs
  refine ⟨habs, hneg, fun h32 _ => ?_, fun z p hz => ?_, execVsar_pushes ha hr hn hk,
    fun h => execVrshr_pushes ha hr hna hg hk h, fun h => faults_of hvrshr ha ?_⟩
  · have hcount : (immVI s.iss.limm imm).toNat = imm.toNat := by
      have hlimm : s.iss.limm = none := by rw [ha]
      rw [hlimm, immVI_none h32, Int.toNat_natCast]
    have hshli := vecArith1_pushes (show exec (.vshli d a imm t m) s = execVshli d a imm t m s from rfl) ha hr hna hk
    have hsari := vecArith1_pushes (show exec (.vsari d a imm t m) s = execVsari d a imm t m s from rfl) ha hr hna hk
    simp only [hcount] at hshli hsari
    exact ⟨hshli, hsari⟩
  · intro n _ _
    have hphase : z.iss.phase = .commit := by rw [hz]
    have hctx : z.ctx = s.ctx := by rw [hz]; rfl
    have hcount : immVI z.iss.limm imm = n := by rw [hz]; exact immVI_some p imm
    have hshli := vecArith1_commits (show exec (.vshli d a imm t m) z = execVshli d a imm t m z from rfl) hphase hctx
    have hsari := vecArith1_commits (show exec (.vsari d a imm t m) z = execVsari d a imm t m z from rfl) hphase hctx
    simp only [hctx, hcount] at hshli hsari
    exact ⟨hshli, hsari⟩
  · simp only [hna, hg, Verdict.seq_ok, require_of_not (p := bits (s.rs g) 0 6 ≤ t.width) (Nat.not_le.2 h),
      Verdict.seq_fault]

end Sys2Proof.Machine
end

section
/-! SUPPORT. What the vector unit computes of lane codes (07_vector R183, R189), and the census of a lane (03_numbers R72). -/

namespace Sys2Proof.Machine

open Sys2Proof

/-! ### The census of a lane -/

theorem clsElem_le_clsMax (t : ElemTy) (x : Int) : clsElem t x ≤ clsMax t := by
  unfold clsElem cls clsMax
  split_ifs <;> exact Nat.sub_le ..

theorem clsElem_lt (t : ElemTy) (x : Int) : clsElem t x < 2 ^ t.width := by
  have hmax : clsMax t ≤ t.width := by
    unfold clsMax
    split_ifs
    · exact Nat.sub_le ..
    · exact Nat.le_refl _
  exact ((clsElem_le_clsMax t x).trans hmax).trans_lt Nat.lt_two_pow_self

/-! ### Codes -/

section
variable {w : Nat}

theorem slideLane_lt (v : VWord) (i : Int) : slideLane w v i < 2 ^ w := by
  unfold slideLane
  split_ifs
  · exact laneOf_lt ..
  · exact Nat.two_pow_pos w

theorem shiftedLeft_lt (x y : Nat) : (if w ≤ y then 0 else x * 2 ^ y % 2 ^ w) < 2 ^ w := by
  split_ifs
  · exact Nat.two_pow_pos w
  · exact Nat.mod_lt _ (Nat.two_pow_pos w)

theorem shiftedRight_lt {x : Nat} (hx : x < 2 ^ w) (y : Nat) : (if w ≤ y then 0 else x / 2 ^ y) < 2 ^ w := by
  split_ifs
  · exact Nat.two_pow_pos w
  · exact (Nat.div_le_self ..).trans_lt hx

end

/-- Settles O8: each instruction is a function of lane codes, and its results are codes of the width. -/
theorem vectorCodeResults : Obligations.VectorCodeResults := by
  intro s d a b g t m ha hr hn hg w X Y lanes
  have hna := needV_left hn
  have hboth : ((needV s a).seq (needS s g)) = .ok := by rw [hna, hg]; rfl
  have hand := vecCodes2_pushes (show exec (.vand d a b t m) s = execVand d a b t m s from rfl) ha hr hn
    fun _ _ _ hy => Nat.and_lt_two_pow _ hy
  have hor := vecCodes2_pushes (show exec (.vor d a b t m) s = execVor d a b t m s from rfl) ha hr hn
    fun _ _ => Nat.or_lt_two_pow
  have hxor := vecCodes2_pushes (show exec (.vxor d a b t m) s = execVxor d a b t m s from rfl) ha hr hn
    fun _ _ => Nat.xor_lt_two_pow
  have hshl := vecCodes2_pushes (show exec (.vshl d a b t m) s = execVshl d a b t m s from rfl) ha hr hn
    fun _ _ _ _ => shiftedLeft_lt ..
  have hshr := vecCodes2_pushes (show exec (.vshr d a b t m) s = execVshr d a b t m s from rfl) ha hr hn
    fun _ _ hx _ => shiftedRight_lt hx _
  have hcls : exec (.vcls d a t m) s = execVcls d a t m s := rfl
  have hbcast : exec (.vbcast d g t m) s = execVbcast d g t m s := rfl
  have hperm : exec (.vperm d a b t m) s = execVperm d a b t m s := rfl
  have hslide : exec (.vslide d a g t m) s = execVslide d a g t m s := rfl
  exact ⟨hand, hor, hxor, hshl, hshr,
    pushesLanes_of_codes (fun _ => clsElem_lt ..) (issues_of hcls ha hr hna rfl),
    fun _ => pushesLanes_of_codes (fun _ => Nat.mod_lt _ (Nat.two_pow_pos w)) (issues_of hbcast ha hr hg rfl),
    fun _ => pushesLanes_of_codes (fun _ => laneOf_lt ..) (issues_of hperm ha hr hn rfl),
    pushesLanes_of_codes (fun _ => slideLane_lt ..) (issues_of hslide ha hr hboth rfl)⟩

end Sys2Proof.Machine
end

section
/-! SUPPORT. The range of a lane read as a number (03_numbers R58, R60), and the reductions of the active lanes
(07_vector R190). -/

namespace Sys2Proof.Machine

open Sys2Proof

/-! ### The range of a lane -/

theorem width_pos (t : ElemTy) : 0 < t.width := by cases t <;> decide

section
variable {w code : Nat}

/-- A code below 2^w is a two's complement number of w bits, the least of them its top bit alone. -/
theorem signedOf_range (hw : 0 < w) (h : code < 2 ^ w) : -(2 ^ (w - 1) : Int) ≤ signedOf w code ∧
    signedOf w code ≤ 2 ^ (w - 1) - 1 ∧ (code ≠ 2 ^ (w - 1) → -(2 ^ (w - 1) : Int) < signedOf w code) := by
  obtain ⟨n, rfl⟩ := Nat.exists_eq_succ_of_ne_zero hw.ne'
  have hcode : (code : Int) < 2 * 2 ^ n := by
    zify at h
    rwa [pow_succ, mul_comm] at h
  have hne : code ≠ 2 ^ n ↔ (code : Int) ≠ 2 ^ n := by
    rw [Ne, Ne, ← Nat.cast_inj (R := Int)]
    push_cast
    rfl
  have hlt : code < 2 ^ n ↔ (code : Int) < 2 ^ n := by
    zify
  simp only [signedOf, Nat.succ_eq_add_one, Nat.add_sub_cancel, hlt, hne, pow_succ]
  split_ifs <;> omega

end

/-- The least value that a lane can be read as. -/
def leastRead (sym : Bool) (t : ElemTy) : Int := if tySigned t && sym then -(maxv t) else minv t

theorem maxv_nonneg (t : ElemTy) : 0 ≤ maxv t := by cases t <;> decide

theorem leastRead_nonpos (sym : Bool) (t : ElemTy) : leastRead sym t ≤ 0 := by cases sym <;> cases t <;> decide

/-- The value in place of a reserved code is one of the type. -/
theorem substValue_range (u : Subst) {t : ElemTy} {sym : Bool} (h : (tySigned t && sym) = true) :
    leastRead sym t ≤ u.value t ∧ u.value t ≤ maxv t := by
  have hmax := maxv_nonneg t
  rw [leastRead, if_pos h]
  cases u <;> simp only [Subst.value] <;> omega

/-- The value of a code that is not reserved is one of the type. -/
theorem elemVal_range {t : ElemTy} {sym : Bool} {code : Nat} (hc : code < 2 ^ t.width)
    (h : isReserved sym t code = false) : leastRead sym t ≤ elemVal t code ∧ elemVal t code ≤ maxv t := by
  obtain ⟨hlo, hhi, hres⟩ := signedOf_range (width_pos t) hc
  cases ht : tySigned t with
  | false =>
    have hcode : (code : Int) < 2 ^ t.width := by exact_mod_cast hc
    simp only [leastRead, elemVal, maxv, minv, ht, Bool.false_and, if_false, Bool.false_eq_true]
    omega
  | true =>
    cases sym with
    | false =>
      simp only [leastRead, elemVal, maxv, minv, ht, Bool.and_false, if_true, if_false, Bool.false_eq_true]
      omega
    | true =>
      have hne : code ≠ 2 ^ (t.width - 1) := by simpa [isReserved, ht] using h
      have := hres hne
      simp only [leastRead, elemVal, maxv, ht, Bool.and_self, if_true]
      omega

theorem rdLane_range (vf : Word) (t : ElemTy) (v : VWord) (l : Nat) :
    leastRead (fmtSym vf) t ≤ (rdLane vf t v l).1 ∧ (rdLane vf t v l).1 ≤ maxv t := by
  unfold rdLane readElem
  split_ifs with h
  · refine substValue_range _ ?_
    simp only [isReserved, Bool.and_eq_true] at h ⊢
    exact ⟨h.1.2, h.1.1⟩
  · exact elemVal_range (laneOf_lt ..) (Bool.eq_false_iff.2 h)

/-! ### The greatest and the least of some values -/

section
variable {α : Type} [LinearOrder α] {xs : List α} {z : α}

/-- The greatest of some values, none below the one that stands for an empty list. -/
theorem foldl_max_greatest (h : xs ≠ []) (hz : ∀ x ∈ xs, z ≤ x) :
    xs.foldl max z ∈ xs ∧ ∀ y ∈ xs, y ≤ xs.foldl max z := by
  cases xs with
  | nil => exact absurd rfl h
  | cons x xs =>
    rw [List.foldl_cons, max_eq_right (hz x List.mem_cons_self)]
    exact List.max?_eq_some_iff.1 List.max?_cons'

/-- The least of some values, none above the one that stands for an empty list. -/
theorem foldl_min_least (h : xs ≠ []) (hz : ∀ x ∈ xs, x ≤ z) :
    xs.foldl min z ∈ xs ∧ ∀ y ∈ xs, xs.foldl min z ≤ y :=
  foldl_max_greatest (α := αᵒᵈ) h hz

end

theorem minCensus_eq (t : ElemTy) (xs : List Int) (h : Nat) : minCensus t xs h = (xs.map (clsElem t)).foldl min h := by
  rw [minCensus, List.foldl_map]

/-- The least census of some values, which is the greatest of the type where there are none. -/
theorem minCensus_least (t : ElemTy) (xs : List Int) :
    (xs.map (clsElem t) ≠ [] → minCensus t xs (clsMax t) ∈ xs.map (clsElem t) ∧
      ∀ h ∈ xs.map (clsElem t), minCensus t xs (clsMax t) ≤ h) ∧
    (xs.map (clsElem t) = [] → minCensus t xs (clsMax t) = clsMax t) := by
  rw [minCensus_eq]
  refine ⟨fun h => foldl_min_least h fun x hx => ?_, fun h => by rw [h]; rfl⟩
  obtain ⟨y, -, rfl⟩ := List.mem_map.1 hx
  exact clsElem_le_clsMax t y

/-! ### The reductions -/

theorem vecReduce_issues {o : Out} {f : Word → List Int → Int} {s : State} {d : Fin 32} {a : VSrc} {t : ElemTy}
    {m : MaskMode} (ho : o = vecReduce f d a t m s) (ha : Alone s) (hr : RoomFor s Need.push) (hn : needV s a = .ok)
    (hk : checkReserved s t m [a] = .ok) :
    Issues o (pushSF d 6
      (BitVec.ofInt 64 (f s.ctx.vf ((activeLanes m s.ctx.maskTop t.width).map fun l => (rdLane s.ctx.vf t (s.rv a) l).1)))
      (flagIf ((activeLanes m s.ctx.maskTop t.width).any fun l => (rdLane s.ctx.vf t (s.rv a) l).2) satRsub) s) :=
  issues_of ho ha hr (by simp [hn, hk]) (by simp only [List.map_map, List.any_map]; rfl)

/-- Settles O9: the sum, and the greatest and the least of the active lanes, each of which lies in the range of its type. -/
theorem vectorReductionResults : Obligations.VectorReductionResults := by
  intro s d a g t m ha hr hn hg hk vf w act xs hs rsub
  have hsum := vecReduce_issues (show exec (.vrsum d a t m) s = execVrsum d a t m s from rfl) ha hr hn hk
  have hmax := vecReduce_issues (show exec (.vrmax d a t m) s = execVrmax d a t m s from rfl) ha hr hn hk
  have hmin := vecReduce_issues (show exec (.vrmin d a t m) s = execVrmin d a t m s from rfl) ha hr hn hk
  have hcensus : exec (.vcensus d a t m) s = execVcensus d a t m s := rfl
  have hextr : exec (.vextr d a g t) s = execVextr d a g t s := rfl
  have hrange : ∀ x ∈ xs, leastRead (fmtSym vf) t ≤ x ∧ x ≤ maxv t := fun x hx => by
    obtain ⟨l, -, rfl⟩ := List.mem_map.1 hx
    exact rdLane_range ..
  obtain ⟨hleast, hnone⟩ := minCensus_least t (act.map fun l => elemVal t (laneOf w (s.rv a) l))
  simp only [List.map_map] at hleast hnone
  refine ⟨hsum, ⟨_, hmax, fun h => foldl_max_greatest h fun x hx => (hrange x hx).1, fun h => ?_⟩,
    ⟨_, hmin, fun h => foldl_min_least h fun x hx => (hrange x hx).2, fun h => ?_⟩,
    ⟨_, issues_of hcensus ha hr hn rfl, hleast, hnone⟩, fun h => issues_of hextr ha hr ?_ rfl,
    fun h => faults_of hextr ha ?_⟩
  · exact (congrArg (List.foldl max _) h).trans (by simp only [List.foldl_nil, Bool.and_eq_true]; rfl)
  · exact congrArg (List.foldl min _) h
  · simp only [hn, hg, Verdict.seq_ok]
    exact require_of h
  · simp only [hn, hg, Verdict.seq_ok]
    exact require_of_not (Nat.not_lt.2 h)

end Sys2Proof.Machine
end

section
/-! SUPPORT. Compares, selections and the mask stack (07_vector R182, R187, R188, R198). -/

namespace Sys2Proof.Machine

open Sys2Proof

/-! ### Lanes chosen -/

theorem allOnes_lt (w : Nat) : 2 ^ w - 1 < 2 ^ w := Nat.sub_lt (Nat.two_pow_pos w) Nat.one_pos

theorem activeLane_zero (top : MaskWord) (w l : Nat) : activeLane .zero top w l = top.getLsbD (w / 4 * l) := rfl

theorem activeLane_all (top : MaskWord) (w l : Nat) : activeLane .all top w l = true := rfl

/-- A lane of all ones where a test holds, else zero. -/
theorem ite_allOnes_lt (w : Nat) (b : Bool) : (if b then 2 ^ w - 1 else 0) < 2 ^ w := by
  split_ifs
  · exact allOnes_lt w
  · exact Nat.two_pow_pos w

/-- One flag of some lanes is set when one of them has it. -/
theorem vecMap_all_flagIf (w : Nat) (top : MaskWord) (a : VWord) (f : Nat → Nat) (p : Nat → Bool) (g : BitVec 6) :
    (vecMap w .all top a fun l => (f l, flagIf (p l) g)).2 = flagIf ((List.range (laneCount w)).any p) g := by
  refine BitVec.eq_of_getLsbD_eq fun k _ => ?_
  rw [vecMap_getLsbD, flagIf_getLsbD]
  simp only [activeLane_all, Bool.true_and, flagIf_getLsbD]
  rw [Bool.eq_iff_iff]
  simp only [List.any_eq_true, Bool.and_eq_true]
  exact ⟨fun ⟨l, hl, hp, hg⟩ => ⟨⟨l, hl, hp⟩, hg⟩, fun ⟨⟨l, hl, hp⟩, hg⟩ => ⟨l, hl, hp, hg⟩⟩

/-- Bit `r` of lane `l` of some packed codes is that of the code there. -/
theorem packLanes_testBit {w r : Nat} (xs : List Nat) (l : Nat) (hr : r < w) :
    (packLanes w xs).testBit (r + w * l) = (xs.getD l 0).testBit r := by
  have hlane := congrArg (Nat.testBit · r) (packLanes_lane w xs l)
  simpa [Nat.testBit_mod_two_pow, Nat.testBit_div_two_pow, hr] using hlane

/-- A granule of a mask of lanes stands in the mask when its lane is chosen. -/
theorem maskOfLanes_getLsbD {w i : Nat} (f : Nat → Bool) (hw : 0 < w / 4) (hl : i / (w / 4) < laneCount w)
    (hi : i < 512) : (maskOfLanes w f).getLsbD i = f (i / (w / 4)) := by
  have hr := Nat.mod_lt i hw
  have hbit := packLanes_testBit ((List.range (laneCount w)).map fun l => if f l then 2 ^ (w / 4) - 1 else 0)
    (i / (w / 4)) hr
  rw [Nat.mod_add_div] at hbit
  rw [maskOfLanes, BitVec.getLsbD_ofNat, hbit]
  cases hf : f (i / (w / 4)) <;> simp [hi, hl, hf, hr]

/-- A type's lanes take its granules whole. -/
theorem granules_of_width (t : ElemTy) : 0 < t.width / 4 ∧ laneCount t.width * (t.width / 4) = 512 := by
  cases t <;> decide

/-! ### The boundary after an effect on the masks -/

section
variable {s : State} {d : Deferred} {o : Out} {words : Nat} {k : Core}

theorem sequential_mask (words : Nat) (c : Ctx) : (sequential words c).mask = c.mask := by rw [sequential_frame]

theorem boundary_maskPush (x : MaskWord) : boundary k { words := words, deferred := [.maskPush x] } =
    countIssue { sequential words k.ctx with mask := x :: k.ctx.mask } := by
  rw [← sequential_mask words k.ctx]
  rfl

theorem boundary_maskInv {top : MaskWord} {rest : List MaskWord} (h : k.ctx.mask = top :: rest) :
    boundary k { words := words, deferred := [.maskInv] } =
      countIssue { sequential words k.ctx with mask := (rest.headD (BitVec.allOnes 512) &&& ~~~top) :: rest } := by
  have hmask : (sequential words k.ctx).mask = top :: rest := (sequential_mask words k.ctx).trans h
  have hb : boundary k { words := words, deferred := [.maskInv] } = countIssue { sequential words k.ctx with
      mask := ((sequential words k.ctx).maskBelow &&& ~~~(sequential words k.ctx).maskTop) ::
        (sequential words k.ctx).mask.drop 1 } := rfl
  rw [hb, Ctx.maskBelow, Ctx.maskTop, hmask]
  rfl

theorem boundary_maskPop {top : MaskWord} {rest : List MaskWord} (h : k.ctx.mask = top :: rest) :
    boundary k { words := words, deferred := [.maskPop] } =
      countIssue { sequential words k.ctx with mask := rest } := by
  have hb : boundary k { words := words, deferred := [.maskPop] } = countIssue { sequential words k.ctx with
      mask := (sequential words k.ctx).mask.drop 1 } := rfl
  rw [hb, sequential_mask, h]
  rfl

/-- A slot alone that defers one effect on the masks leaves the next bundle with them changed. -/
theorem leaves_masks {mask : List MaskWord} (ha : Alone s) (hd : ∀ n, d ≠ .freeTile n) (hc : ∀ k, applyCore [d] k = k)
    (hb : boundary s.core { words := s.iss.words, deferred := [d] } =
      countIssue { sequential s.iss.words s.ctx with mask := mask }) (hi : Issues o (s.defer d)) :
    Leaves o { nextCtx s.iss.words s.ctx with mask := mask } s := by
  have hl := leavesCore_transfer ha hd none
  have hcore : finishCore { words := s.iss.words, deferred := [d] } s.core =
      rested { nextCtx s.iss.words s.ctx with mask := mask } s.core := by
    rw [finishCore, hc, hb]
    rfl
  exact (hcore ▸ hl).of_issues hi

/-- What leaves a core after a change of its task's state leaves it before. -/
theorem LeavesCore.of_modCtx {f : Ctx → Ctx} (h : LeavesCore o k (s.modCtx f)) : LeavesCore o k s := by
  obtain ⟨t, ho, hm, hp, hs, hc, hops, hk⟩ := h
  exact ⟨t, ho, hm, hp, fun n hn => (hs n hn).trans (State.coreAt_modCore_other _ _ hn), hc, hops, hk⟩

theorem finishCore_clearRmask (words : Nat) (k : Core) : finishCore { words := words, deferred := [.clearRmask] } k =
    rested { nextCtx words k.ctx with rmask := 0 } k := rfl

theorem leaves_clearRmask {p : Push} (ha : Alone s) (hi : Issues o ((s.addPush p).defer .clearRmask)) :
    Leaves o { nextCtx s.iss.words { s.ctx with pushes := s.ctx.pushes ++ [p] } with rmask := 0 } s := by
  have hl := leavesCore_transfer (s := s.addPush p) ha (d := .clearRmask) nofun none
  have hcore : (s.addPush p).core = { s.core with ctx := { s.ctx with pushes := s.ctx.pushes ++ [p] } } :=
    State.coreAt_modCore_same ..
  rw [finishCore_clearRmask, hcore] at hl
  exact LeavesCore.of_modCtx (hl.of_issues hi)

end

/-! ### The obligation -/

/-- A compare gives lanes of all ones or zero, and the flag RSUB of its reads. -/
theorem execVcmp_issues {s : State} {d : Fin 32} {a b : VSrc} {t : ElemTy} {c : VCond} {o : Out}
    (ho : o = execVcmp d a b t c s) (ha : Alone s) (hr : RoomFor s Need.push) (hn : needVV s a b = .ok)
    (hk : checkReserved s t .all [a, b] = .ok) : ∃ v, Issues o (pushV d 2 v (flagIf ((List.range (laneCount t.width)).any fun l =>
        (rdLane s.ctx.vf t (s.rv a) l).2 || (rdLane s.ctx.vf t (s.rv b) l).2) satRsub) s) ∧
      ∀ l, l < laneCount t.width → laneOf t.width v l =
        if holdsV c (rdLane s.ctx.vf t (s.rv a) l).1 (rdLane s.ctx.vf t (s.rv b) l).1 then 2 ^ t.width - 1 else 0 :=
  ⟨_, issues_of ho ha hr (by simp [hn, hk]) (congrArg (pushV d 2 _ · s) (vecMap_all_flagIf ..)),
    fun _ hl => laneOf_vecMap (ite_allOnes_lt ..) hl⟩

/-- Settles O10: the lanes chosen by a test or by the top mask; the mask stack by the effect that each slot defers. -/
theorem selectAndMaskResults : Obligations.SelectAndMaskResults := by
  refine ⟨fun s d a b t c ha hr hn hk => ?_, fun s a t ha hr hn => ?_⟩
  · intro vf w X Y sub top test
    have hcmp : exec (.vcmp d a b t c) s = execVcmp d a b t c s := rfl
    have hsel : exec (.vsel d a b t) s = execVsel d a b t s := rfl
    have hget : exec (.mget d t) s = execMget d t s := rfl
    have hres : exec (.vres d) s = execVres d s := rfl
    obtain ⟨v, hissues, hlanes⟩ := execVcmp_issues hcmp ha hr hn hk
    have htest (l : Nat) : holdsV c (X l) (Y l) = test l := by
      cases c with
      | ne => exact (decide_not ..).symm
      | _ => rfl
    refine ⟨⟨v, hissues, fun l hl => ?_⟩, ⟨_, issues_of hsel ha hr hn rfl, fun l hl => ?_⟩,
      ⟨_, issues_of hget ha hr rfl rfl, fun l hl => ?_⟩, leaves_clearRmask ha (issues_of hres ha hr rfl rfl)⟩
    · rw [← htest]
      exact hlanes l hl
    · refine (laneOf_vecOf ?_ hl).trans ?_
      · exact laneOf_lt ..
      · rw [activeLane_zero]
        exact apply_ite (laneOf w · l) _ _ _
    · refine laneOf_vecOf ?_ hl
      exact ite_allOnes_lt ..
  · intro after
    have hpush : exec (.mpush a t) s = execMpush a t s := rfl
    have hinv : exec .minv s = execMinv s := rfl
    have hpop : exec .mpop s = execMpop s := rfl
    refine ⟨fun h => ⟨_, leaves_masks ha (d := .maskPush _) nofun (fun _ => rfl) (boundary_maskPush _)
        (issues_of hpush ha hr (by simp [hn, h]) rfl), fun i hi => ?_⟩,
      fun h => faults_of hpush ha (by simp [hn, h]), fun top rest h => ⟨⟨_, leaves_masks ha (d := .maskInv) nofun (fun _ => rfl)
        (boundary_maskInv h) (issues_of hinv ha hr (by simp [h]) rfl), fun i hi => ?_⟩,
        leaves_masks ha (d := .maskPop) nofun (fun _ => rfl) (boundary_maskPop h) (issues_of hpop ha hr (by simp [h]) rfl)⟩,
      fun h => ⟨faults_of hinv ha (by simp [h]), faults_of hpop ha (by simp [h])⟩⟩
    · obtain ⟨hw, hgran⟩ := granules_of_width t
      have hl : i / (t.width / 4) < laneCount t.width := Nat.div_lt_of_lt_mul (by rw [Nat.mul_comm, hgran]; exact hi)
      rw [maskOfLanes_getLsbD _ hw hl hi, Bool.and_comm, Nat.mul_comm]
    · simp [hi]

end Sys2Proof.Machine
end

section
/-! SUPPORT. The running sum, the dot product and the conversion of vectors (07_vector R186, R191, R192). -/

namespace Sys2Proof.Machine

open Sys2Proof

/-! ### Reserved codes (03_numbers R60, R61) -/

/-- Where no active lane is a reserved code under SUBST = FAULT, the check finds none. -/
theorem reservedIn_eq_false {vf : Word} {t : ElemTy} {act : Nat → Bool} {v : VWord}
    (h : ∀ l, l < laneCount t.width → act l = true → isReserved (fmtSym vf) t (laneOf t.width v l) = true →
      fmtSubst vf ≠ .fault) : reservedIn vf t act v = false := by
  refine Bool.eq_false_iff.2 fun hres => ?_
  simp only [reservedIn, Bool.and_eq_true, List.any_eq_true, List.mem_range, beq_iff_eq] at hres
  obtain ⟨⟨⟨hfault, hsym⟩, hsigned⟩, l, hl, hact, hcode⟩ := hres
  exact h l hl hact (by simp [isReserved, hsym, hsigned, hcode]) hfault

/-! ### The running sum (R191) -/

section
variable (vf : Word) (t : ElemTy) (act : Nat → Bool) (a : VWord)

/-- The running sum of the active lanes below a lane. -/
def scanSum : Nat → Int
  | 0 => 0
  | l + 1 => if act l then (satV vf t (scanSum l + (rdLane vf t a l).1)).1 else scanSum l

/-- The result of a lane of a running sum. -/
def scanLane (l : Nat) : Nat × BitVec 6 :=
  laneResult t (satV vf t (scanSum vf t act a l + (rdLane vf t a l).1)) (rdLane vf t a l).2

theorem scanLanes_eq (keep : Nat → Nat) (n l : Nat) : scanLanes vf t act keep a n l (scanSum vf t act a l) =
    (List.range n).map fun i => if act (l + i) then scanLane vf t act a (l + i) else (keep (l + i), 0) := by
  induction n generalizing l with
  | zero => rfl
  | succ n ih =>
    have hrest : scanLanes vf t act keep a n (l + 1) (scanSum vf t act a (l + 1)) = (List.range n).map fun i =>
        if act (l + (i + 1)) then scanLane vf t act a (l + (i + 1)) else (keep (l + (i + 1)), 0) := by
      simp only [ih (l + 1), Nat.add_assoc, Nat.add_comm 1]
    rw [List.range_succ_eq_map, List.map_cons, List.map_map]
    refine Eq.trans ?_ (congrArg _ hrest)
    cases h : act l with
    | true => simp only [scanLanes, scanSum, scanLane, h, if_true, Nat.add_zero]
    | false => simp only [scanLanes, scanSum, h, if_false, Nat.add_zero, Bool.false_eq_true]

end

/-- A running sum pushes its lanes as a vector computed under the mask. -/
theorem execVscan_issues {o : Out} {s : State} {d : Fin 32} {a : VSrc} {t : ElemTy} {m : MaskMode}
    (ho : o = execVscan d a t m s) (ha : Alone s) (hr : RoomFor s Need.push) (hn : needV s a = .ok)
    (hk : checkReserved s t m [a] = .ok) :
    let r := vecMap t.width m s.ctx.maskTop (s.rv a)
      (scanLane s.ctx.vf t (activeLane m s.ctx.maskTop t.width) (s.rv a))
    Issues o (pushV d 6 r.1 r.2 s) := by
  refine issues_of ho ha hr (by simp [hn, hk]) ?_
  have hscan := scanLanes_eq s.ctx.vf t (activeLane m s.ctx.maskTop t.width) (s.rv a)
    (fun l => if m = .keepA then laneOf t.width (s.rv a) l else 0) (laneCount t.width) 0
  simp only [Nat.zero_add] at hscan
  rw [vecMap, ← hscan]
  rfl

/-! ### The dot product (R192) -/

theorem dotType_width (t : ElemTy) : (dotType t).width = 32 := by
  unfold dotType
  split_ifs <;> rfl

theorem laneResult_dotType (t : ElemTy) (r : Int × Bool) (b : Bool) : (laneResult (dotType t) r b).1 = codeOf 32 r.1 := by
  rw [laneResult, dotType_width]

theorem foldl_sum_any {α : Type} (f : α → Int) (p q : α → Bool) (xs : List α) (z : Int × Bool) :
    xs.foldl (fun r k => (r.1 + f k, r.2 || p k || q k)) z = (z.1 + (xs.map f).sum, z.2 || xs.any fun k => p k || q k) := by
  induction xs generalizing z with
  | nil => simp
  | cons x xs ih =>
    rw [List.foldl_cons, ih, List.map_cons, List.sum_cons, List.any_cons, Int.add_assoc, Bool.or_assoc, Bool.or_assoc,
      Bool.or_assoc]

/-- A group of lanes: the sum of the products, and whether a lane of it was substituted. -/
theorem dotGroup_eq (vf : Word) (t : ElemTy) (a b : VWord) (j : Nat) : dotGroup vf t a b j =
    (((List.range (32 / t.width)).map fun k =>
        (rdLane vf t a (32 / t.width * j + k)).1 * (rdLane vf t b (32 / t.width * j + k)).1).sum,
      (List.range (32 / t.width)).any fun k =>
        (rdLane vf t a (32 / t.width * j + k)).2 || (rdLane vf t b (32 / t.width * j + k)).2) := by
  refine (foldl_sum_any _ _ _ _ _).trans ?_
  simp

/-! ### The conversion (R186) -/

section
variable (s : State) (m : MaskMode) (t : ElemTy) (a : VWord) (g : Word)

/-- The first lane of its source that a conversion reads. -/
def cvtFirst : Nat := (cvtLanes (vfCvt s.ctx.vf) t (bits g 6 3)).2

/-- How many lanes a conversion reads. -/
def cvtCount : Nat := (cvtLanes (vfCvt s.ctx.vf) t (bits g 6 3)).1

/-- A lane of the result takes part: the lane that feeds it is active. -/
def cvtOn (l : Nat) : Bool := activeLane m s.ctx.maskTop (vfCvt s.ctx.vf).width (cvtFirst s t g + l)

/-- The shift of a conversion. -/
def cvtBy : Nat :=
  cvtShift s.ctx.vf g (vfCvt s.ctx.vf) t a (cvtOn s m t g) (cvtCount s t g) (cvtFirst s t g)

/-- The value of a lane converted, and whether it was clamped. -/
def cvtValue (l : Nat) : Int × Bool :=
  satV s.ctx.vf t (rndV s (rdLane s.ctx.vf (vfCvt s.ctx.vf) a (cvtFirst s t g + l)).1 (cvtBy s m t a g) (bits g 9 55 + l))

/-- A lane of the result of a conversion. -/
def cvtLane (l : Nat) : Nat × BitVec 6 :=
  if cvtCount s t g ≤ l then (0, 0)
  else if !cvtOn s m t g l then (if m = .keepA then laneOf t.width a l else 0, 0)
  else laneResult t (cvtValue s m t a g l) (rdLane s.ctx.vf (vfCvt s.ctx.vf) a (cvtFirst s t g + l)).2

theorem cvtResult_eq : cvtResult s m t a g =
    (vecOf t.width fun l => (cvtLane s m t a g l).1,
      ((List.range (laneCount t.width)).map (cvtLane s m t a g)).foldl (fun f r => f ||| r.2) 0) := by
  have hcodes : (List.range (laneCount t.width)).map (fun l => (cvtLane s m t a g l).1) =
      ((List.range (laneCount t.width)).map (cvtLane s m t a g)).map Prod.fst := (List.map_map ..).symm
  rw [vecOf, hcodes]
  rfl

theorem cvtLane_lt (l : Nat) : (cvtLane s m t a g l).1 < 2 ^ t.width := by
  unfold cvtLane
  split_ifs
  · exact Nat.two_pow_pos _
  · exact laneOf_lt ..
  · exact Nat.two_pow_pos _
  · exact codeOf_lt ..

/-- A conversion reads no more lanes than its result has. -/
theorem cvtCount_le : cvtCount s t g ≤ laneCount t.width :=
  Nat.div_le_div_left (le_max_right ..) (width_pos t)

theorem any_range_lt {n k : Nat} (h : n ≤ k) (p : Nat → Bool) :
    (List.range k).any (fun l => decide (l < n) && p l) = (List.range n).any p := by
  rw [Bool.eq_iff_iff]
  simp only [List.any_eq_true, List.mem_range, Bool.and_eq_true, decide_eq_true_eq]
  exact ⟨fun ⟨l, _, hl, hp⟩ => ⟨l, hl, hp⟩, fun ⟨l, hl, hp⟩ => ⟨l, hl.trans_le h, hl, hp⟩⟩

/-- The lanes and the flags of a conversion. -/
theorem cvtResult_lanes :
    (∀ l, l < laneCount t.width → laneOf t.width (cvtResult s m t a g).1 l = if cvtCount s t g ≤ l then 0 else
      if cvtOn s m t g l then codeOf t.width (cvtValue s m t a g l).1
      else if m = .keepA then laneOf t.width a l else 0) ∧
    FlagsAre (cvtResult s m t a g).2 (cvtCount s t g) (fun l => cvtOn s m t g l && (cvtValue s m t a g l).2)
      fun l => cvtOn s m t g l && (rdLane s.ctx.vf (vfCvt s.ctx.vf) a (cvtFirst s t g + l)).2 := by
  rw [cvtResult_eq]
  refine ⟨fun l hl => (laneOf_vecOf (cvtLane_lt s m t a g l) hl).trans ?_, ?_⟩
  · simp only [cvtLane, apply_ite Prod.fst, laneResult, Bool.not_eq_true']
    split_ifs <;> simp_all
  · have hflags := flagsAre_foldl (n := laneCount t.width) (r := cvtLane s m t a g)
      (vec := fun l => decide (l < cvtCount s t g) && (cvtOn s m t g l && (cvtValue s m t a g l).2))
      (sub := fun l => decide (l < cvtCount s t g) &&
        (cvtOn s m t g l && (rdLane s.ctx.vf (vfCvt s.ctx.vf) a (cvtFirst s t g + l)).2)) fun l => by
          unfold cvtLane
          by_cases hl : l < cvtCount s t g
          · cases cvtOn s m t g l <;> simp [hl, Nat.not_le.2 hl, laneResult, flagIf]
          · simp [hl, Nat.not_lt.1 hl, flagIf]
    simpa only [FlagsAre, any_range_lt (cvtCount_le s t g)] using hflags

/-- The values of the lanes that a conversion converts. -/
def cvtRead : List Int :=
  ((List.range (cvtCount s t g)).filter (cvtOn s m t g)).map fun l =>
    elemVal (vfCvt s.ctx.vf) (laneOf (vfCvt s.ctx.vf).width a (cvtFirst s t g + l))

variable {s m t a g}

/-- The shift of a conversion, the automatic one from the least census of the lanes converted. -/
theorem cvtBy_eq {h : Nat} {hs : List Nat} (heq : hs = (cvtRead s m t a g).map (clsElem (vfCvt s.ctx.vf)))
    (hleast : hs ≠ [] → h ∈ hs ∧ ∀ k ∈ hs, h ≤ k) (hnone : hs = [] → h = clsMax (vfCvt s.ctx.vf)) :
    cvtBy s m t a g = if fmtAuto s.ctx.vf then (vfCvt s.ctx.vf).width - h - t.width else bits g 0 6 := by
  obtain ⟨hmin, hmax⟩ := minCensus_least (vfCvt s.ctx.vf) (cvtRead s m t a g)
  rw [← heq] at hmin hmax
  have hh : minCensus (vfCvt s.ctx.vf) (cvtRead s m t a g) (clsMax (vfCvt s.ctx.vf)) = h := by
    by_cases he : hs = []
    · rw [hmax he, hnone he]
    · exact le_antisymm ((hmin he).2 h (hleast he).1) ((hleast he).2 _ (hmin he).1)
  rw [← hh]
  rfl

theorem checkCvt_part (h1 : (vfCvt s.ctx.vf).width < t.width) (h2 : t.width / (vfCvt s.ctx.vf).width ≤ bits g 6 3) :
    checkCvt s m t a g = .fault .illegalOperand 0 0 false none := by
  simp [checkCvt, cvtLanes, h1, h2]

theorem checkCvt_shift (h : ¬ ((vfCvt s.ctx.vf).width < t.width ∧ t.width / (vfCvt s.ctx.vf).width ≤ bits g 6 3))
    (ha : fmtAuto s.ctx.vf = false) (hg : (vfCvt s.ctx.vf).width < bits g 0 6) :
    checkCvt s m t a g = .fault .illegalOperand 0 0 false none := by
  have hpart : (!(decide ((vfCvt s.ctx.vf).width < t.width) &&
      decide (t.width / (vfCvt s.ctx.vf).width ≤ bits g 6 3))) = true := by
    simpa only [Bool.not_eq_true', Bool.and_eq_false_iff, decide_eq_false_iff_not] using not_and_or.1 h
  simp only [checkCvt, cvtLanes, hpart, require_true, Verdict.seq_ok, ha, Bool.false_or,
    require_of_not (Nat.not_le.2 hg), Verdict.seq_fault]

end

/-! ### The obligation -/

section
variable {o : Out} {s : State} {d : Fin 32} {a b : VSrc} {g : SSrc} {t : ElemTy} {m : MaskMode}

theorem execVdot_issues (ho : o = execVdot d a b t m s) (ha : Alone s) (hr : RoomFor s Need.push)
    (hn : needVV s a b = .ok)
    (hka : reservedIn s.ctx.vf t (fun l => activeLane m s.ctx.maskTop 32 (l / (32 / t.width))) (s.rv a) = false)
    (hkb : reservedIn s.ctx.vf t (fun l => activeLane m s.ctx.maskTop 32 (l / (32 / t.width))) (s.rv b) = false) :
    let r := vecMap 32 m s.ctx.maskTop (s.rv a) fun j => laneResult (dotType t)
      (satV s.ctx.vf (dotType t) (dotGroup s.ctx.vf t (s.rv a) (s.rv b) j).1) (dotGroup s.ctx.vf t (s.rv a) (s.rv b) j).2
    Issues o (pushV d 4 r.1 r.2 s) :=
  issues_of ho ha hr (by simp [hn, hka, hkb]) rfl

theorem execVcvt_issues (ho : o = execVcvt d a g t m s) (ha : Alone s) (hr : RoomFor s Need.push) (hn : needV s a = .ok)
    (hg : needS s g = .ok) (hk : checkCvt s m t (s.rv a) (s.rs g) = .ok) :
    Issues o (pushV d 2 (cvtResult s m t (s.rv a) (s.rs g)).1 (cvtResult s m t (s.rv a) (s.rs g)).2 s) :=
  issues_of ho ha hr (by simp [hn, hg, hk]) rfl

theorem execVcvt_faults (ho : o = execVcvt d a g t m s) (ha : Alone s) (hn : needV s a = .ok) (hg : needS s g = .ok)
    (hk : checkCvt s m t (s.rv a) (s.rs g) = .fault .illegalOperand 0 0 false none) : Faults o .illegalOperand 0 0 s :=
  faults_of ho ha (by simp [hn, hg, hk])

end

/-- Settles O11: the running sum lane by lane, the dot product group by group, the conversion by the shift that its
source gives. -/
theorem vectorWideResults : Obligations.VectorWideResults := by
  intro s d a b g t m ha hr hn hg vf w ts G X on off flags
  have hna := needV_left hn
  have hscan : exec (.vscan d a t m) s = execVscan d a t m s := rfl
  have hdot : exec (.vdot d a b t m) s = execVdot d a b t m s := rfl
  have hcvt : exec (.vcvt d a g t m) s = execVcvt d a g t m s := rfl
  refine ⟨fun hk => ?scan, ?dot, fun hk => ?cvt, fun h1 h2 => execVcvt_faults hcvt ha hna hg (checkCvt_part h1 h2),
    fun h hauto hs => execVcvt_faults hcvt ha hna hg (checkCvt_shift h hauto hs)⟩
  case scan =>
    refine ⟨_, _, execVscan_issues hscan ha hr hna hk, scanSum vf t (on w) (s.rv a), rfl, fun l hl => ⟨fun hon => ?_, fun hoff => ?_⟩,
      flagsAre_vecMap fun _ => rfl⟩
    · have hsum : scanSum vf t (on w) (s.rv a) (l + 1) = (satV vf t (scanSum vf t (on w) (s.rv a) l + X l)).1 := if_pos hon
      refine ⟨hsum, ?_⟩
      rw [hsum]
      exact (laneOf_vecMap (codeOf_lt ..) hl).trans (if_pos hon)
    · exact ⟨if_neg (Bool.eq_false_iff.1 hoff), (laneOf_vecMap (codeOf_lt ..) hl).trans (if_neg (Bool.eq_false_iff.1 hoff))⟩
  case dot =>
    intro ok sum tr _ hka hkb
    have hissues := execVdot_issues hdot ha hr hn (reservedIn_eq_false hka) (reservedIn_eq_false hkb)
    simp only [dotGroup_eq] at hissues
    refine ⟨_, _, hissues, fun l hl => (laneOf_vecMap ?_ hl).trans ?_, flagsAre_vecMap fun _ => rfl⟩
    · rw [laneResult_dotType]
      exact codeOf_lt ..
    · rw [laneResult_dotType]
      rfl
  case cvt =>
    intro n j hs h hleast hnone sh r
    have hby : cvtBy s m t (s.rv a) G = sh := cvtBy_eq (List.map_map ..).symm hleast hnone
    obtain ⟨hlanes, hflags⟩ := cvtResult_lanes s m t (s.rv a) G
    simp only [cvtValue, hby] at hlanes hflags
    exact ⟨_, _, execVcvt_issues hcvt ha hr hna hg hk, hlanes, hflags⟩

end Sys2Proof.Machine
end

section
/-! SUPPORT. What the start of a load leaves (04_memory_model R79; 07_vector R194): the push, the operation that the push
awaits, and the packets that ask other packages (15_fabric R359). -/

namespace Sys2Proof.Machine

open Sys2Proof

/-! ### Requests -/

/-- Packets of a client have been asked for: operations last in issue order, the migration agent and the stations. -/
def AsksParts (c : Client) (s t : State) : Prop :=
  ∃ (ps : List Op) (n : Nat) (mig : Migration) (st : FMap Station) (out own : List (Nat × Instr)), t = { s with
      ops := s.ops ++ ps, nextOp := n, mig := mig, stations := st, outbox := out, own := own } ∧
    ∀ y ∈ ps, ∃ p, y.kind = .part p ∧ p.client = c

section
variable {c : Client} {s t u : State}

theorem AsksParts.refl (s : State) : AsksParts c s s :=
  ⟨[], s.nextOp, s.mig, s.stations, s.outbox, s.own, by rw [List.append_nil], fun _ hy => absurd hy List.not_mem_nil⟩

theorem AsksParts.trans (h : AsksParts c s t) (h' : AsksParts c t u) : AsksParts c s u := by
  obtain ⟨ps, n, mig, st, out, own, rfl, hps⟩ := h
  obtain ⟨qs, n', mig', st', out', own', rfl, hqs⟩ := h'
  refine ⟨ps ++ qs, n', mig', st', out', own', by rw [← List.append_assoc], fun y hy => ?_⟩
  exact (List.mem_append.1 hy).elim (hps y) (hqs y)

/-- A request changes the migration agent and what leaves the package alone. -/
theorem sendRequest_frame (id : Nat) (s : State) :
    ∃ mig st out own, sendRequest id s = { s with mig := mig, stations := st, outbox := out, own := own } := by
  have htouch (s : State) (p : PageKey) : ∃ mig, touchOwner s p = { s with mig := mig } := by
    unfold touchOwner
    split
    · exact ⟨_, rfl⟩
    · exact ⟨s.mig, rfl⟩
  have hemit (p : PageKey) (dest : Nat) (r : RemoteReq) :
      ∃ mig st out own, emitRequest id p dest r s = { s with mig := mig, stations := st, outbox := out, own := own } := by
    obtain ⟨mig, hm⟩ := htouch s p
    unfold emitRequest
    rw [hm]
    obtain ⟨st, out, own, hsend⟩ := send_frame { s with mig := { mig with sent := s.mig.sent ++ [(id, p, dest)] } } dest
      (.remoteRequestReceive r)
    exact ⟨_, st, out, own, hsend⟩
  have hhold (p : PageKey) : ∃ mig, holdOp p id s = { s with mig := mig } := by
    unfold holdOp modHold makeHold
    split <;> exact ⟨_, rfl⟩
  have hnow (hint size : Nat) (r : RemoteReq) :
      ∃ mig st out own, sendNow id hint size r s = { s with mig := mig, stations := st, outbox := out, own := own } := by
    unfold sendNow
    split
    · obtain ⟨st, out, own, hsend⟩ := send_frame s hint (.remoteRequestReceive r)
      exact ⟨s.mig, st, out, own, hsend⟩
    · next p _ =>
      split
      · exact hemit p _ r
      · dsimp only
        split
        · obtain ⟨mig, h⟩ := hhold p
          exact ⟨mig, s.stations, s.outbox, s.own, h⟩
        · exact hemit p _ r
  unfold sendRequest
  split
  · split
    · exact ⟨_, s.stations, s.outbox, s.own, rfl⟩
    · exact hnow ..
  · exact ⟨s.mig, s.stations, s.outbox, s.own, rfl⟩

theorem asksParts_sendRequest (id : Nat) (s : State) : AsksParts c s (sendRequest id s) := by
  obtain ⟨mig, st, out, own, h⟩ := sendRequest_frame id s
  exact ⟨[], s.nextOp, mig, st, out, own, by rw [h, List.append_nil], fun _ hy => absurd hy List.not_mem_nil⟩

theorem asksParts_startPart (o : Op) (row : Nat) (p : Place) (a : RemoteAct) (s : State) :
    AsksParts c s (startPart o c row p a s) := by
  refine AsksParts.trans ⟨[_], s.nextOp + 1, s.mig, s.stations, s.outbox, s.own, rfl, fun y hy => ?_⟩
    (asksParts_sendRequest s.nextOp _)
  rw [List.mem_singleton.1 hy]
  exact ⟨_, rfl, rfl⟩

theorem asksParts_askRun (id : Nat) (l : LoadOp) (s : State) (k : Nat) : AsksParts (.op id) s (askRun id l s k) := by
  unfold askRun
  split
  · exact .refl s
  · split
    · exact .refl s
    · split
      · exact asksParts_startPart ..
      · exact .refl s
      · exact .refl s

theorem asksParts_askFar (id : Nat) (l : LoadOp) (s : State) : AsksParts (.op id) s (askFar id l s) := by
  unfold askFar
  split
  · exact .refl s
  · exact (asksParts_sendRequest id s).trans (foldl_related .refl .trans (asksParts_askRun id l) _ _)

end

/-! ### The pages used, and the codes read -/

/-- Nothing has changed but the translations that cores hold and the system's counts and codes. -/
def Prepared (s t : State) : Prop :=
  ∃ cores sys, t = { s with cores := cores, sys := sys } ∧ t.ctx = s.ctx ∧ t.core.task = s.core.task ∧
    t.core.member = s.core.member

section
variable {s t u : State}

theorem Prepared.refl (s : State) : Prepared s s := ⟨s.cores, s.sys, rfl, rfl, rfl, rfl⟩

theorem Prepared.trans (h : Prepared s t) (h' : Prepared t u) : Prepared s u := by
  obtain ⟨cores, sys, rfl, hctx, htask, hmember⟩ := h
  obtain ⟨cores', sys', rfl, hctx', htask', hmember'⟩ := h'
  exact ⟨cores', sys', rfl, hctx'.trans hctx, htask'.trans htask, hmember'.trans hmember⟩

theorem Prepared.ops (h : Prepared s t) : t.ops = s.ops := by
  obtain ⟨cores, sys, rfl, -⟩ := h
  rfl

theorem prepared_usePages (addr : Word) (len : Nat) (s : State) : Prepared s (usePages addr len s) := by
  unfold usePages
  split
  · refine ⟨_, s.sys, rfl, ?_, ?_, ?_⟩ <;> simp [State.ctx, State.core, State.coreAt]
  · exact .refl s

theorem prepared_readRuns (view : Nat) (rs : List Run) (s : State) : Prepared s (readRuns s view rs) :=
  ⟨s.cores, _, rfl, rfl, rfl, rfl⟩

end

/-! ### A load started -/

/-- A push was added, and no byte of memory has changed. -/
def Pushed (s t : State) (q : Push) : Prop := SameMemory s t ∧ t.ctx.pushes = s.ctx.pushes ++ [q]

section
variable {s t u : State} {p q : Push} {sp : Space} {runs : List Run} {nbytes : Nat} {sgn : Bool} {mask : MaskWord}

theorem Prepared.addPush (h : Prepared s t) (q : Push) : Pushed s (t.addPush q) q := by
  obtain ⟨cores, sys, rfl, hctx, -⟩ := h
  refine ⟨.of_eq rfl rfl, ?_⟩
  rw [State.addPush, State.ctx_modCtx, hctx]

theorem Pushed.asksParts {c : Client} (h : Pushed s t q) (ha : AsksParts c t u) : Pushed s u q := by
  obtain ⟨ps, n, mig, st, out, own, rfl, -⟩ := ha
  exact h

/-- An operation started and the push that awaits it. -/
theorem Prepared.startOp_addPush (h : Prepared s t) (lat : Nat) (k : OpKind) (q : Push) :
    Pushed s ((t.startOp lat [] k).addPush q) q := by
  obtain ⟨cores, sys, rfl, hctx, -⟩ := h
  refine ⟨.of_eq rfl rfl, ?_⟩
  rw [State.addPush, State.ctx_modCtx]
  exact congrArg (fun c => c.pushes ++ [q]) hctx

theorem Prepared.startedParts {c : Client} (h : Prepared s t) (hc : c = .op s.nextOp) {lat : Nat} {k : OpKind}
    {P : OpKind → Prop} (hk : P k) (ha : AsksParts c ((t.startOp lat [] k).addPush q) u) : StartedParts s u lat P := by
  obtain ⟨cores, sys, rfl, hctx, htask, hmember⟩ := h
  obtain ⟨ps, n, mig, st, out, own, rfl, hps⟩ := ha
  refine ⟨_, ps, List.append_assoc .., rfl, rfl, htask, hmember, congrArg Ctx.pc hctx, rfl, rfl, hk, fun y hy => ?_⟩
  rw [← hc]
  exact hps y hy

/-- A place in this package, or none. -/
def Place.IsLocal (p : Place) : Prop := ∀ acc size g, p ≠ .far acc size g

/-- A run of this package's bytes, or of none, is where it stands. -/
def Run.IsLocal (r : Run) : Prop := r.place.IsLocal

theorem nearRun_of_isLocal {r : Run} (h : r.IsLocal) (s : State) (rd wr : Bool) : nearRun s rd wr r = r := by
  unfold nearRun
  split
  · next hp => exact absurd hp (h _ _ _)
  · next hp => exact absurd hp (h _ _ _)
  · rfl
  · rfl
  · rfl

theorem map_nearRun_of_isLocal (h : ∀ r ∈ runs, r.IsLocal) (s : State) (rd wr : Bool) :
    runs.map (nearRun s rd wr) = runs := by
  conv_rhs => rw [← List.map_id runs]
  exact List.map_congr_left fun r hr => nearRun_of_isLocal (h r hr) s rd wr

theorem nearRun_ne_zero {r : Run} (h : r.place ≠ .zero) (s : State) (rd wr : Bool) : (nearRun s rd wr r).place ≠ .zero := by
  have hget {k : Option Nat} : ((k.map fun k => (⟨.here k, r.len⟩ : Run)).getD r).place ≠ .zero := by
    cases k with
    | none => exact h
    | some k => nofun
  unfold nearRun
  split
  · split
    · exact hget
    · exact h
  · exact hget
  · exact h
  · exact h
  · exact h

/-- A load of tile memory or private space gives its value at once. -/
theorem startLoad_tile (hl : ∀ r ∈ runs, r.IsLocal) (hg : (takeRuns s s.cur s.nextOp 0 runs).2 = none) :
    ∃ u, Prepared s u ∧ startLoad p .tile runs nbytes sgn mask none s = u.addPush (loadedPush
      ⟨runs, nbytes, sgn, p.vec, mask, none, (takeRuns s s.cur s.nextOp 0 runs).1, 0, false⟩ p) := by
  refine ⟨_, prepared_readRuns (s.viewAt s.cur) runs s, ?_⟩
  simp only [startLoad, map_nearRun_of_isLocal hl, reduceCtorEq, if_false, beq_self_eq_true, Bool.true_or, if_true, hg]

/-- A load of a ring or of global memory starts the operation that its push awaits, if it reads a byte. -/
theorem startLoad_awaits (hsp : sp ≠ .tile) (hne : ∃ r ∈ runs, r.place ≠ .zero) :
    Pushed s (startLoad p sp runs nbytes sgn mask none s) { p with state := .awaiting s.nextOp } ∧
    StartedParts s (startLoad p sp runs nbytes sgn mask none s) sp.delay fun o => ∃ l, o = .load l ∧
      l.runs = runs.map (nearRun s true false) ∧ l.nbytes = nbytes ∧ l.vec = p.vec ∧ l.mask = mask := by
  have hnear : (sp == .tile || (runs.map (nearRun s true false)).all fun r => r.place == .zero) = false := by
    obtain ⟨r, hr, hz⟩ := hne
    simp only [Bool.or_eq_false_iff, beq_eq_false_iff_ne, List.all_eq_false, List.mem_map]
    exact ⟨hsp, _, ⟨r, hr, rfl⟩, by simpa using nearRun_ne_zero hz s true false⟩
  have hprep : Prepared s (if sp = .global then usePages p.addr nbytes s else s) := by
    split
    · exact prepared_usePages ..
    · exact .refl s
  have hid : (if sp = .global then usePages p.addr nbytes s else s).nextOp = s.nextOp := by
    obtain ⟨cores, sys, h, -⟩ := hprep
    rw [h]
  simp only [startLoad, hnear, Bool.false_eq_true, if_false, hid]
  exact ⟨(hprep.startOp_addPush ..).asksParts (asksParts_askFar ..),
    hprep.startedParts rfl ⟨_, rfl, rfl, rfl, rfl, rfl⟩ (asksParts_askFar ..)⟩

/-- A load pushes once, whatever becomes of it, and writes no memory. -/
theorem startLoad_pushes (p : Push) (sp : Space) (runs : List Run) (nbytes : Nat) (sgn : Bool) (mask : MaskWord)
    (acq : Option Scope) (s : State) : ∃ q, Pushed s (startLoad p sp runs nbytes sgn mask acq s) q := by
  have hprep : Prepared s (if sp = .global then usePages p.addr nbytes s else s) := by
    split
    · exact prepared_usePages ..
    · exact .refl s
  have hread (view : Nat) (rs : List Run) := hprep.trans (prepared_readRuns view rs _)
  unfold startLoad
  dsimp only
  split
  · split
    · exact ⟨_, (hread ..).addPush _⟩
    · exact ⟨_, (hread ..).addPush _⟩
    · exact ⟨_, (hread ..).addPush _⟩
    · exact ⟨_, (hread ..).startOp_addPush ..⟩
  · exact ⟨_, (hprep.startOp_addPush ..).asksParts (asksParts_askFar ..)⟩

end

end Sys2Proof.Machine
end

section
/-! SUPPORT. What the runs of a store leave (04_memory_model R79, R81; 07_vector R195): the bytes written at issue, or memory as
it was. -/

namespace Sys2Proof.Machine

open Sys2Proof

/-! ### Bytes written under a mask -/

section
variable {m : List Host.Cell} {f : Nat → WByte} {ns : List Nat} {key : Nat}

/-- Whole bytes written from a key on. -/
theorem putWholeBytes_eq_setN (k off : Nat) (bs : List Byte) (m : List Host.Cell) :
    (wholeBytes off bs).foldl (fun m w => putWByte m (k + w.off) w) m = Memory.setN m (k + off) bs := by
  induction bs generalizing off m with
  | nil => rfl
  | cons b bs ih => rw [wholeBytes, List.foldl_cons, putWByte_whole, ih, Memory.setN, Nat.add_assoc]

/-- A byte at none of the offsets written reads as before. -/
theorem get_putMasked_other {j : Nat} (hf : ∀ n, (f n).off = n) (h : ∀ n ∈ ns, j ≠ key + n) :
    Memory.get (((ns.map f).filter fun b => b.bits != 0).foldl (fun m w => putWByte m (key + w.off) w) m) j =
      Memory.get m j := by
  induction ns generalizing m with
  | nil => rfl
  | cons n ns ih =>
    have hrest := fun (m : List Host.Cell) => ih (m := m) fun x hx => h x (List.mem_cons_of_mem n hx)
    rw [List.map_cons, List.filter_cons]
    split
    · rw [List.foldl_cons, hrest, hf, putWByte, Memory.get_set_other _ _ (h n List.mem_cons_self)]
    · exact hrest m

/-- A byte at an offset written has the bits that its mask lets through. -/
theorem get_putMasked_same {n : Nat} (hm : Memory.wf m = true) (hf : ∀ n, (f n).off = n) (hnd : ns.Nodup) (hn : n ∈ ns) :
    Memory.get (((ns.map f).filter fun b => b.bits != 0).foldl (fun m w => putWByte m (key + w.off) w) m) (key + n) =
      (Memory.get m (key + n) &&& ~~~(f n).bits) ||| ((f n).val &&& (f n).bits) := by
  induction ns generalizing m with
  | nil => exact absurd hn List.not_mem_nil
  | cons a ns ih =>
    obtain ⟨hnot, hnd⟩ := List.nodup_cons.1 hnd
    rw [List.map_cons, List.filter_cons]
    rcases List.mem_cons.1 hn with rfl | hn
    · have hrest := fun (m : List Host.Cell) => get_putMasked_other (m := m) (key := key) (j := key + n) hf
        (ns := ns) fun x hx he => hnot (by rwa [Nat.add_left_cancel he])
      split
      · rw [List.foldl_cons, hrest, hf, putWByte, Memory.get_set_same _ _ hm]
      · next hz =>
        have hz : (f n).bits = 0 := by simpa using hz
        have hkept : ~~~(0 : Byte) = BitVec.allOnes 8 := rfl
        rw [hrest, hz, hkept, BitVec.and_allOnes]
        simp
    · have hne : key + n ≠ key + a := fun he => hnot (by rwa [← Nat.add_left_cancel he])
      split
      · rw [List.foldl_cons, ih (m := putWByte m (key + (f a).off) (f a)) (Memory.wf_set _ _ hm) hnd hn, hf, putWByte,
          Memory.get_set_other _ _ hne]
      · exact ih hm hnd hn

end

/-! ### Where nothing is written -/

section
variable {s t : State} {sp : Space} {addr : Word} {r : Run} {data : List WByte} {off : Nat} {rs : List Run}

theorem noteTileWrite_frame (s : State) (core i : Nat) (whole : Bool) (ns : List Nat) :
    ∃ cores, noteTileWrite s core i whole ns = { s with cores := cores } := by
  unfold noteTileWrite
  split
  · exact ⟨s.cores, rfl⟩
  · split
    · exact ⟨s.cores, rfl⟩
    · exact ⟨_, rfl⟩

theorem noteOwner_frame (r : Run) (s : State) : ∃ cores, noteOwner r s = { s with cores := cores } := by
  unfold noteOwner
  split
  · split
    · exact ⟨s.cores, rfl⟩
    · split
      · split
        · exact noteTileWrite_frame ..
        · exact ⟨s.cores, rfl⟩
      · exact ⟨s.cores, rfl⟩
  · exact ⟨s.cores, rfl⟩
  · exact ⟨s.cores, rfl⟩

/-- The storage is as it was. -/
def SameStorage (s t : State) : Prop := t.mem = s.mem ∧ t.host = s.host

theorem SameStorage.trans {u : State} (h : SameStorage s t) (h' : SameStorage t u) : SameStorage s u :=
  ⟨h'.1.trans h.1, h'.2.trans h.2⟩

theorem SameStorage.modCore {n : Nat} {f : Core → Core} (h : SameStorage s t) : SameStorage s (t.modCore n f) := h

theorem sameStorage_sendRequest (id : Nat) (s : State) : SameStorage s (sendRequest id s) := by
  obtain ⟨mig, st, out, own, h⟩ := sendRequest_frame id s
  rw [h]
  exact ⟨rfl, rfl⟩

theorem sameStorage_noteOwner (r : Run) (s : State) : SameStorage s (noteOwner r s) := by
  obtain ⟨cores, h⟩ := noteOwner_frame r s
  rw [h]
  exact ⟨rfl, rfl⟩

/-- A run writes nothing at issue but bytes of tile memory or private space for which nothing waits. -/
theorem sameStorage_startRun (h : ∀ k, r.place = .here k → sp = .tile → storeWaits s k r.len = true) (rel : Option Scope) :
    SameStorage s (startRun sp addr rel r data s) := by
  unfold startRun
  split
  · exact ⟨rfl, rfl⟩
  · next k hk =>
    rw [if_neg fun hc => by simp [h k hk hc.1] at hc]
    exact ⟨rfl, rfl⟩
  · have hown {u : State} {p : Prop} [Decidable p] (hu : SameStorage s u) : SameStorage s (if p then u else noteOwner r u) := by
      split
      · exact hu
      · exact hu.trans (sameStorage_noteOwner r u)
    have hsend {u : State} (id : Nat) (hu : SameStorage s u) :
        SameStorage s (if rel.isNone then sendRequest id u else u) := by
      split
      · exact hu.trans (sameStorage_sendRequest id u)
      · exact hu
    refine hsend _ (SameStorage.modCore (hown ?_))
    exact ⟨rfl, rfl⟩

/-- The runs of a store elsewhere than in tile memory or private space write nothing at issue. -/
theorem sameStorage_startRuns (h : sp ≠ .tile) (rel : Option Scope) :
    SameStorage s (startRuns sp addr rel off rs data s) := by
  induction rs generalizing s off with
  | nil => exact ⟨rfl, rfl⟩
  | cons r rs ih =>
    unfold startRuns
    refine SameStorage.trans ?_ ih
    split
    · exact ⟨rfl, rfl⟩
    · exact sameStorage_startRun (fun _ _ hsp => absurd hsp h) rel

/-! ### Where the bytes are written -/

/-- The bytes of a store that fall in a run, each at its offset from the run's first byte. -/
def runBytes (off len : Nat) (data : List WByte) : List WByte :=
  (data.filter fun w => decide (off ≤ w.off) && decide (w.off < off + len)).map fun w => { w with off := w.off - off }

/-- Bytes were written at a key, and nothing else has changed that a store of tile memory looks at. -/
def Wrote (s t : State) (k : Nat) (data : List WByte) : Prop :=
  t.mem = data.foldl (fun m w => putWByte m (k + w.off) w) s.mem ∧ t.host = s.host ∧ t.ops = s.ops ∧ t.cur = s.cur

theorem wrote_run {k : Nat} (hk : r.place = .here k) (hw : storeWaits s k r.len = false) :
    Wrote s (if data = [] then s else startRun .tile addr none r data s) k data := by
  split
  · next h =>
    subst h
    exact ⟨rfl, rfl, rfl, rfl⟩
  · unfold startRun
    rw [hk]
    dsimp only
    rw [if_pos ⟨rfl, rfl, hw⟩]
    exact ⟨rfl, rfl, rfl, rfl⟩

end

end Sys2Proof.Machine
end

section
/-! SUPPORT. Vector loads and stores (07_vector R193–R195). -/

namespace Sys2Proof.Machine

open Sys2Proof

/-! ### The bytes of a tile access -/

section
variable {s : State} {addr : Word} {k : VAddr}

theorem tagOf_of_spaceOf_tile (h : spaceOf s addr = .tile) : tagOf addr.toNat = 0x8 ∨ tagOf addr.toNat = 0x9 := by
  unfold spaceOf at h
  split at h
  · next h8 => exact .inl h8
  · next h9 => exact .inr h9
  · cases h
  · cases h

/-- The bytes of an access to tile memory or private space lie in this package. -/
theorem isLocal_accessRuns (h : spaceOf s addr = .tile) (len : Nat) : ∀ r ∈ accessRuns s addr len, r.IsLocal := by
  intro r hr
  rcases tagOf_of_spaceOf_tile h with ht | ht
  · simp only [accessRuns, ht, List.mem_singleton] at hr
    subst hr
    nofun
  · simp only [accessRuns, ht] at hr
    split at hr
    · rw [List.mem_singleton.1 hr]
      nofun
    · exact absurd hr List.not_mem_nil

theorem isLocal_vmRuns (h : vmSpace s k addr = .tile) : ∀ r ∈ vmRuns s k addr, r.IsLocal := by
  cases k with
  | tile n m =>
    intro r hr
    unfold vmRuns at hr
    dsimp only at hr
    split at hr
    · rw [List.mem_singleton.1 hr]
      nofun
    · exact absurd hr List.not_mem_nil
  | generic m => exact isLocal_accessRuns h 256

theorem Place.IsLocal.shift {p : Place} (h : p.IsLocal) (n : Nat) : (p.shift n).IsLocal := by
  cases p with
  | far acc size g => exact absurd rfl (h acc size g)
  | here k => nofun
  | zero => nofun

/-- A run split by what is read of it lies where it lay. -/
theorem isLocal_splitRun {reads : Nat → Bool} {p : Place} (h : p.IsLocal) (off n : Nat) :
    ∀ r ∈ splitRun reads off p n, r.IsLocal := by
  induction n generalizing off p with
  | zero => exact fun r hr => absurd hr List.not_mem_nil
  | succ n ih =>
    have hrest := ih (h.shift 1) (off + 1)
    have hq : (if reads off then p else .zero : Place).IsLocal := by
      split
      · exact h
      · nofun
    intro r hr
    unfold splitRun at hr
    dsimp only at hr
    generalize (if reads off then p else .zero : Place) = q at hr hq
    split at hr
    · next x xs hx =>
      rw [hx] at hrest
      split at hr
      · rcases List.mem_cons.1 hr with rfl | hr
        · exact hq
        · exact hrest r (List.mem_cons_of_mem x hr)
      · rcases List.mem_cons.1 hr with rfl | hr
        · exact hq
        · exact hrest r (hx ▸ hr)
    · rw [List.mem_singleton.1 hr]
      exact hq

theorem isLocal_maskRuns {rs : List Run} (h : ∀ r ∈ rs, r.IsLocal) (m : MaskWord) (off : Nat) :
    ∀ r ∈ maskRuns m off rs, r.IsLocal := by
  induction rs generalizing off with
  | nil => exact fun r hr => absurd hr List.not_mem_nil
  | cons x xs ih =>
    intro r hr
    rcases List.mem_append.1 hr with hr | hr
    · exact isLocal_splitRun (h x List.mem_cons_self) _ _ r hr
    · exact ih (fun r hr => h r (List.mem_cons_of_mem x hr)) _ r hr

theorem isLocal_vldRuns (h : vmSpace s k addr = .tile) : ∀ r ∈ vldRuns s k addr, r.IsLocal := by
  unfold vldRuns
  dsimp only
  split
  · exact isLocal_vmRuns h
  · exact isLocal_maskRuns (isLocal_vmRuns h) _ _

end

/-! ### The checks of a tile offset -/

section
variable {off al len bytes : Nat}

/-- The checks of an access to a tile: the offset's alignment, then the tile's bounds (07_vector R193, R197). -/
def offsetCheck (off al len bytes : Nat) : Verdict :=
  (require (off % al == 0) .align 0).seq (require (decide (off + len ≤ bytes)) .tileBounds 0)

theorem offsetCheck_ok (ha : off % al = 0) (hb : off + len ≤ bytes) : offsetCheck off al len bytes = .ok := by
  rw [offsetCheck, beq_eq_decide, require_of ha, require_of hb, Verdict.seq_ok]

theorem offsetCheck_align (ha : off % al ≠ 0) : offsetCheck off al len bytes = .fault .align 0 0 false none := by
  rw [offsetCheck, beq_eq_decide, require_of_not ha, Verdict.seq_fault]

theorem offsetCheck_bounds (ha : off % al = 0) (hb : bytes < off + len) :
    offsetCheck off al len bytes = .fault .tileBounds 0 0 false none := by
  rw [offsetCheck, beq_eq_decide, require_of ha, require_of_not (Nat.not_le.2 hb), Verdict.seq_ok]

theorem vmCheck_tile {s : State} {h : BitVec 8} {i : Nat} {e : TileEntry} (ht : vmTile s h = some (i, e)) (wr masked : Bool)
    (addr : Word) : vmCheck s wr (.tile h masked) addr = offsetCheck addr.toNat 8 256 (tileBytes e) := by
  simp only [vmCheck, ht, offsetCheck]

end

/-! ### VLD -/

section
variable {o : Out} {s : State} {x : Fin 32} {k : VAddr} {a : SSrc}

theorem execVld_issues (ho : o = execVld x k a s) (ha : Alone s) (hr : RoomFor s Need.push) (hn : needS s a = .ok)
    (hk : vmCheck s false k (s.rs a) = .ok) (hh : accessHeld s false (vmRuns s k (s.rs a)) = false) :
    Issues o (startLoad { vectorPush x (vldLatency (vmSpace s k (s.rs a))) 0 0 with
        addr := s.rs a, rmask := rmaskRuns 0 (vmRuns s k (s.rs a)) &&& vmMask s k }
      (vmSpace s k (s.rs a)) (vldRuns s k (s.rs a)) 256 false (vmMask s k) none s) :=
  issues_of ho ha hr (by simp [hn, hk, hh, holdIf_false]) rfl

theorem execVld_faults {code : FaultCode} (ho : o = execVld x k a s) (ha : Alone s) (hn : needS s a = .ok)
    (hk : vmCheck s false k (s.rs a) = .fault code 0 0 false none) : Faults o code 0 0 s :=
  faults_of ho ha (by simp [hn, hk])

theorem vldLatency_of_ne_tile {sp : Space} (h : sp ≠ .tile) : vldLatency sp = if sp = .ring then 26 else 80 := by
  cases sp with
  | tile => exact absurd rfl h
  | ring => rfl
  | global => rfl

/-! ### VST -/

/-- The state in which a vector store starts its runs: its pages are used. -/
def vstPages (k : VAddr) (x : Word) (s : State) : State :=
  match k with
  | .tile _ _ => s
  | .generic _ => usePages x 256 s

theorem prepared_vstPages (k : VAddr) (addr : Word) (s : State) : Prepared s (vstPages k addr s) := by
  cases k with
  | tile h m => exact .refl s
  | generic m => exact prepared_usePages ..

theorem vstPages_of_tile {addr : Word} (h : vmSpace s k addr = .tile) : vstPages k addr s = s := by
  cases k with
  | tile n m => rfl
  | generic m =>
    refine if_neg ?_
    rcases tagOf_of_spaceOf_tile h with ht | ht <;> rw [ht] <;> decide

/-- A vector store starts its runs; what it notes of its tile is in its core's tile table. -/
theorem doVst_frame (k : VAddr) (addr : Word) (v : VWord) (s : State) : ∃ cores, doVst k addr v s =
    { startRuns (vmSpace s k addr) addr none 0 (vmRuns s k addr) (maskedBytes (vmMask s k) v) (vstPages k addr s) with
      cores := cores } := by
  cases k with
  | tile h m =>
    unfold doVst
    dsimp only
    split
    · exact noteTileWrite_frame ..
    · exact ⟨_, rfl⟩
  | generic m =>
    unfold doVst
    dsimp only
    split
    · exact noteTileWrite_frame ..
    · exact ⟨_, rfl⟩

theorem runBytes_maskedBytes (m : MaskWord) (v : VWord) : runBytes 0 256 (maskedBytes m v) = maskedBytes m v := by
  have hall : ∀ w ∈ maskedBytes m v, (decide (0 ≤ w.off) && decide (w.off < 0 + 256)) = true := fun w hw => by
    obtain ⟨n, hn, rfl⟩ := List.mem_map.1 (List.mem_of_mem_filter hw)
    simpa using List.mem_range.1 hn
  rw [runBytes, List.filter_eq_self.2 hall]
  exact List.map_id _

section
variable {addr : Word} {v : VWord} {key : Nat}

/-- A vector store to a tile for which nothing waits writes its bytes at issue. -/
theorem doVst_writes (hsp : vmSpace s k addr = .tile) (hruns : vmRuns s k addr = [⟨.here key, 256⟩])
    (hw : storeWaits s key 256 = false) :
    (doVst k addr v s).mem = (maskedBytes (vmMask s k) v).foldl (fun m w => putWByte m (key + w.off) w) s.mem ∧
      (doVst k addr v s).host = s.host ∧ (doVst k addr v s).ops = s.ops := by
  obtain ⟨cores, h⟩ := doVst_frame k addr v s
  have hrun := wrote_run (addr := addr) (r := ⟨.here key, 256⟩) (data := maskedBytes (vmMask s k) v) rfl hw
  have hstart : startRuns .tile addr none 0 [⟨.here key, 256⟩] (maskedBytes (vmMask s k) v) s =
      if maskedBytes (vmMask s k) v = [] then s
      else startRun .tile addr none ⟨.here key, 256⟩ (maskedBytes (vmMask s k) v) s := by
    have hmine := runBytes_maskedBytes (vmMask s k) v
    unfold runBytes at hmine
    simp only [startRuns, hmine]
  rw [hsp, hruns, vstPages_of_tile hsp, hstart] at h
  obtain ⟨hmem, hhost, hops, -⟩ := hrun
  rw [h]
  exact ⟨hmem, hhost, hops⟩

/-- A vector store elsewhere, or one that waits its turn, leaves memory as it is. -/
theorem doVst_sameMemory (h : vmSpace s k addr ≠ .tile ∨
    ∃ key, vmRuns s k addr = [⟨.here key, 256⟩] ∧ storeWaits s key 256 = true) : SameMemory s (doVst k addr v s) := by
  obtain ⟨cores, hf⟩ := doVst_frame k addr v s
  have hruns : SameStorage s
      (startRuns (vmSpace s k addr) addr none 0 (vmRuns s k addr) (maskedBytes (vmMask s k) v) (vstPages k addr s)) := by
    by_cases hsp : vmSpace s k addr = .tile
    · obtain ⟨key, hr, hw⟩ := h.resolve_left (not_not.2 hsp)
      rw [vstPages_of_tile hsp, hr]
      unfold startRuns startRuns
      dsimp only
      split
      · exact ⟨rfl, rfl⟩
      · refine sameStorage_startRun (fun j hj _ => ?_) none
        cases hj
        exact hw
    · obtain ⟨cores, sys, hp, -⟩ := prepared_vstPages k addr s
      exact SameStorage.trans (by rw [hp]; exact ⟨rfl, rfl⟩) (sameStorage_startRuns hsp none)
  rw [hf]
  exact .of_eq hruns.1 hruns.2

end

theorem execVst_issues (ho : o = execVst x k a s) (ha : Alone s)
    (hr : RoomFor s (postedNeed s (s.rs a) (farWrites 0 (vmRuns s k (s.rs a)) (maskedBytes (vmMask s k) (s.rv (.v x))))))
    (hn : needS s a = .ok) (hv : needV s (.v x) = .ok) (hk : vmCheck s true k (s.rs a) = .ok)
    (hh : holdStore s k (s.rs a) = .ok) : Issues o (doVst k (s.rs a) (s.rv (.v x)) s) :=
  issues_of ho ha hr (by simp [hn, hv, hk, hh]) rfl

end

/-- Settles O19: a load by its space, a store by whether its bytes are written at issue, a tile mode's fault by its check. -/
theorem vectorMemoryResults : Obligations.VectorMemoryResults := by
  intro s x k a hm ha hn addr runs sp m reads got
  have hvld : exec (.vld x k a) s = execVld x k a s := rfl
  have hvst : exec (.vst x k a) s = execVst x k a s := rfl
  refine ⟨fun hk hh hr => ?load, fun hk hv hh hr => ?store, fun h masked hkey hnone => ?handle,
    fun h masked i e hkey htile => ⟨fun hal => ?align, fun hal hb => ?bounds⟩⟩
  case load =>
    have hissues := execVld_issues hvld ha hr hn hk hh
    refine ⟨fun hsp hgot => ?_, fun hsp hne => ?_, ?_⟩
    · replace hsp : vmSpace s k (s.rs a) = .tile := hsp
      obtain ⟨u, hprep, hload⟩ := startLoad_tile (isLocal_vldRuns hsp) hgot
      obtain ⟨hsame, hpush⟩ := hprep.addPush (loadedPush _ _)
      rw [hsp, hload] at hissues
      exact ⟨_, _, hissues, hsame, hprep.ops, hpush, rfl, rfl, rfl, rfl, rfl⟩
    · obtain ⟨⟨hsame, hpush⟩, hstarted⟩ := startLoad_awaits hsp hne
      exact ⟨_, _, hissues, hsame, hpush, rfl, rfl, vldLatency_of_ne_tile hsp, rfl, hstarted⟩
    · obtain ⟨q, hsame, hpush⟩ := startLoad_pushes _ _ _ _ _ _ _ _
      exact ⟨_, hissues, hsame, by rw [hpush, List.length_append, List.length_singleton]⟩
  case store =>
    have hissues := execVst_issues hvst ha hr hn hv hk hh
    refine ⟨fun hsp key hruns hw => ?_, fun h => ⟨_, hissues, doVst_sameMemory h⟩⟩
    obtain ⟨hmem, hhost, hops⟩ := doVst_writes (v := s.rv (.v x)) hsp hruns hw
    refine ⟨_, hissues, hops, hhost, fun j hj => ?_, fun c hc => ?_⟩
    · rw [hmem]
      exact get_putMasked_same hm.mem (fun _ => rfl) List.nodup_range (List.mem_range.2 hj)
    · rw [hmem]
      refine get_putMasked_other (fun _ => rfl) fun n hn => ?_
      have := List.mem_range.1 hn
      omega
  case handle =>
    subst hkey
    exact execVld_faults hvld ha hn (by simp only [vmCheck, vmTile, hnone, faultV])
  case align =>
    subst hkey
    exact execVld_faults hvld ha hn ((vmCheck_tile htile ..).trans (offsetCheck_align hal))
  case bounds =>
    subst hkey
    exact execVld_faults hvld ha hn ((vmCheck_tile htile ..).trans (offsetCheck_bounds hal hb))

end Sys2Proof.Machine
end

section
/-! SUPPORT. The bytes that a load takes from its runs, in their order, and the bytes that the runs of a store write, in
theirs. -/

namespace Sys2Proof.Machine

open Sys2Proof

/-! ### Little-endian numbers (00_scope R5) -/

theorem leNat_lt (bs : List Byte) : leNat bs < 2 ^ (8 * bs.length) := by
  induction bs with
  | nil => exact Nat.one_pos
  | cons b bs ih =>
    have hb := b.isLt
    rw [leNat, List.length_cons, Nat.mul_succ, Nat.pow_add]
    omega

theorem leNat_append (xs ys : List Byte) : leNat (xs ++ ys) = leNat xs + 2 ^ (8 * xs.length) * leNat ys := by
  induction xs with
  | nil => simp [leNat]
  | cons x xs ih =>
    rw [List.cons_append, leNat, ih, leNat, List.length_cons, Nat.mul_succ, Nat.pow_add]
    ring

/-- Numbers of some bytes each, one after the other, are packed lanes. -/
theorem leNat_flatten {n : Nat} {cs : List (List Byte)} (h : ∀ c ∈ cs, c.length = n) :
    leNat cs.flatten = packLanes (8 * n) (cs.map leNat) := by
  induction cs with
  | nil => rfl
  | cons c cs ih =>
    have hc := h c List.mem_cons_self
    have hlt := leNat_lt c
    rw [hc] at hlt
    rw [List.flatten_cons, leNat_append, hc, ih fun x hx => h x (List.mem_cons_of_mem c hx), List.map_cons, packLanes,
      Nat.mod_eq_of_lt hlt]

theorem leNat_replicate_zero (n : Nat) : leNat (List.replicate n (0 : Byte)) = 0 := by
  induction n with
  | zero => rfl
  | succ n ih => rw [List.replicate_succ, leNat, ih]; rfl

theorem leBytes_getD {n j : Nat} (x : Nat) (h : j < n) : (leBytes n x).getD j 0 = BitVec.ofNat 8 (x / 256 ^ j) := by
  induction n generalizing x j with
  | zero => omega
  | succ n ih =>
    cases j with
    | zero => simp [leBytes]
    | succ j =>
      rw [leBytes, List.getD_cons_succ, ih _ (Nat.lt_of_succ_lt_succ h), Nat.div_div_eq_div_mul, Nat.pow_succ,
        Nat.mul_comm]

/-! ### The bytes taken from some runs -/

section
variable {s : State} {core bound off i : Nat} {rs : List Run}

/-- The bytes that a load takes from a run, zero where it takes none. -/
def takenBytes (s : State) (core bound : Nat) (r : Run) : List Byte :=
  match r.place with
  | .here k => coreBytes s core bound k r.len
  | .far _ _ _ | .zero => List.replicate r.len 0

theorem takenBytes_length (r : Run) : (takenBytes s core bound r).length = r.len := by
  unfold takenBytes
  split <;> simp

/-- What is taken of some runs stands at the runs' offsets. -/
theorem le_of_mem_takeRuns : ∀ g ∈ (takeRuns s core bound off rs).1, off ≤ g.1 := by
  induction rs generalizing off with
  | nil => exact fun g hg => absurd hg List.not_mem_nil
  | cons r rs ih =>
    have hrest := ih (off := off + r.len)
    intro g hg
    unfold takeRuns at hg
    split at hg
    · rcases List.mem_append.1 hg with hg | hg
      · obtain ⟨j, -, hj⟩ := List.mem_map.1 (List.of_mem_zip (a := g.1) (b := g.2) hg).1
        omega
      · have := hrest g hg
        omega
    · have := hrest g hg
      omega
    · have := hrest g hg
      omega

theorem find?_takeRuns_below (h : i < off) : (takeRuns s core bound off rs).1.find? (fun g => g.1 == i) = none :=
  List.find?_eq_none.2 fun g hg => by
    have := le_of_mem_takeRuns g hg
    simp only [beq_iff_eq]
    omega

/-- A byte of a run is found at its offset. -/
theorem find?_zip_range (bs : List Byte) (off i : Nat) :
    (((List.range bs.length).map (· + off)).zip bs).find? (fun g => g.1 == off + i) =
      (bs[i]?).map fun b => (off + i, b) := by
  by_cases h : i < bs.length
  · rw [List.getElem?_eq_getElem h]
    exact List.find?_eq_some_iff_getElem.2 ⟨by simp, i, by simpa using h, by simp [Nat.add_comm], fun j hj => by simp; omega⟩
  · rw [List.getElem?_eq_none (Nat.not_lt.1 h)]
    refine List.find?_eq_none.2 fun g hg => ?_
    obtain ⟨j, hj, hg⟩ := List.mem_map.1 (List.of_mem_zip (a := g.1) (b := g.2) hg).1
    have := List.mem_range.1 hj
    simp only [beq_iff_eq]
    omega

/-- A run of this package's bytes gives them, before those of the runs after it. -/
theorem takeRuns_cons_here {r : Run} {k : Nat} (h : r.place = .here k) : (takeRuns s core bound off (r :: rs)).1 =
    ((List.range (takenBytes s core bound r).length).map (· + off)).zip (takenBytes s core bound r) ++
      (takeRuns s core bound (off + r.len) rs).1 := by
  rw [takenBytes_length]
  simp only [takeRuns, takenBytes, h]

/-- A run of no bytes here gives none. -/
theorem takeRuns_cons_other {r : Run} (h : ∀ k, r.place ≠ .here k) : (takeRuns s core bound off (r :: rs)).1 =
    (takeRuns s core bound (off + r.len) rs).1 ∧ takenBytes s core bound r = List.replicate r.len 0 := by
  cases hp : r.place with
  | here k => exact absurd hp (h k)
  | far acc size g => simp only [takeRuns, takenBytes, hp, and_self]
  | zero => simp only [takeRuns, takenBytes, hp, and_self]

/-- A byte found among those taken is the byte of its run. -/
theorem find?_takeRuns (i : Nat) :
    (((takeRuns s core bound off rs).1.find? fun g => g.1 == off + i).map Prod.snd).getD 0 =
      (rs.map (takenBytes s core bound)).flatten.getD i 0 := by
  induction rs generalizing off i with
  | nil => rfl
  | cons r rs ih =>
    have hlen := takenBytes_length (s := s) (core := core) (bound := bound) r
    have hfound : (((takeRuns s core bound off (r :: rs)).1.find? fun g => g.1 == off + i).map Prod.snd).getD 0 =
        if i < r.len then (takenBytes s core bound r).getD i 0
        else (((takeRuns s core bound (off + r.len) rs).1.find? fun g => g.1 == off + i).map Prod.snd).getD 0 := by
      by_cases hp : ∃ k, r.place = .here k
      · obtain ⟨k, hk⟩ := hp
        rw [takeRuns_cons_here hk, List.find?_append, find?_zip_range]
        split_ifs with hi
        · simp [List.getElem?_eq_getElem (hlen ▸ hi)]
        · simp [List.getElem?_eq_none (Nat.not_lt.1 (hlen ▸ hi))]
      · obtain ⟨hrest, htaken⟩ := takeRuns_cons_other (s := s) (core := core) (bound := bound) (off := off) (rs := rs)
          (not_exists.1 hp)
        rw [hrest, htaken]
        split_ifs with hi
        · rw [find?_takeRuns_below (by omega)]
          simp [hi]
        · rfl
    rw [hfound, List.map_cons, List.flatten_cons]
    split_ifs with hi
    · rw [List.getD_append _ _ _ _ (hlen ▸ hi)]
    · have hoff : off + i = off + r.len + (i - r.len) := by omega
      rw [hoff, ih, List.getD_append_right _ _ _ _ (by omega), hlen]

/-- The bytes of a load in the order of its runs. -/
theorem gotBytes_takeRuns {n : Nat} (h : (rs.map (takenBytes s core bound)).flatten.length = n) :
    gotBytes n (takeRuns s core bound 0 rs).1 = (rs.map (takenBytes s core bound)).flatten := by
  refine List.ext_getElem (by simp [gotBytes, h]) fun i hi hb => ?_
  have hbyte := find?_takeRuns (s := s) (core := core) (bound := bound) (off := 0) (rs := rs) i
  rw [Nat.zero_add, List.getD_eq_getElem _ _ hb] at hbyte
  simpa [gotBytes] using hbyte

end

/-! ### The bytes that the runs of a store write -/

section
variable {off len : Nat}

theorem wholeBytes_append (off : Nat) (xs ys : List Byte) :
    wholeBytes off (xs ++ ys) = wholeBytes off xs ++ wholeBytes (off + xs.length) ys := by
  induction xs generalizing off with
  | nil => rfl
  | cons x xs ih =>
    rw [List.cons_append, wholeBytes, ih, wholeBytes, List.cons_append, List.length_cons, Nat.add_assoc, Nat.add_comm 1]

theorem mem_wholeBytes {bs : List Byte} {w : WByte} (h : w ∈ wholeBytes off bs) : off ≤ w.off ∧ w.off < off + bs.length := by
  induction bs generalizing off with
  | nil => exact absurd h List.not_mem_nil
  | cons b bs ih =>
    rw [List.length_cons]
    rcases List.mem_cons.1 h with rfl | h
    · dsimp only
      omega
    · have := ih h
      omega

theorem wholeBytes_shift (off a : Nat) (bs : List Byte) :
    (wholeBytes (off + a) bs).map (fun w => { w with off := w.off - off }) = wholeBytes a bs := by
  induction bs generalizing a with
  | nil => rfl
  | cons b bs ih => rw [wholeBytes, List.map_cons, Nat.add_assoc, ih (a + 1), wholeBytes, Nat.add_sub_cancel_left]

/-- Among the bytes of consecutive runs, a run's own are those at its offsets. -/
theorem runBytes_wholeBytes {pre : List WByte} (hpre : ∀ w ∈ pre, w.off < off) (bs rest : List Byte) :
    runBytes off bs.length (pre ++ wholeBytes off (bs ++ rest)) = wholeBytes 0 bs := by
  have hbefore : pre.filter (fun w => decide (off ≤ w.off) && decide (w.off < off + bs.length)) = [] :=
    List.filter_eq_nil_iff.2 fun w hw => by
      have := hpre w hw
      simp
      omega
  have hown : (wholeBytes off bs).filter (fun w => decide (off ≤ w.off) && decide (w.off < off + bs.length)) =
      wholeBytes off bs := List.filter_eq_self.2 fun w hw => by
    have := mem_wholeBytes hw
    simpa using this
  have hafter : (wholeBytes (off + bs.length) rest).filter
      (fun w => decide (off ≤ w.off) && decide (w.off < off + bs.length)) = [] :=
    List.filter_eq_nil_iff.2 fun w hw => by
      have := mem_wholeBytes hw
      simp
      omega
  rw [runBytes, wholeBytes_append, List.filter_append, List.filter_append, hbefore, hown, hafter, List.append_nil,
    List.nil_append]
  exact wholeBytes_shift off 0 bs

end

section
variable {s t : State} {addr : Word} {off : Nat} {ps : List (Nat × List Byte)} {m : List Host.Cell}

theorem storeWaits_congr (hops : t.ops = s.ops) (hcur : t.cur = s.cur) (k len : Nat) :
    storeWaits t k len = storeWaits s k len := by
  rw [storeWaits, storeWaits, hops, hcur]

/-- The runs of a store of whole bytes to tile memory, for none of which anything waits, write them in order. -/
theorem startRuns_writes {pre : List WByte} (hpre : ∀ w ∈ pre, w.off < off)
    (hw : ∀ p ∈ ps, storeWaits s p.1 p.2.length = false) :
    (startRuns .tile addr none off (ps.map fun p => ⟨.here p.1, p.2.length⟩)
        (pre ++ wholeBytes off (ps.map Prod.snd).flatten) s).mem =
      ps.foldl (fun m p => Memory.setN m p.1 p.2) s.mem ∧
    (startRuns .tile addr none off (ps.map fun p => ⟨.here p.1, p.2.length⟩)
        (pre ++ wholeBytes off (ps.map Prod.snd).flatten) s).host = s.host := by
  induction ps generalizing s off pre with
  | nil => exact ⟨rfl, rfl⟩
  | cons p ps ih =>
    obtain ⟨k, bs⟩ := p
    have hmine := runBytes_wholeBytes hpre bs (ps.map Prod.snd).flatten
    have hrun := wrote_run (addr := addr) (r := ⟨.here k, bs.length⟩) (data := wholeBytes 0 bs) rfl
      (hw (k, bs) List.mem_cons_self)
    obtain ⟨hmem, hhost, hops, hcur⟩ := hrun
    have hpre' : ∀ w ∈ pre ++ wholeBytes off bs, w.off < off + bs.length := fun w hmem => by
      rcases List.mem_append.1 hmem with h | h
      · exact (hpre w h).trans_le (Nat.le_add_right ..)
      · exact (mem_wholeBytes h).2
    have hrest := ih hpre' fun p hp => (storeWaits_congr hops hcur ..).trans (hw p (List.mem_cons_of_mem _ hp))
    rw [List.append_assoc, ← wholeBytes_append] at hrest
    rw [hmem, hhost, putWholeBytes_eq_setN, Nat.add_zero] at hrest
    unfold runBytes at hmine
    simpa only [List.map_cons, List.flatten_cons, startRuns, hmine, List.foldl_cons] using hrest

/-- A byte in none of some writes reads as before. -/
theorem get_foldl_setN_other {k : Nat} (h : ∀ p ∈ ps, k < p.1 ∨ p.1 + p.2.length ≤ k) :
    Memory.get (ps.foldl (fun m p => Memory.setN m p.1 p.2) m) k = Memory.get m k := by
  induction ps generalizing m with
  | nil => rfl
  | cons p ps ih =>
    rw [List.foldl_cons, ih fun q hq => h q (List.mem_cons_of_mem p hq), Memory.get_setN_other _ _ (h p List.mem_cons_self)]

theorem wf_foldl_setN (h : Memory.wf m = true) :
    Memory.wf (ps.foldl (fun m p => Memory.setN m p.1 p.2) m) = true := by
  induction ps generalizing m with
  | nil => exact h
  | cons p ps ih => exact ih (Memory.wf_setN _ _ h)

/-- A byte reads as the last write that covers it leaves it. -/
theorem get_foldl_setN_last {qs : List (Nat × List Byte)} {p : Nat × List Byte} {j : Nat} (hm : Memory.wf m = true)
    (hj : j < p.2.length) (h : ∀ q ∈ qs, p.1 + j < q.1 ∨ q.1 + q.2.length ≤ p.1 + j) :
    Memory.get ((ps ++ p :: qs).foldl (fun m p => Memory.setN m p.1 p.2) m) (p.1 + j) = p.2.getD j 0 := by
  rw [List.foldl_append, List.foldl_cons, get_foldl_setN_other h, Memory.get_setN_same _ _ (wf_foldl_setN hm) hj]

end

end Sys2Proof.Machine
end

section
/-! SUPPORT. Gathers and scatters (07_vector R197): the lanes that take part, the first bad one, and the last one that names a
word. -/

namespace Sys2Proof.Machine

open Sys2Proof

/-! ### The lanes that take part -/

section
variable {s : State} {masked : Bool} {l n : Nat}

/-- A lane takes part in an indexed access: it is unmasked, or its bit of the top mask is set. -/
def takesPart (s : State) (masked : Bool) (l : Nat) : Bool := !masked || s.ctx.maskTop.getLsbD (8 * l)

theorem takesPart_iff : takesPart s masked l = true ↔ (masked = true → s.ctx.maskTop.getLsbD (8 * l) = true) := by
  cases masked <;> simp [takesPart]

/-- A number chosen among those below a bound divides the chosen into the smaller and the larger. -/
theorem filter_range_split {p : Nat → Bool} (hl : l < n) (hp : p l = true) :
    ∃ later, (List.range n).filter p = (List.range l).filter p ++ l :: later ∧ ∀ j ∈ later, l < j ∧ j < n ∧ p j = true := by
  obtain ⟨k, rfl⟩ : ∃ k, n = l + 1 + k := ⟨n - (l + 1), by omega⟩
  refine ⟨((List.range k).map (l + 1 + ·)).filter p, ?_, fun j hj => ?_⟩
  · simp [List.range_add, List.range_succ, hp]
  · obtain ⟨hj, hpj⟩ := List.mem_filter.1 hj
    obtain ⟨i, hi, rfl⟩ := List.mem_map.1 hj
    have := List.mem_range.1 hi
    exact ⟨by omega, by omega, hpj⟩

end

/-! ### The checks -/

section
variable {s : State} {h : BitVec 8} {ix : VWord} {masked : Bool} {i l : Nat} {e : TileEntry} {code : FaultCode}

theorem firstV_append_of_ok {us : List Verdict} (hu : ∀ u ∈ us, u = .ok) (vs : List Verdict) :
    firstV (us ++ vs) = firstV vs := by
  induction us with
  | nil => rfl
  | cons u us ih =>
    rw [List.cons_append, firstV, hu u List.mem_cons_self, Verdict.seq_ok, ih fun v hv => hu v (List.mem_cons_of_mem u hv)]

theorem firstV_of_ok {us : List Verdict} (hu : ∀ u ∈ us, u = .ok) : firstV us = .ok := by
  simpa [firstV] using firstV_append_of_ok hu []

/-- An offset names a word of a tile. -/
def NamesWord (e : TileEntry) (off : Nat) : Prop := off % 4 = 0 ∧ off + 4 ≤ tileBytes e

theorem NamesWord.check {off : Nat} (h : NamesWord e off) : offsetCheck off 4 4 (tileBytes e) = .ok := offsetCheck_ok h.1 h.2

theorem offsetCheck_fault {off : Nat}
    (h : off % 4 ≠ 0 ∧ code = .align ∨ off % 4 = 0 ∧ tileBytes e < off + 4 ∧ code = .tileBounds) :
    offsetCheck off 4 4 (tileBytes e) = .fault code 0 0 false none := by
  rcases h with ⟨ha, rfl⟩ | ⟨ha, hb, rfl⟩
  · exact offsetCheck_align ha
  · exact offsetCheck_bounds ha hb

theorem checkIndexed_tile (ht : vmTile s h = some (i, e)) : checkIndexed s h ix masked =
    firstV (((List.range 64).filter (takesPart s masked)).map fun l => offsetCheck (laneOf 32 ix l) 4 4 (tileBytes e)) := by
  simp only [checkIndexed, ht, indexLanes, List.map_map]
  rfl

theorem checkIndexed_ok (ht : vmTile s h = some (i, e))
    (hgood : ∀ l, l < 64 → takesPart s masked l = true → NamesWord e (laneOf 32 ix l)) :
    checkIndexed s h ix masked = .ok := by
  rw [checkIndexed_tile ht]
  refine firstV_of_ok fun v hv => ?_
  obtain ⟨l, hl, rfl⟩ := List.mem_map.1 hv
  obtain ⟨hl, hp⟩ := List.mem_filter.1 hl
  exact (hgood l (List.mem_range.1 hl) hp).check

/-- The first lane with a bad offset faults. -/
theorem checkIndexed_fault (ht : vmTile s h = some (i, e)) (hl : l < 64) (hp : takesPart s masked l = true)
    (hbefore : ∀ j, j < l → takesPart s masked j = true → NamesWord e (laneOf 32 ix j))
    (hbad : offsetCheck (laneOf 32 ix l) 4 4 (tileBytes e) = .fault code 0 0 false none) :
    checkIndexed s h ix masked = .fault code 0 0 false none := by
  obtain ⟨later, hsplit, -⟩ := filter_range_split hl hp
  rw [checkIndexed_tile ht, hsplit, List.map_append, firstV_append_of_ok, List.map_cons, firstV, hbad, Verdict.seq_fault]
  intro v hv
  obtain ⟨j, hj, rfl⟩ := List.mem_map.1 hv
  obtain ⟨hj, hpj⟩ := List.mem_filter.1 hj
  exact (hbefore j (List.mem_range.1 hj) hpj).check

end

/-! ### VLDX -/

section
variable {o : Out} {s : State} {x : Fin 32} {h : BitVec 8} {a : VSrc} {masked : Bool} {i : Nat} {e : TileEntry}
  {ix : VWord} {code : FaultCode}

/-- The load that a gather starts. -/
def gather (x : Fin 32) (e : TileEntry) (ix : VWord) (masked : Bool) (s : State) : State :=
  startLoad (vectorPush x (vldLatency (tileSpace e)) 0 0) (tileSpace e) (gatherRuns s e ix masked) 256 false
    (BitVec.allOnes 512) none s

theorem execVldx_issues (ho : o = execVldx x h a masked s) (ha : Alone s) (hr : RoomFor s Need.push) (hn : needV s a = .ok)
    (ht : vmTile s h = some (i, e)) (hk : checkIndexed s h (s.rv a) masked = .ok)
    (hh : holdIndexed s h (s.rv a) masked false = .ok) : Issues o (gather x e (s.rv a) masked s) :=
  issues_of ho ha hr (by simp [hn, hk, hh]) (by simp only [doVldx, ht, gather])

theorem execVldx_faults (ho : o = execVldx x h a masked s) (ha : Alone s) (hn : needV s a = .ok)
    (hk : checkIndexed s h (s.rv a) masked = .fault code 0 0 false none) : Faults o code 0 0 s :=
  faults_of ho ha (by simp [hn, hk])

/-- Lane `l` of 64 words loaded is what its run gives. -/
theorem laneOf_loadedWords {core bound l : Nat} {rs : List Run} (hn : rs.length = 64) (hlen : ∀ r ∈ rs, r.len = 4)
    (hl : l < rs.length) :
    laneOf 32 (vectorOf (BitVec.allOnes 512) (gotBytes 256 (takeRuns s core bound 0 rs).1)) l =
      leNat (takenBytes s core bound rs[l]) := by
  have hfour : ∀ c ∈ rs.map (takenBytes s core bound), c.length = 4 := fun c hc => by
    obtain ⟨r, hr, rfl⟩ := List.mem_map.1 hc
    rw [takenBytes_length, hlen r hr]
  have hbytes : (rs.map (takenBytes s core bound)).flatten.length = 256 := by
    have hlens : (rs.map (takenBytes s core bound)).map List.length = List.replicate 64 4 :=
      List.eq_replicate_iff.2 ⟨by simp [hn], fun b hb => by
        obtain ⟨c, hc, rfl⟩ := List.mem_map.1 hb
        exact hfour c hc⟩
    rw [List.length_flatten, hlens]
    rfl
  have hlt := leNat_lt (takenBytes s core bound rs[l])
  rw [takenBytes_length, hlen _ (List.getElem_mem hl)] at hlt
  have hlanes : ((rs.map (takenBytes s core bound)).map leNat).length = laneCount 32 := by simp [hn, laneCount]
  rw [gotBytes_takeRuns hbytes, vectorOf, if_pos rfl, leNat_flatten hfour, laneOf_packLanes hlanes,
    List.getD_eq_getElem _ _ (by simpa using hl), List.getElem_map, List.getElem_map, Nat.mod_eq_of_lt hlt]

theorem gatherRuns_length : (gatherRuns s e ix masked).length = 64 := by simp [gatherRuns]

/-- The run of a lane of a gather. -/
theorem gatherRuns_getElem {l : Nat} (hl : l < (gatherRuns s e ix masked).length) : (gatherRuns s e ix masked)[l] =
    if takesPart s masked l then ⟨.here (tileByteKey s.cur e (laneOf 32 ix l)), 4⟩ else ⟨.zero, 4⟩ := by
  simp only [gatherRuns, List.getElem_map, List.getElem_range]
  rfl

theorem mem_gatherRuns {r : Run} (hr : r ∈ gatherRuns s e ix masked) : r.len = 4 ∧ r.IsLocal := by
  obtain ⟨l, hl, rfl⟩ := List.getElem_of_mem hr
  rw [gatherRuns_getElem hl]
  split
  · exact ⟨rfl, nofun⟩
  · exact ⟨rfl, nofun⟩

/-- A gather pushes, and writes no memory. -/
theorem gather_pushes (x : Fin 32) (e : TileEntry) (ix : VWord) (masked : Bool) (s : State) :
    ∃ q, Pushed s (gather x e ix masked s) q := startLoad_pushes ..

/-- A gather of tile memory pushes what its runs give, ready. -/
theorem gather_tile (he : e.level = .tile) (hgot : (takeRuns s s.cur s.nextOp 0 (gatherRuns s e ix masked)).2 = none) :
    ∃ q, Pushed s (gather x e ix masked s) q ∧ q.vec = true ∧ q.dest = x.val ∧ q.count = 6 ∧ q.state = .ready ∧
      q.vval = vectorOf (BitVec.allOnes 512)
        (gotBytes 256 (takeRuns s s.cur s.nextOp 0 (gatherRuns s e ix masked)).1) := by
  have hsp : tileSpace e = .tile := by simp only [tileSpace, he]
  obtain ⟨u, hprep, hload⟩ := startLoad_tile (fun r hr => (mem_gatherRuns hr).2) hgot
  rw [gather, hsp, hload]
  generalize BitVec.allOnes 512 = m
  exact ⟨_, hprep.addPush _, rfl, rfl, rfl, rfl, rfl⟩

/-- The value of a gather: a lane that takes part has its word, any other is zero. -/
theorem laneOf_gathered {core bound l : Nat} (hl : l < 64) :
    laneOf 32 (vectorOf (BitVec.allOnes 512) (gotBytes 256 (takeRuns s core bound 0 (gatherRuns s e ix masked)).1)) l =
      if takesPart s masked l then leNat (coreBytes s core bound (tileByteKey s.cur e (laneOf 32 ix l)) 4) else 0 := by
  have hl' : l < (gatherRuns s e ix masked).length := gatherRuns_length.symm ▸ hl
  rw [laneOf_loadedWords gatherRuns_length (fun r hr => (mem_gatherRuns hr).1) hl', gatherRuns_getElem]
  split
  · rfl
  · exact leNat_replicate_zero 4

end

/-! ### VSTX -/

section
variable {o : Out} {s : State} {x : Fin 32} {h : BitVec 8} {a : VSrc} {masked : Bool} {i : Nat} {e : TileEntry}
  {ix v : VWord} {code : FaultCode}

theorem execVstx_issues (ho : o = execVstx x h a masked s) (ha : Alone s) (hr : RoomFor s {}) (hn : needV s a = .ok)
    (hv : needV s (.v x) = .ok) (hk : checkIndexed s h (s.rv a) masked = .ok)
    (hh : holdIndexed s h (s.rv a) masked true = .ok) : Issues o (doVstx h (s.rv a) (s.rv (.v x)) masked s) :=
  issues_of ho ha hr (by simp [hn, hv, hk, hh]) rfl

theorem execVstx_faults (ho : o = execVstx x h a masked s) (ha : Alone s) (hn : needV s a = .ok) (hv : needV s (.v x) = .ok)
    (hk : checkIndexed s h (s.rv a) masked = .fault code 0 0 false none) : Faults o code 0 0 s :=
  faults_of ho ha (by simp [hn, hv, hk])

/-- The keys and the bytes of the words that some lanes scatter. -/
def scatterWords (s : State) (e : TileEntry) (ix v : VWord) (ls : List Nat) : List (Nat × List Byte) :=
  ls.map fun l => (tileByteKey s.cur e (laneOf 32 ix l), leBytes 4 (laneOf 32 v l))

theorem scatterRuns_eq : scatterRuns s e ix masked =
    (scatterWords s e ix v ((List.range 64).filter (takesPart s masked))).map fun p => ⟨.here p.1, p.2.length⟩ := by
  simp only [scatterRuns, indexLanes, scatterWords, List.map_map, Function.comp_def, leBytes_length]
  rfl

theorem scatterBytes_eq : scatterBytes s ix v masked = wholeBytes 0
    ((scatterWords s e ix v ((List.range 64).filter (takesPart s masked))).map Prod.snd).flatten := by
  simp only [scatterBytes, indexLanes, scatterWords, List.map_map, Function.comp_def]
  rfl

/-- The storage after a scatter is that after the starts of its runs. -/
theorem doVstx_storage (ht : vmTile s h = some (i, e)) : SameStorage
    (startRuns (tileSpace e) 0 none 0 (scatterRuns s e ix masked) (scatterBytes s ix v masked) s)
    (doVstx h ix v masked s) := by
  simp only [doVstx, ht, noteElems]
  generalize startRuns (tileSpace e) 0 none 0 (scatterRuns s e ix masked) (scatterBytes s ix v masked) s = t
  generalize ((indexLanes s ix masked).map fun p => touchedElems e p.2 4).flatten.eraseDups = ns
  obtain ⟨cores, hnote⟩ := noteTileWrite_frame t s.cur i (ns.length == e.rows * e.cols) ns
  exact hnote ▸ ⟨rfl, rfl⟩

theorem tileByteKey_tile (he : e.level = .tile) (core off : Nat) :
    tileByteKey core e off = tileKey core (e.base * 256 + off) := by
  simp only [tileByteKey, he]

theorem tileKey_add (core off n : Nat) : tileKey core (off + n) = tileKey core off + n := (Nat.add_assoc ..).symm

theorem overlaps_mono {k n j m b lb : Nat} (h : overlaps b lb k n = false) (hk : k ≤ j) (hn : j + m ≤ k + n) :
    overlaps b lb j m = false := by
  simp only [overlaps, Bool.and_eq_false_iff, decide_eq_false_iff_not] at h ⊢
  omega

/-- What waits for none of some bytes waits for no part of them. -/
theorem storeWaits_mono {k n j m : Nat} (h : storeWaits s k n = false) (hk : k ≤ j) (hn : j + m ≤ k + n) :
    storeWaits s j m = false := by
  rw [storeWaits, List.any_eq_false] at h ⊢
  intro y hy
  have hy := h y hy
  simp only [Bool.not_eq_true, Bool.and_eq_false_iff] at hy ⊢
  refine hy.imp_right fun hy => ?_
  split at hy
  · next w hw =>
    split at hy
    · exact overlaps_mono hy hk hn
    · rfl
    · rfl
  · simp only [Bool.and_eq_false_iff, runsMeet, List.any_eq_false, Bool.not_eq_true] at hy ⊢
    exact hy.imp_right fun hy r hr => overlaps_mono (hy r hr) hk hn
  · rfl

/-- A scatter to tile memory for which nothing waits writes its words in the order of the lanes. -/
theorem doVstx_writes (ht : vmTile s h = some (i, e)) (he : e.level = .tile)
    (hgood : ∀ l, l < 64 → takesPart s masked l = true → NamesWord e (laneOf 32 ix l))
    (hw : storeWaits s (tileByteKey s.cur e 0) (tileBytes e) = false) :
    (doVstx h ix v masked s).mem = (scatterWords s e ix v ((List.range 64).filter (takesPart s masked))).foldl
      (fun m p => Memory.setN m p.1 p.2) s.mem ∧ (doVstx h ix v masked s).host = s.host := by
  have hsp : tileSpace e = .tile := by simp only [tileSpace, he]
  have hfree : ∀ p ∈ scatterWords s e ix v ((List.range 64).filter (takesPart s masked)),
      storeWaits s p.1 p.2.length = false := fun p hp => by
    obtain ⟨l, hl, rfl⟩ := List.mem_map.1 hp
    obtain ⟨hl, hpl⟩ := List.mem_filter.1 hl
    obtain ⟨-, hin⟩ := hgood l (List.mem_range.1 hl) hpl
    have hkey := tileKey_add s.cur (e.base * 256) (laneOf 32 ix l)
    rw [tileByteKey_tile he, Nat.add_zero] at hw
    dsimp only
    rw [leBytes_length, tileByteKey_tile he]
    exact storeWaits_mono hw (by omega) (by omega)
  obtain ⟨hmem, hhost⟩ := doVstx_storage (v := v) (ix := ix) (masked := masked) ht
  have hwrites := startRuns_writes (addr := 0) (off := 0) (pre := []) (fun w hw => absurd hw List.not_mem_nil) hfree
  rw [List.nil_append, ← scatterRuns_eq, ← scatterBytes_eq, ← hsp] at hwrites
  exact ⟨hmem.trans hwrites.1, hhost.trans hwrites.2⟩

/-- A word that no later lane names is the lane's. -/
theorem get_scatterWords_last {m : List Host.Cell} {l n : Nat} (hm : Memory.wf m = true) (he : e.level = .tile)
    (hl : l < 64) (hp : takesPart s masked l = true) (hn : n < 4)
    (hgood : ∀ l, l < 64 → takesPart s masked l = true → NamesWord e (laneOf 32 ix l))
    (hlast : ∀ j, l < j → j < 64 → takesPart s masked j = true → laneOf 32 ix j ≠ laneOf 32 ix l) :
    Memory.get ((scatterWords s e ix v ((List.range 64).filter (takesPart s masked))).foldl
        (fun m p => Memory.setN m p.1 p.2) m) (tileKey s.cur (e.base * 256 + laneOf 32 ix l) + n) =
      BitVec.ofNat 8 (laneOf 32 v l / 256 ^ n) := by
  obtain ⟨later, hsplit, hlater⟩ := filter_range_split hl hp
  rw [hsplit, scatterWords, List.map_append, List.map_cons, ← tileByteKey_tile he, ← leBytes_getD _ hn]
  refine get_foldl_setN_last hm (by simpa using hn) fun q hq => ?_
  obtain ⟨j, hj, rfl⟩ := List.mem_map.1 hq
  obtain ⟨hlj, hj, hpj⟩ := hlater j hj
  have hne := hlast j hlj hj hpj
  obtain ⟨haj, -⟩ := hgood j hj hpj
  obtain ⟨hal, -⟩ := hgood l hl hp
  simp only [tileByteKey_tile he, tileKey_add, leBytes_length]
  omega

/-- A byte of no word named is as it was. -/
theorem get_scatterWords_other {m : List Host.Cell} {c : Nat} (he : e.level = .tile)
    (h : ∀ l, l < 64 → takesPart s masked l = true →
      c < tileKey s.cur (e.base * 256 + laneOf 32 ix l) ∨ tileKey s.cur (e.base * 256 + laneOf 32 ix l) + 4 ≤ c) :
    Memory.get ((scatterWords s e ix v ((List.range 64).filter (takesPart s masked))).foldl
      (fun m p => Memory.setN m p.1 p.2) m) c = Memory.get m c := by
  refine get_foldl_setN_other fun p hp => ?_
  obtain ⟨l, hl, rfl⟩ := List.mem_map.1 hp
  obtain ⟨hl, hpl⟩ := List.mem_filter.1 hl
  simpa only [tileByteKey_tile he, leBytes_length] using h l (List.mem_range.1 hl) hpl

end

/-- Settles O20: the check by the first bad lane, a gather by its runs, a scatter by the words written in lane order. -/
theorem indexedMemoryResults : Obligations.IndexedMemoryResults := by
  intro s x h a masked i e hm ha hn ht off takes good
  have hvldx : exec (.vldx x h a masked) s = execVldx x h a masked s := rfl
  have hvstx : exec (.vstx x h a masked) s = execVstx x h a masked s := rfl
  have hpart (l : Nat) (hl : l < 64) (hp : takesPart s masked l = true) : takes l := ⟨hl, takesPart_iff.1 hp⟩
  have hpart' (l : Nat) (h : takes l) : takesPart s masked l = true := takesPart_iff.2 h.2
  refine ⟨fun l code hl hbefore hbad => ?faults, fun hgood => ?accesses⟩
  case faults =>
    have hk : checkIndexed s h (s.rv a) masked = .fault code 0 0 false none :=
      checkIndexed_fault ht hl.1 (hpart' l hl)
        (fun j hj hp => hbefore j hj (hpart j (hj.trans hl.1) hp)) (offsetCheck_fault hbad)
    exact ⟨execVldx_faults hvldx ha hn hk, fun hv => execVstx_faults hvstx ha hn hv hk⟩
  case accesses =>
    have hwords (l : Nat) (hl : l < 64) (hp : takesPart s masked l = true) : NamesWord e (laneOf 32 (s.rv a) l) :=
      hgood l (hpart l hl hp)
    have hk : checkIndexed s h (s.rv a) masked = .ok := checkIndexed_ok ht hwords
    refine ⟨fun hh hr he hgot => ?gathered, fun hh hr => ?pushed, fun hh hv hr => ⟨fun he hw => ?written, fun he => ?ring⟩⟩
    case gathered =>
      obtain ⟨q, ⟨hsame, hpush⟩, hvec, hdest, hcount, hready, hval⟩ := gather_tile (x := x) he hgot
      refine ⟨_, q, execVldx_issues hvldx ha hr hn ht hk hh, hsame, hpush, hvec, hdest, hcount, hready,
        fun l hl => ⟨fun hp => ?_, fun hp => ?_⟩⟩
      · exact hval ▸ (laneOf_gathered hl).trans (if_pos (hpart' l hp))
      · exact hval ▸ (laneOf_gathered hl).trans (if_neg fun h => hp (hpart l hl h))
    case pushed =>
      obtain ⟨q, hsame, hpush⟩ := gather_pushes x e (s.rv a) masked s
      exact ⟨_, execVldx_issues hvldx ha hr hn ht hk hh, hsame, by rw [hpush, List.length_append, List.length_singleton]⟩
    case written =>
      obtain ⟨hmem, hhost⟩ := doVstx_writes (v := s.rv (.v x)) ht he hwords hw
      refine ⟨_, execVstx_issues hvstx ha hr hn hv hk hh, hhost, fun l hl hlast n hn => ?_, fun c hc => ?_⟩
      · rw [hmem]
        exact get_scatterWords_last hm.1 he hl.1 (hpart' l hl) hn hwords fun j hlj hj hp => hlast j hlj (hpart j hj hp)
      · rw [hmem]
        exact get_scatterWords_other he fun l hl hp => hc l (hpart l hl hp)
    case ring =>
      have hsp : tileSpace e ≠ .tile := by simp only [tileSpace, he]; nofun
      have hsame := (sameStorage_startRuns hsp none).trans (doVstx_storage (v := s.rv (.v x)) (ix := s.rv a) (masked := masked) ht)
      exact ⟨_, execVstx_issues hvstx ha hr hn hv hk hh, .of_eq hsame.1 hsame.2⟩

end Sys2Proof.Machine
end

section
/-! SUPPORT. What a matrix slot leaves at issue (09_matrix R225–R232): the instruction in the queue, the word of its accumulator
as issued instructions leave it, and class T. -/

namespace Sys2Proof.Machine

open Sys2Proof

/-! ### The queue and the accumulator's word -/

section
variable {s t : State} {m : MtxOp} {n : Nat} {w : AccWord} {ws : List Window}

/-- A matrix instruction joined the queue and left the issued word of its accumulator; class T counts the first repetition
of a run (R236). -/
def Queued (s t : State) (m : MtxOp) (n : Nat) (w : AccWord) : Prop :=
  Started s t 1 (fun o => o = .matrix m) ∧ issuedWord t n = w ∧
    t.ctx.cnt = (if startsRun s.ctx then s.ctx.cnt.modify .t (· + 1) else s.ctx.cnt) ∧ SameMemory s t

theorem Queued.counted (h : Queued s t m n w) (hr : (s.ctx.rep.map RepState.issued).getD 0 = 0) : Counted s t .t :=
  h.2.2.1.trans (if_pos (beq_iff_eq.2 hr))

theorem Queued.uncounted (h : Queued s t m n w) (hr : (s.ctx.rep.map RepState.issued).getD 0 ≠ 0) : t.ctx.cnt = s.ctx.cnt :=
  h.2.2.1.trans (if_neg (mt beq_iff_eq.1 hr))

theorem ctx_queueMtx : (queueMtx m ws s).ctx = if startsRun s.ctx then s.ctx.raise .t else s.ctx :=
  State.ctx_modCtx _ _

theorem coreAt_modCtxAt_tiles (n : Nat) (f : Ctx → Ctx) : ((s.modCtxAt n f).coreAt n).tiles = (s.coreAt n).tiles := by
  rw [State.modCtxAt, State.coreAt_modCore_same]

theorem queueMtx_tiles (m : MtxOp) (ws : List Window) : ((queueMtx m ws s).coreAt s.cur).tiles = s.core.tiles :=
  coreAt_modCtxAt_tiles ..

theorem queued_queueMtx : Queued s (queueMtx m ws s) m n (issuedWord s n) := by
  refine ⟨⟨_, rfl, rfl, rfl, rfl, rfl, rfl, rfl, rfl, rfl, rfl⟩, ?word, ?count, .of_eq rfl rfl⟩
  case word =>
    rw [issuedWord, ctx_queueMtx, issuedWord]
    split <;> rfl
  case count =>
    rw [ctx_queueMtx]
    split <;> rfl

theorem Queued.noteIssued (h : Queued s t m n w) (f : AccWord → AccWord) : Queued s (noteIssued n f t) m n (f w) := by
  obtain ⟨hstart, hword, hcnt, hmem⟩ := h
  refine ⟨hstart, ?word, ?count, hmem⟩
  case word =>
    rw [← hword, issuedWord, Machine.noteIssued, State.ctx_modCtx]
    exact congrArg AccTile.issued (FMap.getD_set_same ..)
  case count =>
    rw [Machine.noteIssued, State.ctx_modCtx]
    exact hcnt

theorem get?_of_tileAt {core h i : Nat} {e : TileEntry} (ht : s.tileAt core h = some (i, e)) :
    (s.coreAt core).tiles.get? i = some e := by
  unfold State.tileAt at ht
  split at ht
  · obtain ⟨a, ha, hae⟩ := Option.map_eq_some_iff.1 ht
    cases hae
    exact ha
  · cases ht

theorem coreAt_modTile_same {core i : Nat} {e : TileEntry} (f : TileEntry → TileEntry)
    (he : (s.coreAt core).tiles.get? i = some e) :
    (s.modTile core i f).coreAt core = { s.coreAt core with tiles := (s.coreAt core).tiles.set i (f e) } := by
  rw [State.modTile, State.coreAt_modCore_same, he]

theorem get?_modTile {core i : Nat} {e : TileEntry} (f : TileEntry → TileEntry)
    (he : (s.coreAt core).tiles.get? i = some e) : ((s.modTile core i f).coreAt core).tiles.get? i = some (f e) := by
  rw [coreAt_modTile_same f he]
  exact FMap.get?_set_same ..

theorem ctx_modTile (core i : Nat) (f : TileEntry → TileEntry) :
    ((s.modTile core i f).coreAt core).ctx = (s.coreAt core).ctx := by
  rw [State.modTile, State.coreAt_modCore_same]
  split <;> rfl

theorem Queued.modTile (h : Queued s t m n w) (i : Nat) (f : TileEntry → TileEntry) :
    Queued s (t.modTile t.cur i f) m n w := by
  have hctx : (t.modTile t.cur i f).ctx = t.ctx := ctx_modTile t.cur i f
  obtain ⟨hstart, hword, hcnt, hmem⟩ := h
  refine ⟨hstart, ?word, hctx ▸ hcnt, hmem⟩
  rw [issuedWord, hctx]
  exact hword

end

/-! ### The slots -/

section
variable {s : State} {x y : Fin 64} {h k : BitVec 8} {ia ib : Nat} {ea eb : TileEntry}

/-- A product is queued with the shape, the reduction and the exponent that it has at issue (R226). -/
theorem issueProduct_queued (i : Instr) (zero tA tB : Bool) (ha : mtxTile s h = some (ia, ea))
    (hb : mtxTile s k = some (ib, eb)) :
    let p := prodShape s zero tA tB (issuedWord s (accOf s x)) ia ea ib eb
    let m := { captureMtx s i (accOf s x) with
      klen := p.k, m := p.m, n := p.n, a := ia, b := ib, exp := ea.exp + eb.exp }
    Queued s (issueProduct i zero tA tB x h k s) m (accOf s x)
      (if zero then { issuedWord s (accOf s x) with rows := p.m, cols := p.n, exp := ea.exp + eb.exp, free := false }
       else { issuedWord s (accOf s x) with exp := ea.exp + eb.exp, free := false }) := by
  simp only [issueProduct, ha, hb]
  exact queued_queueMtx.noteIssued _

/-- MMAC is queued with the shape of its accumulator and the exponent of the chained one (R227). -/
theorem issueMmac_queued (hb : mtxTile s h = some (ib, eb)) :
    let w := issuedWord s (accOf s x)
    let wy := issuedWord s y.val
    let ep := chainExp wy + mfChsh s.ctx.mf + eb.exp
    Queued s (issueMmac x h y s)
      { captureMtx s (.mmac x h y) (accOf s x) with klen := wy.cols, m := w.rows, n := w.cols, b := ib, ay := y.val, exp := ep }
      (accOf s x) { w with exp := ep, free := false } := by
  simp only [issueMmac, hb]
  exact queued_queueMtx.noteIssued _

/-- MOUT is queued with the shape of its accumulator and the shift that is known at issue (R228). -/
theorem issueMout_queued {sh : Fin 41} (hb : mtxTile s h = some (ib, eb)) :
    let w := issuedWord s (accOf s x)
    Queued s (issueMout x h sh s)
      { captureMtx s (.mout x h sh) (accOf s x) with
        m := w.rows, n := w.cols, a := ib, whole := outWhole s w eb, exp := w.exp
        shift := if w.free then 0 else if outWhole s w eb then (sh.val : Int) else eb.exp - w.exp } (accOf s x) w := by
  simp only [issueMout, hb]
  exact queued_queueMtx.modTile _ _

/-- The exponent of the tile of a MOUT is pending on it (R225). -/
theorem issueMout_pending {sh : Fin 41} (hb : mtxTile s h = some (ib, eb)) :
    ((issueMout x h sh s).core.tiles.get? ib).map TileEntry.expPending = some (some s.nextOp) := by
  simp only [issueMout, hb]
  exact congrArg (Option.map TileEntry.expPending) (get?_modTile _
    ((congrArg (·.get? ib) (queueMtx_tiles _ _)).trans (get?_of_tileAt hb)))

/-- MLOAD, MADD and MBIAS are queued with the window's shape, or the accumulator's, and their shift (R229, R230). -/
theorem issueLoadAcc_queued (j : Instr) (zero : Bool) (bias : Option Bool) (sh : Int) (hb : mtxTile s h = some (ib, eb)) :
    let w := issuedWord s (accOf s x)
    let l := loadWindow s zero bias w ib eb
    Queued s (issueLoadAcc j zero bias x h sh s)
      { captureMtx s j (accOf s x) with m := l.1, n := l.2.1, a := ib, shift := sh, exp := eb.exp + sh } (accOf s x)
      (if zero then { w with rows := l.1, cols := l.2.1, exp := eb.exp + sh, free := false }
       else { w with exp := eb.exp + sh, free := false }) := by
  simp only [issueLoadAcc, hb]
  exact queued_queueMtx.noteIssued _

end

/-- MZERO is queued with its shape; the issued word it leaves is FREE (R231). -/
theorem issueMzero_queued {s : State} {x : Fin 64} {r c : Fin 128} :
    Queued s (issueMzero x r c s) { captureMtx s (.mzero x r c) (accOf s x) with m := r.val + 1, n := c.val + 1 } (accOf s x)
      { issuedWord s (accOf s x) with rows := r.val + 1, cols := c.val + 1, exp := 0, free := true } :=
  queued_queueMtx.noteIssued _

theorem checkAcc_ok {s : State} {x : Fin 64} (h : accOf s x < 64) : checkAcc s x = .ok := by
  rw [checkAcc, decide_eq_true h]
  rfl

theorem checkAcc_fault {s : State} {x : Fin 64} (h : 64 ≤ accOf s x) :
    checkAcc s x = .fault .illegalOperand 0 0 false none := by
  rw [checkAcc, decide_eq_false (Nat.not_lt.2 h)]
  rfl

/-- Settles O14: each slot by what its effect queues. -/
theorem matrixStarts : Obligations.MatrixStarts := by
  refine ⟨fun s x h k ia ib ea eb ha hr hta htb => ?products, fun s x y h sh so r c col ib eb ha hr ht => ?others⟩
  case products =>
    intro n w issued starts
    have hstarts (i : Instr) (zero tA tB : Bool) (hi : exec i s = product i zero tA tB x h k s) : starts i zero tA tB := by
      intro hc
      have hq := issueProduct_queued (x := x) i zero tA tB hta htb
      obtain ⟨hstart, hword, -, hmem⟩ := id hq
      exact ⟨_, _, issues_of hi ha hr hc rfl, hstart, rfl, rfl, rfl, rfl, rfl, rfl, rfl, rfl, rfl, rfl, hword,
        hq.counted, hq.uncounted, hmem⟩
    exact ⟨hstarts _ _ _ _ rfl, hstarts _ _ _ _ rfl, hstarts _ _ _ _ rfl, hstarts _ _ _ _ rfl⟩
  case others =>
    intro n w wy starts
    have hstarts {i : Instr} {chk : State → Verdict} {eff : State → State} {m : MtxOp} {v : AccWord} {P : State → MtxOp → Prop}
        (hi : exec i s = slot (matrixNeed s) chk eff s) (hc : chk s = .ok) (hq : Queued s (eff s) m n v)
        (him : m.instr = i) (hacc : m.acc = n) (hnew : m.started = none) (hP : P (eff s) m) : starts i P :=
      ⟨_, m, issues_of hi ha hr hc rfl, hq.1, him, hacc, hnew, hP, hq.counted, hq.2.2.2⟩
    refine ⟨fun hc => ?mmac, fun hc => ?mout, fun hc => ?mload, fun hc => ?madd, fun hc => ?mbias,
      fun hn hroom hacq => ?mzero, fun hn hpush => ?mcens, fun hn => ?fault⟩
    case mmac =>
      have hq := issueMmac_queued (x := x) (y := y) ht
      exact hstarts rfl hc hq rfl rfl rfl ⟨rfl, rfl, rfl, rfl, rfl, rfl, hq.2.1⟩
    case mout =>
      have hq := issueMout_queued (x := x) (sh := so) ht
      refine hstarts rfl hc hq rfl rfl rfl ⟨rfl, rfl, rfl, ?_, issueMout_pending ht, hq.2.1⟩
      simp [outWhole, w, n, and_assoc, accOf]
    case mload =>
      have hq := issueLoadAcc_queued (x := x) (.mload x h sh) true none sh.toInt ht
      exact hstarts rfl hc hq rfl rfl rfl ⟨rfl, rfl, rfl, hq.2.1⟩
    case madd =>
      have hq := issueLoadAcc_queued (x := x) (.madd x h sh) false none sh.toInt ht
      exact hstarts rfl hc hq rfl rfl rfl ⟨rfl, rfl, rfl, hq.2.1⟩
    case mbias =>
      have hq := issueLoadAcc_queued (x := x) (.mbias x h col) false (some col) 0 ht
      rw [Int.add_zero] at hq
      exact hstarts rfl hc hq rfl rfl rfl ⟨rfl, rfl, rfl, hq.2.1⟩
    case mzero =>
      have hc : (checkAcc s x).seq (holdMatrix s []) = .ok := by
        rw [checkAcc_ok hn, holdMatrix, hacq, decide_eq_false (Nat.not_le.2 hroom)]
        rfl
      have hq := issueMzero_queued (s := s) (x := x) (r := r) (c := c)
      exact hstarts (chk := fun s => (checkAcc s x).seq (holdMatrix s [])) rfl hc hq rfl rfl rfl ⟨rfl, rfl, hq.2.1⟩
    case mcens =>
      have hmcens : exec (.mcens x) s = execMcens x s := rfl
      rw [hmcens]
      exact slot_issues ha hpush (checkAcc_ok hn)
    case fault =>
      have hc := checkAcc_fault hn
      have hmcens : exec (.mcens x) s = execMcens x s := rfl
      have hmzero : exec (.mzero x r c) s = execMzero x r c s := rfl
      exact ⟨hmcens ▸ slot_faults ha hc, hmzero ▸ slot_faults ha (congrArg (Verdict.seq · _) hc)⟩

end Sys2Proof.Machine
end

section
/-! SUPPORT. The events of a core that complete no access: a repetition of a REPEAT run (09_matrix R236), the release of a clamp
line (06_sequencer R154), a granule of registers filled (R171) and the result of an XLT (11_translation R272 Table 11-4). -/

namespace Sys2Proof.Machine

open Sys2Proof

/-! ### A repetition of a run (R236) -/

theorem FMap.getD_foldl_set {β : Type} (m : FMap β) (g : Nat → β) (d : β) {n k : Nat} (h : k < n) :
    ((List.range n).foldl (fun m i => m.set i (g i)) m).getD k d = g k := by
  induction n with
  | zero => omega
  | succ n ih =>
    rw [List.range_succ, List.foldl_append, List.foldl_cons, List.foldl_nil]
    by_cases hk : k = n
    · rw [hk, FMap.getD_set_same]
    · rw [FMap.getD_set_other _ _ _ hk, ih (by omega)]

theorem advanceLane_lt (e : RepSel) {x d : Nat} (hx : x < 2 ^ 16) : advanceLane e x d < 2 ^ 16 := by
  cases e with
  | hold => exact hx
  | add => exact Nat.mod_lt _ (by decide)
  | sub => exact Nat.mod_lt _ (by decide)

theorem bits_lt (v : Word) (lo n : Nat) : bits v lo n < 2 ^ n := Nat.mod_lt _ (Nat.two_pow_pos n)

/-- A lane of an offset register advanced is the lane advanced. -/
theorem bits_advanceOffset (e : RepSel) (mo mi : Word) {l : Nat} (hl : l < 4) :
    bits (advanceOffset e mo mi) (16 * l) 16 = advanceLane e (bits mo (16 * l) 16) (bits mi (16 * l) 16) := by
  have hlt := packLanes_lt 16 ((List.range 4).map fun k => advanceLane e (bits mo (16 * k) 16) (bits mi (16 * k) 16))
  rw [List.length_map, List.length_range] at hlt
  rw [bits, advanceOffset, BitVec.toNat_ofNat, Nat.mod_eq_of_lt hlt, packLanes_lane]
  simpa [hl] using advanceLane_lt e (bits_lt mo (16 * l) 16)

theorem afterRepetition_mo (r : RepState) (c : Ctx) {k : Nat} (hk : k < 4) :
    (afterRepetition r c).mo.getD k 0 = advanceOffset (r.sel.getD k .hold) (c.mo.getD k 0) (c.mi.getD k 0) := by
  have hmo : (afterRepetition r c).mo = (List.range 4).foldl (fun m n =>
      m.set n (advanceOffset (r.sel.getD n .hold) (c.mo.getD n 0) (c.mi.getD n 0))) c.mo := by
    unfold afterRepetition
    dsimp only
    split <;> rfl
  rw [hmo]
  exact FMap.getD_foldl_set c.mo (fun n => advanceOffset (r.sel.getD n .hold) (c.mo.getD n 0) (c.mi.getD n 0)) 0 hk

section
variable {s : State} {n : Nat}

theorem exec_repeatRepetition {r : RepState} (hr : (s.coreAt n).ctx.rep = some r) (ha : r.adv = true) :
    exec (.repeatRepetition n) s = .next (s.modCtxAt n (afterRepetition r)) := by
  show execRepeatRepetition n s = _
  simp only [execRepeatRepetition, hr, ha, if_true]

/-! ### A clamp line released (06_sequencer R154) -/

/-- The members of a line that had arrived issue their SYNC bundle. -/
def releasedFrom (task line : Nat) (members : List Nat) (c : Core) : Core :=
  if c.task = task ∧ c.member ∈ members then
    { c with released := true, ctx := { c.ctx with arrived := c.ctx.arrived.filter (· != line) } }
  else c

theorem exec_clampLineRelease {tk line phys d : Nat} {k : Task} {cl : Clamp} (hk : s.task? tk = some k)
    (hl : k.lineMap.get? line = some phys)
    (hd : (s.cores.findSome? fun (m, e) => if e.task = tk ∧ e.mode ≠ .idle then some (dieOf m) else none) = some d)
    (hc : (s.dieAt d).clamps.get? phys = some cl) (ht : cl.task = tk) (hr : cl.releaseAt ≠ none) :
    exec (.clampLineRelease tk line) s = .next
      { s.modDie d fun x => { x with clamps := x.clamps.set phys { cl with arrived := [], releaseAt := none } } with
        cores := s.cores.map fun (n, c) => (n, releasedFrom tk line cl.arrived c) } := by
  show execClampLineRelease tk line s = _
  simp only [execClampLineRelease, hk, Option.bind_some, hl, hd, hc, ht, Option.isSome_iff_ne_none.2 hr, and_self, if_true]
  refine congrArg Host.Outcome.next (congrArg (fun cores => { s.modDie d _ with cores := cores })
    (List.map_congr_left fun p _ => ?_))
  simp only [releasedFrom]
  split <;> rfl


/-! ### A granule filled (06_sequencer R171) -/

theorem exec_lazyRestoreFill {op g : Nat} {o : Op} {vec : Bool} (ho : s.op? op = some o) (hk : o.kind = .fill vec g)
    (hc : s.coreOf o.task o.member = some n) : exec (.lazyRestoreFill op) s = .next ((s.dropOp op).modCtxAt n fun c =>
      if vec then { c with vAbsent := c.vAbsent.filter (· != g) } else { c with gAbsent := c.gAbsent.filter (· != g) }) := by
  show execLazyRestoreFill op s = _
  simp only [execLazyRestoreFill, ho, hk]
  exact congrArg Host.Outcome.next (State.modOwner_of_coreOf (s := s.dropOp op) hc _)

/-! ### The result of an XLT (11_translation R272) -/

theorem fillL2_frame (core asid va : Nat) : ∃ dies, fillL2 core asid va s = { s with dies := dies } := by
  unfold fillL2
  split
  · exact ⟨_, rfl⟩
  · exact ⟨s.dies, rfl⟩
  · exact ⟨s.dies, rfl⟩

theorem exec_xltResult {op x : Nat} {o : Op} {addr : Word} {w : Bool} (ho : s.op? op = some o)
    (hk : o.kind = .xlt x addr w) (hc : s.coreOf o.task o.member = some n) :
    ∃ dies, exec (.xltResult op) s = .next (({ s with dies := dies }.dropOp op).modCtxAt n fun c =>
      { c with tx := c.tx.set x (xltWord s o.core o.asid addr w) }) := by
  obtain ⟨dies, hfill⟩ := fillL2_frame (s := s) o.core o.asid (vaOf addr.toNat)
  show ∃ dies, execXltResult op s = _
  simp only [execXltResult, ho, hk, hfill]
  split
  · exact ⟨dies, congrArg Host.Outcome.next (State.modOwner_of_coreOf (s := { s with dies := dies }.dropOp op) hc _)⟩
  · exact ⟨s.dies, congrArg Host.Outcome.next (State.modOwner_of_coreOf (s := s.dropOp op) hc _)⟩

end

/-- The word of a translation has the code of what failed (Table 11-4). -/
def FailedWord (q : Word) (a : Nat) (code : FaultCode) : Prop :=
  bits q 57 7 = 3 * 4 ∧ bits q 56 1 = 0 ∧ bits q 24 32 = abits a 16 32 ∧ bits q 0 24 = faultNumber code

/-- The word of a translation has a page's kind, size, rights, number and frame (Table 11-4). -/
def PageWord (q : Word) (size kind : Nat) (wr rd : Bool) (vpn frame : Nat) : Prop :=
  size < 3 → vpn < 2 ^ 32 → frame < 2 ^ 24 → bits q 63 1 = 1 ∧ bits q 61 2 = size ∧ bits q 59 2 = kind ∧
    q.getLsbD 58 = wr ∧ q.getLsbD 57 = rd ∧ bits q 56 1 = 0 ∧ bits q 24 32 = vpn ∧ bits q 0 24 = frame

theorem faultNumber_lt (code : FaultCode) : faultNumber code < 2 ^ 24 := by cases code <;> decide

theorem txFault_failed (code : FaultCode) (addr : Word) : FailedWord (txFault code addr) addr.toNat code := by
  have hcode := faultNumber_lt code
  have hpage : abits addr.toNat 16 32 < 2 ^ 32 := Nat.mod_lt _ (by decide)
  simp only [FailedWord, bits, txFault, BitVec.toNat_ofNat]
  omega

theorem getLsbD_eq_bits (q : Word) (k : Nat) : q.getLsbD k = decide (bits q k 1 = 1) := by
  rw [BitVec.getLsbD, Nat.testBit_eq_decide_div_mod_eq, bits, Nat.pow_one]

theorem txWord_page {size kind : Nat} {wr rd : Bool} {vpn frame : Nat} (hk : kind < 3) :
    PageWord (txWord size kind wr rd vpn frame) size kind wr rd vpn frame := by
  intro hsize hvpn hframe
  simp only [getLsbD_eq_bits, bits, txWord, BitVec.toNat_ofNat]
  cases wr <;> cases rd <;>
    simp only [decide_eq_true_eq, decide_eq_false_iff_not, if_true, Bool.false_eq_true, if_false] <;> omega

section
variable {s : State} {core asid : Nat} {addr : Word} {w : Bool} {c : Context}

theorem xltWord_space (h : spaceOk addr.toNat 1 = false ∨ tagOf addr.toNat ≠ 0) :
    FailedWord (xltWord s core asid addr w) addr.toNat .space := by
  have hbad : (!spaceOk addr.toNat 1 || tagOf addr.toNat != 0) = true := by simpa using h
  rw [xltWord, if_pos hbad]
  exact txFault_failed ..

theorem xltWord_heap (hs : spaceOk addr.toNat 1 = true) (ht : tagOf addr.toNat = 0) (hc : s.context? asid = some c)
    (hin : inHeap c (vaOf addr.toNat) 1 = true) : PageWord (xltWord s core asid addr w) 0 0 true true
      (abits addr.toNat 16 32) (heapPa c (vaOf addr.toNat) / 2 ^ 16) := by
  have hpage : vaOf addr.toNat / 2 ^ 16 = abits addr.toNat 16 32 := by
    simp only [vaOf, abits]
    omega
  rw [xltWord, if_neg (by simp [hs, ht]), hc, ← hpage]
  exact (congrArg (PageWord · 0 0 true true _ _) (if_pos hin)).mpr (txWord_page (by decide))

theorem xltWord_paged (hs : spaceOk addr.toNat 1 = true) (ht : tagOf addr.toNat = 0) (hc : s.context? asid = some c)
    (hin : inHeap c (vaOf addr.toNat) 1 = false) :
    xltWord s core asid addr w = txOf w addr (engineWalk s core asid (vaOf addr.toNat)) := by
  simp [xltWord, hs, ht, hc, hin]

variable {q : Word} {e : TlbEntry}

theorem txOf_nonResident {vpn size : Nat} {rd wr : Bool} (hq : q = txOf w addr (.nonResident vpn size rd wr)) :
    if rd = false ∨ (w = true ∧ wr = false) then FailedWord q addr.toNat .permission
    else if w = true then FailedWord q addr.toNat .nonresWrite else PageWord q size 2 wr rd vpn 0 := by
  subst hq
  simp only [txOf, Bool.or_eq_true, Bool.and_eq_true, Bool.not_eq_true']
  split
  · exact txFault_failed ..
  · split
    · exact txFault_failed ..
    · exact txWord_page (by decide)

/-- The word of a page of this package or of another: its rights, then, of one here, the access tables' verdict. -/
theorem txOf_leaf_remote {owner : Nat} (hr : e.remote = some owner) (hq : q = txOf w addr (.leaf e)) :
    if e.rd = false ∨ (w = true ∧ e.w = false) then FailedWord q addr.toNat .permission
    else PageWord q e.size 1 e.w e.rd e.vpn owner := by
  subst hq
  simp only [txOf, pageCheck, hr, Option.isNone_some, Bool.false_and, Bool.false_eq_true, if_false, Bool.true_and,
    Bool.or_eq_true, Bool.and_eq_true, Bool.not_eq_true']
  split
  · exact txFault_failed ..
  · exact txWord_page (by decide)

theorem txOf_leaf_here (hr : e.remote = none) (hq : q = txOf w addr (.leaf e)) :
    if e.rd = false ∨ (w = true ∧ e.w = false) then FailedWord q addr.toNat .permission
    else if e.vrd = false ∨ (w = true ∧ e.vw = false) then FailedWord q addr.toNat .accessTable
    else PageWord q e.size 0 (e.w && e.vw) (e.rd && e.vrd) e.vpn e.frame := by
  subst hq
  simp only [txOf, pageCheck, hr, Option.isNone_none, Bool.true_and, Bool.or_eq_true, Bool.and_eq_true, Bool.not_eq_true']
  split
  · exact txFault_failed ..
  · split
    · exact txFault_failed ..
    · exact txWord_page (by decide)

end

/-- Settles O28: each row by its own lemma, the translated word by what the walk ends with. -/
theorem coreEventResults : Obligations.CoreEventResults := by
  intro s n c
  refine ⟨fun r hr ha => ?repetition, fun op o vec g ho hk hc => ?fill, fun op o x addr w ho hk hc => ?xlt,
    fun tk line phys d k hk hl hd cl hcl ht hr => ?release⟩
  case repetition =>
    refine ⟨_, exec_repeatRepetition hr ha, .of_eq rfl rfl, ?_⟩
    rw [State.coreAt_modCtxAt_ctx]
    refine ⟨fun k l hk hl => ?_, fun hleft => ?_, fun hleft => ?_⟩
    · rw [afterRepetition_mo r _ hk, bits_advanceOffset _ _ _ hl]
      cases r.sel.getD k .hold <;> rfl
    · simp only [afterRepetition, if_pos hleft]
    · simp only [afterRepetition, if_neg (Nat.not_le.2 hleft)]
      exact ⟨rfl, _, rfl, rfl, rfl⟩
  case fill =>
    refine ⟨_, exec_lazyRestoreFill ho hk hc, .of_eq rfl rfl, s.op?_dropOp op, ?_⟩
    rw [State.coreAt_modCtxAt_ctx]
    cases vec with
    | false => exact ⟨fun _ => ⟨by simp, rfl⟩, nofun, rfl⟩
    | true => exact ⟨nofun, fun _ => ⟨by simp, rfl⟩, rfl⟩
  case xlt =>
    obtain ⟨dies, hexec⟩ := exec_xltResult ho hk hc
    refine ⟨_, xltWord s o.core o.asid addr w, hexec, .of_eq rfl rfl, State.op?_dropOp _ op, ?_⟩
    rw [State.coreAt_modCtxAt_ctx]
    refine ⟨FMap.get?_set_same .., fun y hy => FMap.get?_set_other _ _ hy, rfl, xltWord_space,
      fun hs ht k hk => ⟨xltWord_heap hs ht hk, fun hin => ?_⟩⟩
    have hq := xltWord_paged (core := o.core) (w := w) hs ht hk hin
    generalize engineWalk s o.core o.asid (vaOf addr.toNat) = r at hq ⊢
    cases r with
    | failed code => exact hq ▸ txFault_failed code addr
    | nonResident vpn size rd wr => exact txOf_nonResident hq
    | leaf e =>
      dsimp only
      cases hr : e.remote with
      | none => exact txOf_leaf_here hr hq
      | some owner => exact txOf_leaf_remote hr hq
  case release =>
    refine ⟨_, { cl with arrived := [], releaseAt := none }, exec_clampLineRelease hk hl hd hcl ht hr, .of_eq rfl rfl, ?_,
      rfl, rfl, fun m hm hcore harr => ?_⟩
    · exact (congrArg (fun x : DieState => x.clamps.get? phys) (FMap.getD_set_same ..)).trans (FMap.get?_set_same ..)
    · obtain ⟨x, hx⟩ := Option.ne_none_iff_exists'.1 hcore
      have hmx : s.coreAt m = x := by rw [State.coreAt, FMap.getD, hx, Option.getD_some]
      have hget := (FMap.get?_map (releasedFrom tk line cl.arrived) s.cores m).trans (congrArg _ hx)
      rw [hmx] at hm harr
      show (FMap.getD (s.cores.map fun (m, c) => (m, releasedFrom tk line cl.arrived c)) m {}).released = true
      rw [FMap.getD, hget]
      exact congrArg Core.released (if_pos ⟨hm, harr⟩)

end Sys2Proof.Machine
end

section
/-! SUPPORT. The codes of a tile's elements in memory (03_numbers R59): what is read of an element after others have been
written, for codes of four bits, two to a byte, and of whole bytes. -/

namespace Sys2Proof.Machine

open Sys2Proof

/-! ### Half a byte -/

section
variable {b v x y : Byte}

/-- A half of a byte: the low one of an even element, the high one of an odd one. -/
def halfOf (b : Byte) (k : Nat) : Nat := b.toNat / (if k % 2 = 0 then 1 else 16) % 16

/-- The bits of that half. -/
def halfMask (k : Nat) : Byte := if k % 2 = 0 then 0x0F else 0xF0

theorem halfOf_congr (k : Nat) (h : ∀ i, i < 8 → (halfMask k).getLsbD i = true → x.getLsbD i = y.getLsbD i) :
    halfOf x k = halfOf y k := by
  have hbits (p : Nat) (hp : ∀ i, i < 4 → x.getLsbD (p + i) = y.getLsbD (p + i)) :
      x.toNat / 2 ^ p % 2 ^ 4 = y.toNat / 2 ^ p % 2 ^ 4 := Nat.eq_of_testBit_eq fun i => by
    rw [Nat.testBit_mod_two_pow, Nat.testBit_mod_two_pow, Nat.testBit_div_two_pow, Nat.testBit_div_two_pow]
    by_cases hi : i < 4
    · rw [Nat.add_comm i p]
      exact congrArg _ (hp i hi)
    · simp [hi]
  unfold halfOf halfMask at *
  split at h
  · next he =>
    simp only [if_pos he]
    exact hbits 0 fun i hi => h _ (by omega) (by interval_cases i <;> rfl)
  · next he =>
    simp only [if_neg he]
    exact hbits 4 fun i hi => h _ (by omega) (by interval_cases i <;> rfl)

theorem merge_getLsbD (mask : Byte) {i : Nat} (hi : i < 8) :
    ((b &&& ~~~mask) ||| (v &&& mask)).getLsbD i = if mask.getLsbD i then v.getLsbD i else b.getLsbD i := by
  rw [BitVec.getLsbD_or, BitVec.getLsbD_and, BitVec.getLsbD_and, BitVec.getLsbD_not, decide_eq_true hi]
  cases mask.getLsbD i <;> simp only [Bool.not_false, Bool.not_true, Bool.and_true, Bool.and_false, Bool.or_false, Bool.false_or,
    if_true, Bool.false_eq_true, if_false]

theorem halfOf_merge_same (k : Nat) : halfOf ((b &&& ~~~halfMask k) ||| (v &&& halfMask k)) k = halfOf v k :=
  halfOf_congr k fun i hi hm => by rw [merge_getLsbD _ hi, if_pos hm]

theorem halfOf_merge_other {j k : Nat} (h : j % 2 ≠ k % 2) :
    halfOf ((b &&& ~~~halfMask k) ||| (v &&& halfMask k)) j = halfOf b j := by
  have hdisjoint : ∀ i, i < 8 → (halfMask j).getLsbD i = true → (halfMask k).getLsbD i = false := by
    unfold halfMask
    rcases Nat.mod_two_eq_zero_or_one j with hj | hj
    · rw [if_pos hj, if_neg (by omega)]
      decide
    · rw [if_neg (by omega), if_pos (by omega)]
      decide
  exact halfOf_congr j fun i hi hm => by rw [merge_getLsbD _ hi, hdisjoint i hi hm, if_neg Bool.false_ne_true]

theorem halfOf_ofNat (c k : Nat) : halfOf (BitVec.ofNat 8 (c % 16 * (if k % 2 = 0 then 1 else 16))) k = c % 16 := by
  unfold halfOf
  rw [BitVec.toNat_ofNat]
  split <;> omega

end

/-! ### One element -/

section
variable {κ w k j c : Nat} {m : List Host.Cell}

/-- The code of element `k` of a tile whose bytes start at a key. -/
def getCode (κ w k : Nat) (m : List Host.Cell) : Nat :=
  if w = 4 then halfOf (Memory.get m (κ + k / 2)) k else leNat (Memory.getN m (κ + k * (w / 8)) (w / 8))

/-- Memory after the code of element `k` is written. -/
def putCode (κ w k c : Nat) (m : List Host.Cell) : List Host.Cell :=
  if w = 4 then
    putWByte m (κ + k / 2) ⟨k / 2, BitVec.ofNat 8 (c % 16 * (if k % 2 = 0 then 1 else 16)), halfMask k⟩
  else Memory.setN m (κ + k * (w / 8)) (leBytes (w / 8) c)

theorem wf_putCode (hm : Memory.wf m = true) : Memory.wf (putCode κ w k c m) = true := by
  unfold putCode
  split
  · exact Memory.wf_set _ _ hm
  · exact Memory.wf_setN _ _ hm

theorem leNat_leBytes (n x : Nat) : leNat (leBytes n x) = x % 256 ^ n := by
  induction n generalizing x with
  | zero => simp [leBytes, leNat, Nat.mod_one]
  | succ n ih =>
    rw [leBytes, leNat, ih, BitVec.toNat_ofNat, Nat.pow_succ' (m := 256)]
    exact (Nat.mod_mul (x := x) (a := 256)).symm

theorem getN_congr {m' : List Host.Cell} {n : Nat} (h : ∀ i, i < n → Memory.get m (k + i) = Memory.get m' (k + i)) :
    Memory.getN m k n = Memory.getN m' k n := by
  induction n generalizing k with
  | zero => rfl
  | succ n ih =>
    refine congrArg₂ List.cons (h 0 (Nat.succ_pos n)) (ih fun i hi => ?_)
    rw [Nat.add_assoc, Nat.add_comm 1]
    exact h (i + 1) (Nat.succ_lt_succ hi)

/-- The element written has its code. -/
theorem getCode_putCode_same (hm : Memory.wf m = true) (hw : w = 4 ∨ w % 8 = 0) :
    getCode κ w k (putCode κ w k c m) = c % 2 ^ w := by
  unfold getCode putCode
  split
  · next h =>
    rw [putWByte, Memory.get_set_same _ _ hm, halfOf_merge_same, halfOf_ofNat, h]
    rfl
  · next h =>
    have hpow : 256 ^ (w / 8) = 2 ^ w := by
      rw [show 256 = 2 ^ 8 from rfl, ← Nat.pow_mul, Nat.mul_div_cancel' (Nat.dvd_of_mod_eq_zero (hw.resolve_left h))]
    have hget := Memory.getN_setN (κ + k * (w / 8)) (leBytes (w / 8) c) hm
    rw [leBytes_length] at hget
    rw [hget, leNat_leBytes, hpow]

/-- Any other element has the code that it had. -/
theorem getCode_putCode_other (hm : Memory.wf m = true) (h : j ≠ k) :
    getCode κ w j (putCode κ w k c m) = getCode κ w j m := by
  unfold getCode putCode
  split
  · rw [putWByte]
    by_cases hb : j / 2 = k / 2
    · rw [hb, Memory.get_set_same _ _ hm]
      exact halfOf_merge_other (by omega)
    · rw [Memory.get_set_other _ _ (by omega)]
  · refine congrArg leNat (getN_congr fun i hi => Memory.get_setN_other _ _ ?_)
    rw [leBytes_length]
    rcases Nat.lt_or_gt_of_ne h with hlt | hlt
    · have := Nat.mul_le_mul_right (w / 8) (Nat.succ_le_of_lt hlt)
      rw [Nat.succ_mul] at this
      omega
    · have := Nat.mul_le_mul_right (w / 8) (Nat.succ_le_of_lt hlt)
      rw [Nat.succ_mul] at this
      omega

/-- A byte of no element up to the one written is as it was. -/
theorem get_putCode_other {a : Nat} (hw : w = 4 ∨ w % 8 = 0) (h : a < κ ∨ κ + ((k + 1) * w + 7) / 8 ≤ a) :
    Memory.get (putCode κ w k c m) a = Memory.get m a := by
  unfold putCode
  split
  · next he =>
    rw [putWByte]
    refine Memory.get_set_other _ _ ?_
    subst he
    omega
  · next he =>
    obtain ⟨n, rfl⟩ := Nat.dvd_of_mod_eq_zero (hw.resolve_left he)
    have hk : (k + 1) * (8 * n) = 8 * (k * n + n) := by ring
    rw [hk] at h
    refine Memory.get_setN_other _ _ ?_
    rw [leBytes_length, Nat.mul_div_cancel_left n (by decide)]
    omega

end

/-! ### The elements of a row -/

section
variable {κ w n j : Nat} {cs : List Nat} {m : List Host.Cell}

/-- Memory after the codes of consecutive elements are written. -/
def putCodes (κ w : Nat) : Nat → List Nat → List Host.Cell → List Host.Cell
  | _, [], m => m
  | n, c :: cs, m => putCodes κ w (n + 1) cs (putCode κ w n c m)

theorem wf_putCodes (hm : Memory.wf m = true) : Memory.wf (putCodes κ w n cs m) = true := by
  induction cs generalizing n m with
  | nil => exact hm
  | cons c cs ih => exact ih (wf_putCode hm)

theorem getCode_putCodes_other (hm : Memory.wf m = true) (h : j < n ∨ n + cs.length ≤ j) :
    getCode κ w j (putCodes κ w n cs m) = getCode κ w j m := by
  induction cs generalizing n m with
  | nil => rfl
  | cons c cs ih =>
    rw [List.length_cons] at h
    rw [putCodes, ih (wf_putCode hm) (by omega), getCode_putCode_other hm (by omega)]

theorem getCode_putCodes_same (hm : Memory.wf m = true) (hw : w = 4 ∨ w % 8 = 0) (h : j < cs.length) :
    getCode κ w (n + j) (putCodes κ w n cs m) = cs.getD j 0 % 2 ^ w := by
  induction cs generalizing n m j with
  | nil => exact absurd h (Nat.not_lt_zero j)
  | cons c cs ih =>
    rw [putCodes]
    cases j with
    | zero =>
      rw [getCode_putCodes_other (wf_putCode hm) (by omega), Nat.add_zero, getCode_putCode_same hm hw]
      rfl
    | succ j =>
      have hrest := ih (n := n + 1) (m := putCode κ w n c m) (wf_putCode hm) (Nat.lt_of_succ_lt_succ h)
      rwa [Nat.add_assoc, Nat.add_comm 1] at hrest

theorem get_putCodes_other {a : Nat} (hw : w = 4 ∨ w % 8 = 0) (h : a < κ ∨ κ + ((n + cs.length) * w + 7) / 8 ≤ a) :
    Memory.get (putCodes κ w n cs m) a = Memory.get m a := by
  induction cs generalizing n m with
  | nil => rfl
  | cons c cs ih =>
    have hle : (n + 1) * w ≤ (n + (c :: cs).length) * w := Nat.mul_le_mul_right _ (by rw [List.length_cons]; omega)
    have hrest : n + 1 + cs.length = n + (c :: cs).length := by rw [List.length_cons]; omega
    rw [putCodes, ih (hrest ▸ h), get_putCode_other hw (by omega)]

theorem putCodes_half (κ n : Nat) (cs : List Nat) (m : List Host.Cell) :
    ((List.range cs.length).map fun i => (⟨(n + i) / 2, BitVec.ofNat 8 (cs.getD i 0 % 16 * (if (n + i) % 2 = 0 then 1 else 16)),
      halfMask (n + i)⟩ : WByte)).foldl (fun m w => putWByte m (κ + w.off) w) m = putCodes κ 4 n cs m := by
  induction cs generalizing n m with
  | nil => rfl
  | cons c cs ih =>
    rw [List.length_cons, List.range_succ_eq_map, List.map_cons, List.map_map, List.foldl_cons, putCodes, ← ih]
    refine congrArg₂ (fun m l => List.foldl _ m l) rfl (List.map_congr_left fun i _ => ?_)
    rw [Function.comp_apply, Nat.add_right_comm, Nat.add_assoc]
    rfl

theorem setN_append (m : List Host.Cell) (k : Nat) (xs ys : List Byte) :
    Memory.setN m k (xs ++ ys) = Memory.setN (Memory.setN m k xs) (k + xs.length) ys := by
  induction xs generalizing m k with
  | nil => rfl
  | cons x xs ih => rw [List.cons_append, Memory.setN, ih, Memory.setN, List.length_cons, Nat.add_assoc, Nat.add_comm 1]

theorem putCodes_bytes (hw : w ≠ 4) (κ n : Nat) (cs : List Nat) (m : List Host.Cell) :
    Memory.setN m (κ + n * (w / 8)) (cs.map (leBytes (w / 8))).flatten = putCodes κ w n cs m := by
  induction cs generalizing n m with
  | nil => rfl
  | cons c cs ih =>
    rw [List.map_cons, List.flatten_cons, setN_append, leBytes_length, putCodes, ← ih, putCode, if_neg hw, Nat.succ_mul,
      Nat.add_assoc]

end

/-! ### Rows of elements -/

section
variable {κ w M : Nat} {start : Nat → Nat} {row : Nat → List Nat} {m : List Host.Cell}

/-- Memory after the codes of some rows are written, each from its first element on. -/
def putRows (κ w : Nat) (start : Nat → Nat) (row : Nat → List Nat) (M : Nat) (m : List Host.Cell) : List Host.Cell :=
  (List.range M).foldl (fun m i => putCodes κ w (start i) (row i) m) m

theorem putRows_succ : putRows κ w start row (M + 1) m = putCodes κ w (start M) (row M) (putRows κ w start row M m) := by
  rw [putRows, List.range_succ, List.foldl_append]
  rfl

theorem wf_putRows (hm : Memory.wf m = true) : Memory.wf (putRows κ w start row M m) = true := by
  induction M with
  | zero => exact hm
  | succ M ih =>
    rw [putRows_succ]
    exact wf_putCodes ih

/-- Where each row ends before the next ones start, an element of a row has its code. -/
theorem getCode_putRows (hm : Memory.wf m = true) (hw : w = 4 ∨ w % 8 = 0)
    (hsep : ∀ i k, i < k → k < M → start i + (row i).length ≤ start k) {i j : Nat} (hi : i < M) (hj : j < (row i).length) :
    getCode κ w (start i + j) (putRows κ w start row M m) = (row i).getD j 0 % 2 ^ w := by
  induction M with
  | zero => exact absurd hi (Nat.not_lt_zero i)
  | succ M ih =>
    rw [putRows_succ]
    rcases Nat.lt_or_eq_of_le (Nat.le_of_lt_succ hi) with hlt | rfl
    · have hbefore := hsep i M hlt (Nat.lt_succ_self M)
      rw [getCode_putCodes_other (wf_putRows hm) (by omega)]
      exact ih (fun a b hab hb => hsep a b hab (Nat.lt_succ_of_lt hb)) hlt
    · exact getCode_putCodes_same (wf_putRows hm) hw hj

/-- A byte of no element below the end of the rows is as it was. -/
theorem get_putRows_other {a K : Nat} (hw : w = 4 ∨ w % 8 = 0) (hK : ∀ i, i < M → start i + (row i).length ≤ K)
    (h : a < κ ∨ κ + (K * w + 7) / 8 ≤ a) : Memory.get (putRows κ w start row M m) a = Memory.get m a := by
  induction M with
  | zero => rfl
  | succ M ih =>
    have hle := Nat.mul_le_mul_right w (hK M (Nat.lt_succ_self M))
    rw [putRows_succ, get_putCodes_other hw (by omega), ih fun i hi => hK i (Nat.lt_succ_of_lt hi)]

end

/-! ### The elements of a tile -/

section
variable {s : State} {core : Nat} {e : TileEntry}

theorem width_half_or_bytes (ty : ElemTy) : ty.width = 4 ∨ ty.width % 8 = 0 := by cases ty <;> decide

theorem tileByteKey_add (core : Nat) (e : TileEntry) (off : Nat) :
    tileByteKey core e off = tileByteKey core e 0 + off := by
  unfold tileByteKey
  split
  · simp only [tileKey]
    omega
  · simp only [ringKey]
    omega

theorem tileBytes_eq (e : TileEntry) : tileBytes e = (e.rows * e.cols * e.ty.width + 7) / 8 := by
  unfold tileBytes
  cases e.ty <;> simp only [ElemTy.width] <;> omega

theorem mul_width_div (n : Nat) (ty : ElemTy) (h : ty.width ≠ 4) : n * ty.width / 8 = n * (ty.width / 8) :=
  Nat.mul_div_assoc n (Nat.dvd_of_mod_eq_zero ((width_half_or_bytes ty).resolve_left h))

theorem memCode_eq (s : State) (core : Nat) (e : TileEntry) (n : Nat) :
    memCode s core e n = getCode (tileByteKey core e 0) e.ty.width n s.mem := by
  by_cases h : e.ty.width = 4
  · rw [getCode, if_pos h, ← tileByteKey_add]
    exact if_pos h
  · rw [getCode, if_neg h, ← mul_width_div n e.ty h, ← tileByteKey_add]
    exact if_neg h

/-- A write of elements changes memory by their codes, and beside it their granules' codes alone. -/
theorem writeElems_frame (core : Nat) (e : TileEntry) (n : Nat) (codes : List Nat) (s : State) :
    ∃ sys, writeElems core e n codes s =
      { s with mem := putCodes (tileByteKey core e 0) e.ty.width n codes s.mem, sys := sys } := by
  by_cases h : e.ty.width = 4
  · rw [h, ← putCodes_half]
    exact ⟨_, if_pos h⟩
  · have hpack : packElems e.ty.width codes = (codes.map (leBytes (e.ty.width / 8))).flatten := if_neg h
    rw [← putCodes_bytes h, ← mul_width_div n e.ty h, ← tileByteKey_add, ← hpack]
    exact ⟨_, if_neg h⟩

/-- Rows of elements are written as `putRows` says. -/
theorem writeRows_frame (core : Nat) (e : TileEntry) (start : Nat → Nat) (row : Nat → List Nat) (M : Nat) (s : State) :
    ∃ sys, (List.range M).foldl (fun s i => writeElems core e (start i) (row i) s) s =
      { s with mem := putRows (tileByteKey core e 0) e.ty.width start row M s.mem, sys := sys } := by
  induction M with
  | zero => exact ⟨s.sys, rfl⟩
  | succ M ih =>
    obtain ⟨sys, hrows⟩ := ih
    rw [List.range_succ, List.foldl_append, hrows, putRows_succ]
    exact writeElems_frame core e (start M) (row M) _

end

end Sys2Proof.Machine
end

section
/-! SUPPORT. The elements and the word of an accumulator after an instruction that writes it (09_matrix R218, R226, R229, R230),
and the sums of products over the steps of a reduction. -/

namespace Sys2Proof.Machine

open Sys2Proof

/-! ### Cells by row and column -/

section
variable {α β : Type} {M N : Nat}

/-- What a function gives for each row and column, row by row. -/
def cellsOf (M N : Nat) (f : Nat → Nat → α) : List α :=
  ((List.range M).map fun i => (List.range N).map fun j => f i j).flatten

theorem map_cellsOf (g : α → β) (f : Nat → Nat → α) : (cellsOf M N f).map g = cellsOf M N fun i j => g (f i j) := by
  simp only [cellsOf, List.map_flatten, List.map_map, Function.comp_def]

theorem any_cellsOf (p : α → Bool) (f : Nat → Nat → α) :
    (cellsOf M N f).any p = (List.range M).any fun i => (List.range N).any fun j => p (f i j) := by
  simp only [cellsOf, List.any_flatten, List.any_map, Function.comp_def]

theorem mem_cellsOf {f : Nat → Nat → α} {x : α} : x ∈ cellsOf M N f ↔ ∃ i j, i < M ∧ j < N ∧ f i j = x := by
  simp only [cellsOf, List.mem_flatten, List.mem_map, List.mem_range]
  constructor
  · rintro ⟨l, ⟨i, hi, rfl⟩, hx⟩
    obtain ⟨j, hj, rfl⟩ := List.mem_map.1 hx
    exact ⟨i, j, hi, List.mem_range.1 hj, rfl⟩
  · rintro ⟨i, j, hi, hj, rfl⟩
    exact ⟨_, ⟨i, hi, rfl⟩, List.mem_map.2 ⟨j, List.mem_range.2 hj, rfl⟩⟩

end

/-! ### The accumulator written -/

/-- A key all of whose entries have one value, and which has an entry unless that is the value of an absent key, reads as it. -/
theorem FMap.getD_of_entries {β : Type} {l : FMap β} {k : Nat} {x d : β} (hall : ∀ p ∈ l, p.1 = k → p.2 = x)
    (hmem : x = d ∨ (k, x) ∈ l) : FMap.getD l k d = x := by
  induction l with
  | nil =>
    rw [hmem.resolve_right List.not_mem_nil]
    rfl
  | cons p l ih =>
    obtain ⟨a, v⟩ := p
    rw [FMap.getD, FMap.get?]
    split
    · next ha => exact hall (a, v) List.mem_cons_self ha
    · next ha =>
      refine ih (fun q hq => hall q (List.mem_cons_of_mem _ hq)) (hmem.imp_right fun h => ?_)
      exact (List.mem_cons.1 h).resolve_left fun he => ha (congrArg Prod.fst he).symm

/-- The least of some numbers and a bound. -/
theorem foldl_min_spec (xs : List Nat) (z : Nat) :
    xs.foldl min z ≤ z ∧ (∀ x ∈ xs, xs.foldl min z ≤ x) ∧ (xs.foldl min z = z ∨ xs.foldl min z ∈ xs) := by
  induction xs generalizing z with
  | nil => simp
  | cons x xs ih =>
    obtain ⟨hle, hall, hmem⟩ := ih (min z x)
    rw [List.foldl_cons]
    refine ⟨hle.trans (min_le_left z x), List.forall_mem_cons.2 ⟨hle.trans (min_le_right z x), hall⟩, ?_⟩
    rcases hmem with heq | hmem
    · rcases min_choice z x with hz | hx
      · exact .inl (heq.trans hz)
      · exact .inr (List.mem_cons.2 (.inl (heq.trans hx)))
    · exact .inr (List.mem_cons_of_mem x hmem)

section
variable {m : MtxOp} {r : MtxRes} {a : AccTile} {zero : Bool} {v : Nat → Nat → Int}

/-- The elements of an accumulator written are the values computed. -/
theorem writeAcc_elem (hr : r.vals = cellsOf m.m m.n fun i j => (i * 128 + j, v i j)) (hn : m.n ≤ 128) {i j : Nat}
    (hi : i < m.m) (hj : j < m.n) : (writeAcc zero m r a).elem i j = v i j := by
  rw [AccTile.elem, writeAcc, hr]
  refine FMap.getD_of_entries (fun p hp hk => ?_) ?_
  · obtain ⟨i', j', -, hj', rfl⟩ := mem_cellsOf.1 (List.mem_filter.1 hp).1
    have hi : i' = i := by dsimp only at hk; omega
    have hj : j' = j := by dsimp only at hk; omega
    rw [hi, hj]
  · by_cases h : v i j = 0
    · exact .inl h
    · exact .inr (List.mem_filter.2 ⟨mem_cellsOf.2 ⟨i, j, hi, hj, rfl⟩, by simpa using h⟩)

/-- The census of an accumulator written is the least of its elements' headrooms, 39 where there is none (R218). -/
theorem writeAcc_census (hr : r.vals = cellsOf m.m m.n fun i j => (i * 128 + j, v i j)) :
    (writeAcc zero m r a).done.census ≤ 39 ∧
      (∀ i j, i < m.m → j < m.n → (writeAcc zero m r a).done.census ≤ cls true 40 (v i j)) ∧
      ((writeAcc zero m r a).done.census = 39 ∨
        ∃ i j, i < m.m ∧ j < m.n ∧ (writeAcc zero m r a).done.census = cls true 40 (v i j)) := by
  have hcensus : (writeAcc zero m r a).done.census = (cellsOf m.m m.n fun i j => cls true 40 (v i j)).foldl min 39 := by
    rw [writeAcc, hr, ← map_cellsOf (fun e : Nat × Int => cls true 40 e.2) fun i j => (i * 128 + j, v i j), List.foldl_map]
  obtain ⟨hle, hall, hmem⟩ := foldl_min_spec (cellsOf m.m m.n fun i j => cls true 40 (v i j)) 39
  rw [hcensus]
  refine ⟨hle, fun i j hi hj => hall _ (mem_cellsOf.2 ⟨i, j, hi, hj, rfl⟩), hmem.imp_right fun h => ?_⟩
  obtain ⟨i, j, hi, hj, he⟩ := mem_cellsOf.1 h
  exact ⟨i, j, hi, hj, he.symm⟩

end

/-! ### Sums over the steps of a reduction -/

section
variable {M N K : Nat} {qs : List Nat} {f a b : Nat → Nat → Int × Bool}

/-- Rows of elements, one for each of some steps. -/
def rowsOver (M : Nat) (qs : List Nat) (f : Nat → Nat → Int × Bool) : List (List (Int × Bool)) :=
  (List.range M).map fun i => qs.map (f i)

theorem length_rowsOver : (rowsOver M qs f).length = M := by simp [rowsOver]

theorem getD_rowsOver {i : Nat} (h : i < M) : (rowsOver M qs f).getD i [] = qs.map (f i) := by
  simp [rowsOver, h]

theorem transpose_rowsOver : transpose (rowsOver K (List.range M) f) M = rowsOver M (List.range K) fun j q => f q j := by
  refine List.map_congr_left fun j hj => ?_
  rw [rowsOver, List.map_map]
  refine List.map_congr_left fun q _ => ?_
  simp [List.mem_range.1 hj]

theorem sliced_rowsOver (k : Nat) : sliced k K (rowsOver M (List.range K) f) = rowsOver M ((List.range K).drop k) f := by
  rw [sliced, rowsOver, List.map_map]
  refine List.map_congr_left fun i _ => ?_
  rw [Function.comp_apply, List.take_of_length_le (by simp), List.map_drop]

theorem any_any_comm {α β : Type} (xs : List α) (ys : List β) (p : α → β → Bool) :
    (xs.any fun x => ys.any fun y => p x y) = ys.any fun y => xs.any fun x => p x y := by
  rw [Bool.eq_iff_iff]
  simp only [List.any_eq_true]
  constructor
  · rintro ⟨x, hx, y, hy, h⟩
    exact ⟨y, hy, x, hx, h⟩
  · rintro ⟨y, hy, x, hx, h⟩
    exact ⟨x, hx, y, hy, h⟩

theorem any_rowsOver : ((rowsOver M qs f).any fun r => r.any Prod.snd) = qs.any fun q => (List.range M).any fun i => (f i q).2 := by
  simp only [rowsOver, List.any_map, Function.comp_def]
  exact any_any_comm ..

theorem any_or_any {α : Type} (xs : List α) (p q : α → Bool) : (xs.any p || xs.any q) = xs.any fun x => p x || q x := by
  induction xs with
  | nil => rfl
  | cons x xs ih =>
    rw [List.any_cons, List.any_cons, List.any_cons, ← ih]
    cases p x <;> cases q x <;> simp

/-- The sum of an element of a product over some steps, in their order (R226). -/
def sumOver (zero : Bool) (acc : AccTile) (qs : List Nat) (a b : Nat → Nat → Int × Bool) (i j : Nat) : Int × Bool :=
  dotA40 (if zero then 0 else acc.elem i j) (qs.map fun q => ((a i q).1, (b j q).1))

/-- A product of rows and columns has the sum of each element, whether one clamped, and whether a code was replaced. -/
theorem productRes_rowsOver (zero : Bool) (acc : AccTile) :
    productRes zero acc (rowsOver M qs a) (rowsOver N qs b) =
      { vals := cellsOf M N fun i j => (i * 128 + j, (sumOver zero acc qs a b i j).1)
        sat := (List.range M).any fun i => (List.range N).any fun j => (sumOver zero acc qs a b i j).2
        sub := qs.any fun q => ((List.range M).any fun i => (a i q).2) || (List.range N).any fun j => (b j q).2 } := by
  have hcells : ((List.range M).map fun i => (List.range N).map fun j =>
      ((i * 128 + j, (dotA40 (if zero then 0 else acc.elem i j) ((((rowsOver M qs a).getD i []).map Prod.fst).zip
        (((rowsOver N qs b).getD j []).map Prod.fst))).1), (dotA40 (if zero then 0 else acc.elem i j)
          ((((rowsOver M qs a).getD i []).map Prod.fst).zip (((rowsOver N qs b).getD j []).map Prod.fst))).2)).flatten =
      cellsOf M N fun i j => ((i * 128 + j, (sumOver zero acc qs a b i j).1), (sumOver zero acc qs a b i j).2) := by
    refine congrArg List.flatten (List.map_congr_left fun i hi => List.map_congr_left fun j hj => ?_)
    rw [getD_rowsOver (List.mem_range.1 hi), getD_rowsOver (List.mem_range.1 hj), List.map_map, List.map_map, List.zip_map']
    rfl
  simp only [productRes, length_rowsOver, hcells, map_cellsOf, any_cellsOf, any_rowsOver, any_or_any]

/-- An instruction that adds a value to each element, or puts it (R229, R230). -/
theorem addRes_cells (zero : Bool) (acc : AccTile) (f : Nat → Nat → Int × Bool) :
    addRes zero acc M N f =
      { vals := cellsOf M N fun i j => (i * 128 + j, (satA40 ((if zero then 0 else acc.elem i j) + (f i j).1)).1)
        sat := (List.range M).any fun i => (List.range N).any fun j =>
          (satA40 ((if zero then 0 else acc.elem i j) + (f i j).1)).2
        sub := (List.range M).any fun i => (List.range N).any fun j => (f i j).2 } := by
  have hcells : ((List.range M).map fun i => (List.range N).map fun j =>
      (((i * 128 + j, (satA40 ((if zero then 0 else acc.elem i j) + (f i j).1)).1),
        (satA40 ((if zero then 0 else acc.elem i j) + (f i j).1)).2, (f i j).2) : (Nat × Int) × Bool × Bool)).flatten =
      cellsOf M N fun i j => ((i * 128 + j, (satA40 ((if zero then 0 else acc.elem i j) + (f i j).1)).1),
        (satA40 ((if zero then 0 else acc.elem i j) + (f i j).1)).2, (f i j).2) := rfl
  simp only [addRes, hcells, map_cellsOf, any_cellsOf]

end

end Sys2Proof.Machine
end

section
/-! SUPPORT. The end of a matrix instruction on the core that holds its task's state (09_matrix R223, R233, R235, R236): its
operation goes, later ones may start, and its flags, its marks and class T are noted. -/

namespace Sys2Proof.Machine

open Sys2Proof

/-! ### What is noted -/

section
variable {c : Ctx} {now : Nat} {o : Op} {m : MtxOp} {f : BitVec 6} {sub : Bool} {bad : Option FaultCode}

/-- The marks of a class with one for an error, if there is one. -/
def markedBy (o : Op) (code : Option FaultCode) (ms : List Mark) : List Mark :=
  match code with
  | some k => appendMark ms ⟨k, 0, o.bundle, BitVec.ofNat 64 o.bundle⟩
  | none => ms

theorem markT_eq (code : Option FaultCode) :
    markT o code c = { c with marks := { c.marks with t := markedBy o code c.marks.t } } := by
  cases code <;> rfl

/-- The marks of class T after an instruction that replaced a reserved code under FAULT, or that had an error (R223). -/
def marksAfter (o : Op) (m : MtxOp) (sub : Bool) (bad : Option FaultCode) (ms : List Mark) : List Mark :=
  markedBy o bad (if sub && fmtSubst m.mf == .fault then markedBy o (some .reservedCode) ms else ms)

/-- What is noted changes the counters, SATF and the marks alone. -/
theorem noteMatrix_eq : noteMatrix now o m f sub bad c =
    { c.setSatf now (f ||| flagIf sub satRsub) with
      cnt := if m.lastRep then c.cnt.modify .t (· - 1) else c.cnt
      marks := { c.marks with t := marksAfter o m sub bad c.marks.t } } := by
  unfold noteMatrix marksAfter
  simp only [markT_eq]
  cases m.lastRep with
  | false => cases sub && fmtSubst m.mf == .fault <;> rfl
  | true => cases sub && fmtSubst m.mf == .fault <;> rfl

theorem noteMatrix_fields : (noteMatrix now o m f sub bad c).acc = c.acc ∧
    (noteMatrix now o m f sub bad c).cnt = (if m.lastRep then c.cnt.modify .t (· - 1) else c.cnt) ∧
    (noteMatrix now o m f sub bad c).satf = c.satf ||| f ||| flagIf sub satRsub ∧
    (noteMatrix now o m f sub bad c).marks.t = marksAfter o m sub bad c.marks.t := by
  rw [noteMatrix_eq, BitVec.or_assoc]
  exact ⟨rfl, rfl, rfl, rfl⟩

end

/-! ### The core that holds the state -/

section
variable {s : State} {n task member : Nat}

/-- Where the first entry that meets a test stands at a key, so does it when the entry of that key changes and still meets
the test, or still fails it. -/
theorem FMap.find?_set_fst {β : Type} {p : β → Bool} {x : β} {l : FMap β} (hx : ∀ c, l.get? n = some c → p x = p c)
    (hl : (l.find? fun e => p e.2).map Prod.fst = some n) : ((l.set n x).find? fun e => p e.2).map Prod.fst = some n := by
  induction l with
  | nil => cases hl
  | cons e l ih =>
    obtain ⟨k, c⟩ := e
    rw [FMap.set]
    split
    · rw [List.find?_cons]
      split
      · rfl
      · exact hl
    · split
      · next hk =>
        subst hk
        have hxc := hx c (by simp [FMap.get?])
        rw [List.find?_cons] at hl ⊢
        dsimp only at hl ⊢
        rw [hxc]
        split
        · rfl
        · next hp => simpa only [hp] using hl
      · next hlt hne =>
        rw [List.find?_cons] at hl ⊢
        split
        · next hp => simpa only [hp] using hl
        · next hp =>
          simp only [hp] at hl
          exact ih (fun c' hc' => hx c' (by simpa [FMap.get?, Ne.symm hne] using hc')) hl

/-- A change of the core that holds a member's state, which leaves it running that member, leaves it the one that does. -/
theorem coreOf_modCore {g : Core → Core} (hg : ∀ c, (g c).mode = c.mode ∧ (g c).task = c.task ∧ (g c).member = c.member)
    (h : s.coreOf task member = some n) : (s.modCore n g).coreOf task member = some n := by
  refine FMap.find?_set_fst (p := fun c : Core => c.mode != .idle && c.mode != .restoring && c.task == task && c.member == member)
    (fun c hc => ?_) h
  obtain ⟨hmode, htask, hmember⟩ := hg (s.coreAt n)
  have hcore : s.coreAt n = c := by rw [State.coreAt, FMap.getD, hc, Option.getD_some]
  rw [hmode, htask, hmember, hcore]

theorem coreOf_modTile {i : Nat} {g : TileEntry → TileEntry} (h : s.coreOf task member = some n) :
    (s.modTile n i g).coreOf task member = some n :=
  coreOf_modCore (fun c => by split <;> exact ⟨rfl, rfl, rfl⟩) h

theorem ownerCtx_of_coreOf (h : s.coreOf task member = some n) : s.ownerCtx task member = (s.coreAt n).ctx := by
  rw [State.ownerCtx, h]

end

/-! ### The end of an instruction -/

section
variable {s t u : State} {o : Op} {m : MtxOp} {f : BitVec 6} {sub : Bool} {bad : Option FaultCode} {acc : FMap AccTile}

/-- An instruction has ended: its operation is gone, its task has some accumulators, and flags, marks and class T are noted. -/
def EndsWith (s : State) (o : Op) (m : MtxOp) (acc : FMap AccTile) (f : BitVec 6) (sub : Bool) (bad : Option FaultCode)
    (t : State) : Prop :=
  t.op? o.id = none ∧
    ∃ now, (t.coreAt o.core).ctx = noteMatrix now o m f sub bad { (s.coreAt o.core).ctx with acc := acc }

theorem EndsWith.cnt (h : EndsWith s o m acc f sub bad t) : (t.coreAt o.core).ctx.cnt =
    if m.lastRep then (s.coreAt o.core).ctx.cnt.modify .t (· - 1) else (s.coreAt o.core).ctx.cnt := by
  obtain ⟨-, now, hctx⟩ := h
  rw [hctx]
  exact noteMatrix_fields.2.1

theorem EndsWith.satf (h : EndsWith s o m acc f sub bad t) :
    (t.coreAt o.core).ctx.satf = (s.coreAt o.core).ctx.satf ||| f ||| flagIf sub satRsub := by
  obtain ⟨-, now, hctx⟩ := h
  rw [hctx]
  exact noteMatrix_fields.2.2.1

theorem EndsWith.marks (h : EndsWith s o m acc f sub bad t) :
    (t.coreAt o.core).ctx.marks.t = marksAfter o m sub bad (s.coreAt o.core).ctx.marks.t := by
  obtain ⟨-, now, hctx⟩ := h
  rw [hctx]
  exact noteMatrix_fields.2.2.2

theorem EndsWith.accAt (h : EndsWith s o m acc f sub bad t) (n : Nat) :
    (t.coreAt o.core).ctx.accAt n = acc.getD n {} := by
  obtain ⟨-, now, hctx⟩ := h
  rw [hctx, Ctx.accAt, noteMatrix_fields.1]

/-- The end noted at the core that holds the state. -/
theorem endsWith_modOwner (hop : u.op? o.id = none) (hcore : u.coreOf o.task o.member = some o.core)
    (hctx : (u.coreAt o.core).ctx = (s.coreAt o.core).ctx) (now : Nat)
    (g : Ctx → FMap AccTile) : EndsWith s o m (g (s.coreAt o.core).ctx) f sub bad
      (u.modOwner o.task o.member fun c => noteMatrix now o m f sub bad { c with acc := g c }) := by
  rw [State.modOwner_of_coreOf hcore, EndsWith, State.coreAt_modCtxAt_ctx, hctx]
  exact ⟨hop, now, rfl⟩

/-- What an instruction that ends leaves in flight: it is gone, and those that waited for it may start in the next cycle. -/
theorem delayFollowers_frame (o : Op) (m : MtxOp) (s : State) :
    ∃ l, delayFollowers o m (s.dropOp o.id) = { s with ops := l } ∧ l.find? (fun x => x.id == o.id) = none := by
  refine ⟨_, rfl, List.find?_eq_none.2 fun y hy => ?_⟩
  obtain ⟨x, hx, rfl⟩ := List.mem_map.1 hy
  have hid := (List.mem_filter.1 hx).2
  simp only [bne_iff_ne, beq_iff_eq, ne_eq] at hid ⊢
  split
  · split
    · split <;> exact hid
    · exact hid
  · exact hid

end

end Sys2Proof.Machine
end

section
/-! SUPPORT. What products, loads and additions leave in their accumulator (09_matrix R226–R230): the elements of the operands as
the instruction reads them, and the end of each instruction. -/

namespace Sys2Proof.Machine

open Sys2Proof

/-! ### The operands of a product -/

section
variable {s : State} {o : Op} {m : MtxOp} {ea eb : TileEntry} {zero tA tB chain : Bool}

/-- An element of a chained accumulator narrowed to MF.CHT, and whether it clamped (R227). -/
def narrowed (m : MtxOp) (y : AccTile) (i q : Nat) : Int × Bool :=
  sat (fmtSym m.mf) (mfCht m.mf) (rndM m (accTensor m.ay) (i * m.klen + q) (y.elem i q) (mfChsh m.mf))

/-- The element of row i and step q of a product's first operand, and whether a reserved code was replaced. -/
def leftElem (s : State) (o : Op) (m : MtxOp) (ea : TileEntry) (chain tA : Bool) (i q : Nat) : Int × Bool :=
  if chain then ((narrowed m ((s.ownerCtx o.task o.member).accAt m.ay) i q).1, false)
  else if tA then rdm s o.core m.mf ea (m.ra + q) (m.ca + i)
  else rdm s o.core m.mf ea (m.ra + i) (m.ca + q)

/-- The element of step q and column j of a product's second operand. -/
def rightElem (s : State) (o : Op) (m : MtxOp) (eb : TileEntry) (chain tB : Bool) (q j : Nat) : Int × Bool :=
  if chain then rdm s o.core m.mf eb (m.ra + q) (m.ca + j)
  else if tB then rdm s o.core m.mf eb (m.rb + j) (m.cb + q)
  else rdm s o.core m.mf eb (m.rb + q) (m.cb + j)

theorem readWindow_eq (core : Nat) (mf : Word) (e : TileEntry) (r c M N : Nat) :
    readWindow s core mf e r c M N = rowsOver M (List.range N) fun i j => rdm s core mf e (r + i) (c + j) := rfl

/-- Some element of a chained accumulator clamped. -/
def chainClamped (s : State) (o : Op) (m : MtxOp) : Bool :=
  (List.range m.m).any fun i => (List.range m.klen).any fun q =>
    (narrowed m ((s.ownerCtx o.task o.member).accAt m.ay) i q).2

/-- The operands of a product have the elements that it reads. -/
def FactorsAre (s : State) (o : Op) (m : MtxOp) (ea eb : TileEntry) (chain tA tB : Bool) (f : Factors) : Prop :=
  f.rows = rowsOver m.m (List.range m.klen) (leftElem s o m ea chain tA) ∧
    f.cols = rowsOver m.n (List.range m.klen) (fun j q => rightElem s o m eb chain tB q j) ∧
    f.clamped = (chain && chainClamped s o m) ∧
    f.wa = (if chain then (mfCht m.mf).width else ea.ty.width) ∧ f.wb = eb.ty.width

theorem tileFactors_spec (ha : (s.coreAt o.core).tiles.get? m.a = some ea) (hb : (s.coreAt o.core).tiles.get? m.b = some eb) :
    ∃ f, tileFactors s o m tA tB = some f ∧ FactorsAre s o m ea eb false tA tB f := by
  simp only [tileFactors, ha, hb, readWindow_eq, transpose_rowsOver]
  refine ⟨_, rfl, ?_, ?_, rfl, rfl, rfl⟩
  · cases tA <;> rfl
  · cases tB <;> rfl

theorem chainFactors_spec (hb : (s.coreAt o.core).tiles.get? m.b = some eb) :
    ∃ f, chainFactors s o m = some f ∧ FactorsAre s o m ea eb true tA tB f := by
  simp only [chainFactors, hb, Option.map_some, readWindow_eq, transpose_rowsOver]
  refine ⟨_, rfl, ?_, rfl, ?_, rfl, rfl⟩
  · simp only [chainRows, List.map_map]
    refine List.map_congr_left fun i _ => ?_
    rw [Function.comp_apply, List.map_map]
    rfl
  · simp only [chainRows, List.any_map, Function.comp_def, Bool.true_and]
    rfl

/-- A product instruction: whether it starts from zero, which of its operands are stored transposed, and whether the first one
is an accumulator. -/
def IsProductOf (i : Instr) (zero tA tB chain : Bool) : Prop :=
  ∃ a h k y, (i = .mma a h k ∧ zero = false ∧ tA = false ∧ tB = false ∧ chain = false) ∨
    (i = .mmaz a h k ∧ zero = true ∧ tA = false ∧ tB = false ∧ chain = false) ∨
    (i = .mmat a h k ∧ zero = false ∧ tA = true ∧ tB = false ∧ chain = false) ∨
    (i = .mmbt a h k ∧ zero = false ∧ tA = false ∧ tB = true ∧ chain = false) ∨
    (i = .mmac a h y ∧ zero = false ∧ tA = false ∧ tB = false ∧ chain = true)

theorem IsProductOf.completes (h : IsProductOf m.instr zero tA tB chain) (o : Op) (s : State) :
    completeMatrix o m s = completeProduct o m zero (delayFollowers o m (s.dropOp o.id)) := by
  obtain ⟨a, h, k, y, hi | hi | hi | hi | hi⟩ := h <;> obtain ⟨hi, rfl, -⟩ := hi <;> simp only [completeMatrix, hi]

theorem IsProductOf.factorsOf (h : IsProductOf m.instr zero tA tB chain) :
    factorsOf s o m = if chain then chainFactors s o m else tileFactors s o m tA tB := by
  obtain ⟨a, h, k, y, hi | hi | hi | hi | hi⟩ := h <;> obtain ⟨hi, -, rfl, rfl, rfl⟩ := hi <;>
    simp only [Machine.factorsOf, hi, if_true, Bool.false_eq_true, if_false]

theorem IsProductOf.factors (h : IsProductOf m.instr zero tA tB chain)
    (ha : chain = false → (s.coreAt o.core).tiles.get? m.a = some ea) (hb : (s.coreAt o.core).tiles.get? m.b = some eb) :
    ∃ f, Machine.factorsOf s o m = some f ∧ FactorsAre s o m ea eb chain tA tB f := by
  rw [h.factorsOf]
  cases chain with
  | false => exact tileFactors_spec (ha rfl) hb
  | true => exact chainFactors_spec hb

/-- The sums of a product's elements over the steps that its accumulator does not hold yet. -/
theorem partRes_eq {f : Factors} (hf : FactorsAre s o m ea eb chain tA tB f) (acc : AccTile) :
    partRes zero m f none acc = productRes (zero && m.summed == 0) acc
      (rowsOver m.m ((List.range m.klen).drop (slicesOf f.wa f.wb m.summed)) (leftElem s o m ea chain tA))
      (rowsOver m.n ((List.range m.klen).drop (slicesOf f.wa f.wb m.summed)) fun j q => rightElem s o m eb chain tB q j) := by
  obtain ⟨hrows, hcols, -⟩ := hf
  simp only [partRes, hrows, hcols, Option.map_none, Option.getD_none, sliced_rowsOver]

end

/-! ### The ends of the instructions that write an accumulator -/

section
variable {s : State} {o : Op} {m : MtxOp} {l : List Op} {f : BitVec 6} {bad : Option FaultCode} {zero : Bool}

/-- The accumulators of a task with that of an instruction written. -/
def accWritten (s : State) (o : Op) (m : MtxOp) (a : AccTile → AccTile) : FMap AccTile :=
  (s.coreAt o.core).ctx.acc.set m.acc (a ((s.coreAt o.core).ctx.accAt m.acc))

/-- An instruction that writes its accumulator ends, and no byte of memory changes. -/
theorem endAcc_ends (hc : s.coreOf o.task o.member = some o.core) (hl : l.find? (fun x => x.id == o.id) = none)
    (r : MtxRes) (rs : List (Nat × Nat)) :
    EndsWith s o m (accWritten s o m (writeAcc zero m r)) (f ||| flagIf r.sat satAcc) r.sub bad
        (endAcc o m zero r f bad (readRanged rs { s with ops := l })) ∧
      SameMemory s (endAcc o m zero r f bad (readRanged rs { s with ops := l })) :=
  ⟨endsWith_modOwner (u := readRanged rs { s with ops := l }) hl hc rfl s.cyc
      fun c => c.acc.set m.acc (writeAcc zero m r (c.accAt m.acc)),
    .of_eq (State.modOwner_mem ..) (State.modOwner_host ..)⟩

/-- An instruction that has nothing to read or write ends. -/
theorem noteMatrix_ends (hc : s.coreOf o.task o.member = some o.core) (hl : l.find? (fun x => x.id == o.id) = none)
    (sub : Bool) : EndsWith s o m (s.coreAt o.core).ctx.acc f sub bad
      ({ s with ops := l }.modOwner o.task o.member (noteMatrix s.cyc o m f sub bad)) :=
  endsWith_modOwner (u := { s with ops := l }) hl hc rfl s.cyc Ctx.acc

theorem completeMzero_ends (hc : s.coreOf o.task o.member = some o.core) (hl : l.find? (fun x => x.id == o.id) = none) :
    EndsWith s o m (accWritten s o m fun a =>
        { a with elems := [], done := { rows := m.m, cols := m.n, exp := 0, free := true, census := 39 } }) 0 false none
        (completeMzero o m { s with ops := l }) ∧
      SameMemory s (completeMzero o m { s with ops := l }) :=
  ⟨endsWith_modOwner (u := { s with ops := l }) hl hc rfl s.cyc fun c => c.acc.set m.acc { c.accAt m.acc with
      elems := [], done := { rows := m.m, cols := m.n, exp := 0, free := true, census := 39 } },
    .of_eq (State.modOwner_mem ..) (State.modOwner_host ..)⟩

/-- A product ends whether or not its tiles are there. -/
theorem completeProduct_ends (hc : s.coreOf o.task o.member = some o.core) (hl : l.find? (fun x => x.id == o.id) = none)
    (zero : Bool) : ∃ acc f sub bad, EndsWith s o m acc f sub bad (completeProduct o m zero { s with ops := l }) := by
  unfold completeProduct
  split
  · exact ⟨_, _, _, _, (endAcc_ends hc hl _ _).1⟩
  · exact ⟨_, _, _, _, noteMatrix_ends hc hl false⟩

theorem completeAdd_ends (hc : s.coreOf o.task o.member = some o.core) (hl : l.find? (fun x => x.id == o.id) = none)
    (zero : Bool) (bias : Option Bool) :
    ∃ acc f sub bad, EndsWith s o m acc f sub bad (completeAdd o m zero bias { s with ops := l }) := by
  unfold completeAdd
  split
  · exact ⟨_, _, _, _, (endAcc_ends hc hl _ _).1⟩
  · exact ⟨_, _, _, _, noteMatrix_ends hc hl false⟩

end

end Sys2Proof.Machine
end

section
/-! SUPPORT. What a MOUT leaves in its tile (09_matrix R228, R225): the elements of its window, the tile's exponent and its census. -/

namespace Sys2Proof.Machine

open Sys2Proof

section
variable {s u : State} {o : Op} {m : MtxOp} {e f : TileEntry} {a : AccTile} {key : Word}
  {mem : List Host.Cell}

/-! ### The elements written -/

/-- The element that a MOUT writes at row i and column j of its window, and whether it clamped. -/
def outElem (m : MtxOp) (a : AccTile) (e : TileEntry) (key : Word) (i j : Nat) : Int × Bool :=
  if a.done.free then (0, false)
  else sat (fmtSym m.mf) e.ty (rndM m key ((m.ra + i) * e.cols + m.ca + j) (a.elem i j) (outShift m a.done e))

theorem outRows_eq (m : MtxOp) (a : AccTile) (e : TileEntry) (key : Word) : outRows m a e key =
    ((List.range m.m).map fun i => (List.range m.n).map fun j => (outElem m a e key i j).1,
      (List.range m.m).any fun i => (List.range m.n).any fun j => (outElem m a e key i j).2) := by
  simp only [outRows, List.map_map, List.any_map, Function.comp_def]
  rfl

/-! ### The states on the way -/

/-- A state on the way to the end of a MOUT: its operation is gone, its core holds its task's state as it was, and its tile has
an entry and memory some bytes. -/
def OnWay (s : State) (o : Op) (m : MtxOp) (f : TileEntry) (mem : List Host.Cell) (u : State) : Prop :=
  u.op? o.id = none ∧ u.coreOf o.task o.member = some o.core ∧ (u.coreAt o.core).ctx = (s.coreAt o.core).ctx ∧
    (u.coreAt o.core).tiles.get? m.a = some f ∧ u.mem = mem ∧ u.host = s.host

theorem OnWay.modTile (h : OnWay s o m f mem u) (g : TileEntry → TileEntry) :
    OnWay s o m (g f) mem (u.modTile o.core m.a g) := by
  obtain ⟨hop, hcore, hctx, htile, hstorage⟩ := h
  exact ⟨hop, coreOf_modTile hcore, (ctx_modTile ..).trans hctx, get?_modTile g htile, hstorage⟩

theorem OnWay.writeRows (h : OnWay s o m f mem u) (e : TileEntry) (start : Nat → Nat) (row : Nat → List Nat) (M : Nat) :
    OnWay s o m f (putRows (tileByteKey o.core e 0) e.ty.width start row M mem)
      ((List.range M).foldl (fun s i => writeElems o.core e (start i) (row i) s) u) := by
  obtain ⟨hop, hcore, hctx, htile, rfl, hhost⟩ := h
  obtain ⟨sys, hrows⟩ := writeRows_frame o.core e start row M u
  exact hrows ▸ ⟨hop, hcore, hctx, htile, rfl, hhost⟩

/-- The instruction ends with its tile's entry as it stands. -/
theorem OnWay.ends (h : OnWay s o m f mem u) (now : Nat) (flags : BitVec 6) (bad : Option FaultCode) :
    EndsWith s o m (s.coreAt o.core).ctx.acc flags false bad
        (u.modOwner o.task o.member (noteMatrix now o m flags false bad)) ∧
      ((u.modOwner o.task o.member (noteMatrix now o m flags false bad)).coreAt o.core).tiles.get? m.a = some f ∧
      (u.modOwner o.task o.member (noteMatrix now o m flags false bad)).mem = mem ∧
      (u.modOwner o.task o.member (noteMatrix now o m flags false bad)).host = s.host := by
  obtain ⟨hop, hcore, hctx, htile, hmem, hhost⟩ := h
  refine ⟨endsWith_modOwner hop hcore hctx now Ctx.acc, ?_, (State.modOwner_mem ..).trans hmem, (State.modOwner_host ..).trans hhost⟩
  rw [State.modOwner_of_coreOf hcore, coreAt_modCtxAt_tiles]
  exact htile

/-! ### The two ends of a MOUT -/

/-- The exponent of a MOUT's elements (R228). -/
def outExp (m : MtxOp) (a : AccTile) (e : TileEntry) : Int := a.done.exp + outShift m a.done e

/-- The entry of the tile of a MOUT that has written it. -/
def outEntry (m : MtxOp) (a : AccTile) (e : TileEntry) (key : Word) : TileEntry :=
  { e with
    expPending := none, dirty := true
    census := minCensus e.ty (cellsOf m.m m.n fun i j => (outElem m a e key i j).1) (if m.whole then clsMax e.ty else e.census)
    exp := if m.whole && !a.done.free then outExp m a e else e.exp }

variable {l : List Op}

theorem onWay_dropped (hc : s.coreOf o.task o.member = some o.core) (hl : l.find? (fun x => x.id == o.id) = none)
    (he : (s.coreAt o.core).tiles.get? m.a = some e) : OnWay s o m e s.mem { s with ops := l } :=
  ⟨hl, hc, rfl, he, rfl, rfl⟩

theorem onWay_clearPending (hc : s.coreOf o.task o.member = some o.core) (hl : l.find? (fun x => x.id == o.id) = none)
    (he : (s.coreAt o.core).tiles.get? m.a = some e) (hp : e.expPending = some o.id) :
    OnWay s o m { e with expPending := none } s.mem ({ s with ops := l }.modTile o.core m.a (clearPending o.id)) := by
  have hclear : clearPending o.id e = { e with expPending := none } := if_pos hp
  exact hclear ▸ (onWay_dropped hc hl he).modTile (clearPending o.id)

/-- A whole write whose exponent is out of range is an error, and writes nothing. -/
theorem completeMout_error (hc : s.coreOf o.task o.member = some o.core) (hl : l.find? (fun x => x.id == o.id) = none)
    (he : (s.coreAt o.core).tiles.get? m.a = some e) (hp : e.expPending = some o.id)
    (ha : (s.coreAt o.core).ctx.accAt m.acc = a) (hw : m.whole = true) (hf : a.done.free = false)
    (hx : ¬(-64 ≤ outExp m a e ∧ outExp m a e ≤ 63)) :
    EndsWith s o m (s.coreAt o.core).ctx.acc 0 false (some .scaleMismatch) (completeMout o m { s with ops := l }) ∧
      ((completeMout o m { s with ops := l }).coreAt o.core).tiles.get? m.a = some { e with expPending := none } ∧
      (completeMout o m { s with ops := l }).mem = s.mem ∧ (completeMout o m { s with ops := l }).host = s.host := by
  have hctx : ({ s with ops := l }.ownerCtx o.task o.member).accAt m.acc = a := by
    rw [ownerCtx_of_coreOf (s := { s with ops := l }) hc]
    exact ha
  have he' : ({ s with ops := l }.coreAt o.core).tiles.get? m.a = some e := he
  have hbad : (m.whole && !a.done.free && !decide (-64 ≤ outExp m a e ∧ outExp m a e ≤ 63)) = true := by
    rw [hw, hf, decide_eq_false hx]
    rfl
  have hend : completeMout o m { s with ops := l } = ({ s with ops := l }.modTile o.core m.a (clearPending o.id)).modOwner
      o.task o.member (noteMatrix s.cyc o m 0 false (some .scaleMismatch)) := by
    unfold outExp at hbad
    simp only [completeMout, he', hctx, hbad, if_true]
    rfl
  rw [hend]
  exact (onWay_clearPending hc hl he hp).ends s.cyc 0 (some .scaleMismatch)

/-- The exponent of a tile whose whole a MOUT of an accumulator that is not FREE has written. -/
def exponentWritten (o : Op) (m : MtxOp) (a : AccTile) (e : TileEntry) (u : State) : State :=
  if m.whole && !a.done.free then u.modTile o.core m.a fun x => { x with exp := outExp m a e } else u

theorem OnWay.exponentWritten (h : OnWay s o m f mem u) (a : AccTile) (e : TileEntry) :
    OnWay s o m { f with exp := if m.whole && !a.done.free then outExp m a e else f.exp } mem (exponentWritten o m a e u) := by
  unfold Machine.exponentWritten
  split
  · exact h.modTile _
  · exact h

/-- The codes of a row that a MOUT writes. -/
def outCodes (m : MtxOp) (a : AccTile) (e : TileEntry) (key : Word) (i : Nat) : List Nat :=
  ((outRows m a e key).1.getD i []).map (codeOf e.ty.width)

theorem outCodes_eq {i : Nat} (hi : i < m.m) :
    outCodes m a e key i = (List.range m.n).map fun j => codeOf e.ty.width (outElem m a e key i j).1 := by
  rw [outCodes, outRows_eq]
  simp [hi]

/-- Any other MOUT writes the codes of its window, row by row. -/
theorem completeMout_writes (hc : s.coreOf o.task o.member = some o.core) (hl : l.find? (fun x => x.id == o.id) = none)
    (he : (s.coreAt o.core).tiles.get? m.a = some e) (hp : e.expPending = some o.id)
    (ha : (s.coreAt o.core).ctx.accAt m.acc = a) (hk : tileTensor (s.coreAt o.core).ctx m.a e = key)
    (hx : m.whole = true → a.done.free = false → -64 ≤ outExp m a e ∧ outExp m a e ≤ 63) (hm : 0 < m.m) (hn : 0 < m.n) :
    EndsWith s o m (s.coreAt o.core).ctx.acc (flagIf (outRows m a e key).2 satOut) false none
        (completeMout o m { s with ops := l }) ∧
      ((completeMout o m { s with ops := l }).coreAt o.core).tiles.get? m.a = some (outEntry m a e key) ∧
      (completeMout o m { s with ops := l }).mem = putRows (tileByteKey o.core e 0) e.ty.width
        (fun i => (m.ra + i) * e.cols + m.ca) (outCodes m a e key) m.m s.mem ∧
      (completeMout o m { s with ops := l }).host = s.host := by
  have hown := ownerCtx_of_coreOf (s := { s with ops := l }) hc
  have hctx : ({ s with ops := l }.ownerCtx o.task o.member).accAt m.acc = a := by
    rw [hown]
    exact ha
  have hkey : tileTensor ({ s with ops := l }.ownerCtx o.task o.member) m.a e = key := by
    rw [hown]
    exact hk
  have he' : ({ s with ops := l }.coreAt o.core).tiles.get? m.a = some e := he
  have hgood : ¬(m.whole && !a.done.free && !decide (-64 ≤ outExp m a e ∧ outExp m a e ≤ 63)) = true := by
    simp only [Bool.and_eq_true, Bool.not_eq_true', decide_eq_false_iff_not]
    exact fun ⟨⟨hw, hf⟩, hout⟩ => hout (hx hw hf)
  have hxs : (outRows m a e key).1.flatten = cellsOf m.m m.n fun i j => (outElem m a e key i j).1 := by
    rw [outRows_eq]
    rfl
  have hne : (outRows m a e key).1.flatten ≠ [] := by
    rw [hxs]
    exact List.ne_nil_of_mem (mem_cellsOf.2 ⟨0, 0, hm, hn, rfl⟩)
  have hend : ∃ now, completeMout o m { s with ops := l } =
      (exponentWritten o m a e (noteEngineWrite o.core m.a m.whole (outRows m a e key).1.flatten
        ((List.range m.m).foldl (fun s i => writeElems o.core e ((m.ra + i) * e.cols + m.ca) (outCodes m a e key i) s)
          ({ s with ops := l }.modTile o.core m.a (clearPending o.id))))).modOwner
        o.task o.member (noteMatrix now o m (flagIf (outRows m a e key).2 satOut) false none) := by
    unfold outExp at hgood
    simp only [completeMout, he', hctx, hkey, if_neg hgood]
    exact ⟨_, rfl⟩
  obtain ⟨now, hend⟩ := hend
  have hwrote := (onWay_clearPending hc hl he hp).writeRows e (fun i => (m.ra + i) * e.cols + m.ca) (outCodes m a e key) m.m
  rw [hend, noteEngineWrite, if_neg hne, hxs]
  exact ((hwrote.modTile _).exponentWritten a e).ends now _ none

theorem OnWay.noteEngineWrite (h : OnWay s o m f mem u) (whole : Bool) (xs : List Int) :
    ∃ f', OnWay s o m f' mem (noteEngineWrite o.core m.a whole xs u) := by
  unfold Machine.noteEngineWrite
  split
  · exact ⟨f, h⟩
  · exact ⟨_, h.modTile _⟩

/-- A MOUT ends whether or not its tile is there. -/
theorem completeMout_ends (hc : s.coreOf o.task o.member = some o.core) (hl : l.find? (fun x => x.id == o.id) = none) :
    ∃ acc f sub bad, EndsWith s o m acc f sub bad (completeMout o m { s with ops := l }) := by
  unfold completeMout
  split
  · exact ⟨_, _, _, _, noteMatrix_ends hc hl false⟩
  · next e he =>
    have hway := (onWay_dropped hc hl he).modTile (clearPending o.id)
    dsimp only
    split
    · exact ⟨_, _, _, _, (hway.ends _ _ _).1⟩
    · obtain ⟨f, hnoted⟩ := (hway.writeRows e (fun i => (m.ra + i) * e.cols + m.ca)
        (outCodes m (({ s with ops := l }.ownerCtx o.task o.member).accAt m.acc) e
          (tileTensor ({ s with ops := l }.ownerCtx o.task o.member) m.a e)) m.m).noteEngineWrite m.whole
        (outRows m (({ s with ops := l }.ownerCtx o.task o.member).accAt m.acc) e
          (tileTensor ({ s with ops := l }.ownerCtx o.task o.member) m.a e)).1.flatten
      exact ⟨_, _, _, _, ((hnoted.exponentWritten _ e).ends _ _ _).1⟩

/-! ### The window in memory, and the tile's census -/

/-- The rows of a window that lies in its tile end before the next one starts, and before the tile does. -/
theorem window_row_end (hcols : m.ca + m.n ≤ e.cols) {i k : Nat} (h : i < k) :
    (m.ra + i) * e.cols + m.ca + m.n ≤ (m.ra + k) * e.cols := by
  have hle := Nat.mul_le_mul_right e.cols (show m.ra + i + 1 ≤ m.ra + k by omega)
  rw [Nat.succ_mul] at hle
  omega

theorem length_outCodes {i : Nat} (hi : i < m.m) : (outCodes m a e key i).length = m.n := by
  rw [outCodes_eq hi, List.length_map, List.length_range]

/-- Each element of the window has the code of its value. -/
theorem memCode_of_written {t : State} (hm : CanonMem s) (hcols : m.ca + m.n ≤ e.cols)
    (hmem : t.mem = putRows (tileByteKey o.core e 0) e.ty.width (fun i => (m.ra + i) * e.cols + m.ca) (outCodes m a e key)
      m.m s.mem) {i j : Nat} (hi : i < m.m) (hj : j < m.n) :
    memCode t o.core e ((m.ra + i) * e.cols + (m.ca + j)) = codeOf e.ty.width (outElem m a e key i j).1 := by
  have hcode := getCode_putRows (κ := tileByteKey o.core e 0) (start := fun i => (m.ra + i) * e.cols + m.ca)
    (row := outCodes m a e key) hm.mem (width_half_or_bytes e.ty) (fun i k hik hk => by
      rw [length_outCodes (hik.trans hk)]
      exact (window_row_end hcols hik).trans (Nat.le_add_right ..)) hi ((length_outCodes hi).symm ▸ hj)
  rw [memCode_eq, hmem, ← Nat.add_assoc, hcode, outCodes_eq hi]
  simp [hj, Nat.mod_eq_of_lt (codeOf_lt _ _)]

/-- A byte outside the tile is as it was. -/
theorem get_of_written {t : State} (hrows : m.ra + m.m ≤ e.rows) (hcols : m.ca + m.n ≤ e.cols)
    (hmem : t.mem = putRows (tileByteKey o.core e 0) e.ty.width (fun i => (m.ra + i) * e.cols + m.ca) (outCodes m a e key)
      m.m s.mem) {k : Nat} (hk : k < tileByteKey o.core e 0 ∨ tileByteKey o.core e 0 + tileBytes e ≤ k) :
    Memory.get t.mem k = Memory.get s.mem k := by
  rw [tileBytes_eq] at hk
  rw [hmem]
  refine get_putRows_other (width_half_or_bytes e.ty) (fun i hi => ?_) hk
  rw [length_outCodes hi]
  exact (window_row_end hcols hi).trans (Nat.mul_le_mul_right _ hrows)

/-- The census of the tile is no more than the headroom of any element written, and is one of these or the one before. -/
theorem outEntry_census : (∀ i j, i < m.m → j < m.n → (outEntry m a e key).census ≤ clsElem e.ty (outElem m a e key i j).1) ∧
    ((outEntry m a e key).census = (if m.whole then clsMax e.ty else e.census) ∨
      ∃ i j, i < m.m ∧ j < m.n ∧ (outEntry m a e key).census = clsElem e.ty (outElem m a e key i j).1) := by
  have hcensus : (outEntry m a e key).census = (cellsOf m.m m.n fun i j => clsElem e.ty (outElem m a e key i j).1).foldl min
      (if m.whole then clsMax e.ty else e.census) := by
    rw [outEntry, minCensus_eq, map_cellsOf]
  obtain ⟨-, hall, hmem⟩ := foldl_min_spec (cellsOf m.m m.n fun i j => clsElem e.ty (outElem m a e key i j).1)
    (if m.whole then clsMax e.ty else e.census)
  rw [hcensus]
  refine ⟨fun i j hi hj => hall _ (mem_cellsOf.2 ⟨i, j, hi, hj, rfl⟩), hmem.imp_right fun h => ?_⟩
  obtain ⟨i, j, hi, hj, he⟩ := mem_cellsOf.1 h
  exact ⟨i, j, hi, hj, he.symm⟩

end

end Sys2Proof.Machine
end

section
/-! PROOF of O33. A matrix instruction starts and ends (09_matrix R218–R239). -/

namespace Sys2Proof.Machine

open Sys2Proof

/-! ### The two rows of an instruction -/

section
variable {s : State} {op : Nat} {o : Op} {m : MtxOp}

theorem exec_matrixInstructionStart (ho : s.op? op = some o) (hk : o.kind = .matrix m) :
    exec (.matrixInstructionStart op) s = .next (if mayStart s o m then startMatrix o m s else s) := by
  show execMatrixInstructionStart op s = _
  simp only [execMatrixInstructionStart, ho, hk]

theorem exec_matrixInstructionComplete (ho : s.op? o.id = some o) (hk : o.kind = .matrix m) (hs : m.started ≠ none)
    (hold : ∀ p ∈ matrixOps s o.core, o.id ≤ p.1.id) :
    exec (.matrixInstructionComplete o.id) s = .next (completeMatrix o m s) := by
  have holdest : (matrixOps s o.core).all (fun (p, _) => decide (o.id ≤ p.id)) = true :=
    List.all_eq_true.2 fun p hp => decide_eq_true (hold p hp)
  show execMatrixInstructionComplete o.id s = _
  simp only [execMatrixInstructionComplete, ho, hk, holdest, Option.isSome_iff_ne_none.2 hs, Bool.and_self, if_true]

/-- The ten instructions of the queue (R223). -/
theorem completeMatrix_ends (hc : s.coreOf o.task o.member = some o.core)
    (hi : match m.instr with
      | .mma _ _ _ | .mmaz _ _ _ | .mmat _ _ _ | .mmbt _ _ _ | .mmac _ _ _ | .mout _ _ _ | .mload _ _ _
      | .madd _ _ _ | .mbias _ _ _ | .mzero _ _ _ => True
      | _ => False) : ∃ acc f sub bad, EndsWith s o m acc f sub bad (completeMatrix o m s) := by
  obtain ⟨l, hdrop, hl⟩ := delayFollowers_frame o m s
  split at hi
  case h_11 => exact hi.elim
  all_goals simp only [completeMatrix, ‹m.instr = _›, hdrop]
  case h_1 | h_2 | h_3 | h_4 | h_5 => exact completeProduct_ends hc hl _
  case h_6 => exact completeMout_ends hc hl
  case h_7 | h_8 | h_9 => exact completeAdd_ends hc hl _ _
  case h_10 => exact ⟨_, _, _, _, (completeMzero_ends hc hl).1⟩

/-! ### What an accumulator holds afterwards -/

variable {t : State} {acc : FMap AccTile} {f fl : BitVec 6} {sub zero kept : Bool} {bad : Option FaultCode} {r : MtxRes}
  {v : Nat → Nat → Int × Bool}

/-- Class T falls at the last repetition of a run (R236). -/
theorem EndsWith.counts (h : EndsWith s o m acc f sub bad t) :
    (m.lastRep = true → (t.coreAt o.core).ctx.cnt = (s.coreAt o.core).ctx.cnt.modify .t (· - 1)) ∧
      (m.lastRep = false → (t.coreAt o.core).ctx.cnt = (s.coreAt o.core).ctx.cnt) :=
  ⟨fun hr => h.cnt.trans (if_pos hr), fun hr => h.cnt.trans (if_neg (by simp [hr]))⟩

/-- The instruction's accumulator has some elements, each from a sum that may have clamped; its word has its shape and exponent,
its census and whether it saturated; flags and marks are noted (R218, R223). -/
def Summed (s : State) (o : Op) (m : MtxOp) (t : State) (zero kept : Bool) (v : Nat → Nat → Int × Bool) (fl : BitVec 6)
    (sub : Bool) (bad : Option FaultCode) : Prop :=
  let old := (s.coreAt o.core).ctx.accAt m.acc
  let new := (t.coreAt o.core).ctx.accAt m.acc
  let clip := (List.range m.m).any fun i => (List.range m.n).any fun j => (v i j).2
  (∀ i j, i < m.m → j < m.n → new.elem i j = (v i j).1) ∧
    new.done.rows = m.m ∧ new.done.cols = m.n ∧ new.done.exp = m.exp ∧
    new.done.free = false ∧ new.done.dirty = true ∧ new.done.inuse = true ∧
    new.done.sat = (clip || kept || (!zero && old.done.sat)) ∧ new.done.census ≤ 39 ∧
    (∀ i j, i < m.m → j < m.n → new.done.census ≤ cls true 40 (v i j).1) ∧
    (new.done.census = 39 ∨ ∃ i j, i < m.m ∧ j < m.n ∧ new.done.census = cls true 40 (v i j).1) ∧
    (t.coreAt o.core).ctx.satf =
      (s.coreAt o.core).ctx.satf ||| (fl ||| flagIf (clip || kept) satAcc) ||| flagIf sub satRsub ∧
    (t.coreAt o.core).ctx.marks.t = marksAfter o m sub bad (s.coreAt o.core).ctx.marks.t

theorem EndsWith.summed
    (h : EndsWith s o m (accWritten s o m (writeAcc zero m r)) (fl ||| flagIf r.sat satAcc) r.sub bad t) (hn : m.n ≤ 128)
    (hv : r.vals = cellsOf m.m m.n fun i j => (i * 128 + j, (v i j).1))
    (hsat : r.sat = (((List.range m.m).any fun i => (List.range m.n).any fun j => (v i j).2) || kept)) :
    Summed s o m t zero kept v fl r.sub bad := by
  have hnew : (t.coreAt o.core).ctx.accAt m.acc = writeAcc zero m r ((s.coreAt o.core).ctx.accAt m.acc) :=
    (h.accAt m.acc).trans (FMap.getD_set_same ..)
  obtain ⟨hle, hall, hleast⟩ := writeAcc_census (zero := zero) (a := (s.coreAt o.core).ctx.accAt m.acc) hv
  dsimp only [Summed]
  rw [hnew, ← hsat]
  exact ⟨fun i j => writeAcc_elem hv hn, rfl, rfl, rfl, rfl, rfl, rfl, rfl, hle, hall, hleast, h.satf, h.marks⟩

/-- The sums of a product's last steps, with what its steps before a save clamped or replaced (R239). -/
def withSaved (m : MtxOp) (r : MtxRes) : MtxRes := { r with sat := r.sat || m.sat, sub := r.sub || m.sub }

theorem completeProduct_eq {f : Factors} (hf : factorsOf s o m = some f) :
    completeProduct o m zero s =
      endAcc o m zero (withSaved m (partRes zero m f none ((s.ownerCtx o.task o.member).accAt m.acc)))
        (flagIf f.clamped satOut) (m.bad.or (rangesFault s f.reads)) (readRanged f.reads s) := by
  rw [completeProduct, hf]
  rfl

/-- A product adds to each element the products of the steps that its accumulator does not hold yet (R226, R227, R239). -/
theorem completeMatrix_product {ea eb : TileEntry} {tA tB chain : Bool} (hi : IsProductOf m.instr zero tA tB chain)
    (hc : s.coreOf o.task o.member = some o.core) (ha : chain = false → (s.coreAt o.core).tiles.get? m.a = some ea)
    (hb : (s.coreAt o.core).tiles.get? m.b = some eb) (hn : m.n ≤ 128) :
    let qs := (List.range m.klen).drop
      (slicesOf (if chain then (mfCht m.mf).width else ea.ty.width) eb.ty.width m.summed)
    let A := leftElem s o m ea chain tA
    let B := rightElem s o m eb chain tB
    ∃ acc f sub bad, EndsWith s o m acc f sub bad (completeMatrix o m s) ∧ SameMemory s (completeMatrix o m s) ∧
      Summed s o m (completeMatrix o m s) zero m.sat
        (sumOver (zero && m.summed == 0) ((s.coreAt o.core).ctx.accAt m.acc) qs A fun j q => B q j)
        (flagIf (chain && chainClamped s o m) satOut)
        ((qs.any fun q => ((List.range m.m).any fun i => (A i q).2) || (List.range m.n).any fun j => (B q j).2) || m.sub)
        (m.bad.or ((factorsOf s o m).bind fun f => rangesFault s f.reads)) := by
  obtain ⟨l, hdrop, hl⟩ := delayFollowers_frame o m s
  obtain ⟨f, hf, hfactors⟩ := hi.factors ha hb
  have hend := completeProduct_eq (s := { s with ops := l }) (zero := zero) hf
  rw [ownerCtx_of_coreOf (s := { s with ops := l }) hc, partRes_eq hfactors] at hend
  obtain ⟨-, -, hclamped, hwa, hwb⟩ := hfactors
  rw [hwa, hwb, hclamped, productRes_rowsOver] at hend
  rw [hi.completes, hdrop, hend, hf]
  obtain ⟨he, hmem⟩ := endAcc_ends hc hl _ f.reads
  exact ⟨_, _, _, _, he, hmem, he.summed hn rfl rfl⟩

/-- The element of its tile that an instruction adds at row i and column j: of a window, or of a row or column of it. -/
def addedElem (s : State) (o : Op) (m : MtxOp) (e : TileEntry) (bias : Option Bool) (i j : Nat) : Int × Bool :=
  rdm s o.core m.mf e (if bias = some false then m.ra else m.ra + i) (if bias = some true then m.ca else m.ca + j)

/-- The bytes that hold them. -/
def addedBytes (o : Op) (m : MtxOp) (e : TileEntry) (bias : Option Bool) : List (Nat × Nat) :=
  rowBytes o.core e m.ra m.ca (if bias = some false then 1 else m.m) (if bias = some true then 1 else m.n)

theorem completeAdd_eq {e : TileEntry} (he : (s.coreAt o.core).tiles.get? m.a = some e) (bias : Option Bool) :
    completeAdd o m zero bias s =
      endAcc o m zero (addRes zero ((s.ownerCtx o.task o.member).accAt m.acc) m.m m.n fun i j =>
          (rndM m (accTensor m.acc) (i * m.n + j) (addedElem s o m e bias i j).1 m.shift, (addedElem s o m e bias i j).2)) 0
        (rangesFault s (addedBytes o m e bias)) (readRanged (addedBytes o m e bias) s) := by
  rw [completeAdd, he]
  match bias with
  | none => rfl
  | some false => rfl
  | some true => rfl

/-- MLOAD puts, MADD and MBIAS add, the shifted elements of a window (R229, R230). -/
theorem completeAdd_summed {e : TileEntry} {l : List Op} (hc : s.coreOf o.task o.member = some o.core)
    (hl : l.find? (fun x => x.id == o.id) = none) (he : (s.coreAt o.core).tiles.get? m.a = some e) (hn : m.n ≤ 128)
    (bias : Option Bool) :
    let u := completeAdd o m zero bias { s with ops := l }
    ∃ acc f sub bad, EndsWith s o m acc f sub bad u ∧ SameMemory s u ∧
      Summed s o m u zero false
        (fun i j => satA40 ((if zero then 0 else ((s.coreAt o.core).ctx.accAt m.acc).elem i j) +
          rndM m (accTensor m.acc) (i * m.n + j) (addedElem s o m e bias i j).1 m.shift))
        0 ((List.range m.m).any fun i => (List.range m.n).any fun j => (addedElem s o m e bias i j).2)
        (rangesFault s (addedBytes o m e bias)) := by
  have hend := completeAdd_eq (s := { s with ops := l }) (zero := zero) he bias
  rw [ownerCtx_of_coreOf (s := { s with ops := l }) hc, addRes_cells] at hend
  rw [hend]
  obtain ⟨hends, hmem⟩ := endAcc_ends hc hl _ (addedBytes o m e bias)
  exact ⟨_, _, _, _, hends, hmem, hends.summed hn rfl (Bool.or_false _).symm⟩

end

/-- Settles O33: an instruction starts when it may; each one that completes, by what its end leaves. -/
theorem matrixEventResults : Obligations.MatrixEventResults := by
  intro s op o m ho hk
  obtain rfl := State.op?_id ho
  refine ⟨fun hm => ?start, fun hm => ?waits, fun hs hold hc => ?complete⟩
  case start =>
    refine ⟨_, _, (exec_matrixInstructionStart ho hk).trans (congrArg _ (if_pos hm)), .of_eq rfl rfl, rfl,
      State.op?_modOp (fun _ => rfl) ho, rfl, _, rfl, rfl, rfl⟩
  case waits => exact (exec_matrixInstructionStart ho hk).trans (congrArg _ (if_neg (by simp [hm])))
  case complete =>
    intro x old ends new mark notes sums random
    obtain ⟨l, hdrop, hl⟩ := delayFollowers_frame o m s
    have hends {acc f sub bad} (h : EndsWith s o m acc f sub bad (completeMatrix o m s)) : ends (completeMatrix o m s) :=
      ⟨exec_matrixInstructionComplete ho hk hs hold, h.1, h.counts⟩
    refine ⟨fun hi => ?any, fun a r c hi => ?mzero, fun ea eb a h k y zero tA tB chain ha hb hn hi => ?product,
      fun e a h sh col zero bias he hn hi => ?add, fun e a h sh hi he hmem hrows hcols hp hm hn => ?mout⟩
    case any =>
      obtain ⟨_, _, _, _, hend⟩ := completeMatrix_ends hc hi
      exact ⟨_, hends hend⟩
    case mzero =>
      have hcomp : completeMatrix o m s = completeMzero o m { s with ops := l } := by simp only [completeMatrix, hi, hdrop]
      obtain ⟨hend, hmem⟩ := completeMzero_ends hc hl
      rw [← hcomp] at hend hmem
      have hnew : new (completeMatrix o m s) = _ := (hend.accAt m.acc).trans (FMap.getD_set_same ..)
      refine ⟨_, hends hend, hmem, ?_⟩
      rw [hnew]
      exact ⟨fun _ _ => rfl, rfl, rfl, rfl, rfl, rfl, rfl, rfl, hend.satf, hend.marks⟩
    case product =>
      obtain ⟨_, _, _, _, hend, hmem, hsum⟩ := completeMatrix_product ⟨a, h, k, y, hi⟩ hc ha hb hn
      unfold leftElem chainClamped at hsum
      rw [ownerCtx_of_coreOf hc] at hsum
      exact ⟨_, hends hend, hmem, hsum⟩
    case add =>
      have hcomp : completeMatrix o m s = completeAdd o m zero bias { s with ops := l } := by
        obtain ⟨hi, rfl, rfl⟩ | ⟨hi, rfl, rfl⟩ | ⟨hi, rfl, rfl⟩ := hi <;> simp only [completeMatrix, hi, hdrop]
      obtain ⟨_, _, _, _, hend, hmem, hsum⟩ := completeAdd_summed (zero := zero) hc hl he hn bias
      rw [← hcomp] at hend hmem hsum
      exact ⟨_, hends hend, hmem, hsum⟩
    case mout =>
      have hcomp : completeMatrix o m s = completeMout o m { s with ops := l } := by simp only [completeMatrix, hi, hdrop]
      intro by_ ex out clamped tile
      refine ⟨fun hw hf hx => ?_, fun hx => ?_⟩
      · obtain ⟨hend, htile, hmem, hhost⟩ := completeMout_error hc hl he hp rfl hw hf hx
        rw [← hcomp] at hend htile hmem hhost
        exact ⟨_, _, hends hend, .of_eq hmem hhost, ⟨htile, rfl, hend.accAt m.acc⟩, rfl, hend.satf, hend.marks⟩
      · obtain ⟨hend, htile, hwritten, hhost⟩ := completeMout_writes hc hl he hp rfl rfl hx hm hn
        rw [← hcomp] at hend htile hwritten hhost
        rw [outRows_eq] at hend
        obtain ⟨hcensus, hleast⟩ := outEntry_census (m := m) (a := old) (e := e) (key := tileTensor x m.a e)
        exact ⟨_, _, hends hend, hhost, ⟨htile, rfl, hend.accAt m.acc⟩, rfl, rfl, rfl, rfl,
          fun i j hi hj => ⟨memCode_of_written hmem hcols hwritten hi hj, hcensus i j hi hj⟩, hleast, ⟨hend.satf, hend.marks⟩,
          fun k hk => get_of_written hrows hcols hwritten hk⟩

end Sys2Proof.Machine
end
